-- ==== Sys2Proof/Word.lean ====
section
/-! DEFINITION. The words of the Rincel part and their plainest arithmetic: register words, field extraction,
little-endian bytes. Numbers follow R4: bit ranges are [hi:lo], multi-byte values are little-endian. -/

namespace Sys2Proof

/-- A 64-bit register word. -/
abbrev Word := BitVec 64

/-- One byte of memory. -/
abbrev Byte := BitVec 8

/-- The number of a scalar register s0 to s63 (R27). -/
abbrev SReg := BitVec 6

/-- Bit `i` of a number, R4's [i]. -/
def natBit (x i : Nat) : Bool := x / 2 ^ i % 2 == 1

/-- The `n` bits of `x` from bit `lo` upward, R4's [lo + n - 1 : lo]. -/
def natField (x lo n : Nat) : Nat := x / 2 ^ lo % 2 ^ n

/-- A Boolean as one bit. -/
def bitNat (b : Bool) : Nat := if b then 1 else 0

/-- The number that a list of bytes holds, first byte least significant (R4). -/
def leNat : List Byte → Nat
  | [] => 0
  | b :: bs => b.toNat + 256 * leNat bs

/-- The low `n` bytes of a number, least significant first (R4). -/
def leBytes : Nat → Nat → List Byte
  | 0, _ => []
  | n + 1, x => BitVec.ofNat 8 x :: leBytes n (x / 256)

/-- The numbers `a, a + 1, …, a + n - 1`. -/
def rangeFrom : Nat → Nat → List Nat
  | _, 0 => []
  | a, n + 1 => a :: rangeFrom (a + 1) n

/-- Ceiling of the quotient `a ÷ b`. -/
def ceilDiv (a b : Nat) : Nat := (a + b - 1) / b

/-- `x` rounded up to a multiple of `n`. -/
def roundUp (x n : Nat) : Nat := ceilDiv x n * n

end Sys2Proof
end

