-- ==== Sys2Proof/Syntax.lean ====
section
/-! DEFINITION. The syntax of the part: operand descriptors, the shared shapes of vector and matrix words, the
data that the package's events carry, and the ONE inductive Instr with a constructor for each row of the opcode table.
Units are named by package-wide numbers: a context 0..4095 is PLACE[11:0] of R337, a cluster 0..511 is context / 8,
a core 0..127 is context / 32, a die 0..3 is context / 1024. -/

namespace Sys2Proof

/-- A vector operand descriptor of the four classes of R31 and R32. -/
inductive Desc where
  /-- Class 0b00: v(index) with a row stride code, a row offset and a column offset in 2-byte units. -/
  | vreg (index : BitVec 6) (stride : BitVec 3) (row : BitVec 4) (col : BitVec 6)
  /-- Class 0b01: the rotating register v(32 + ((index + XRRB) mod 32)). -/
  | rot (index : BitVec 5) (stride : BitVec 3) (row : BitVec 4) (col : BitVec 6)
  /-- Class 0b10: the queue handle q(index). -/
  | queue (q : BitVec 4)
  /-- Class 0b11 with stride 0b000: s(index) broadcast. Its row and col bits are left unused and reserved (R44).
  DEDUCED (log entry 19). -/
  | sreg (index : BitVec 6)
  /-- Class 0b11 with stride 0b111: a 16-bit immediate formed as index, row, col. -/
  | imm (v : BitVec 16)
  deriving DecidableEq, Repr

/-- The guard field of a vector or matrix word (R34). -/
structure Guard where
  gk : Bool
  reg : SReg
  bit : BitVec 6
  neg : Bool
  deriving DecidableEq, Repr

/-- The fields every vector word has in W0 besides its opcode (R29). -/
structure VHead where
  e : Bool
  s : Bool
  guard : Guard
  ty : BitVec 3
  rnd : BitVec 2
  deriving DecidableEq, Repr

/-- A V3 word with two sources (R31). -/
structure V3 where
  h : VHead
  sat : Bool
  d : Desc
  a : Desc
  b : Desc
  deriving DecidableEq, Repr

/-- A V3 word with one source; operand 2 is reserved (R31). -/
structure V2 where
  h : VHead
  sat : Bool
  d : Desc
  a : Desc
  deriving DecidableEq, Repr

/-- A VI word with one source and imm21 (R33). -/
structure VI where
  h : VHead
  sat : Bool
  d : Desc
  a : Desc
  imm : BitVec 21
  deriving DecidableEq, Repr

/-- The VMOVI word: a destination and imm21; operand 1 is reserved (R155). -/
structure VM where
  h : VHead
  d : Desc
  imm : BitVec 21
  deriving DecidableEq, Repr

/-- A VC word: two row-bit destinations in s registers and two sources (R33). The rnd bits of its W0 are bits [5:4]
of destination B's bit position, so its VHead holds rnd = bitB[5:4]. -/
structure VC where
  h : VHead
  regA : SReg
  bitA : BitVec 6
  regB : SReg
  bitB : BitVec 4
  a : Desc
  b : Desc
  deriving DecidableEq, Repr

/-- A VKCMP word: a mask destination k0 to k7 and two sources (R157). -/
structure VK where
  h : VHead
  k : BitVec 3
  a : Desc
  b : Desc
  deriving DecidableEq, Repr

/-- A mask word with two source masks (R158). -/
structure KB where
  h : VHead
  d : BitVec 3
  a : BitVec 3
  b : BitVec 3
  deriving DecidableEq, Repr

/-- A mask word with one source mask (R158). -/
structure KU where
  h : VHead
  d : BitVec 3
  a : BitVec 3
  deriving DecidableEq, Repr

/-- A VQ word's handle (R33). -/
structure VQ where
  h : VHead
  q : BitVec 4
  deriving DecidableEq, Repr

/-- All fields of a matrix word but kind and opcode, as R36 lays them out. -/
structure TileW where
  e : Bool
  s : Bool
  guard : Guard
  level : BitVec 3
  place : BitVec 12
  acc : BitVec 4
  aRing : BitVec 4
  bRing : BitVec 4
  group : BitVec 2
  side : Bool
  sparse : Bool
  out : BitVec 4
  n : BitVec 16
  m : BitVec 16
  hold : BitVec 4
  fmode : BitVec 2
  floop : BitVec 4
  fbase : BitVec 6
  k : BitVec 16
  rnd : BitVec 3
  ovf : Bool
  sat : Bool
  scl : BitVec 4
  slot : BitVec 4
  epi : BitVec 8
  btab : BitVec 7
  w5 : BitVec 32
  deriving DecidableEq, Repr

/-- The fields of an AGEN command (R92). -/
structure AGenF where
  q : BitVec 4
  base : BitVec 4
  pitch : BitVec 4
  rows : BitVec 4
  bytes : BitVec 6
  deriving DecidableEq, Repr

/-- The fields of an ALOOP command (R92). -/
structure ALoopF where
  dims : BitVec 3
  l : BitVec 4
  s : BitVec 4
  lead : BitVec 3
  trail : BitVec 3
  link : Bool
  blocks : BitVec 3
  deriving DecidableEq, Repr

/-- Where a 64-bit unit of storage lies, for poison (R346, R347). -/
inductive PLoc where
  /-- The 8 bytes of memory at physical address 8 × granule. -/
  | mem (granule : Nat)
  /-- The 8 bytes of a core's scratchpad at offset 8 × granule. -/
  | scratch (core granule : Nat)
  /-- Scalar register s(i) of a context. -/
  | sreg (ctx i : Nat)
  /-- A state register of a context, by its number in R144. -/
  | xreg (ctx n : Nat)
  /-- 8 bytes of a row of a vector register of a cluster. -/
  | vreg (cl v row granule : Nat)
  /-- 8 bytes of a row of an element mask of a cluster. -/
  | kmask (cl k row half : Nat)
  /-- A loop register of a cluster's sequencer. -/
  | loopReg (cl i : Nat)
  /-- 8 bytes of a row of an operand slot of a core. -/
  | slot (core slot row granule : Nat)
  /-- An accumulator element of a core, one of the two in its unit. -/
  | acc (core acc row col : Nat)
  /-- u(row, 2 × granule) and the next value of an accumulator of a core. -/
  | side (core acc row granule : Nat)
  /-- 8 bytes of a core's sparsity side memory. -/
  | smeta (core granule : Nat)
  /-- 8 bytes of a block of the data queue of a handle, counted from its head, 16 units a row. -/
  | queue (cl q idx unit : Nat)
  /-- 8 bytes of a Herbarium line of a die, by its place among the die's lines. -/
  | herb (die line granule : Nat)
  /-- 8 bytes of a copy in an L1, by its place there. -/
  | l1 (core n granule : Nat)
  /-- 8 bytes of a visitor copy of a die, by its place there. -/
  | visitor (die n granule : Nat)
  /-- The 8 bytes of memory at physical address 8 × granule, in the die SRAM of their home. -/
  | home (granule : Nat)
  /-- 8 bytes of a version in a version store, by its place among its partition's. -/
  | version (part n granule : Nat)
  /-- 8 bytes of an entry of a launch's stage queue, counted from its head. -/
  | squeue (lid q idx unit : Nat)
  /-- Units 2n and 2n + 1 of the loop buffer of a context's cluster. -/
  | loopBuf (ctx n : Nat)
  deriving DecidableEq, Repr

/-- The kinds of place-table names (R71). -/
inductive PlaceKind where
  | die | quad | core | cluster | bank | peer
  deriving DecidableEq, Repr

/-- Why a peer was declared lost (R350, R374). -/
inductive LossReason where
  | lost | reset | home
  deriving DecidableEq, Repr

/-- A fabric packet at its destination gateway (R226, R249, R373): its source peer and context, its class, the tc.fp
number it belongs to, the place of its operation in the issue order of its source context, destination and class, its
agent, the destination address of its first byte, and what it does. -/
inductive PacketOp where
  /-- Payload bytes of a PUT or REQ, each with its poison; `last` marks the operation's final packet, which carries its
  handler. -/
  | bytes (payload : List (Byte × Bool)) (last : Bool) (handler : Option (Nat × Nat)) (start total : Nat)
  /-- A fabric atomic: operation code, size in bytes, operand. -/
  | atomic (op size : Nat) (operand : Word)
  deriving DecidableEq, Repr

structure Packet where
  srcPeer : Nat
  srcCtx : Nat
  cls : Nat
  num : Nat
  seq : Nat
  part : Nat
  tenant : Nat
  va : Nat
  op : PacketOp
  deriving DecidableEq, Repr

/-- An acknowledgement at its source: of a context's fabric operation, its performed bytes or a fault at an address (R249,
R251), or of a Catalogue record by its number (R319). -/
structure Ack where
  ctx : Nat
  num : Nat
  done : Nat
  fault : Option (Nat × Nat)
  record : Bool := false
  deriving DecidableEq, Repr

/-- A tile sequencer's unit: its level 0 to 5 and its package-wide number at that level (R75). -/
structure UnitId where
  level : Nat
  n : Nat
  part : Nat
  deriving DecidableEq, Repr

/-- The site of a version that a Herbarium fill brings in (R317, R318). -/
structure SiteKey where
  part : Nat
  tenant : Nat
  handle : Nat
  ver : Nat
  site : Nat
  deriving DecidableEq, Repr

/-- What a home tells of a version: its number, rank code, factor format, sites, factor scales, α and the site
directory's entries (R303, R307). -/
structure VerInfo where
  ver : Nat
  rank : Nat
  ffmt : Nat
  nsite : Nat
  fscl : Bool
  alpha : BitVec 32
  dir : List (BitVec 128)
  deriving DecidableEq, Repr

/-- A Catalogue record between a home package and a replica (R319). -/
inductive CatRecord where
  /-- At the home: checks 2 to 4 of an ADMIT made on peer `peer` by a context there. -/
  | admitAsk (peer ctx part handle tenant sealV : Nat) (nonce : Word)
  /-- At the replica: the answer of home `peer` to the tenant's ADMIT of a handle: status, and the version it has pinned. -/
  | admitAnswer (peer ctx part handle tenant status : Nat) (v : Option VerInfo)
  /-- At the home: a binding's pin of a version, and an unpin. -/
  | pin (peer part handle ver tenant : Nat)
  | unpin (peer part handle ver tenant : Nat)
  /-- At the home: a slab request for a site. -/
  | slab (peer die : Nat) (k : SiteKey)
  /-- At the replica: one of the PUTs that bring a requested site: its offset in the site's bytes, their number in all, and the bytes,
  none where the home could not read them. -/
  | slabAnswer (peer die : Nat) (k : SiteKey) (off total : Nat) (bytes : Option (List Byte))
  /-- At a holder: the version has retired at its home. -/
  | invalidate (peer part handle ver tenant : Nat)
  deriving DecidableEq, Repr

/-- A Catalogue record as it arrives, with its number at the package that sent it, by which it is acknowledged (R298,
R319). -/
structure CatArrival where
  num : Nat
  rec_ : CatRecord
  deriving DecidableEq, Repr

/-- What fires the armed snapshot trigger (R353). -/
inductive SnapSource where
  | snap | command
  | trapNumber (n : Nat)
  | reportCode (n : Nat)
  | counterMatch (counter value : Nat)
  deriving DecidableEq, Repr

/-- A DBG condition on a context (R357). -/
inductive DbgCond where
  | address (a : Word)
  | words (n : Nat)
  deriving DecidableEq, Repr

/-- State of a STOPPED context that a debug session may name (R357). -/
inductive DbgReg where
  | pc
  | sreg (i : SReg)
  | xreg (n : Nat)
  | vrow (v : SReg) (row : BitVec 4) (lane : BitVec 4)
  /-- 8 bytes of a row of an element mask. -/
  | krow (k : Nat) (row : BitVec 4) (high : Bool)
  /-- A loop register of a sequencer. -/
  | lreg (seq i : Nat)
  /-- 8 bytes of a block of a data queue, counted from its head. -/
  | queue (q idx : Nat) (row : BitVec 4) (lane : BitVec 4)
  /-- A ring's positions: p in [15:0], c in [31:16], f in [47:32]. -/
  | ring (q : Nat)
  /-- A timeline counter: the number that it has reached. -/
  | counter (k : Nat)
  /-- 8 bytes of a row of an operand slot that the context has claimed. -/
  | slot (n row granule : Nat)
  /-- An element of an accumulator that the context owns: its value, and its o bit in [32]. -/
  | acc (a row col : Nat)
  /-- The same of the context as the latched snapshot has it (R353, R357). -/
  | snap (r : DbgReg)
  deriving DecidableEq, Repr

/-- One delivery of a replayed launch: a queue entry of the host, or a fabric arrival (R355, R356). -/
inductive Replay where
  | entry (lid q : Nat) (bytes : List Byte)
  | packet (lid : Nat) (p : Packet)
  deriving DecidableEq, Repr

/-- A firmware image for the staging slot: its bytes' digest, its signature and its SVN (R358, R359). -/
structure Firmware where
  digest : BitVec 384
  signature : BitVec 768
  svn : Nat
  deriving DecidableEq, Repr

/-- The command that a host entry carries: the function (0 PF0, 1 PF1, 2 + v for VF v) and its entry's host address. -/
structure CmdSrc where
  fn : Nat
  entry : Nat
  deriving DecidableEq, Repr

/-- Every row of the opcode table: the instruction words, the engine commands and the package's events. -/
inductive Instr where
  /-- ADD: Writes s(ra) + s(rb) modulo 2^64 to s(rd) (R135) -/
  | add (e : Bool) (d a b : SReg)
  /-- SUB: Writes s(ra) − s(rb) modulo 2^64 to s(rd) (R135) -/
  | sub (e : Bool) (d a b : SReg)
  /-- AND: Writes the bitwise AND of s(ra) and s(rb) to s(rd) (R135) -/
  | and (e : Bool) (d a b : SReg)
  /-- OR: Writes the bitwise OR of s(ra) and s(rb) to s(rd) (R135) -/
  | or (e : Bool) (d a b : SReg)
  /-- XOR: Writes the bitwise XOR of s(ra) and s(rb) to s(rd) (R135) -/
  | xor (e : Bool) (d a b : SReg)
  /-- ANDN: Writes s(ra) AND NOT s(rb) to s(rd) (R135) -/
  | andn (e : Bool) (d a b : SReg)
  /-- SHL: Shifts s(ra) left by s(rb)[5:0], shifting in zeros (R135) -/
  | shl (e : Bool) (d a b : SReg)
  /-- SHR: Shifts s(ra) right logically by s(rb)[5:0] (R135) -/
  | shr (e : Bool) (d a b : SReg)
  /-- SRA: Shifts s(ra) right arithmetically by s(rb)[5:0] (R135) -/
  | sra (e : Bool) (d a b : SReg)
  /-- ROR: Rotates s(ra) right by s(rb)[5:0] (R135) -/
  | ror (e : Bool) (d a b : SReg)
  /-- MUL: Writes the low 64 bits of s(ra) × s(rb) (R135) -/
  | mul (e : Bool) (d a b : SReg)
  /-- MULHS: Writes the high 64 bits of the signed 128-bit product (R135) -/
  | mulhs (e : Bool) (d a b : SReg)
  /-- MULHU: Writes the high 64 bits of the unsigned 128-bit product (R135) -/
  | mulhu (e : Bool) (d a b : SReg)
  /-- DIVS: Writes the signed quotient truncated toward zero, with fixed results for zero and overflow (R136) -/
  | divs (e : Bool) (d a b : SReg)
  /-- DIVU: Writes the unsigned quotient, all ones on division by zero (R136) -/
  | divu (e : Bool) (d a b : SReg)
  /-- REMS: Writes the signed remainder, taking the sign of s(ra) (R136) -/
  | rems (e : Bool) (d a b : SReg)
  /-- REMU: Writes the unsigned remainder, s(ra) on division by zero (R136) -/
  | remu (e : Bool) (d a b : SReg)
  /-- MIN: Writes the signed minimum of s(ra) and s(rb) (R135) -/
  | min (e : Bool) (d a b : SReg)
  /-- MAX: Writes the signed maximum of s(ra) and s(rb) (R135) -/
  | max (e : Bool) (d a b : SReg)
  /-- MINU: Writes the unsigned minimum of s(ra) and s(rb) (R135) -/
  | minu (e : Bool) (d a b : SReg)
  /-- MAXU: Writes the unsigned maximum of s(ra) and s(rb) (R135) -/
  | maxu (e : Bool) (d a b : SReg)
  /-- CLZ: Writes the count of leading zeros of s(ra) (R135) -/
  | clz (e : Bool) (d a : SReg)
  /-- CTZ: Writes the count of trailing zeros of s(ra) (R135) -/
  | ctz (e : Bool) (d a : SReg)
  /-- POPC: Writes the count of one bits of s(ra) (R135) -/
  | popc (e : Bool) (d a : SReg)
  /-- ADDI: Adds a sign-extended 11-bit immediate to s(ra) (R137) -/
  | addi (e : Bool) (d a : SReg) (i : BitVec 11)
  /-- ANDI: ANDs s(ra) with a sign-extended immediate (R137) -/
  | andi (e : Bool) (d a : SReg) (i : BitVec 11)
  /-- ORI: ORs s(ra) with a zero-extended immediate (R137) -/
  | ori (e : Bool) (d a : SReg) (i : BitVec 11)
  /-- XORI: XORs s(ra) with a zero-extended immediate (R137) -/
  | xori (e : Bool) (d a : SReg) (i : BitVec 11)
  /-- SHLI: Shifts s(ra) left by an immediate count (R137) -/
  | shli (e : Bool) (d a : SReg) (n : BitVec 6)
  /-- SHRI: Shifts s(ra) right logically by an immediate count (R137) -/
  | shri (e : Bool) (d a : SReg) (n : BitVec 6)
  /-- SRAI: Shifts s(ra) right arithmetically by an immediate count (R137) -/
  | srai (e : Bool) (d a : SReg) (n : BitVec 6)
  /-- MOVI: Writes a sign-extended 17-bit immediate to s(rd) (R138) -/
  | movi (e : Bool) (d : SReg) (i : BitVec 17)
  /-- MOVHI: Shifts s(rd) left by 16 and ORs in a 16-bit immediate (R138) -/
  | movhi (e : Bool) (d : SReg) (i : BitVec 16)
  /-- BFXU: Extracts a bit field of s(ra), zero-extended (R139) -/
  | bfxu (e : Bool) (d a : SReg) (l : BitVec 5) (p : BitVec 6)
  /-- BFXS: Extracts a bit field of s(ra), sign-extended (R139) -/
  | bfxs (e : Bool) (d a : SReg) (l : BitVec 5) (p : BitVec 6)
  /-- BFINS: Inserts the low bits of s(ra) into a field of s(rd) (R139) -/
  | bfins (e : Bool) (d a : SReg) (l : BitVec 5) (p : BitVec 6)
  /-- SEL: Selects s(ra) or s(rb) by bit 0 of a condition register (R141) -/
  | sel (e : Bool) (d a b : SReg) (c : BitVec 5)
  /-- XRD: Reads a numbered state register into s(rd) (R143) -/
  | xrd (e : Bool) (d : SReg) (x : BitVec 17)
  /-- XWR: Writes s(rd) to a numbered state register under its field access rules (R143) -/
  | xwr (e : Bool) (d : SReg) (x : BitVec 17)
  /-- XLOOP_START: An XWR to XLOOP with GO = 1 checks the body and starts the stream loop (R86) -/
  | xloopStart (e : Bool) (d : SReg)
  /-- XLOOP_ABANDON: An XWR to XLOOP with GO = 0 stores the fields and abandons any active loop (R86) -/
  | xloopAbandon (e : Bool) (d : SReg)
  /-- XTENANT_WRITE: A supervisor write of XTENANT is checked against validity and the Vitrine world (R282) -/
  | xtenantWrite (e : Bool) (d : SReg)
  /-- CMPEQ: Sets one bit of s(sd) to s(ra) = s(rb) (R140) -/
  | cmpeq (e : Bool) (s : BitVec 5) (t : BitVec 6) (a b : SReg)
  /-- CMPNE: Sets one bit of s(sd) to s(ra) ≠ s(rb) (R140) -/
  | cmpne (e : Bool) (s : BitVec 5) (t : BitVec 6) (a b : SReg)
  /-- CMPLT: Sets one bit of s(sd) to the signed s(ra) < s(rb) (R140) -/
  | cmplt (e : Bool) (s : BitVec 5) (t : BitVec 6) (a b : SReg)
  /-- CMPLE: Sets one bit of s(sd) to the signed s(ra) ≤ s(rb) (R140) -/
  | cmple (e : Bool) (s : BitVec 5) (t : BitVec 6) (a b : SReg)
  /-- CMPLTU: Sets one bit of s(sd) to the unsigned s(ra) < s(rb) (R140) -/
  | cmpltu (e : Bool) (s : BitVec 5) (t : BitVec 6) (a b : SReg)
  /-- CMPLEU: Sets one bit of s(sd) to the unsigned s(ra) ≤ s(rb) (R140) -/
  | cmpleu (e : Bool) (s : BitVec 5) (t : BitVec 6) (a b : SReg)
  /-- BBS: Branches by disp11 when the named bit of s(ra) is set (R142) -/
  | bbs (e : Bool) (a : SReg) (t : BitVec 6) (d : BitVec 11)
  /-- BBC: Branches by disp11 when the named bit of s(ra) is clear (R142) -/
  | bbc (e : Bool) (a : SReg) (t : BitVec 6) (d : BitVec 11)
  /-- JMP: Jumps by disp23 after the bundle issues (R142) -/
  | jmp (e : Bool) (d : BitVec 23)
  /-- CALL: Jumps by disp23 and writes the return address to s63 (R142) -/
  | call (e : Bool) (d : BitVec 23)
  /-- JR: Jumps to s(ra) and writes the following address to s(rd) (R142) -/
  | jr (e : Bool) (d a : SReg)
  /-- SYNCB: Makes its bundle a synced bundle (R77) -/
  | syncb (e : Bool)
  /-- YIELD: Zeroes dead vector groups and suspends if a request is pending, else ends the round-robin turn (R78) -/
  | yield (e : Bool) (m : BitVec 16)
  /-- EXIT: Takes deferred faults, waits for engines, releases at .pk, frees slots and ends the context (R79) -/
  | exit (e : Bool) (c : BitVec 8)
  /-- FADD: Adds two FP32 values with one rounding under XFMT.RM (R147) -/
  | fadd (e : Bool) (d a b : SReg)
  /-- FSUB: Subtracts two FP32 values with one rounding (R147) -/
  | fsub (e : Bool) (d a b : SReg)
  /-- FMUL: Multiplies two FP32 values with one rounding (R147) -/
  | fmul (e : Bool) (d a b : SReg)
  /-- FDIV: Divides two FP32 values with one rounding (R147) -/
  | fdiv (e : Bool) (d a b : SReg)
  /-- FSQRT: Takes the FP32 square root with one rounding (R147) -/
  | fsqrt (e : Bool) (d a : SReg)
  /-- FMIN: Writes the lesser FP32 value, with −0 below +0 (R147) -/
  | fmin (e : Bool) (d a b : SReg)
  /-- FMAX: Writes the greater FP32 value, with −0 below +0 (R147) -/
  | fmax (e : Bool) (d a b : SReg)
  /-- FABS: Writes the FP32 absolute value exactly (R147) -/
  | fabs (e : Bool) (d a : SReg)
  /-- FNEG: Writes the FP32 negation exactly (R147) -/
  | fneg (e : Bool) (d a : SReg)
  /-- FMAC: Computes s(rd) + a × b in FP32 with one rounding (R147) -/
  | fmac (e : Bool) (d a b : SReg)
  /-- FCMPEQ: Sets one bit of s(sd) to FP32 equality (R148) -/
  | fcmpeq (e : Bool) (s : BitVec 5) (t : BitVec 6) (a b : SReg)
  /-- FCMPLT: Sets one bit of s(sd) to FP32 less-than (R148) -/
  | fcmplt (e : Bool) (s : BitVec 5) (t : BitVec 6) (a b : SReg)
  /-- FCMPLE: Sets one bit of s(sd) to FP32 less-or-equal (R148) -/
  | fcmple (e : Bool) (s : BitVec 5) (t : BitVec 6) (a b : SReg)
  /-- FCMPUN: Sets one bit of s(sd) when either FP32 operand is NaN (R148) -/
  | fcmpun (e : Bool) (s : BitVec 5) (t : BitVec 6) (a b : SReg)
  /-- FCVT: Converts one value between formats under R120 (R149) -/
  | fcvt (e : Bool) (d a : SReg) (t : Bool) (s x : BitVec 4)
  /-- LD8: Loads one byte, zero-extended (R233) -/
  | ld8 (e : Bool) (d a : SReg) (i : BitVec 11)
  /-- LD16: Loads two bytes, zero-extended (R233) -/
  | ld16 (e : Bool) (d a : SReg) (i : BitVec 11)
  /-- LD32: Loads four bytes, zero-extended (R233) -/
  | ld32 (e : Bool) (d a : SReg) (i : BitVec 11)
  /-- LD64: Loads eight bytes (R233) -/
  | ld64 (e : Bool) (d a : SReg) (i : BitVec 11)
  /-- LD8S: Loads one byte, sign-extended (R233) -/
  | ld8s (e : Bool) (d a : SReg) (i : BitVec 11)
  /-- LD16S: Loads two bytes, sign-extended (R233) -/
  | ld16s (e : Bool) (d a : SReg) (i : BitVec 11)
  /-- LD32S: Loads four bytes, sign-extended (R233) -/
  | ld32s (e : Bool) (d a : SReg) (i : BitVec 11)
  /-- LDX: Loads with register-indexed address, size, sign and cache policy from fn (R232) -/
  | ldx (e : Bool) (d a b : SReg) (p : BitVec 2) (s : Bool) (z : BitVec 2)
  /-- ST8: Stores one byte as plain committed data (R233) -/
  | st8 (e : Bool) (d a : SReg) (i : BitVec 11)
  /-- ST16: Stores two bytes (R233) -/
  | st16 (e : Bool) (d a : SReg) (i : BitVec 11)
  /-- ST32: Stores four bytes (R233) -/
  | st32 (e : Bool) (d a : SReg) (i : BitVec 11)
  /-- ST64: Stores eight bytes (R233) -/
  | st64 (e : Bool) (d a : SReg) (i : BitVec 11)
  /-- STX: Stores with register-indexed address, size and cache policy from fn (R232) -/
  | stx (e : Bool) (d a b : SReg) (p z : BitVec 2)
  /-- LDA: Loads and then acquires at the named scope (R234) -/
  | lda (e : Bool) (d a : SReg) (z : BitVec 2) (c : BitVec 3)
  /-- STL: Releases at the named scope and then stores (R234) -/
  | stl (e : Bool) (d a : SReg) (z : BitVec 2) (c : BitVec 3)
  /-- ST_H: Stores a version tagged with XHYP, waiting for version space if needed (R235) -/
  | stH (e : Bool) (d a : SReg) (z : BitVec 2)
  /-- AMO: Performs an indivisible read-modify-write at the home and returns the old value (R237) -/
  | amo (e : Bool) (d a b : SReg) (z : Bool) (o : BitVec 4)
  /-- CAS: Compares and swaps indivisibly, returning the old value (R237) -/
  | cas (e : Bool) (d a b : SReg) (z : Bool)
  /-- AMO_BINS: Inserts one nibble of a byte atomically at the home (R238) -/
  | amoBins (e : Bool) (d a b : SReg) (n : Bool)
  /-- AXADD: Adds an FP32 addend, rounded to the grain, into an exact cell (R131) -/
  | axadd (e : Bool) (d a b : SReg)
  /-- AXRD: Reads an exact cell rounded to FP32 with its flags (R132) -/
  | axrd (e : Bool) (d a : SReg)
  /-- AXCLR: Clears an exact cell and its flags (R132) -/
  | axclr (e : Bool) (d a : SReg)
  /-- FENCE: Orders all accesses at a scope, optionally waiting for and acquiring engine work (R240) -/
  | fence (e g : Bool) (s : BitVec 3)
  /-- TLWAIT: Waits for a timeline counter to reach a value, delivering pending faults, then acquires (R241) -/
  | tlwait (e : Bool) (d a : SReg) (s c : BitVec 3)
  /-- TLGET: Reads a counter's completed or issued value without waiting (R242) -/
  | tlget (e : Bool) (d : SReg) (v : Bool) (c : BitVec 3)
  /-- MONITOR: Arms the context's watch on a 64-byte line (R243) -/
  | monitor (e : Bool) (a : SReg)
  /-- MWAIT: Waits until the watch fires or a timeout expires (R244) -/
  | mwait (e : Bool) (d a : SReg)
  /-- BAR: Releases, arrives at a barrier and waits for the episode to fill (R245) -/
  | bar (e : Bool) (d : SReg) (i : BitVec 5) (s : BitVec 3)
  /-- XCOPY_LIN: Issues a linear copy on the copy engine (R246) -/
  | xcopyLin (e : Bool) (d a : SReg)
  /-- XCOPY_NEST: Issues a nested copy over the copy sequencer's loop registers (R246) -/
  | xcopyNest (e : Bool) (d a : SReg)
  /-- XCOPY_MAP: Maps a scratchpad region to a global range (R211) -/
  | xcopyMap (e : Bool) (d a : SReg)
  /-- XCOPY_UNMAP: Writes back every dirty granule of a region and unmaps it (R211) -/
  | xcopyUnmap (e : Bool) (d a : SReg)
  /-- XCOPY_WB: Writes back a mapped region's dirty granules (R211) -/
  | xcopyWb (e : Bool) (d a : SReg)
  /-- XCOPY_H_LIN: Issues a linear copy whose destination writes are tagged versions (R248) -/
  | xcopyHLin (e : Bool) (d a : SReg)
  /-- XCOPY_H_NEST: Issues a nested copy whose destination writes are tagged versions (R248) -/
  | xcopyHNest (e : Bool) (d a : SReg)
  /-- PUT: Sends a fabric write to a peer window, optionally starting a handler (R249) -/
  | put (e : Bool) (d a : SReg)
  /-- FAMO: Sends a fabric atomic that fetches nothing (R250) -/
  | famo (e : Bool) (d a b : SReg) (z : Bool) (o : BitVec 4)
  /-- REQ: Sends a fabric request record that starts a handler at the owner (R249) -/
  | req (e : Bool) (d a : SReg)
  /-- HOPEN: Opens a new hypothesis node under the current view, optionally entering it (R272) -/
  | hopen (e : Bool) (d : SReg) (n : Bool)
  /-- HSET: Sets the context's view to an allowed node (R273) -/
  | hset (e : Bool) (d a : SReg)
  /-- HGET: Reads the current node, its parent or its depth (R274) -/
  | hget (e : Bool) (d : SReg) (s : BitVec 2)
  /-- HSTAT: Returns a node's entry from the issuing die's table copy (R275) -/
  | hstat (e : Bool) (d a : SReg)
  /-- HVEC: Returns a 64-bit vector of nodes meeting a predicate (R276) -/
  | hvec (e : Bool) (d a : SReg) (p : BitVec 3)
  /-- HRES_CF: Releases at .pk and confirms a node at the serialisation point (R266) -/
  | hresCf (e : Bool) (d a : SReg)
  /-- HRES_RF: Releases at .pk and refutes a node at the serialisation point (R266) -/
  | hresRf (e : Bool) (d a : SReg)
  /-- SPAWN: Starts a dormant light context of the cluster (R72) -/
  | spawn (e : Bool) (d a b : SReg) (c : BitVec 3)
  /-- LAUNCH: Checks a launch record and starts its pipeline (R73) -/
  | launch (e : Bool) (d a : SReg)
  /-- TTASK: Checks a tile-task record and appends it to its level's task queue (R74) -/
  | ttask (e : Bool) (d a : SReg)
  /-- SQPUSH: Publishes an entry to the tail of a stage queue (R76) -/
  | sqpush (e : Bool) (d a : SReg) (n : Bool) (q : BitVec 3)
  /-- SQPOP: Takes the head entry of a stage queue (R76) -/
  | sqpop (e : Bool) (d a : SReg) (n : Bool) (q : BitVec 3)
  /-- LSET: Writes one loop register of a sequencer (R82) -/
  | lset (e : Bool) (a : SReg) (s : BitVec 3) (l : BitVec 4)
  /-- AGO: Starts or resumes an access engine (R96) -/
  | ago (e : Bool) (d : SReg) (m : Bool) (g : BitVec 2)
  /-- OCLAIM: Claims operand slots and binds them to a handle as a ring (R170) -/
  | oclaim (e : Bool) (d a : SReg) (q : BitVec 4)
  /-- ORELEASE: Waits for a ring's users, then unbinds and returns its slots (R171) -/
  | orelease (e : Bool) (q : BitVec 4)
  /-- ADMIT: Checks a sealed request, pins the current version and writes a binding token (R309) -/
  | admitRq (e : Bool) (d a : SReg)
  /-- APIN: Adds a reference to an admission record (R313) -/
  | apin (e : Bool) (d a : SReg)
  /-- AUNPIN: Drops a reference to an admission record, freeing it at zero (R313) -/
  | aunpin (e : Bool) (d a : SReg)
  /-- APAGE: Allocates pages for a staged version, or discards it (R314) -/
  | apage (e : Bool) (d a b : SReg)
  /-- APUB: Publishes the staged version as CURRENT (R315) -/
  | apub (e : Bool) (d a b : SReg)
  /-- CTXSV: Checkpoints the issuing context into a sealed image (R344) -/
  | ctxsv (d a b : SReg)
  /-- CTXRS: Replaces the issuing context with a checked image (R345) -/
  | ctxrs (d a : SReg)
  /-- SNAP: Fires the snapshot trigger if armed for the issuer (R354) -/
  | snap (e : Bool) (d : SReg) (t : BitVec 8)
  /-- TRET: Returns from a handler, optionally skipping the word or stopping (R332) -/
  | tret (e p s : Bool)
  /-- NOP: Retires with no effect (R45) -/
  | nop (e : Bool) (ops : BitVec 23)
  /-- HINTP: Hint word with no effect (R145) -/
  | hintp (e : Bool) (ops : BitVec 23)
  /-- HINTB: Branch hint word with no effect (R145) -/
  | hintb (e : Bool) (ops : BitVec 23)
  /-- HINTX: Hint word with no effect (R145) -/
  | hintx (e : Bool) (ops : BitVec 23)
  /-- VADD: Element-wise addition (R153) -/
  | vadd (w : V3)
  /-- VSUB: Element-wise subtraction (R153) -/
  | vsub (w : V3)
  /-- VMUL: Element-wise multiplication (R153) -/
  | vmul (w : V3)
  /-- VFMA: Element-wise fused multiply-add into the destination (R153) -/
  | vfma (w : V3)
  /-- VFMS: Element-wise fused multiply-subtract from the destination (R153) -/
  | vfms (w : V3)
  /-- VMIN: Element-wise signed or floating minimum (R153) -/
  | vmin (w : V3)
  /-- VMAX: Element-wise signed or floating maximum (R153) -/
  | vmax (w : V3)
  /-- VABS: Element-wise absolute value (R153) -/
  | vabs (w : V2)
  /-- VNEG: Element-wise negation (R153) -/
  | vneg (w : V2)
  /-- VMOV: Copies elements bit for bit (R153) -/
  | vmov (w : V2)
  /-- VDIV: Element-wise floating division (R153) -/
  | vdiv (w : V3)
  /-- VMULH: Element-wise signed high product (R153) -/
  | vmulh (w : V3)
  /-- VMINU: Element-wise unsigned minimum (R153) -/
  | vminu (w : V3)
  /-- VMAXU: Element-wise unsigned maximum (R153) -/
  | vmaxu (w : V3)
  /-- VAND: Element-wise bitwise AND (R153) -/
  | vand (w : V3)
  /-- VOR: Element-wise bitwise OR (R153) -/
  | vor (w : V3)
  /-- VXOR: Element-wise bitwise XOR (R153) -/
  | vxor (w : V3)
  /-- VANDN: Element-wise a AND NOT b (R153) -/
  | vandn (w : V3)
  /-- VNOT: Element-wise bitwise NOT (R153) -/
  | vnot (w : V2)
  /-- VSHL: Element-wise left shift by element counts (R154) -/
  | vshl (w : V3)
  /-- VSHR: Element-wise logical right shift (R154) -/
  | vshr (w : V3)
  /-- VSRA: Element-wise arithmetic right shift (R154) -/
  | vsra (w : V3)
  /-- VADDI: Adds an immediate to every element (R155) -/
  | vaddi (w : VI)
  /-- VMULI: Multiplies every element by an immediate (R155) -/
  | vmuli (w : VI)
  /-- VMINI: Minimum of each element and an immediate (R155) -/
  | vmini (w : VI)
  /-- VMAXI: Maximum of each element and an immediate (R155) -/
  | vmaxi (w : VI)
  /-- VSHLI: Shifts every element left by an immediate (R155) -/
  | vshli (w : VI)
  /-- VSHRI: Shifts every element right logically by an immediate (R155) -/
  | vshri (w : VI)
  /-- VSRAI: Shifts every element right arithmetically by an immediate (R155) -/
  | vsrai (w : VI)
  /-- VMOVI: Writes an immediate to every element (R155) -/
  | vmovi (w : VM)
  /-- VCMP_EQ: Writes per-row equality and ordered-opposite bits to two scalar destinations (R156) -/
  | vcmpEq (w : VC)
  /-- VCMP_NE: Writes per-row inequality row bits (R156) -/
  | vcmpNe (w : VC)
  /-- VCMP_LT: Writes per-row less-than row bits (R156) -/
  | vcmpLt (w : VC)
  /-- VCMP_LE: Writes per-row less-or-equal row bits (R156) -/
  | vcmpLe (w : VC)
  /-- VCMP_GT: Writes per-row greater-than row bits (R156) -/
  | vcmpGt (w : VC)
  /-- VCMP_GE: Writes per-row greater-or-equal row bits (R156) -/
  | vcmpGe (w : VC)
  /-- VCMP_UN: Writes per-row unordered row bits (R156) -/
  | vcmpUn (w : VC)
  /-- VCMP_LTU: Writes per-row unsigned less-than row bits (R156) -/
  | vcmpLtu (w : VC)
  /-- VCMP_LEU: Writes per-row unsigned less-or-equal row bits (R156) -/
  | vcmpLeu (w : VC)
  /-- VKCMP_EQ: Sets mask bits for element-wise equality (R157) -/
  | vkcmpEq (w : VK)
  /-- VKCMP_NE: Sets mask bits for element-wise inequality (R157) -/
  | vkcmpNe (w : VK)
  /-- VKCMP_LT: Sets mask bits for element-wise less-than (R157) -/
  | vkcmpLt (w : VK)
  /-- VKCMP_LE: Sets mask bits for element-wise less-or-equal (R157) -/
  | vkcmpLe (w : VK)
  /-- VKCMP_GT: Sets mask bits for element-wise greater-than (R157) -/
  | vkcmpGt (w : VK)
  /-- VKCMP_GE: Sets mask bits for element-wise greater-or-equal (R157) -/
  | vkcmpGe (w : VK)
  /-- VKCMP_UN: Sets mask bits for element-wise unordered (R157) -/
  | vkcmpUn (w : VK)
  /-- KAND: Bitwise AND of mask rows (R158) -/
  | kand (w : KB)
  /-- KOR: Bitwise OR of mask rows (R158) -/
  | kor (w : KB)
  /-- KXOR: Bitwise XOR of mask rows (R158) -/
  | kxor (w : KB)
  /-- KANDN: Mask a AND NOT b (R158) -/
  | kandn (w : KB)
  /-- KNOT: Bitwise NOT of a mask (R158) -/
  | knot (w : KU)
  /-- KMOV: Copies a mask (R158) -/
  | kmov (w : KU)
  /-- VSELK: Selects elements of a or b by a mask k0–k7 (R159) -/
  | vselk (k : BitVec 3) (w : V3)
  /-- VCVT: Converts elements between types with optional exact scaling (R160) -/
  | vcvt (w : VI)
  /-- VPACK4: Converts elements to packed FP4 nibbles (R161) -/
  | vpack4 (w : V2)
  /-- VUNPK4: Converts packed FP4 nibbles to elements (R161) -/
  | vunpk4 (w : V2)
  /-- VROTR: Rotates elements within each row (R162) -/
  | vrotr (w : VI)
  /-- VROTC: Rotates rows (R162) -/
  | vrotc (w : VI)
  /-- VBCR: Broadcasts one element across each row (R162) -/
  | vbcr (w : VI)
  /-- VBCC: Broadcasts one row to every row (R162) -/
  | vbcc (w : VI)
  /-- VREDR_ADD: Exact row sum rounded once into element 0 (R163) -/
  | vredrAdd (w : V2)
  /-- VREDR_MAX: Row maximum into element 0 (R163) -/
  | vredrMax (w : V2)
  /-- VREDR_MIN: Row minimum into element 0 (R163) -/
  | vredrMin (w : V2)
  /-- VREDC_ADD: Exact column sum rounded once into row 0 (R163) -/
  | vredcAdd (w : V2)
  /-- VREDC_MAX: Column maximum into row 0 (R163) -/
  | vredcMax (w : V2)
  /-- VREDC_MIN: Column minimum into row 0 (R163) -/
  | vredcMin (w : V2)
  /-- VXPOSE: Transposes the leading 16 × 16 block (R164) -/
  | vxpose (w : V2)
  /-- VSHUF: Permutes elements within rows by index (R165) -/
  | vshuf (w : V3)
  /-- VEXP2: Computes 2^x rounded once (R166) -/
  | vexp2 (w : V2)
  /-- VLOG2: Computes log2 x rounded once (R166) -/
  | vlog2 (w : V2)
  /-- VRCP: Computes 1/x rounded once (R166) -/
  | vrcp (w : V2)
  /-- VRSQ: Computes 1/√x rounded once (R166) -/
  | vrsq (w : V2)
  /-- VSQRT: Computes √x rounded once (R166) -/
  | vsqrt (w : V2)
  /-- VSIN: Computes sin(πx) rounded once (R166) -/
  | vsin (w : V2)
  /-- VCOS: Computes cos(πx) rounded once (R166) -/
  | vcos (w : V2)
  /-- VTANH: Computes tanh x rounded once (R166) -/
  | vtanh (w : V2)
  /-- VSIGM: Computes the logistic sigmoid rounded once (R166) -/
  | vsigm (w : V2)
  /-- VGELU: Computes GELU rounded once (R166) -/
  | vgelu (w : V2)
  /-- VSILU: Computes SiLU rounded once (R166) -/
  | vsilu (w : V2)
  /-- QADV: Moves count blocks through a data queue or releases held ring slots (R101) -/
  | qadv (w : VQ) (c : Desc)
  /-- QCLR: Halts a read engine, discards delivered blocks and rewinds it (R101) -/
  | qclr (w : VQ)
  /-- QFLUSH: Waits until every block entered in a write queue has been performed (R101) -/
  | qflush (w : VQ)
  /-- TMMA: Accumulates A × B into an accumulator step by step in ascending K (R177) -/
  | tmma (w : TileW)
  /-- TMMAS: Accumulates A × B with 2:4 sparse B using side-memory metadata (R178) -/
  | tmmas (w : TileW)
  /-- TZERO: Zeroes accumulator rows, o bits and side-path state (R179) -/
  | tzero (w : TileW)
  /-- TACC: Loads or adds a tile into the accumulator from a ring (R179) -/
  | tacc (w : TileW)
  /-- TEPI: Applies correction, activation and conversion and writes the output ring (R181) -/
  | tepi (w : TileW)
  /-- TBIND: Verifies binding tokens and fills binding-table entries (R182) -/
  | tbind (w : TileW)
  /-- TXPOSE: Transposes one slot into the output ring (R183) -/
  | txpose (w : TileW)
  /-- TSMLD: Loads sparsity metadata slots and checks them for poison (R184) -/
  | tsmld (w : TileW)
  /-- TSTAGE: Moves slots between a ring and memory on the copy engine (R185) -/
  | tstage (w : TileW)
  /-- TQRED: Adds the quad's four partial accumulators exactly and rounds once (R187) -/
  | tqred (w : TileW)
  /-- TRESUME: Re-issues a faulted record, running only children not yet complete (R204) -/
  | tresume (task : Nat)
  /-- AEND: Ends an engine program, leaving its queue bound (R95) -/
  | aend (cl eng : Nat)
  /-- AGEN: Defines the engine's stream and binds its queue (R93) -/
  | agen (cl eng : Nat) (f : AGenF)
  /-- ALOOP: Runs the stream over a nest with pads and optional loop link (R94) -/
  | aloop (cl eng : Nat) (f : ALoopF)
  /-- ASTEP: Adds one engine loop register to another (R95) -/
  | astep (cl eng : Nat) (a b : BitVec 4)
  /-- AWAIT: Holds the engine until a timeline counter reaches a value, then acquires (R95) -/
  | awaitCmd (cl eng : Nat) (c : BitVec 3) (r : BitVec 4)
  /-- AAE_BLOCK: An access engine delivers or performs one block of its stream (R93) -/
  | aaeBlock (cl eng : Nat)
  /-- SYNCED_BUNDLE_ISSUE: A synchronisation group that has all reached synced bundles issues them in one cycle (R26) -/
  | syncedBundleIssue (core lid serial : Nat)
  /-- LOOP_PASS_END: After a pass, admits the next iteration, shifts XSTAGEP, rotates XRRB and loops or ends (R88) -/
  | loopPassEnd (ctx : Nat)
  /-- K_STEP: A matrix word performs one K step once its ring slots are available (R177) -/
  | kStep (ctx num : Nat)
  /-- TSTAGE_SLOT: A TSTAGE fills or drains one slot when the ring allows (R185) -/
  | tstageSlot (ctx num : Nat)
  /-- COPY_LINE: The copy engine moves one 64-byte line of a copy (R246) -/
  | copyLine (ctx num : Nat)
  /-- MAP_FILL: The first access to a mapped scratchpad granule fills it from the global range (R211) -/
  | mapFill (ctx region granule : Nat)
  /-- WAIT_SATISFIED: A WAITING context's condition is met and it becomes RUNNABLE (R55) -/
  | waitSatisfied (ctx : Nat)
  /-- WAIT_TIMEOUT: An MWAIT timeout expires and it returns 2 (R244) -/
  | waitTimeout (ctx : Nat)
  /-- HYPCAP_TIMEOUT: A tagged write's XHYPWAIT expires without version space and traps HYPCAP (R263) -/
  | hypcapTimeout (ctx : Nat)
  /-- ORPHAN: A context whose node is refuted moves to the survivor and continues at XOVEC or exits (R270) -/
  | orphan (ctx : Nat)
  /-- CKPT: A context of a quiesced partition takes the CKPT trap at a bundle boundary (R351) -/
  | ckpt (ctx : Nat)
  /-- DEADLINE_EXPIRY: The pre-emption deadline expires and the context is forcibly suspended (R68) -/
  | deadlineExpiry (ctx : Nat)
  /-- IMAGE_WRITTEN: A save image completes and the context becomes FREE or DORMANT (R340) -/
  | imageWritten (ctx : Nat)
  /-- SCHEDULER_PASS: The die scheduler reapplies its rules every 4,096 cycles or on queue and exit events (R67) -/
  | schedulerPass (die : Nat)
  /-- HANDLER_WAKE: Arrived data with a handler address starts a dormant light context (R63) -/
  | handlerWake (cl : Nat)
  /-- FABRIC_ARRIVAL: A Delvel packet is performed by the destination gateway in triple order (R226) -/
  | fabricArrival (p : Packet)
  /-- FABRIC_ACK: The destination acknowledges a fabric operation and its number completes (R249) -/
  | fabricAck (a : Ack)
  /-- GATEWAY_SLOT_GRANT: A destination grants a buffer slot and the packet is sent (R298) -/
  | gatewaySlotGrant (ctx num : Nat)
  /-- LINK_REPLAY: A link resends unacknowledged flits from its replay buffer (R299) -/
  | linkReplay (link : Nat)
  /-- PORT_REQUEST_PASS: A request passes a core port when its tenant's bucket holds enough tokens (R297) -/
  | portRequestPass (core tenant : Nat)
  /-- TOKEN_REFILL: At each 1,024-cycle boundary active tenants' buckets are refilled (R297) -/
  | tokenRefill
  /-- SIGNATURE_ROTATION: Every 65,536 cycles PRV takes CUR and CUR clears (R217) -/
  | signatureRotation
  /-- TASK_SELECT: A tile scheduler issues the best ready task to a free sequencer (R75) -/
  | taskSelect (u : UnitId)
  /-- CHILD_COMPLETE: A tile child completes and its parent records it (R201) -/
  | childComplete (task child : Nat)
  /-- CHILD_FAULT: A tile child faults and its parent stops issuing and merges by lowest index (R201) -/
  | childFault (task child : Nat)
  /-- HERBARIUM_FILL: A site fill lands or fails, and bound entries become RESIDENT or fail (R318) -/
  | herbariumFill (die : Nat) (k : SiteKey)
  /-- CATALOGUE_RECORD_ARRIVAL: A home or replica Catalogue record arrives and is handled (R319) -/
  | catalogueRecordArrival (r : CatArrival)
  /-- RESOLVE_APPLY: Every die applies a decided resolve in two phases and its tc.hr number completes (R267) -/
  | resolveApply (part : Nat)
  /-- SWEEP: The background sweep of a resolved node completes and the node may become FREE (R255) -/
  | sweep (part node : Nat)
  /-- VITRINE_FRAME_BEGIN: A Vitrine frame begins and admits only its world's work (R296) -/
  | vitrineFrameBegin (core : Nat)
  /-- VITRINE_GRACE: At the grace point a pre-emption request is raised on every live context (R296) -/
  | vitrineGrace (core : Nat)
  /-- VITRINE_EDGE: At the edge issue stops, unfinished saves are abandoned and the core is cleared (R296) -/
  | vitrineEdge (core : Nat)
  /-- SCRUB_START: The scrub engine starts on a DIRTY frame (R288) -/
  | scrubStart (frame : Nat)
  /-- SCRUB_COMPLETE: A frame is zeroed and invalidated everywhere and becomes CLEAN (R288) -/
  | scrubComplete (frame : Nat)
  /-- FRAME_RELEASE_COMPLETE: After in-flight accesses to a released frame are performed, it becomes DIRTY (R288) -/
  | frameReleaseComplete (frame : Nat)
  /-- KEY_SLOT_PROGRAM: The Docent programs a key into a slot position, which becomes CUR (R290) -/
  | keySlotProgram (slot kind tenant : Nat) (key : BitVec 256)
  /-- KEY_RETIRE: The Docent retires a non-CUR key position (R290) -/
  | keyRetire (slot pos : Nat)
  /-- PEER_LOST: The fabric manager declares a peer lost or reset (R374) -/
  | peerLost (peer : Nat) (r : LossReason)
  /-- PACKAGE_FAILURE: A UCIe link fails to retrain within 1 ms and the package stops with FATAL (R376) -/
  | packageFailure (link : Nat)
  /-- ANNEX_LINK_DOWN: A CXL link goes down, poisoning in-flight accesses and dirtying its frames (R372) -/
  | annexLinkDown (port : Nat)
  /-- VF_FLR: A VF Function Level Reset aborts that VF's launches and empties its ring (R371) -/
  | vfFlr (vf : Nat)
  /-- COLD_RESET: Power-on or power loss resets everything and starts bring-up (R379) -/
  | coldReset
  /-- PACKAGE_RESET: A PCIe conventional reset resets the package except fuses and staged firmware (R379) -/
  | packageReset
  /-- BRING_UP_COMPLETE: After link training, frames are dirtied, keys programmed and READY set (R380) -/
  | bringUpComplete
  /-- POWER_THROTTLE: Near the power or thermal limit the Docent inserts idle cycles outside Vitrine cores (R377) -/
  | powerThrottle (core : Nat)
  /-- SOFT_ERROR: A protected structure detects an error, correcting it or marking poison (R346) -/
  | softError (loc : PLoc) (fixable : Bool)
  /-- CQTAIL_DOORBELL: A write to CQTAIL rings the doorbell of a function's command ring (R368) -/
  | cqtailDoorbell (fn : Nat) (v : Word)
  /-- REGISTER_WRITE: A write to a command register with no row of its own (R368) -/
  | registerWrite (fn off : Nat) (v : Word)
  /-- PART: Writes a partition record and its save area and report ring (R280) -/
  | part (c : CmdSrc) (p rec save ring entries : Nat)
  /-- TENANT: Writes a tenant record (R281) -/
  | tenant (c : CmdSrc) (rec : Nat)
  /-- ASSIGN: Assigns a CLEAN frame to a partition and owner (R288) -/
  | assign (c : CmdSrc) (pa p owner : Nat)
  /-- RELEASE: Removes a frame's translations and starts making it DIRTY (R288) -/
  | release (c : CmdSrc) (pa p owner : Nat)
  /-- CATNEW: Creates a Catalogue entry (R302) -/
  | catnew (c : CmdSrc) (rec : Nat)
  /-- CATDEL: Deletes a Catalogue entry, releasing its pages (R302) -/
  | catdel (c : CmdSrc) (p handle : Nat)
  /-- POOL: Gives a partition its factor pool (R306) -/
  | pool (c : CmdSrc) (p list count : Nat)
  /-- LAUNCH_COMMAND: Launches a pipeline from a record in the named partition (R369) -/
  | launchCommand (c : CmdSrc) (p rec : Nat)
  /-- QPUT: Adds one host entry to an external queue (R369) -/
  | qput (c : CmdSrc) (lid q addr : Nat)
  /-- QCLOSE: Closes an external queue (R369) -/
  | qclose (c : CmdSrc) (lid q : Nat)
  /-- QGET: Takes the head entry of a host-drained queue into a host buffer (R369) -/
  | qget (c : CmdSrc) (lid q addr : Nat)
  /-- QUIESCE: Quiesces a partition on the supervisor's command (R349) -/
  | quiesce (c : CmdSrc) (p : Nat)
  /-- RESUME: Ends a partition's quiesce and restarts scheduling (R352) -/
  | resumeCmd (c : CmdSrc) (p : Nat)
  /-- VITRINE: Writes a core's Vitrine frame table (R295) -/
  | vitrine (c : CmdSrc) (core table : Nat)
  /-- REGION: Divides a die's SRAM into its four regions (R13) -/
  | region (c : CmdSrc) (die home herb stage queue : Nat)
  /-- RESET: Performs a package reset on command (R379) -/
  | resetCmd (c : CmdSrc)
  /-- PLACE_TABLE_RELOAD: A supervisor reloads a die's place cache from the partition's place table (R71) -/
  | placeTableReload (part die : Nat)
  /-- PLACE_DISABLE: Disabling a physical place strands the suspended instances bound to it (R69) -/
  | placeDisable (k : PlaceKind) (n : Nat)
  /-- SUPERVISOR_RESUME: The supervisor resumes a STOPPED context (R66) -/
  | supervisorResume (ctx : Nat)
  /-- SUPERVISOR_DISCARD: The supervisor discards a STOPPED context, which leaves its instance (R66) -/
  | supervisorDiscard (ctx : Nat)
  /-- IMAGE_DISCARD: The supervisor restarts a stranded stage or discards its images (R69) -/
  | imageDiscard (ctx : Nat) (restart : Bool)
  /-- REPORT_APPEND: A waiting report is appended to a partition's report ring when room appears (R348) -/
  | reportAppend (part : Nat)
  /-- SNAPSHOT_ARM: The Docent arms the snapshot trigger for a partition mask and source (R353) -/
  | snapshotArm (mask : BitVec 16) (src : SnapSource)
  /-- SNAPSHOT_FIRE: A management command or selected hardware event fires the armed trigger (R353) -/
  | snapshotFire
  /-- SNAPSHOT_LATCH: Sixteen cycles after firing every block latches its snapshot registers (R353) -/
  | snapshotLatch
  /-- REPLAY_DELIVERY: In replay, a logged input is delivered and checked, stopping with DIVERGE on mismatch (R356) -/
  | replayDelivery (r : Replay)
  /-- DEBUG_SESSION: PF1 opens an SPDM session that unlocks one tenant (R357) -/
  | debugSession (tenant : Nat) (cert : BitVec 384)
  /-- DEBUG_STATE_ACCESS: An unlocked session reads or writes a STOPPED context's state (R357) -/
  | debugStateAccess (ctx : Nat) (reg : DbgReg) (wr : Option Word)
  /-- DEBUG_ARM: An unlocked session arms a DBG condition on the tenant's contexts (R357) -/
  | debugArm (ctx : Nat) (c : DbgCond)
  /-- GET_MEASUREMENTS: The Docent answers SPDM GET_MEASUREMENTS with the signed record (R358) -/
  | getMeasurements (requester : Nat)
  /-- FIRMWARE_UPDATE_STAGE: PF0 stages a firmware update, which the Docent verifies (R359) -/
  | firmwareUpdateStage (f : Firmware)
  /-- UPDATE_ACK: A tenant acknowledges a staged update over its session (R359) -/
  | updateAck (tenant : Nat)
  /-- UPDATE_WITHDRAW: The supervisor withdraws a staged update (R359) -/
  | updateWithdraw
  /-- USAGE_LOG_SIGN_REQUEST: The Docent signs a log checkpoint when the tenant asks (R362) -/
  | usageLogSignRequest (tenant : Nat)
  /-- USAGE_LOG_SIGN_PERIODIC: The Docent signs a log checkpoint after every 4,096 records (R362) -/
  | usageLogSignPeriodic (tenant : Nat)
  /-- IMAGE_REQUEUE: The supervisor re-queues a refused save image so that the scheduler tries to resume it again (R342) -/
  | imageRequeue (ctx : Nat)
  /-- ANNEX_LINK_RETRAINED: A CXL port's link retrains after going down, and the port's range becomes reachable again with every frame DIRTY until scrubbed (R372) -/
  | annexLinkRetrained (port : Nat)
  /-- DELVEL_PORT_FAILURE: A single Delvel port fails, which only narrows the paths to peers and is not a loss (R374) -/
  | delvelPortFailure (port : Nat)
  /-- TENANT_CERTIFICATE_ENROL: A tenant enrols, through the Docent, the certificate that PF1 debug sessions authenticate against (R357) -/
  | tenantCertificateEnrol (tenant : Nat) (cert : BitVec 384)
  deriving DecidableEq, Repr

end Sys2Proof
end

