-- ==== Sys2Proof/WellFormed.lean ====
section
/-! DEFINITION. Which instruction terms the encoding admits: the field values that R27, R30 to R39, R41 to R43, R92,
R137 to R139, R144, R173, R180 to R187, R193 and the entries of the instructions send to ILLOP are excluded here, and
an event names only units that exist (R10, R18). Checks that need the machine's state (a light context, privilege, a
format-table entry) are made when the word executes. -/

namespace Sys2Proof

/-- Contexts of the package (R10). -/
def numContexts : Nat := 4096
/-- Clusters of the package (R10). -/
def numClusters : Nat := 512
/-- Cores of the package (R10). -/
def numCores : Nat := 128
/-- Dies of the package (R10). -/
def numDies : Nat := 4
/-- Partitions of the package (R18). -/
def numParts : Nat := 16
/-- Tenants of the package (R18). -/
def numTenants : Nat := 4096
/-- Hypothesis IDs of a partition (R18, R254). -/
def numNodes : Nat := 1024

/-- The state-register numbers that R144 allocates. -/
def xregAllocated (x : Nat) : Bool :=
  decide (x ≤ 5) || decide (8 ≤ x ∧ x ≤ 11) || decide (16 ≤ x ∧ x ≤ 18) || decide (24 ≤ x ∧ x ≤ 25) ||
    decide (32 ≤ x ∧ x ≤ 36) || decide (64 ≤ x ∧ x ≤ 127)

/-- Bit-field positions: len - 1 in `l`, pos in `p`, and pos + len at most 64 (R139). -/
def bfxOk (l : BitVec 5) (p : BitVec 6) : Bool := decide (p.toNat + l.toNat + 1 ≤ 64)

/-- An element type code of R30 names a floating format. -/
def isFloatTy (ty : BitVec 3) : Bool := decide (3 ≤ ty.toNat)

/-- Bytes of an element of a type code (R30). -/
def elemBytes (ty : BitVec 3) : Nat :=
  match ty.toNat with
  | 0 => 1
  | 1 => 2
  | 2 => 4
  | 3 => 1
  | 4 => 1
  | 5 => 2
  | 6 => 2
  | _ => 4

/-- Elements per row of a type's view (R30). -/
def viewElems (ty : BitVec 3) : Nat := 128 / elemBytes ty

/-- The element types an opcode accepts (R42). -/
inductive TyClass where
  | any | int | flt
  deriving DecidableEq, Repr

/-- The type code is accepted (R30, R42). -/
def TyClass.has (c : TyClass) (ty : BitVec 3) : Bool :=
  match c with
  | .any => true
  | .int => !isFloatTy ty
  | .flt => isFloatTy ty

/-- The descriptor is a queue handle. -/
def Desc.isQueue : Desc → Bool
  | .queue _ => true
  | _ => false

/-- The descriptor is of class 0b11. -/
def Desc.isScalar : Desc → Bool
  | .sreg _ => true
  | .imm _ => true
  | _ => false

/-- A source descriptor of an element type: stride codes 0b101 to 0b111, an odd col with a 32-bit type, and the high
bits of an 8-bit floating immediate are excluded (R32). -/
def srcOk (ty : BitVec 3) : Desc → Bool
  | .vreg _ st _ col => decide (st.toNat ≤ 4) && (elemBytes ty != 4 || col.toNat % 2 == 0)
  | .rot _ st _ col => decide (st.toNat ≤ 4) && (elemBytes ty != 4 || col.toNat % 2 == 0)
  | .queue _ => true
  | .sreg _ => true
  | .imm v => !(ty == 3 || ty == 4) || decide (v.toNat < 256)

/-- A destination descriptor: class 0b11 is excluded (R32). -/
def dstOk (ty : BitVec 3) (d : Desc) : Bool := srcOk ty d && !d.isScalar

/-- A row guard with bit above 48 is excluded (R34). -/
def guardOk (g : Guard) : Bool := !g.gk || decide (g.bit.toNat ≤ 48)

/-- imm21 of a floating type holds a bit pattern in [15:0] (R33, R155). -/
def immOk (ty : BitVec 3) (imm : BitVec 21) : Bool :=
  !isFloatTy ty || (decide (imm.toNat < 65536) && (!(ty == 3 || ty == 4) || decide (imm.toNat < 256)))

/-- A shift count of imm21, read as signed, is 0 to 63 (R155). -/
def shiftOk (imm : BitVec 21) : Bool := decide (imm.toNat ≤ 63)

/-- A V3 word with two sources. -/
def v3Ok (c : TyClass) (sat : Bool) (w : V3) : Bool :=
  guardOk w.h.guard && c.has w.h.ty && (sat || !w.sat) && dstOk w.h.ty w.d && srcOk w.h.ty w.a && srcOk w.h.ty w.b

/-- A V3 word with one source; an odd col on the FP4 side of VPACK4 and VUNPK4 is refused by the type field as R32 has it.
DEDUCED (log entry 94). -/
def v2Ok (c : TyClass) (sat : Bool) (w : V2) : Bool :=
  guardOk w.h.guard && c.has w.h.ty && (sat || !w.sat) && dstOk w.h.ty w.d && srcOk w.h.ty w.a

/-- A VI word. -/
def viOk (c : TyClass) (sat : Bool) (w : VI) : Bool :=
  guardOk w.h.guard && c.has w.h.ty && (sat || !w.sat) && dstOk w.h.ty w.d && srcOk w.h.ty w.a

/-- The source type code of a VCVT (R160). -/
def VI.cvtSrc (w : VI) : BitVec 3 := BitVec.ofNat 3 w.imm.toNat
/-- The scale mode of a VCVT (R160). -/
def VI.cvtMode (w : VI) : Nat := natField w.imm.toNat 3 2
/-- The E8M0 scale of a VCVT (R160). -/
def VI.cvtScale (w : VI) : Nat := natField w.imm.toNat 5 8

/-- A VCVT: its source descriptor follows the source type, imm21 [20:13] is reserved, scale mode 0b11 is excluded and
the scale is zero without a scale mode (R160). -/
def vcvtOk (w : VI) : Bool :=
  guardOk w.h.guard && dstOk w.h.ty w.d && srcOk w.cvtSrc w.a && decide (w.imm.toNat < 2 ^ 13) &&
    w.cvtMode != 3 && (w.cvtMode != 0 || w.cvtScale == 0)

/-- The whole bit position of destination B of a VC word (R33). -/
def VC.bitBPos (w : VC) : Nat := w.h.rnd.toNat * 16 + w.bitB.toNat

/-- A VC word: destination bits above 48 are excluded (R33). -/
def vcOk (c : TyClass) (w : VC) : Bool :=
  guardOk w.h.guard && c.has w.h.ty && decide (w.bitA.toNat ≤ 48) && decide (w.bitBPos ≤ 48) &&
    srcOk w.h.ty w.a && srcOk w.h.ty w.b

/-- A VKCMP word. -/
def vkOk (c : TyClass) (w : VK) : Bool :=
  guardOk w.h.guard && c.has w.h.ty && srcOk w.h.ty w.a && srcOk w.h.ty w.b

/-- An ALOOP command: D - 1 at most 5, L + 2D and S + D at most 16 (R92). -/
def aloopOk (f : ALoopF) : Bool :=
  decide (f.dims.toNat ≤ 5) && decide (f.l.toNat + 2 * (f.dims.toNat + 1) ≤ 16) &&
    decide (f.s.toNat + f.dims.toNat + 1 ≤ 16)

/-- Rows per row group (R37). -/
def TileW.groupRows (w : TileW) : Nat := 2 ^ w.group.toNat

/-- The place field of a stream word: 0xFFF, or a logical unit within the next level up (R38). -/
def placeOk (w : TileW) : Bool :=
  w.place == 0xFFF ||
    match w.level.toNat with
    | 0 => decide (w.place.toNat < 4)
    | 1 => decide (w.place.toNat < 4)
    | 2 => decide (w.place.toNat < 8)
    | 3 => decide (w.place.toNat < 4)
    | _ => false

/-- The coded fields of every matrix word (R34, R37, R38). -/
def tileCommon (w : TileW) : Bool :=
  !w.guard.gk && decide (w.acc.toNat < 4) && decide (w.fmode.toNat ≤ 1) && (w.fmode != 0 || w.floop == 0) &&
    decide (w.rnd.toNat ≤ 5) && placeOk w

/-- Limits of M at a level (R193). -/
def maxM (level : Nat) : Nat :=
  match level with
  | 0 => 32
  | 1 => 128
  | 2 => 128
  | 3 => 1024
  | 4 => 1024
  | _ => 65535

/-- Limits of N at a level (R193). -/
def maxN (level : Nat) : Nat :=
  match level with
  | 0 => 128
  | 1 => 128
  | 2 => 512
  | 3 => 2048
  | 4 => 2048
  | _ => 65535

/-- M is 1 up to the limit of the level. -/
def mOk (w : TileW) : Bool := decide (1 ≤ w.m.toNat ∧ w.m.toNat ≤ maxM w.level.toNat)
/-- N is 1 up to the limit of the level. -/
def nOk (w : TileW) : Bool := decide (1 ≤ w.n.toNat ∧ w.n.toNat ≤ maxN w.level.toNat)
/-- K is 1 to 65,535. -/
def kOk (w : TileW) : Bool := w.k != 0
/-- A stream word's level is 0 to 2 (R39). -/
def streamLevel (w : TileW) : Bool := decide (w.level.toNat ≤ 2)
/-- The format fields are all zero. -/
def noFmt (w : TileW) : Bool := w.fmode == 0 && w.floop == 0 && w.fbase == 0
/-- The epilogue fields are all zero. -/
def noEpi (w : TileW) : Bool := w.rnd == 0 && !w.ovf && !w.sat && w.epi == 0
/-- The binding entries of the word's row groups lie in the table (R190). -/
def sideOk (w : TileW) : Bool :=
  !w.side || decide (w.btab.toNat + ceilDiv w.m.toNat w.groupRows ≤ 128)

/-- TMMA (R173, R177, R190). -/
def tmmaOk (w : TileW) : Bool :=
  tileCommon w && streamLevel w && mOk w && nOk w && kOk w && !w.sparse && w.out == 0 && noEpi w && w.slot == 0 &&
    (w.side || (w.btab == 0 && w.w5 == 0)) && sideOk w

/-- TMMAS: as TMMA with sparse = 1 and a sparsity slot; K is a multiple of 4 (R173, R193). -/
def tmmasOk (w : TileW) : Bool :=
  tileCommon w && streamLevel w && mOk w && nOk w && kOk w && w.k.toNat % 4 == 0 && w.sparse && w.out == 0 &&
    noEpi w && (w.side || (w.btab == 0 && w.w5 == 0)) && sideOk w

/-- TZERO in a stream (R173). -/
def tzeroOk (w : TileW) : Bool :=
  tileCommon w && streamLevel w && mOk w && nOk w && w.aRing == 0 && w.bRing == 0 && w.group == 0 && !w.side &&
    !w.sparse && w.out == 0 && w.hold == 0 && noFmt w && w.k == 0 && noEpi w && w.scl == 0 && w.slot == 0 &&
    w.btab == 0 && w.w5 == 0

/-- TACC (R173, R179). -/
def taccOk (w : TileW) : Bool :=
  tileCommon w && streamLevel w && mOk w && nOk w && w.bRing == 0 && w.group == 0 && !w.side && !w.sparse &&
    w.out == 0 && w.k == 0 && noEpi w && w.scl == 0 && w.slot == 0 && w.btab == 0 && decide (w.w5.toNat ≤ 1)

/-- TEPI (R173, R180, R181). -/
def tepiOk (w : TileW) : Bool :=
  tileCommon w && streamLevel w && mOk w && nOk w && w.aRing == 0 && w.bRing == 0 && !w.sparse && w.hold == 0 &&
    w.k == 0 && w.scl == 0 && w.slot == 0 && (w.side || w.btab == 0) && sideOk w && decide (w.epi.toNat ≤ 5) &&
    (!w.side || w.ovf)

/-- TBIND (R173, R182). -/
def tbindOk (w : TileW) : Bool :=
  tileCommon w && w.level == 1 && mOk w && w.bRing == 0 && w.acc == 0 && w.group == 0 && !w.side && !w.sparse &&
    w.out == 0 && w.n == 0 && w.hold == 0 && noFmt w && w.k == 0 && noEpi w && w.scl == 0 && w.slot == 0 &&
    w.w5 == 0 && decide (w.btab.toNat + w.m.toNat ≤ 128)

/-- TXPOSE (R173, R183). -/
def txposeOk (w : TileW) : Bool :=
  tileCommon w && decide (w.level.toNat ≤ 1) && mOk w && w.bRing == 0 && w.acc == 0 && w.group == 0 && !w.side &&
    !w.sparse && w.k == 0 && noEpi w && w.scl == 0 && w.slot == 0 && w.btab == 0 && w.w5 == 0 &&
    decide (1 ≤ w.n.toNat ∧ w.n.toNat ≤ maxM w.level.toNat)

/-- TSMLD: M is 8 to 128, a multiple of 8 (R173, R184). -/
def tsmldOk (w : TileW) : Bool :=
  tileCommon w && w.level == 1 && decide (8 ≤ w.m.toNat ∧ w.m.toNat ≤ 128) && w.m.toNat % 8 == 0 && w.bRing == 0 &&
    w.acc == 0 && w.group == 0 && !w.side && !w.sparse && w.out == 0 && w.n == 0 && noFmt w && w.k == 0 && noEpi w &&
    w.scl == 0 && w.btab == 0 && w.w5 == 0

/-- First slot row of a TSTAGE (R185). -/
def TileW.row0 (w : TileW) : Nat := natField w.w5.toNat 14 7

/-- TSTAGE (R173, R185). -/
def tstageOk (w : TileW) : Bool :=
  tileCommon w && decide (w.level.toNat ≤ 1) && decide (1 ≤ w.m.toNat ∧ w.m.toNat ≤ 128) && w.n != 0 &&
    decide (1 ≤ w.k.toNat ∧ w.k.toNat ≤ 256) && w.bRing == 0 && w.acc == 0 && w.group == 0 && !w.side && !w.sparse &&
    w.out == 0 && w.hold == 0 && noFmt w && noEpi w && w.scl == 0 && w.slot == 0 && w.btab == 0 &&
    decide (w.w5.toNat < 2 ^ 21) && decide (w.row0 + w.m.toNat ≤ 128)

/-- TQRED: level 2, place 0xFFF (R173, R187). -/
def tqredOk (w : TileW) : Bool :=
  tileCommon w && w.level == 2 && w.place == 0xFFF && mOk w && nOk w && w.aRing == 0 && w.bRing == 0 &&
    w.group == 0 && !w.side && !w.sparse && w.out == 0 && w.hold == 0 && w.k == 0 && noEpi w && w.scl == 0 &&
    w.slot == 0 && w.btab == 0 && w.w5 == 0

/-- A Catalogue record fits a buffer slot: a piece of a site has at most 256 bytes (R298, R319). -/
def recordOk (r : CatRecord) : Bool :=
  match r with
  | .slabAnswer _ _ _ _ _ (some bs) => decide (bs.length ≤ 256)
  | _ => true
/-- A packet of at most 256 bytes of payload (R298, R373). -/
def packetOk (p : Packet) : Bool := match p.op with | .bytes bs _ _ _ _ => decide (bs.length ≤ 256) | .atomic _ _ _ => true

/-- The instruction terms that have an encoding, and the events whose units exist. -/
def wellFormed (i : Instr) : Bool :=
  match i with
  | .add _ _ _ _ => true
  | .sub _ _ _ _ => true
  | .and _ _ _ _ => true
  | .or _ _ _ _ => true
  | .xor _ _ _ _ => true
  | .andn _ _ _ _ => true
  | .shl _ _ _ _ => true
  | .shr _ _ _ _ => true
  | .sra _ _ _ _ => true
  | .ror _ _ _ _ => true
  | .mul _ _ _ _ => true
  | .mulhs _ _ _ _ => true
  | .mulhu _ _ _ _ => true
  | .divs _ _ _ _ => true
  | .divu _ _ _ _ => true
  | .rems _ _ _ _ => true
  | .remu _ _ _ _ => true
  | .min _ _ _ _ => true
  | .max _ _ _ _ => true
  | .minu _ _ _ _ => true
  | .maxu _ _ _ _ => true
  | .clz _ _ _ => true
  | .ctz _ _ _ => true
  | .popc _ _ _ => true
  | .addi _ _ _ _ => true
  | .andi _ _ _ _ => true
  | .ori _ _ _ _ => true
  | .xori _ _ _ _ => true
  | .shli _ _ _ _ => true
  | .shri _ _ _ _ => true
  | .srai _ _ _ _ => true
  | .movi _ _ _ => true
  | .movhi _ _ _ => true
  | .bfxu _ _ _ l p => bfxOk l p
  | .bfxs _ _ _ l p => bfxOk l p
  | .bfins _ _ _ l p => bfxOk l p
  | .sel _ _ _ _ _ => true
  | .xrd _ _ x => xregAllocated x.toNat
  | .xwr _ _ x => xregAllocated x.toNat
  | .xloopStart _ _ => true
  | .xloopAbandon _ _ => true
  | .xtenantWrite _ _ => true
  | .cmpeq _ s _ _ _ => s != 0
  | .cmpne _ s _ _ _ => s != 0
  | .cmplt _ s _ _ _ => s != 0
  | .cmple _ s _ _ _ => s != 0
  | .cmpltu _ s _ _ _ => s != 0
  | .cmpleu _ s _ _ _ => s != 0
  | .bbs _ _ _ _ => true
  | .bbc _ _ _ _ => true
  | .jmp _ _ => true
  | .call _ _ => true
  | .jr _ _ _ => true
  | .syncb _ => true
  | .yield _ _ => true
  | .exit _ _ => true
  | .fadd _ _ _ _ => true
  | .fsub _ _ _ _ => true
  | .fmul _ _ _ _ => true
  | .fdiv _ _ _ _ => true
  | .fsqrt _ _ _ => true
  | .fmin _ _ _ _ => true
  | .fmax _ _ _ _ => true
  | .fabs _ _ _ => true
  | .fneg _ _ _ => true
  | .fmac _ _ _ _ => true
  | .fcmpeq _ s _ _ _ => s != 0
  | .fcmplt _ s _ _ _ => s != 0
  | .fcmple _ s _ _ _ => s != 0
  | .fcmpun _ s _ _ _ => s != 0
  | .fcvt _ _ _ _ s x => decide (s.toNat ≤ 9) && decide (x.toNat ≤ 9)
  | .ld8 _ _ _ _ => true
  | .ld16 _ _ _ _ => true
  | .ld32 _ _ _ _ => true
  | .ld64 _ _ _ _ => true
  | .ld8s _ _ _ _ => true
  | .ld16s _ _ _ _ => true
  | .ld32s _ _ _ _ => true
  | .ldx _ _ _ _ p s z => p != 3 && !(s && z == 3)
  | .st8 _ _ _ _ => true
  | .st16 _ _ _ _ => true
  | .st32 _ _ _ _ => true
  | .st64 _ _ _ _ => true
  | .stx _ _ _ _ p _ => p != 3
  | .lda _ _ _ _ c => c != 7
  | .stl _ _ _ _ c => c != 7
  | .stH _ _ _ _ => true
  | .amo _ _ _ _ _ o => decide (o.toNat ≤ 8)
  | .cas _ _ _ _ _ => true
  | .amoBins _ _ _ _ _ => true
  | .axadd _ _ _ _ => true
  | .axrd _ _ _ => true
  | .axclr _ _ _ => true
  | .fence _ _ s => s != 7
  | .tlwait _ _ _ s _ => s != 7
  | .tlget _ _ _ _ => true
  | .monitor _ _ => true
  | .mwait _ _ _ => true
  | .bar _ _ _ s => decide (s.toNat ≤ 5)
  | .xcopyLin _ _ _ => true
  | .xcopyNest _ _ _ => true
  | .xcopyMap _ _ _ => true
  | .xcopyUnmap _ _ _ => true
  | .xcopyWb _ _ _ => true
  | .xcopyHLin _ _ _ => true
  | .xcopyHNest _ _ _ => true
  | .put _ _ _ => true
  | .famo _ _ _ _ _ o => decide (o.toNat ≤ 8)
  | .req _ _ _ => true
  | .hopen _ _ _ => true
  | .hset _ _ _ => true
  | .hget _ _ s => s != 3
  | .hstat _ _ _ => true
  | .hvec _ _ _ p => decide (p.toNat ≤ 4)
  | .hresCf _ _ _ => true
  | .hresRf _ _ _ => true
  | .spawn _ _ _ _ _ => true
  | .launch _ _ _ => true
  | .ttask _ _ _ => true
  | .sqpush _ _ _ _ _ => true
  | .sqpop _ _ _ _ _ => true
  | .lset _ _ s _ => decide (s.toNat ≤ 4)
  | .ago _ d m g => g != 3 && (!m || d == 0)
  | .oclaim _ _ _ _ => true
  | .orelease _ _ => true
  | .admitRq _ _ _ => true
  | .apin _ _ _ => true
  | .aunpin _ _ _ => true
  | .apage _ _ _ _ => true
  | .apub _ _ _ _ => true
  | .ctxsv _ _ _ => true
  | .ctxrs _ _ => true
  | .snap _ _ _ => true
  | .tret _ _ _ => true
  | .nop _ _ => true
  | .hintp _ _ => true
  | .hintb _ _ => true
  | .hintx _ _ => true
  | .vadd w => v3Ok .any true w
  | .vsub w => v3Ok .any true w
  | .vmul w => v3Ok .any true w
  | .vfma w => v3Ok .flt true w && !w.d.isQueue
  | .vfms w => v3Ok .flt true w && !w.d.isQueue
  | .vmin w => v3Ok .any false w
  | .vmax w => v3Ok .any false w
  | .vabs w => v2Ok .any true w
  | .vneg w => v2Ok .any true w
  | .vmov w => v2Ok .any false w
  | .vdiv w => v3Ok .flt true w
  | .vmulh w => v3Ok .int false w
  | .vminu w => v3Ok .int false w
  | .vmaxu w => v3Ok .int false w
  | .vand w => v3Ok .int false w
  | .vor w => v3Ok .int false w
  | .vxor w => v3Ok .int false w
  | .vandn w => v3Ok .int false w
  | .vnot w => v2Ok .int false w
  | .vshl w => v3Ok .int true w
  | .vshr w => v3Ok .int false w
  | .vsra w => v3Ok .int false w
  | .vaddi w => viOk .any true w && immOk w.h.ty w.imm
  | .vmuli w => viOk .any true w && immOk w.h.ty w.imm
  | .vmini w => viOk .any false w && immOk w.h.ty w.imm
  | .vmaxi w => viOk .any false w && immOk w.h.ty w.imm
  | .vshli w => viOk .int true w && shiftOk w.imm
  | .vshri w => viOk .int false w && shiftOk w.imm
  | .vsrai w => viOk .int false w && shiftOk w.imm
  | .vmovi w => guardOk w.h.guard && dstOk w.h.ty w.d && immOk w.h.ty w.imm
  | .vcmpEq w => vcOk .any w
  | .vcmpNe w => vcOk .any w
  | .vcmpLt w => vcOk .any w
  | .vcmpLe w => vcOk .any w
  | .vcmpGt w => vcOk .any w
  | .vcmpGe w => vcOk .any w
  | .vcmpUn w => vcOk .flt w
  | .vcmpLtu w => vcOk .int w
  | .vcmpLeu w => vcOk .int w
  | .vkcmpEq w => vkOk .any w
  | .vkcmpNe w => vkOk .any w
  | .vkcmpLt w => vkOk .any w
  | .vkcmpLe w => vkOk .any w
  | .vkcmpGt w => vkOk .any w
  | .vkcmpGe w => vkOk .any w
  | .vkcmpUn w => vkOk .flt w
  | .kand w => guardOk w.h.guard
  | .kor w => guardOk w.h.guard
  | .kxor w => guardOk w.h.guard
  | .kandn w => guardOk w.h.guard
  | .knot w => guardOk w.h.guard
  | .kmov w => guardOk w.h.guard
  | .vselk _ w => v3Ok .any false w
  | .vcvt w => vcvtOk w
  | .vpack4 w => v2Ok .any false w
  | .vunpk4 w => v2Ok .any false w
  | .vrotr w => viOk .any false w && decide (w.imm.toNat < 128)
  | .vrotc w => viOk .any false w && decide (w.imm.toNat < 16)
  | .vbcr w => viOk .any false w && decide (w.imm.toNat < viewElems w.h.ty)
  | .vbcc w => viOk .any false w && decide (w.imm.toNat < 16)
  | .vredrAdd w => v2Ok .any true w
  | .vredrMax w => v2Ok .any false w
  | .vredrMin w => v2Ok .any false w
  | .vredcAdd w => v2Ok .any true w
  | .vredcMax w => v2Ok .any false w
  | .vredcMin w => v2Ok .any false w
  | .vxpose w => v2Ok .any false w
  | .vshuf w => v3Ok .any false w
  | .vexp2 w => v2Ok .flt true w
  | .vlog2 w => v2Ok .flt true w
  | .vrcp w => v2Ok .flt true w
  | .vrsq w => v2Ok .flt true w
  | .vsqrt w => v2Ok .flt true w
  | .vsin w => v2Ok .flt true w
  | .vcos w => v2Ok .flt true w
  | .vtanh w => v2Ok .flt true w
  | .vsigm w => v2Ok .flt true w
  | .vgelu w => v2Ok .flt true w
  | .vsilu w => v2Ok .flt true w
  | .qadv w c => !w.h.guard.gk && c.isScalar
  | .qclr w => !w.h.guard.gk
  | .qflush w => !w.h.guard.gk
  | .tmma w => tmmaOk w
  | .tmmas w => tmmasOk w
  | .tzero w => tzeroOk w
  | .tacc w => taccOk w
  | .tepi w => tepiOk w
  | .tbind w => tbindOk w
  | .txpose w => txposeOk w
  | .tsmld w => tsmldOk w
  | .tstage w => tstageOk w
  | .tqred w => tqredOk w
  | .tresume _ => true
  | .aend cl eng => decide (cl < numClusters) && decide (eng < 3)
  | .agen cl eng _ => decide (cl < numClusters) && decide (eng < 3)
  | .aloop cl eng f => decide (cl < numClusters) && decide (eng < 3) && aloopOk f
  | .astep cl eng _ _ => decide (cl < numClusters) && decide (eng < 3)
  | .awaitCmd cl eng _ _ => decide (cl < numClusters) && decide (eng < 3)
  | .aaeBlock cl eng => decide (cl < numClusters) && decide (eng < 3)
  | .syncedBundleIssue core _ _ => decide (core < numCores)
  | .loopPassEnd ctx => decide (ctx < numContexts)
  | .kStep ctx _ => decide (ctx < numContexts)
  | .tstageSlot ctx _ => decide (ctx < numContexts)
  | .copyLine ctx _ => decide (ctx < numContexts)
  | .mapFill ctx region _ => decide (ctx < numContexts) && decide (region < 16)
  | .waitSatisfied ctx => decide (ctx < numContexts)
  | .waitTimeout ctx => decide (ctx < numContexts)
  | .hypcapTimeout ctx => decide (ctx < numContexts)
  | .orphan ctx => decide (ctx < numContexts)
  | .ckpt ctx => decide (ctx < numContexts)
  | .deadlineExpiry ctx => decide (ctx < numContexts)
  | .imageWritten ctx => decide (ctx < numContexts)
  | .schedulerPass die => decide (die < numDies)
  | .handlerWake cl => decide (cl < numClusters)
  | .fabricArrival p => packetOk p
  | .fabricAck _ => true
  | .gatewaySlotGrant ctx _ => decide (ctx < numContexts)
  | .linkReplay link => decide (link < 22)
  | .portRequestPass core tenant => decide (core < numCores) && decide (tenant < numTenants)
  | .tokenRefill => true
  | .signatureRotation => true
  | .taskSelect u => decide (u.level < 6) && decide (u.part < numParts)
  | .childComplete _ _ => true
  | .childFault _ _ => true
  | .herbariumFill die _ => decide (die < numDies)
  | .catalogueRecordArrival r => recordOk r.rec_
  | .resolveApply part => decide (part < numParts)
  | .sweep part node => decide (part < numParts) && decide (node < numNodes)
  | .vitrineFrameBegin core => decide (core < numCores)
  | .vitrineGrace core => decide (core < numCores)
  | .vitrineEdge core => decide (core < numCores)
  | .scrubStart frame => decide (frame < 2 ^ 36)
  | .scrubComplete frame => decide (frame < 2 ^ 36)
  | .frameReleaseComplete frame => decide (frame < 2 ^ 36)
  | .keySlotProgram slot kind tenant _ => decide (slot < 8192) && decide (1 ≤ kind ∧ kind ≤ 3) && decide (tenant < numTenants)
  | .keyRetire slot pos => decide (slot < 8192) && decide (pos < 2)
  | .peerLost peer _ => decide (peer < 4096)
  | .packageFailure link => decide (link < 6)
  | .annexLinkDown port => decide (port < 2)
  | .vfFlr vf => decide (vf < 64)
  | .coldReset => true
  | .packageReset => true
  | .bringUpComplete => true
  | .powerThrottle core => decide (core < numCores)
  | .softError _ _ => true
  | .cqtailDoorbell fn _ => decide (fn < 66)
  | .registerWrite fn _ _ => decide (fn < 66)
  | .part c _ _ _ _ _ => decide (c.fn < 66)
  | .tenant c _ => decide (c.fn < 66)
  | .assign c _ _ _ => decide (c.fn < 66)
  | .release c _ _ _ => decide (c.fn < 66)
  | .catnew c _ => decide (c.fn < 66)
  | .catdel c _ _ => decide (c.fn < 66)
  | .pool c _ _ _ => decide (c.fn < 66)
  | .launchCommand c _ _ => decide (c.fn < 66)
  | .qput c _ _ _ => decide (c.fn < 66)
  | .qclose c _ _ => decide (c.fn < 66)
  | .qget c _ _ _ => decide (c.fn < 66)
  | .quiesce c _ => decide (c.fn < 66)
  | .resumeCmd c _ => decide (c.fn < 66)
  | .vitrine c _ _ => decide (c.fn < 66)
  | .region c _ _ _ _ _ => decide (c.fn < 66)
  | .resetCmd c => decide (c.fn < 66)
  | .placeTableReload part die => decide (die < numDies) && decide (part < numParts)
  | .placeDisable _ _ => true
  | .supervisorResume ctx => decide (ctx < numContexts)
  | .supervisorDiscard ctx => decide (ctx < numContexts)
  | .imageDiscard ctx _ => decide (ctx < numContexts)
  | .reportAppend part => decide (part < numParts)
  | .snapshotArm _ _ => true
  | .snapshotFire => true
  | .snapshotLatch => true
  | .replayDelivery _ => true
  | .debugSession tenant _ => decide (tenant < numTenants)
  | .debugStateAccess ctx _ _ => decide (ctx < numContexts)
  | .debugArm ctx _ => decide (ctx < numContexts)
  | .getMeasurements _ => true
  | .firmwareUpdateStage f => decide (f.svn ≤ 64)
  | .updateAck tenant => decide (tenant < numTenants)
  | .updateWithdraw => true
  | .usageLogSignRequest tenant => decide (tenant < numTenants)
  | .usageLogSignPeriodic tenant => decide (tenant < numTenants)
  | .imageRequeue ctx => decide (ctx < numContexts)
  | .annexLinkRetrained port => decide (port < 2)
  | .delvelPortFailure port => decide (port < 16)
  | .tenantCertificateEnrol tenant _ => decide (tenant < numTenants)

end Sys2Proof
end

