-- ==== Sys2Proof/Decode.lean ====
section
/-! DEFINITION. Decoding of instruction words (R21 to R45) and engine commands (R92), total on any bytes, and the
encoder written from the same tables. A word that the tables do not give, or whose fields they exclude, is rejected
by name; the machine then takes ILLOP (R44). -/

namespace Sys2Proof

/-- The `n` bits of `w` from bit `lo`. -/
def bf (n w lo : Nat) : BitVec n := BitVec.ofNat n (w / 2 ^ lo)

/-- A field condition of R44: the instruction, or nothing where a reserved bit is set. -/
def need (c : Prop) [Decidable c] (i : Instr) : Option Instr := if c then some i else none

/-- Why a word is rejected (R44). -/
inductive Reject where
  /-- Fewer units than the word's kind needs. -/
  | truncated
  /-- An unallocated opcode or function, or a reserved bit. -/
  | unallocated
  /-- A field value that the instruction's entry excludes. -/
  | illegalField
  deriving DecidableEq, Repr

/-- The functions of the ALU group, opcode 0x00 (R41). -/
def decodeAlu (w : Nat) : Option Instr :=
  match natField w 0 5 with
  | 0 => some (.add (natBit w 30) (bf 6 w 17) (bf 6 w 11) (bf 6 w 5))
  | 1 => some (.sub (natBit w 30) (bf 6 w 17) (bf 6 w 11) (bf 6 w 5))
  | 2 => some (.and (natBit w 30) (bf 6 w 17) (bf 6 w 11) (bf 6 w 5))
  | 3 => some (.or (natBit w 30) (bf 6 w 17) (bf 6 w 11) (bf 6 w 5))
  | 4 => some (.xor (natBit w 30) (bf 6 w 17) (bf 6 w 11) (bf 6 w 5))
  | 5 => some (.andn (natBit w 30) (bf 6 w 17) (bf 6 w 11) (bf 6 w 5))
  | 6 => some (.shl (natBit w 30) (bf 6 w 17) (bf 6 w 11) (bf 6 w 5))
  | 7 => some (.shr (natBit w 30) (bf 6 w 17) (bf 6 w 11) (bf 6 w 5))
  | 8 => some (.sra (natBit w 30) (bf 6 w 17) (bf 6 w 11) (bf 6 w 5))
  | 9 => some (.ror (natBit w 30) (bf 6 w 17) (bf 6 w 11) (bf 6 w 5))
  | 10 => some (.mul (natBit w 30) (bf 6 w 17) (bf 6 w 11) (bf 6 w 5))
  | 11 => some (.mulhs (natBit w 30) (bf 6 w 17) (bf 6 w 11) (bf 6 w 5))
  | 12 => some (.mulhu (natBit w 30) (bf 6 w 17) (bf 6 w 11) (bf 6 w 5))
  | 13 => some (.divs (natBit w 30) (bf 6 w 17) (bf 6 w 11) (bf 6 w 5))
  | 14 => some (.divu (natBit w 30) (bf 6 w 17) (bf 6 w 11) (bf 6 w 5))
  | 15 => some (.rems (natBit w 30) (bf 6 w 17) (bf 6 w 11) (bf 6 w 5))
  | 16 => some (.remu (natBit w 30) (bf 6 w 17) (bf 6 w 11) (bf 6 w 5))
  | 17 => some (.min (natBit w 30) (bf 6 w 17) (bf 6 w 11) (bf 6 w 5))
  | 18 => some (.max (natBit w 30) (bf 6 w 17) (bf 6 w 11) (bf 6 w 5))
  | 19 => some (.minu (natBit w 30) (bf 6 w 17) (bf 6 w 11) (bf 6 w 5))
  | 20 => some (.maxu (natBit w 30) (bf 6 w 17) (bf 6 w 11) (bf 6 w 5))
  | 21 => need (natField w 5 6 = 0) (.clz (natBit w 30) (bf 6 w 17) (bf 6 w 11))
  | 22 => need (natField w 5 6 = 0) (.ctz (natBit w 30) (bf 6 w 17) (bf 6 w 11))
  | 23 => need (natField w 5 6 = 0) (.popc (natBit w 30) (bf 6 w 17) (bf 6 w 11))
  | _ => none

/-- The functions of the FP group, opcode 0x20 (R41). -/
def decodeFp (w : Nat) : Option Instr :=
  match natField w 0 5 with
  | 0 => some (.fadd (natBit w 30) (bf 6 w 17) (bf 6 w 11) (bf 6 w 5))
  | 1 => some (.fsub (natBit w 30) (bf 6 w 17) (bf 6 w 11) (bf 6 w 5))
  | 2 => some (.fmul (natBit w 30) (bf 6 w 17) (bf 6 w 11) (bf 6 w 5))
  | 3 => some (.fdiv (natBit w 30) (bf 6 w 17) (bf 6 w 11) (bf 6 w 5))
  | 4 => need (natField w 5 6 = 0) (.fsqrt (natBit w 30) (bf 6 w 17) (bf 6 w 11))
  | 5 => some (.fmin (natBit w 30) (bf 6 w 17) (bf 6 w 11) (bf 6 w 5))
  | 6 => some (.fmax (natBit w 30) (bf 6 w 17) (bf 6 w 11) (bf 6 w 5))
  | 7 => need (natField w 5 6 = 0) (.fabs (natBit w 30) (bf 6 w 17) (bf 6 w 11))
  | 8 => need (natField w 5 6 = 0) (.fneg (natBit w 30) (bf 6 w 17) (bf 6 w 11))
  | 9 => some (.fmac (natBit w 30) (bf 6 w 17) (bf 6 w 11) (bf 6 w 5))
  | _ => none

/-- The forms of XCOPY, opcode 0x4C (R246). -/
def decodeXcopy (w : Nat) : Option Instr :=
  match natField w 0 3 with
  | 0 => need (natField w 3 8 = 0) (.xcopyLin (natBit w 30) (bf 6 w 17) (bf 6 w 11))
  | 1 => need (natField w 3 8 = 0) (.xcopyNest (natBit w 30) (bf 6 w 17) (bf 6 w 11))
  | 2 => need (natField w 3 8 = 0) (.xcopyMap (natBit w 30) (bf 6 w 17) (bf 6 w 11))
  | 3 => need (natField w 3 8 = 0) (.xcopyUnmap (natBit w 30) (bf 6 w 17) (bf 6 w 11))
  | 4 => need (natField w 3 8 = 0) (.xcopyWb (natBit w 30) (bf 6 w 17) (bf 6 w 11))
  | _ => none

/-- The forms of XCOPY.H, opcode 0x4D (R246). -/
def decodeXcopyH (w : Nat) : Option Instr :=
  match natField w 0 3 with
  | 0 => need (natField w 3 8 = 0) (.xcopyHLin (natBit w 30) (bf 6 w 17) (bf 6 w 11))
  | 1 => need (natField w 3 8 = 0) (.xcopyHNest (natBit w 30) (bf 6 w 17) (bf 6 w 11))
  | _ => none

/-- The scalar opcode map of R40. An opcode absent from it is unallocated (R44). -/
def decodeScalar (w : Nat) : Option Instr :=
  match natField w 23 7 with
  | 0x00 => decodeAlu w
  | 0x01 => some (.addi (natBit w 30) (bf 6 w 17) (bf 6 w 11) (bf 11 w 0))
  | 0x02 => some (.andi (natBit w 30) (bf 6 w 17) (bf 6 w 11) (bf 11 w 0))
  | 0x03 => some (.ori (natBit w 30) (bf 6 w 17) (bf 6 w 11) (bf 11 w 0))
  | 0x04 => some (.xori (natBit w 30) (bf 6 w 17) (bf 6 w 11) (bf 11 w 0))
  | 0x05 => need (natField w 6 5 = 0) (.shli (natBit w 30) (bf 6 w 17) (bf 6 w 11) (bf 6 w 0))
  | 0x06 => need (natField w 6 5 = 0) (.shri (natBit w 30) (bf 6 w 17) (bf 6 w 11) (bf 6 w 0))
  | 0x07 => need (natField w 6 5 = 0) (.srai (natBit w 30) (bf 6 w 17) (bf 6 w 11) (bf 6 w 0))
  | 0x08 => some (.movi (natBit w 30) (bf 6 w 17) (bf 17 w 0))
  | 0x09 => need (natField w 16 1 = 0) (.movhi (natBit w 30) (bf 6 w 17) (bf 16 w 0))
  | 0x0A => some (.bfxu (natBit w 30) (bf 6 w 17) (bf 6 w 11) (bf 5 w 6) (bf 6 w 0))
  | 0x0B => some (.bfxs (natBit w 30) (bf 6 w 17) (bf 6 w 11) (bf 5 w 6) (bf 6 w 0))
  | 0x0C => some (.bfins (natBit w 30) (bf 6 w 17) (bf 6 w 11) (bf 5 w 6) (bf 6 w 0))
  | 0x0D => some (.sel (natBit w 30) (bf 6 w 17) (bf 6 w 11) (bf 6 w 5) (bf 5 w 0))
  | 0x0E => some (.xrd (natBit w 30) (bf 6 w 17) (bf 17 w 0))
  | 0x0F => some (.xwr (natBit w 30) (bf 6 w 17) (bf 17 w 0))
  | 0x10 => some (.cmpeq (natBit w 30) (bf 5 w 18) (bf 6 w 12) (bf 6 w 6) (bf 6 w 0))
  | 0x11 => some (.cmpne (natBit w 30) (bf 5 w 18) (bf 6 w 12) (bf 6 w 6) (bf 6 w 0))
  | 0x12 => some (.cmplt (natBit w 30) (bf 5 w 18) (bf 6 w 12) (bf 6 w 6) (bf 6 w 0))
  | 0x13 => some (.cmple (natBit w 30) (bf 5 w 18) (bf 6 w 12) (bf 6 w 6) (bf 6 w 0))
  | 0x14 => some (.cmpltu (natBit w 30) (bf 5 w 18) (bf 6 w 12) (bf 6 w 6) (bf 6 w 0))
  | 0x15 => some (.cmpleu (natBit w 30) (bf 5 w 18) (bf 6 w 12) (bf 6 w 6) (bf 6 w 0))
  | 0x18 => some (.bbs (natBit w 30) (bf 6 w 17) (bf 6 w 11) (bf 11 w 0))
  | 0x19 => some (.bbc (natBit w 30) (bf 6 w 17) (bf 6 w 11) (bf 11 w 0))
  | 0x1A => some (.jmp (natBit w 30) (bf 23 w 0))
  | 0x1B => some (.call (natBit w 30) (bf 23 w 0))
  | 0x1C => need (natField w 0 11 = 0) (.jr (natBit w 30) (bf 6 w 17) (bf 6 w 11))
  | 0x1D => need (natField w 0 23 = 0) (.syncb (natBit w 30))
  | 0x1E => need (natField w 16 7 = 0) (.yield (natBit w 30) (bf 16 w 0))
  | 0x1F => need (natField w 8 15 = 0) (.exit (natBit w 30) (bf 8 w 0))
  | 0x20 => decodeFp w
  | 0x21 => some (.fcmpeq (natBit w 30) (bf 5 w 18) (bf 6 w 12) (bf 6 w 6) (bf 6 w 0))
  | 0x22 => some (.fcmplt (natBit w 30) (bf 5 w 18) (bf 6 w 12) (bf 6 w 6) (bf 6 w 0))
  | 0x23 => some (.fcmple (natBit w 30) (bf 5 w 18) (bf 6 w 12) (bf 6 w 6) (bf 6 w 0))
  | 0x24 => some (.fcmpun (natBit w 30) (bf 5 w 18) (bf 6 w 12) (bf 6 w 6) (bf 6 w 0))
  | 0x25 => need (natField w 4 1 = 0 ∧ natField w 10 1 = 0) (.fcvt (natBit w 30) (bf 6 w 17) (bf 6 w 11) (natBit w 9) (bf 4 w 5) (bf 4 w 0))
  | 0x30 => some (.ld8 (natBit w 30) (bf 6 w 17) (bf 6 w 11) (bf 11 w 0))
  | 0x31 => some (.ld16 (natBit w 30) (bf 6 w 17) (bf 6 w 11) (bf 11 w 0))
  | 0x32 => some (.ld32 (natBit w 30) (bf 6 w 17) (bf 6 w 11) (bf 11 w 0))
  | 0x33 => some (.ld64 (natBit w 30) (bf 6 w 17) (bf 6 w 11) (bf 11 w 0))
  | 0x34 => some (.ld8s (natBit w 30) (bf 6 w 17) (bf 6 w 11) (bf 11 w 0))
  | 0x35 => some (.ld16s (natBit w 30) (bf 6 w 17) (bf 6 w 11) (bf 11 w 0))
  | 0x36 => some (.ld32s (natBit w 30) (bf 6 w 17) (bf 6 w 11) (bf 11 w 0))
  | 0x37 => some (.ldx (natBit w 30) (bf 6 w 17) (bf 6 w 11) (bf 6 w 5) (bf 2 w 3) (natBit w 2) (bf 2 w 0))
  | 0x38 => some (.st8 (natBit w 30) (bf 6 w 17) (bf 6 w 11) (bf 11 w 0))
  | 0x39 => some (.st16 (natBit w 30) (bf 6 w 17) (bf 6 w 11) (bf 11 w 0))
  | 0x3A => some (.st32 (natBit w 30) (bf 6 w 17) (bf 6 w 11) (bf 11 w 0))
  | 0x3B => some (.st64 (natBit w 30) (bf 6 w 17) (bf 6 w 11) (bf 11 w 0))
  | 0x3C => need (natField w 2 1 = 0) (.stx (natBit w 30) (bf 6 w 17) (bf 6 w 11) (bf 6 w 5) (bf 2 w 3) (bf 2 w 0))
  | 0x3D => need (natField w 5 6 = 0) (.lda (natBit w 30) (bf 6 w 17) (bf 6 w 11) (bf 2 w 3) (bf 3 w 0))
  | 0x3E => need (natField w 5 6 = 0) (.stl (natBit w 30) (bf 6 w 17) (bf 6 w 11) (bf 2 w 3) (bf 3 w 0))
  | 0x3F => need (natField w 0 3 = 0 ∧ natField w 5 6 = 0) (.stH (natBit w 30) (bf 6 w 17) (bf 6 w 11) (bf 2 w 3))
  | 0x40 => some (.amo (natBit w 30) (bf 6 w 17) (bf 6 w 11) (bf 6 w 5) (natBit w 4) (bf 4 w 0))
  | 0x41 => need (natField w 0 4 = 0) (.cas (natBit w 30) (bf 6 w 17) (bf 6 w 11) (bf 6 w 5) (natBit w 4))
  | 0x42 => need (natField w 1 4 = 0) (.amoBins (natBit w 30) (bf 6 w 17) (bf 6 w 11) (bf 6 w 5) (natBit w 0))
  | 0x43 => need (natField w 0 5 = 0) (.axadd (natBit w 30) (bf 6 w 17) (bf 6 w 11) (bf 6 w 5))
  | 0x44 => need (natField w 0 11 = 0) (.axrd (natBit w 30) (bf 6 w 17) (bf 6 w 11))
  | 0x45 => need (natField w 0 11 = 0) (.axclr (natBit w 30) (bf 6 w 17) (bf 6 w 11))
  | 0x46 => need (natField w 4 19 = 0) (.fence (natBit w 30) (natBit w 3) (bf 3 w 0))
  | 0x47 => need (natField w 6 5 = 0) (.tlwait (natBit w 30) (bf 6 w 17) (bf 6 w 11) (bf 3 w 3) (bf 3 w 0))
  | 0x48 => need (natField w 4 13 = 0) (.tlget (natBit w 30) (bf 6 w 17) (natBit w 3) (bf 3 w 0))
  | 0x49 => need (natField w 0 11 = 0 ∧ natField w 17 6 = 0) (.monitor (natBit w 30) (bf 6 w 11))
  | 0x4A => need (natField w 0 11 = 0) (.mwait (natBit w 30) (bf 6 w 17) (bf 6 w 11))
  | 0x4B => need (natField w 8 9 = 0) (.bar (natBit w 30) (bf 6 w 17) (bf 5 w 3) (bf 3 w 0))
  | 0x4C => decodeXcopy w
  | 0x4D => decodeXcopyH w
  | 0x4E => need (natField w 0 11 = 0) (.put (natBit w 30) (bf 6 w 17) (bf 6 w 11))
  | 0x4F => some (.famo (natBit w 30) (bf 6 w 17) (bf 6 w 11) (bf 6 w 5) (natBit w 4) (bf 4 w 0))
  | 0x50 => need (natField w 0 11 = 0) (.req (natBit w 30) (bf 6 w 17) (bf 6 w 11))
  | 0x58 => need (natField w 1 16 = 0) (.hopen (natBit w 30) (bf 6 w 17) (natBit w 0))
  | 0x59 => need (natField w 0 11 = 0) (.hset (natBit w 30) (bf 6 w 17) (bf 6 w 11))
  | 0x5A => need (natField w 2 15 = 0) (.hget (natBit w 30) (bf 6 w 17) (bf 2 w 0))
  | 0x5B => need (natField w 0 11 = 0) (.hstat (natBit w 30) (bf 6 w 17) (bf 6 w 11))
  | 0x5C => need (natField w 3 8 = 0) (.hvec (natBit w 30) (bf 6 w 17) (bf 6 w 11) (bf 3 w 0))
  | 0x5D => need (natField w 0 11 = 0) (.hresCf (natBit w 30) (bf 6 w 17) (bf 6 w 11))
  | 0x5E => need (natField w 0 11 = 0) (.hresRf (natBit w 30) (bf 6 w 17) (bf 6 w 11))
  | 0x60 => need (natField w 3 2 = 0) (.spawn (natBit w 30) (bf 6 w 17) (bf 6 w 11) (bf 6 w 5) (bf 3 w 0))
  | 0x61 => need (natField w 0 11 = 0) (.launch (natBit w 30) (bf 6 w 17) (bf 6 w 11))
  | 0x62 => need (natField w 0 11 = 0) (.ttask (natBit w 30) (bf 6 w 17) (bf 6 w 11))
  | 0x63 => need (natField w 4 7 = 0) (.sqpush (natBit w 30) (bf 6 w 17) (bf 6 w 11) (natBit w 3) (bf 3 w 0))
  | 0x64 => need (natField w 4 7 = 0) (.sqpop (natBit w 30) (bf 6 w 17) (bf 6 w 11) (natBit w 3) (bf 3 w 0))
  | 0x65 => need (natField w 0 4 = 0 ∧ natField w 17 6 = 0) (.lset (natBit w 30) (bf 6 w 11) (bf 3 w 8) (bf 4 w 4))
  | 0x66 => need (natField w 3 14 = 0) (.ago (natBit w 30) (bf 6 w 17) (natBit w 2) (bf 2 w 0))
  | 0x67 => need (natField w 4 7 = 0) (.oclaim (natBit w 30) (bf 6 w 17) (bf 6 w 11) (bf 4 w 0))
  | 0x68 => need (natField w 4 19 = 0) (.orelease (natBit w 30) (bf 4 w 0))
  | 0x69 => need (natField w 0 11 = 0) (.admitRq (natBit w 30) (bf 6 w 17) (bf 6 w 11))
  | 0x6A => need (natField w 0 11 = 0) (.apin (natBit w 30) (bf 6 w 17) (bf 6 w 11))
  | 0x6B => need (natField w 0 11 = 0) (.aunpin (natBit w 30) (bf 6 w 17) (bf 6 w 11))
  | 0x6C => need (natField w 0 5 = 0) (.apage (natBit w 30) (bf 6 w 17) (bf 6 w 11) (bf 6 w 5))
  | 0x6D => need (natField w 0 5 = 0) (.apub (natBit w 30) (bf 6 w 17) (bf 6 w 11) (bf 6 w 5))
  | 0x6E => need (natBit w 30 = true ∧ natField w 0 5 = 0) (.ctxsv (bf 6 w 17) (bf 6 w 11) (bf 6 w 5))
  | 0x6F => need (natBit w 30 = true ∧ natField w 0 11 = 0) (.ctxrs (bf 6 w 17) (bf 6 w 11))
  | 0x70 => need (natField w 8 9 = 0) (.snap (natBit w 30) (bf 6 w 17) (bf 8 w 0))
  | 0x71 => need (natField w 2 21 = 0) (.tret (natBit w 30) (natBit w 1) (natBit w 0))
  | 0x7C => some (.nop (natBit w 30) (bf 23 w 0))
  | 0x7D => some (.hintp (natBit w 30) (bf 23 w 0))
  | 0x7E => some (.hintb (natBit w 30) (bf 23 w 0))
  | 0x7F => some (.hintx (natBit w 30) (bf 23 w 0))
  | _ => none

/-- A descriptor of R31 and R32. -/
def decodeDesc (x : Nat) : Option Desc :=
  match natField x 19 2 with
  | 0 => some (.vreg (bf 6 x 13) (bf 3 x 10) (bf 4 x 6) (bf 6 x 0))
  | 1 => if natField x 18 1 = 0 then some (.rot (bf 5 x 13) (bf 3 x 10) (bf 4 x 6) (bf 6 x 0)) else none
  | 2 => if natField x 17 2 = 0 ∧ natField x 0 13 = 0 then some (.queue (bf 4 x 13)) else none
  | _ =>
    match natField x 10 3 with
    | 0 => if natField x 0 10 = 0 then some (.sreg (bf 6 x 13)) else none
    | 7 => some (.imm (BitVec.ofNat 16 (natField x 13 6 * 2 ^ 10 + natField x 0 10)))
    | _ => none

/-- The guard field's 14 bits (R34). -/
def decodeGuard (g : Nat) : Guard :=
  { gk := natBit g 13, reg := bf 6 g 7, bit := bf 6 g 1, neg := natBit g 0 }

/-- The shared fields of a vector word's W0 (R29). -/
def decodeVHead (w0 : Nat) : VHead :=
  { e := natBit w0 29, s := natBit w0 28, guard := decodeGuard (natField w0 5 14), ty := bf 3 w0 2, rnd := bf 2 w0 0 }

/-- D of a V3 word with two sources (R31). -/
def decV3 (mk : V3 → Instr) (w0 d : Nat) : Option Instr :=
  match decodeDesc (natField d 0 21), decodeDesc (natField d 21 21), decodeDesc (natField d 42 21) with
  | some x, some y, some z => some (mk { h := decodeVHead w0, sat := natBit d 63, d := x, a := y, b := z })
  | _, _, _ => none

/-- D of a V3 word with one source: operand 2 is reserved (R31). -/
def decV2 (mk : V2 → Instr) (w0 d : Nat) : Option Instr :=
  match decodeDesc (natField d 0 21), decodeDesc (natField d 21 21) with
  | some x, some y => need (natField d 42 21 = 0) (mk { h := decodeVHead w0, sat := natBit d 63, d := x, a := y })
  | _, _ => none

/-- D of a VI word (R33). -/
def decVI (mk : VI → Instr) (w0 d : Nat) : Option Instr :=
  match decodeDesc (natField d 0 21), decodeDesc (natField d 21 21) with
  | some x, some y => some (mk { h := decodeVHead w0, sat := natBit d 63, d := x, a := y, imm := bf 21 d 42 })
  | _, _ => none

/-- D of VMOVI: operand 1 and the saturate bit are reserved (R155). -/
def decVM (mk : VM → Instr) (w0 d : Nat) : Option Instr :=
  match decodeDesc (natField d 0 21) with
  | some x => need (natField d 21 21 = 0 ∧ natField d 63 1 = 0) (mk { h := decodeVHead w0, d := x, imm := bf 21 d 42 })
  | none => none

/-- D of a VC word (R33). -/
def decVC (mk : VC → Instr) (w0 d : Nat) : Option Instr :=
  match decodeDesc (natField d 21 21), decodeDesc (natField d 42 21) with
  | some x, some y =>
    some (mk { h := decodeVHead w0, regA := bf 6 d 15, bitA := bf 6 d 9, regB := bf 6 d 3,
               bitB := BitVec.ofNat 4 (natField d 63 1 * 8 + natField d 0 3), a := x, b := y })
  | _, _ => none

/-- D of VKCMP: operand 0 names k0 to k7 with zero stride, row and col (R157). -/
def decVK (mk : VK → Instr) (w0 d : Nat) : Option Instr :=
  match decodeDesc (natField d 21 21), decodeDesc (natField d 42 21) with
  | some x, some y =>
    need (natField d 0 13 = 0 ∧ natField d 16 5 = 0 ∧ natField d 63 1 = 0)
      (mk { h := decodeVHead w0, k := bf 3 d 13, a := x, b := y })
  | _, _ => none

/-- D of a mask word with two sources (R158). -/
def decKB (mk : KB → Instr) (w0 d : Nat) : Option Instr :=
  need (natField d 0 13 = 0 ∧ natField d 16 18 = 0 ∧ natField d 37 18 = 0 ∧ natField d 58 6 = 0)
    (mk { h := decodeVHead w0, d := bf 3 d 13, a := bf 3 d 34, b := bf 3 d 55 })

/-- D of a mask word with one source (R158). -/
def decKU (mk : KU → Instr) (w0 d : Nat) : Option Instr :=
  need (natField d 0 13 = 0 ∧ natField d 16 18 = 0 ∧ natField d 37 27 = 0)
    (mk { h := decodeVHead w0, d := bf 3 d 13, a := bf 3 d 34 })

/-- D of QCLR and QFLUSH: the count and everything above it are reserved (R33, R101). -/
def decVQ (mk : VQ → Instr) (w0 d : Nat) : Option Instr :=
  need (natField d 0 13 = 0 ∧ natField d 17 4 = 8 ∧ natField d 21 43 = 0) (mk { h := decodeVHead w0, q := bf 4 d 13 })

/-- D of QADV: a class 0b11 count (R33, R101). -/
def decQadv (w0 d : Nat) : Option Instr :=
  match decodeDesc (natField d 21 21) with
  | some c =>
    need (natField d 0 13 = 0 ∧ natField d 17 4 = 8 ∧ natField d 42 22 = 0)
      (.qadv { h := decodeVHead w0, q := bf 4 d 13 } c)
  | none => none

/-- The vector opcode map of R42 over W0 and D. -/
def decodeVector (w0 d : Nat) : Option Instr :=
  match natField w0 19 9 with
  | 0x000 => decV3 .vadd w0 d
  | 0x001 => decV3 .vsub w0 d
  | 0x002 => decV3 .vmul w0 d
  | 0x003 => decV3 .vfma w0 d
  | 0x004 => decV3 .vfms w0 d
  | 0x005 => decV3 .vmin w0 d
  | 0x006 => decV3 .vmax w0 d
  | 0x007 => decV2 .vabs w0 d
  | 0x008 => decV2 .vneg w0 d
  | 0x009 => decV2 .vmov w0 d
  | 0x00A => decV3 .vdiv w0 d
  | 0x00C => decV3 .vmulh w0 d
  | 0x00D => decV3 .vminu w0 d
  | 0x00E => decV3 .vmaxu w0 d
  | 0x010 => decV3 .vand w0 d
  | 0x011 => decV3 .vor w0 d
  | 0x012 => decV3 .vxor w0 d
  | 0x013 => decV3 .vandn w0 d
  | 0x014 => decV2 .vnot w0 d
  | 0x015 => decV3 .vshl w0 d
  | 0x016 => decV3 .vshr w0 d
  | 0x017 => decV3 .vsra w0 d
  | 0x018 => decVI .vaddi w0 d
  | 0x019 => decVI .vmuli w0 d
  | 0x01A => decVI .vmini w0 d
  | 0x01B => decVI .vmaxi w0 d
  | 0x01C => decVI .vshli w0 d
  | 0x01D => decVI .vshri w0 d
  | 0x01E => decVI .vsrai w0 d
  | 0x01F => decVM .vmovi w0 d
  | 0x040 => decVC .vcmpEq w0 d
  | 0x041 => decVC .vcmpNe w0 d
  | 0x042 => decVC .vcmpLt w0 d
  | 0x043 => decVC .vcmpLe w0 d
  | 0x044 => decVC .vcmpGt w0 d
  | 0x045 => decVC .vcmpGe w0 d
  | 0x046 => decVC .vcmpUn w0 d
  | 0x047 => decVC .vcmpLtu w0 d
  | 0x048 => decVC .vcmpLeu w0 d
  | 0x050 => decVK .vkcmpEq w0 d
  | 0x051 => decVK .vkcmpNe w0 d
  | 0x052 => decVK .vkcmpLt w0 d
  | 0x053 => decVK .vkcmpLe w0 d
  | 0x054 => decVK .vkcmpGt w0 d
  | 0x055 => decVK .vkcmpGe w0 d
  | 0x056 => decVK .vkcmpUn w0 d
  | 0x080 => decKB .kand w0 d
  | 0x081 => decKB .kor w0 d
  | 0x082 => decKB .kxor w0 d
  | 0x083 => decKB .kandn w0 d
  | 0x084 => decKU .knot w0 d
  | 0x085 => decKU .kmov w0 d
  | 0x088 => decV3 (.vselk 0) w0 d
  | 0x089 => decV3 (.vselk 1) w0 d
  | 0x08A => decV3 (.vselk 2) w0 d
  | 0x08B => decV3 (.vselk 3) w0 d
  | 0x08C => decV3 (.vselk 4) w0 d
  | 0x08D => decV3 (.vselk 5) w0 d
  | 0x08E => decV3 (.vselk 6) w0 d
  | 0x08F => decV3 (.vselk 7) w0 d
  | 0x0C0 => decVI .vcvt w0 d
  | 0x0C1 => decV2 .vpack4 w0 d
  | 0x0C2 => decV2 .vunpk4 w0 d
  | 0x100 => decVI .vrotr w0 d
  | 0x101 => decVI .vrotc w0 d
  | 0x102 => decVI .vbcr w0 d
  | 0x103 => decVI .vbcc w0 d
  | 0x104 => decV2 .vredrAdd w0 d
  | 0x105 => decV2 .vredrMax w0 d
  | 0x106 => decV2 .vredrMin w0 d
  | 0x107 => decV2 .vredcAdd w0 d
  | 0x108 => decV2 .vredcMax w0 d
  | 0x109 => decV2 .vredcMin w0 d
  | 0x10A => decV2 .vxpose w0 d
  | 0x10B => decV3 .vshuf w0 d
  | 0x140 => decV2 .vexp2 w0 d
  | 0x141 => decV2 .vlog2 w0 d
  | 0x142 => decV2 .vrcp w0 d
  | 0x143 => decV2 .vrsq w0 d
  | 0x144 => decV2 .vsqrt w0 d
  | 0x145 => decV2 .vsin w0 d
  | 0x146 => decV2 .vcos w0 d
  | 0x147 => decV2 .vtanh w0 d
  | 0x148 => decV2 .vsigm w0 d
  | 0x149 => decV2 .vgelu w0 d
  | 0x14A => decV2 .vsilu w0 d
  | 0x180 => decQadv w0 d
  | 0x181 => decVQ .qclr w0 d
  | 0x182 => decVQ .qflush w0 d
  | _ => none

/-- The fields of a matrix word, read from its 192 bits (R36). -/
def decTile (x : Nat) : TileW :=
  { e := natBit x 29, s := natBit x 28, guard := decodeGuard (natField x 6 14), level := bf 3 x 3,
    place := bf 12 x 52, acc := bf 4 x 48, aRing := bf 4 x 44, bRing := bf 4 x 40, group := bf 2 x 38,
    side := natBit x 37, sparse := natBit x 36, out := bf 4 x 32,
    n := bf 16 x 80, m := bf 16 x 64,
    hold := bf 4 x 124, fmode := bf 2 x 122, floop := bf 4 x 118, fbase := bf 6 x 112, k := bf 16 x 96,
    rnd := bf 3 x 153, ovf := natBit x 152, sat := natBit x 151, scl := bf 4 x 147, slot := bf 4 x 143,
    epi := bf 8 x 135, btab := bf 7 x 128, w5 := bf 32 x 160 }

/-- The matrix opcode map of R43 over the six units as one number. TRESUME exists only in records (R173, R204), so its
opcode is none of a stream's. -/
def decodeMatrixOp (us : Nat) : Option Instr :=
  match natField us 20 8 with
  | 0x00 => some (.tmma (decTile us))
  | 0x01 => some (.tmmas (decTile us))
  | 0x02 => some (.tzero (decTile us))
  | 0x03 => some (.tacc (decTile us))
  | 0x04 => some (.tepi (decTile us))
  | 0x05 => some (.tbind (decTile us))
  | 0x06 => some (.txpose (decTile us))
  | 0x07 => some (.tsmld (decTile us))
  | 0x08 => some (.tstage (decTile us))
  | 0x09 => some (.tqred (decTile us))
  | _ => none

/-- A matrix word: reserved bits W0 [2:0] and W4 [31:28] are zero (R36, R44). -/
def decodeMatrix (us : Nat) : Option Instr :=
  if natField us 0 3 = 0 ∧ natField us 156 4 = 0 then decodeMatrixOp us else none

/-- The length of a word in 32-bit units, from its first unit alone (R21). -/
def wordUnits (w0 : Nat) : Nat :=
  if natBit w0 31 then (if natBit w0 30 then 6 else 3) else 1

/-- The encoding tables over the units of one word. -/
def decodeRaw (us : List Nat) : Option Instr :=
  match us with
  | [w0] => if natBit w0 31 then none else decodeScalar w0
  | [w0, w1, w2] => if natBit w0 31 && !natBit w0 30 then decodeVector w0 (w1 + 2 ^ 32 * w2) else none
  | [w0, w1, w2, w3, w4, w5] =>
    if natBit w0 31 && natBit w0 30 then
      decodeMatrix (w0 + 2 ^ 32 * w1 + 2 ^ 64 * w2 + 2 ^ 96 * w3 + 2 ^ 128 * w4 + 2 ^ 160 * w5)
    else none
  | _ => none

/-- Decode the units of one word; the list holds exactly the units that its first one calls for. -/
def decode (us : List Nat) : Except Reject Instr :=
  match us with
  | [] => .error .truncated
  | w0 :: _ =>
    if us.length < wordUnits w0 then .error .truncated
    else
      match decodeRaw (us.take (wordUnits w0)) with
      | none => .error .unallocated
      | some i => if wellFormed i then .ok i else .error .illegalField

/-- The 32-bit units of a list of bytes, little-endian (R21); a last incomplete unit is dropped. -/
def bytesUnits : List Byte → List Nat
  | b0 :: b1 :: b2 :: b3 :: bs => leNat [b0, b1, b2, b3] :: bytesUnits bs
  | _ => []

/-- Decode the word at the head of any bytes: the instruction and its length in bytes. -/
def decodeBytes (bs : List Byte) : Except Reject (Instr × Nat) :=
  match bytesUnits bs with
  | [] => .error .truncated
  | w0 :: us =>
    match decode (w0 :: us) with
    | .ok i => .ok (i, 4 * wordUnits w0)
    | .error r => .error r

/-- An engine command's 64 bits, for engine `eng` of cluster `cl` (R92). -/
def decodeAae (cl eng x : Nat) : Option Instr :=
  let i :=
    match natField x 58 6 with
    | 0 => need (natField x 0 58 = 0) (.aend cl eng)
    | 1 => need (natField x 0 36 = 0)
        (.agen cl eng { q := bf 4 x 54, base := bf 4 x 50, pitch := bf 4 x 46, rows := bf 4 x 42, bytes := bf 6 x 36 })
    | 2 => need (natField x 0 37 = 0)
        (.aloop cl eng { dims := bf 3 x 55, l := bf 4 x 51, s := bf 4 x 47, lead := bf 3 x 44, trail := bf 3 x 41,
                         link := natBit x 40, blocks := bf 3 x 37 })
    | 3 => need (natField x 0 50 = 0) (.astep cl eng (bf 4 x 54) (bf 4 x 50))
    | 4 => need (natField x 0 51 = 0) (.awaitCmd cl eng (bf 3 x 55) (bf 4 x 51))
    | _ => none
  match i with
  | some i => if wellFormed i then some i else none
  | none => none

/-- A scalar word: kind 0, E, opcode, operands (R27). -/
def scalarW (e : Bool) (op ops : Nat) : Nat := bitNat e * 2 ^ 30 + op * 2 ^ 23 + ops

/-- A descriptor's 21 bits (R31, R32). -/
def encDesc : Desc → Nat
  | .vreg i st r c => i.toNat * 2 ^ 13 + st.toNat * 2 ^ 10 + r.toNat * 2 ^ 6 + c.toNat
  | .rot i st r c => 1 * 2 ^ 19 + i.toNat * 2 ^ 13 + st.toNat * 2 ^ 10 + r.toNat * 2 ^ 6 + c.toNat
  | .queue q => 2 * 2 ^ 19 + q.toNat * 2 ^ 13
  | .sreg i => 3 * 2 ^ 19 + i.toNat * 2 ^ 13
  | .imm v => 3 * 2 ^ 19 + (v.toNat / 2 ^ 10) * 2 ^ 13 + 7 * 2 ^ 10 + v.toNat % 2 ^ 10

/-- The guard field's 14 bits (R34). -/
def encGuard (g : Guard) : Nat := bitNat g.gk * 2 ^ 13 + g.reg.toNat * 2 ^ 7 + g.bit.toNat * 2 + bitNat g.neg

/-- The three units of a vector word from its opcode and D (R29). -/
def vectorW (h : VHead) (op d : Nat) : List Nat :=
  [2 ^ 31 + bitNat h.e * 2 ^ 29 + bitNat h.s * 2 ^ 28 + op * 2 ^ 19 + encGuard h.guard * 2 ^ 5 + h.ty.toNat * 2 ^ 2 +
      h.rnd.toNat, d % 2 ^ 32, d / 2 ^ 32]

/-- D of each vector shape (R31, R33). -/
def encV3 (w : V3) : Nat := bitNat w.sat * 2 ^ 63 + encDesc w.b * 2 ^ 42 + encDesc w.a * 2 ^ 21 + encDesc w.d
def encV2 (w : V2) : Nat := bitNat w.sat * 2 ^ 63 + encDesc w.a * 2 ^ 21 + encDesc w.d
def encVI (w : VI) : Nat := bitNat w.sat * 2 ^ 63 + w.imm.toNat * 2 ^ 42 + encDesc w.a * 2 ^ 21 + encDesc w.d
def encVM (w : VM) : Nat := w.imm.toNat * 2 ^ 42 + encDesc w.d
def encVC (w : VC) : Nat :=
  (w.bitB.toNat / 8) * 2 ^ 63 + encDesc w.b * 2 ^ 42 + encDesc w.a * 2 ^ 21 + w.regA.toNat * 2 ^ 15 +
    w.bitA.toNat * 2 ^ 9 + w.regB.toNat * 2 ^ 3 + w.bitB.toNat % 8
def encVK (w : VK) : Nat := encDesc w.b * 2 ^ 42 + encDesc w.a * 2 ^ 21 + w.k.toNat * 2 ^ 13
def encKB (w : KB) : Nat := w.b.toNat * 2 ^ 55 + w.a.toNat * 2 ^ 34 + w.d.toNat * 2 ^ 13
def encKU (w : KU) : Nat := w.a.toNat * 2 ^ 34 + w.d.toNat * 2 ^ 13
def encVQ (w : VQ) : Nat := 2 * 2 ^ 19 + w.q.toNat * 2 ^ 13
def encQadv (w : VQ) (c : Desc) : Nat := encDesc c * 2 ^ 21 + 2 * 2 ^ 19 + w.q.toNat * 2 ^ 13

/-- The six units of a matrix word (R36). -/
def tileUnits (op : Nat) (w : TileW) : List Nat :=
  [3 * 2 ^ 30 + bitNat w.e * 2 ^ 29 + bitNat w.s * 2 ^ 28 + op * 2 ^ 20 + encGuard w.guard * 2 ^ 6 + w.level.toNat * 2 ^ 3,
   w.place.toNat * 2 ^ 20 + w.acc.toNat * 2 ^ 16 + w.aRing.toNat * 2 ^ 12 + w.bRing.toNat * 2 ^ 8 + w.group.toNat * 2 ^ 6 +
     bitNat w.side * 2 ^ 5 + bitNat w.sparse * 2 ^ 4 + w.out.toNat,
   w.n.toNat * 2 ^ 16 + w.m.toNat,
   w.hold.toNat * 2 ^ 28 + w.fmode.toNat * 2 ^ 26 + w.floop.toNat * 2 ^ 22 + w.fbase.toNat * 2 ^ 16 + w.k.toNat,
   w.rnd.toNat * 2 ^ 25 + bitNat w.ovf * 2 ^ 24 + bitNat w.sat * 2 ^ 23 + w.scl.toNat * 2 ^ 19 + w.slot.toNat * 2 ^ 15 +
     w.epi.toNat * 2 ^ 7 + w.btab.toNat,
   w.w5.toNat]

/-- The two units of an engine command (R92). -/
def aaeUnits (x : Nat) : List Nat := [x % 2 ^ 32, x / 2 ^ 32]

/-- The operand bits of the scalar sub-formats SR, SI, SU, SB, SJ and SC from their fields (R27). -/
def encSR (rd ra rb fn : Nat) : Nat := rd * 2 ^ 17 + ra * 2 ^ 11 + rb * 2 ^ 5 + fn
def encSI (rd ra imm : Nat) : Nat := rd * 2 ^ 17 + ra * 2 ^ 11 + imm
def encSU (rd imm : Nat) : Nat := rd * 2 ^ 17 + imm
def encSB (ra bit disp : Nat) : Nat := ra * 2 ^ 17 + bit * 2 ^ 11 + disp
def encSJ (disp : Nat) : Nat := disp
def encSC (sd bit ra rb : Nat) : Nat := sd * 2 ^ 18 + bit * 2 ^ 12 + ra * 2 ^ 6 + rb

/-- The unit of a scalar word (R40, R41). -/
def encodeScalar (i : Instr) : Option (List Nat) :=
  match i with
  | .add e d a b => some [scalarW e 0x00 (encSR d.toNat a.toNat b.toNat 0)]
  | .sub e d a b => some [scalarW e 0x00 (encSR d.toNat a.toNat b.toNat 1)]
  | .and e d a b => some [scalarW e 0x00 (encSR d.toNat a.toNat b.toNat 2)]
  | .or e d a b => some [scalarW e 0x00 (encSR d.toNat a.toNat b.toNat 3)]
  | .xor e d a b => some [scalarW e 0x00 (encSR d.toNat a.toNat b.toNat 4)]
  | .andn e d a b => some [scalarW e 0x00 (encSR d.toNat a.toNat b.toNat 5)]
  | .shl e d a b => some [scalarW e 0x00 (encSR d.toNat a.toNat b.toNat 6)]
  | .shr e d a b => some [scalarW e 0x00 (encSR d.toNat a.toNat b.toNat 7)]
  | .sra e d a b => some [scalarW e 0x00 (encSR d.toNat a.toNat b.toNat 8)]
  | .ror e d a b => some [scalarW e 0x00 (encSR d.toNat a.toNat b.toNat 9)]
  | .mul e d a b => some [scalarW e 0x00 (encSR d.toNat a.toNat b.toNat 10)]
  | .mulhs e d a b => some [scalarW e 0x00 (encSR d.toNat a.toNat b.toNat 11)]
  | .mulhu e d a b => some [scalarW e 0x00 (encSR d.toNat a.toNat b.toNat 12)]
  | .divs e d a b => some [scalarW e 0x00 (encSR d.toNat a.toNat b.toNat 13)]
  | .divu e d a b => some [scalarW e 0x00 (encSR d.toNat a.toNat b.toNat 14)]
  | .rems e d a b => some [scalarW e 0x00 (encSR d.toNat a.toNat b.toNat 15)]
  | .remu e d a b => some [scalarW e 0x00 (encSR d.toNat a.toNat b.toNat 16)]
  | .min e d a b => some [scalarW e 0x00 (encSR d.toNat a.toNat b.toNat 17)]
  | .max e d a b => some [scalarW e 0x00 (encSR d.toNat a.toNat b.toNat 18)]
  | .minu e d a b => some [scalarW e 0x00 (encSR d.toNat a.toNat b.toNat 19)]
  | .maxu e d a b => some [scalarW e 0x00 (encSR d.toNat a.toNat b.toNat 20)]
  | .clz e d a => some [scalarW e 0x00 (encSR d.toNat a.toNat 0 21)]
  | .ctz e d a => some [scalarW e 0x00 (encSR d.toNat a.toNat 0 22)]
  | .popc e d a => some [scalarW e 0x00 (encSR d.toNat a.toNat 0 23)]
  | .addi e d a i => some [scalarW e 0x01 (encSI d.toNat a.toNat i.toNat)]
  | .andi e d a i => some [scalarW e 0x02 (encSI d.toNat a.toNat i.toNat)]
  | .ori e d a i => some [scalarW e 0x03 (encSI d.toNat a.toNat i.toNat)]
  | .xori e d a i => some [scalarW e 0x04 (encSI d.toNat a.toNat i.toNat)]
  | .shli e d a n => some [scalarW e 0x05 (encSI d.toNat a.toNat n.toNat)]
  | .shri e d a n => some [scalarW e 0x06 (encSI d.toNat a.toNat n.toNat)]
  | .srai e d a n => some [scalarW e 0x07 (encSI d.toNat a.toNat n.toNat)]
  | .movi e d i => some [scalarW e 0x08 (encSU d.toNat i.toNat)]
  | .movhi e d i => some [scalarW e 0x09 (encSU d.toNat i.toNat)]
  | .bfxu e d a l p => some [scalarW e 0x0A (encSI d.toNat a.toNat (l.toNat * 64 + p.toNat))]
  | .bfxs e d a l p => some [scalarW e 0x0B (encSI d.toNat a.toNat (l.toNat * 64 + p.toNat))]
  | .bfins e d a l p => some [scalarW e 0x0C (encSI d.toNat a.toNat (l.toNat * 64 + p.toNat))]
  | .sel e d a b c => some [scalarW e 0x0D (encSR d.toNat a.toNat b.toNat c.toNat)]
  | .xrd e d x => some [scalarW e 0x0E (encSU d.toNat x.toNat)]
  | .xwr e d x => some [scalarW e 0x0F (encSU d.toNat x.toNat)]
  | .cmpeq e s t a b => some [scalarW e 0x10 (encSC s.toNat t.toNat a.toNat b.toNat)]
  | .cmpne e s t a b => some [scalarW e 0x11 (encSC s.toNat t.toNat a.toNat b.toNat)]
  | .cmplt e s t a b => some [scalarW e 0x12 (encSC s.toNat t.toNat a.toNat b.toNat)]
  | .cmple e s t a b => some [scalarW e 0x13 (encSC s.toNat t.toNat a.toNat b.toNat)]
  | .cmpltu e s t a b => some [scalarW e 0x14 (encSC s.toNat t.toNat a.toNat b.toNat)]
  | .cmpleu e s t a b => some [scalarW e 0x15 (encSC s.toNat t.toNat a.toNat b.toNat)]
  | .bbs e a t d => some [scalarW e 0x18 (encSB a.toNat t.toNat d.toNat)]
  | .bbc e a t d => some [scalarW e 0x19 (encSB a.toNat t.toNat d.toNat)]
  | .jmp e d => some [scalarW e 0x1A (encSJ d.toNat)]
  | .call e d => some [scalarW e 0x1B (encSJ d.toNat)]
  | .jr e d a => some [scalarW e 0x1C (encSR d.toNat a.toNat 0 0)]
  | .syncb e => some [scalarW e 0x1D (encSU 0 0)]
  | .yield e m => some [scalarW e 0x1E (encSU 0 m.toNat)]
  | .exit e c => some [scalarW e 0x1F (encSU 0 c.toNat)]
  | .fadd e d a b => some [scalarW e 0x20 (encSR d.toNat a.toNat b.toNat 0)]
  | .fsub e d a b => some [scalarW e 0x20 (encSR d.toNat a.toNat b.toNat 1)]
  | .fmul e d a b => some [scalarW e 0x20 (encSR d.toNat a.toNat b.toNat 2)]
  | .fdiv e d a b => some [scalarW e 0x20 (encSR d.toNat a.toNat b.toNat 3)]
  | .fsqrt e d a => some [scalarW e 0x20 (encSR d.toNat a.toNat 0 4)]
  | .fmin e d a b => some [scalarW e 0x20 (encSR d.toNat a.toNat b.toNat 5)]
  | .fmax e d a b => some [scalarW e 0x20 (encSR d.toNat a.toNat b.toNat 6)]
  | .fabs e d a => some [scalarW e 0x20 (encSR d.toNat a.toNat 0 7)]
  | .fneg e d a => some [scalarW e 0x20 (encSR d.toNat a.toNat 0 8)]
  | .fmac e d a b => some [scalarW e 0x20 (encSR d.toNat a.toNat b.toNat 9)]
  | .fcmpeq e s t a b => some [scalarW e 0x21 (encSC s.toNat t.toNat a.toNat b.toNat)]
  | .fcmplt e s t a b => some [scalarW e 0x22 (encSC s.toNat t.toNat a.toNat b.toNat)]
  | .fcmple e s t a b => some [scalarW e 0x23 (encSC s.toNat t.toNat a.toNat b.toNat)]
  | .fcmpun e s t a b => some [scalarW e 0x24 (encSC s.toNat t.toNat a.toNat b.toNat)]
  | .fcvt e d a t s x => some [scalarW e 0x25 (encSR d.toNat a.toNat (bitNat t * 16 + s.toNat) x.toNat)]
  | .ld8 e d a i => some [scalarW e 0x30 (encSI d.toNat a.toNat i.toNat)]
  | .ld16 e d a i => some [scalarW e 0x31 (encSI d.toNat a.toNat i.toNat)]
  | .ld32 e d a i => some [scalarW e 0x32 (encSI d.toNat a.toNat i.toNat)]
  | .ld64 e d a i => some [scalarW e 0x33 (encSI d.toNat a.toNat i.toNat)]
  | .ld8s e d a i => some [scalarW e 0x34 (encSI d.toNat a.toNat i.toNat)]
  | .ld16s e d a i => some [scalarW e 0x35 (encSI d.toNat a.toNat i.toNat)]
  | .ld32s e d a i => some [scalarW e 0x36 (encSI d.toNat a.toNat i.toNat)]
  | .ldx e d a b p s z => some [scalarW e 0x37 (encSR d.toNat a.toNat b.toNat (p.toNat * 8 + bitNat s * 4 + z.toNat))]
  | .st8 e d a i => some [scalarW e 0x38 (encSI d.toNat a.toNat i.toNat)]
  | .st16 e d a i => some [scalarW e 0x39 (encSI d.toNat a.toNat i.toNat)]
  | .st32 e d a i => some [scalarW e 0x3A (encSI d.toNat a.toNat i.toNat)]
  | .st64 e d a i => some [scalarW e 0x3B (encSI d.toNat a.toNat i.toNat)]
  | .stx e d a b p z => some [scalarW e 0x3C (encSR d.toNat a.toNat b.toNat (p.toNat * 8 + z.toNat))]
  | .lda e d a z c => some [scalarW e 0x3D (encSR d.toNat a.toNat 0 (z.toNat * 8 + c.toNat))]
  | .stl e d a z c => some [scalarW e 0x3E (encSR d.toNat a.toNat 0 (z.toNat * 8 + c.toNat))]
  | .stH e d a z => some [scalarW e 0x3F (encSR d.toNat a.toNat 0 (z.toNat * 8))]
  | .amo e d a b z o => some [scalarW e 0x40 (encSR d.toNat a.toNat b.toNat (bitNat z * 16 + o.toNat))]
  | .cas e d a b z => some [scalarW e 0x41 (encSR d.toNat a.toNat b.toNat (bitNat z * 16))]
  | .amoBins e d a b n => some [scalarW e 0x42 (encSR d.toNat a.toNat b.toNat (bitNat n))]
  | .axadd e d a b => some [scalarW e 0x43 (encSR d.toNat a.toNat b.toNat 0)]
  | .axrd e d a => some [scalarW e 0x44 (encSR d.toNat a.toNat 0 0)]
  | .axclr e d a => some [scalarW e 0x45 (encSR d.toNat a.toNat 0 0)]
  | .fence e g s => some [scalarW e 0x46 (encSU 0 (bitNat g * 8 + s.toNat))]
  | .tlwait e d a s c => some [scalarW e 0x47 (encSI d.toNat a.toNat (s.toNat * 8 + c.toNat))]
  | .tlget e d v c => some [scalarW e 0x48 (encSI d.toNat 0 (bitNat v * 8 + c.toNat))]
  | .monitor e a => some [scalarW e 0x49 (encSR 0 a.toNat 0 0)]
  | .mwait e d a => some [scalarW e 0x4A (encSR d.toNat a.toNat 0 0)]
  | .bar e d i s => some [scalarW e 0x4B (encSU d.toNat (i.toNat * 8 + s.toNat))]
  | .xcopyLin e d a => some [scalarW e 0x4C (encSR d.toNat a.toNat 0 0)]
  | .xcopyNest e d a => some [scalarW e 0x4C (encSR d.toNat a.toNat 0 1)]
  | .xcopyMap e d a => some [scalarW e 0x4C (encSR d.toNat a.toNat 0 2)]
  | .xcopyUnmap e d a => some [scalarW e 0x4C (encSR d.toNat a.toNat 0 3)]
  | .xcopyWb e d a => some [scalarW e 0x4C (encSR d.toNat a.toNat 0 4)]
  | .xcopyHLin e d a => some [scalarW e 0x4D (encSR d.toNat a.toNat 0 0)]
  | .xcopyHNest e d a => some [scalarW e 0x4D (encSR d.toNat a.toNat 0 1)]
  | .put e d a => some [scalarW e 0x4E (encSR d.toNat a.toNat 0 0)]
  | .famo e d a b z o => some [scalarW e 0x4F (encSR d.toNat a.toNat b.toNat (bitNat z * 16 + o.toNat))]
  | .req e d a => some [scalarW e 0x50 (encSR d.toNat a.toNat 0 0)]
  | .hopen e d n => some [scalarW e 0x58 (encSU d.toNat (bitNat n))]
  | .hset e d a => some [scalarW e 0x59 (encSR d.toNat a.toNat 0 0)]
  | .hget e d s => some [scalarW e 0x5A (encSU d.toNat s.toNat)]
  | .hstat e d a => some [scalarW e 0x5B (encSR d.toNat a.toNat 0 0)]
  | .hvec e d a p => some [scalarW e 0x5C (encSR d.toNat a.toNat 0 p.toNat)]
  | .hresCf e d a => some [scalarW e 0x5D (encSR d.toNat a.toNat 0 0)]
  | .hresRf e d a => some [scalarW e 0x5E (encSR d.toNat a.toNat 0 0)]
  | .spawn e d a b c => some [scalarW e 0x60 (encSR d.toNat a.toNat b.toNat c.toNat)]
  | .launch e d a => some [scalarW e 0x61 (encSR d.toNat a.toNat 0 0)]
  | .ttask e d a => some [scalarW e 0x62 (encSR d.toNat a.toNat 0 0)]
  | .sqpush e d a n q => some [scalarW e 0x63 (encSR d.toNat a.toNat 0 (bitNat n * 8 + q.toNat))]
  | .sqpop e d a n q => some [scalarW e 0x64 (encSR d.toNat a.toNat 0 (bitNat n * 8 + q.toNat))]
  | .lset e a s l => some [scalarW e 0x65 (encSI 0 a.toNat (s.toNat * 256 + l.toNat * 16))]
  | .ago e d m g => some [scalarW e 0x66 (encSU d.toNat (bitNat m * 4 + g.toNat))]
  | .oclaim e d a q => some [scalarW e 0x67 (encSR d.toNat a.toNat 0 q.toNat)]
  | .orelease e q => some [scalarW e 0x68 (encSR 0 0 0 q.toNat)]
  | .admitRq e d a => some [scalarW e 0x69 (encSR d.toNat a.toNat 0 0)]
  | .apin e d a => some [scalarW e 0x6A (encSR d.toNat a.toNat 0 0)]
  | .aunpin e d a => some [scalarW e 0x6B (encSR d.toNat a.toNat 0 0)]
  | .apage e d a b => some [scalarW e 0x6C (encSR d.toNat a.toNat b.toNat 0)]
  | .apub e d a b => some [scalarW e 0x6D (encSR d.toNat a.toNat b.toNat 0)]
  | .ctxsv d a b => some [scalarW true 0x6E (encSR d.toNat a.toNat b.toNat 0)]
  | .ctxrs d a => some [scalarW true 0x6F (encSR d.toNat a.toNat 0 0)]
  | .snap e d t => some [scalarW e 0x70 (encSU d.toNat t.toNat)]
  | .tret e p s => some [scalarW e 0x71 (encSU 0 (bitNat p * 2 + bitNat s))]
  | .nop e ops => some [scalarW e 0x7C ops.toNat]
  | .hintp e ops => some [scalarW e 0x7D ops.toNat]
  | .hintb e ops => some [scalarW e 0x7E ops.toNat]
  | .hintx e ops => some [scalarW e 0x7F ops.toNat]
  | .xloopStart e d => some [scalarW e 0x0F (encSU d.toNat 0x020)]
  | .xloopAbandon e d => some [scalarW e 0x0F (encSU d.toNat 0x020)]
  | .xtenantWrite e d => some [scalarW e 0x0F (encSU d.toNat 0x005)]
  | _ => none

/-- The units of a vector word (R42). -/
def encodeVector (i : Instr) : Option (List Nat) :=
  match i with
  | .vadd w => some (vectorW w.h 0x000 (encV3 w))
  | .vsub w => some (vectorW w.h 0x001 (encV3 w))
  | .vmul w => some (vectorW w.h 0x002 (encV3 w))
  | .vfma w => some (vectorW w.h 0x003 (encV3 w))
  | .vfms w => some (vectorW w.h 0x004 (encV3 w))
  | .vmin w => some (vectorW w.h 0x005 (encV3 w))
  | .vmax w => some (vectorW w.h 0x006 (encV3 w))
  | .vabs w => some (vectorW w.h 0x007 (encV2 w))
  | .vneg w => some (vectorW w.h 0x008 (encV2 w))
  | .vmov w => some (vectorW w.h 0x009 (encV2 w))
  | .vdiv w => some (vectorW w.h 0x00A (encV3 w))
  | .vmulh w => some (vectorW w.h 0x00C (encV3 w))
  | .vminu w => some (vectorW w.h 0x00D (encV3 w))
  | .vmaxu w => some (vectorW w.h 0x00E (encV3 w))
  | .vand w => some (vectorW w.h 0x010 (encV3 w))
  | .vor w => some (vectorW w.h 0x011 (encV3 w))
  | .vxor w => some (vectorW w.h 0x012 (encV3 w))
  | .vandn w => some (vectorW w.h 0x013 (encV3 w))
  | .vnot w => some (vectorW w.h 0x014 (encV2 w))
  | .vshl w => some (vectorW w.h 0x015 (encV3 w))
  | .vshr w => some (vectorW w.h 0x016 (encV3 w))
  | .vsra w => some (vectorW w.h 0x017 (encV3 w))
  | .vaddi w => some (vectorW w.h 0x018 (encVI w))
  | .vmuli w => some (vectorW w.h 0x019 (encVI w))
  | .vmini w => some (vectorW w.h 0x01A (encVI w))
  | .vmaxi w => some (vectorW w.h 0x01B (encVI w))
  | .vshli w => some (vectorW w.h 0x01C (encVI w))
  | .vshri w => some (vectorW w.h 0x01D (encVI w))
  | .vsrai w => some (vectorW w.h 0x01E (encVI w))
  | .vmovi w => some (vectorW w.h 0x01F (encVM w))
  | .vcmpEq w => some (vectorW w.h 0x040 (encVC w))
  | .vcmpNe w => some (vectorW w.h 0x041 (encVC w))
  | .vcmpLt w => some (vectorW w.h 0x042 (encVC w))
  | .vcmpLe w => some (vectorW w.h 0x043 (encVC w))
  | .vcmpGt w => some (vectorW w.h 0x044 (encVC w))
  | .vcmpGe w => some (vectorW w.h 0x045 (encVC w))
  | .vcmpUn w => some (vectorW w.h 0x046 (encVC w))
  | .vcmpLtu w => some (vectorW w.h 0x047 (encVC w))
  | .vcmpLeu w => some (vectorW w.h 0x048 (encVC w))
  | .vkcmpEq w => some (vectorW w.h 0x050 (encVK w))
  | .vkcmpNe w => some (vectorW w.h 0x051 (encVK w))
  | .vkcmpLt w => some (vectorW w.h 0x052 (encVK w))
  | .vkcmpLe w => some (vectorW w.h 0x053 (encVK w))
  | .vkcmpGt w => some (vectorW w.h 0x054 (encVK w))
  | .vkcmpGe w => some (vectorW w.h 0x055 (encVK w))
  | .vkcmpUn w => some (vectorW w.h 0x056 (encVK w))
  | .kand w => some (vectorW w.h 0x080 (encKB w))
  | .kor w => some (vectorW w.h 0x081 (encKB w))
  | .kxor w => some (vectorW w.h 0x082 (encKB w))
  | .kandn w => some (vectorW w.h 0x083 (encKB w))
  | .knot w => some (vectorW w.h 0x084 (encKU w))
  | .kmov w => some (vectorW w.h 0x085 (encKU w))
  | .vselk k w => some (vectorW w.h (0x088 + k.toNat) (encV3 w))
  | .vcvt w => some (vectorW w.h 0x0C0 (encVI w))
  | .vpack4 w => some (vectorW w.h 0x0C1 (encV2 w))
  | .vunpk4 w => some (vectorW w.h 0x0C2 (encV2 w))
  | .vrotr w => some (vectorW w.h 0x100 (encVI w))
  | .vrotc w => some (vectorW w.h 0x101 (encVI w))
  | .vbcr w => some (vectorW w.h 0x102 (encVI w))
  | .vbcc w => some (vectorW w.h 0x103 (encVI w))
  | .vredrAdd w => some (vectorW w.h 0x104 (encV2 w))
  | .vredrMax w => some (vectorW w.h 0x105 (encV2 w))
  | .vredrMin w => some (vectorW w.h 0x106 (encV2 w))
  | .vredcAdd w => some (vectorW w.h 0x107 (encV2 w))
  | .vredcMax w => some (vectorW w.h 0x108 (encV2 w))
  | .vredcMin w => some (vectorW w.h 0x109 (encV2 w))
  | .vxpose w => some (vectorW w.h 0x10A (encV2 w))
  | .vshuf w => some (vectorW w.h 0x10B (encV3 w))
  | .vexp2 w => some (vectorW w.h 0x140 (encV2 w))
  | .vlog2 w => some (vectorW w.h 0x141 (encV2 w))
  | .vrcp w => some (vectorW w.h 0x142 (encV2 w))
  | .vrsq w => some (vectorW w.h 0x143 (encV2 w))
  | .vsqrt w => some (vectorW w.h 0x144 (encV2 w))
  | .vsin w => some (vectorW w.h 0x145 (encV2 w))
  | .vcos w => some (vectorW w.h 0x146 (encV2 w))
  | .vtanh w => some (vectorW w.h 0x147 (encV2 w))
  | .vsigm w => some (vectorW w.h 0x148 (encV2 w))
  | .vgelu w => some (vectorW w.h 0x149 (encV2 w))
  | .vsilu w => some (vectorW w.h 0x14A (encV2 w))
  | .qadv w c => some (vectorW w.h 0x180 (encQadv w c))
  | .qclr w => some (vectorW w.h 0x181 (encVQ w))
  | .qflush w => some (vectorW w.h 0x182 (encVQ w))
  | _ => none

/-- The units of a matrix word of a stream (R43). -/
def encodeMatrix (i : Instr) : Option (List Nat) :=
  match i with
  | .tmma w => some (tileUnits 0x00 w)
  | .tmmas w => some (tileUnits 0x01 w)
  | .tzero w => some (tileUnits 0x02 w)
  | .tacc w => some (tileUnits 0x03 w)
  | .tepi w => some (tileUnits 0x04 w)
  | .tbind w => some (tileUnits 0x05 w)
  | .txpose w => some (tileUnits 0x06 w)
  | .tsmld w => some (tileUnits 0x07 w)
  | .tstage w => some (tileUnits 0x08 w)
  | .tqred w => some (tileUnits 0x09 w)
  | _ => none

/-- The units of an engine command (R92). -/
def encodeAae (i : Instr) : Option (List Nat) :=
  match i with
  | .aend _ _ => some (aaeUnits 0)
  | .agen _ _ f => some (aaeUnits (1 * 2 ^ 58 + f.q.toNat * 2 ^ 54 + f.base.toNat * 2 ^ 50 + f.pitch.toNat * 2 ^ 46 + f.rows.toNat * 2 ^ 42 + f.bytes.toNat * 2 ^ 36))
  | .aloop _ _ f => some (aaeUnits (2 * 2 ^ 58 + f.dims.toNat * 2 ^ 55 + f.l.toNat * 2 ^ 51 + f.s.toNat * 2 ^ 47 + f.lead.toNat * 2 ^ 44 + f.trail.toNat * 2 ^ 41 + bitNat f.link * 2 ^ 40 + f.blocks.toNat * 2 ^ 37))
  | .astep _ _ a b => some (aaeUnits (3 * 2 ^ 58 + a.toNat * 2 ^ 54 + b.toNat * 2 ^ 50))
  | .awaitCmd _ _ c r => some (aaeUnits (4 * 2 ^ 58 + c.toNat * 2 ^ 55 + r.toNat * 2 ^ 51))
  | _ => none

/-- The units of a well-formed instruction's word; an event has none. -/
def encode (i : Instr) : List Nat :=
  match encodeScalar i with
  | some us => us
  | none =>
    match encodeVector i with
    | some us => us
    | none =>
      match encodeMatrix i with
      | some us => us
      | none =>
        match encodeAae i with
        | some us => us
        | none => []

/-- W0 of an instruction's word, zero for an event. -/
def headUnit (i : Instr) : Nat := (encode i).headD 0

/-- The instruction that the decoder reads from a word whose bits are `w`, numbered from the least significant bit of
the first unit; the bits above `nbits` are zero. -/
def decodeTableWord (nbits w : Nat) : Option Instr :=
  let x := w % 2 ^ nbits
  match decode [natField x 0 32, natField x 32 32, natField x 64 32, natField x 96 32, natField x 128 32, natField x 160 32] with
  | .ok i => some i
  | .error _ => none

end Sys2Proof
end

