-- ==== Sys2Proof/Config.lean ====
section
/-! DEFINITION. What the part fixes, and the free values: constants without a body for every value that the spec
leaves open, so that nothing can be proved about them. A free value that may differ from use to use takes a number
that the state's counter `fresh` supplies. -/

namespace Sys2Proof.Config

/-- A register value the spec does not state, by its draw. DESIGN CHOICE (log entry 5). -/
opaque freeWord : Nat → Word
/-- A byte the spec does not state, by its draw and its position. -/
opaque freeByte : Nat → Nat → Byte
/-- The bits of a vector block whose contents the spec does not state, by its draw. -/
opaque freeBlock : Nat → BitVec 16384
/-- A stepping, fused at manufacture (R20). -/
opaque fusedStep : BitVec 4
/-- Fuses that give the number of enabled quads (R20). -/
opaque fusedQuads : Nat
/-- Fuses that give the number of enabled cores (R20). -/
opaque fusedCores : Nat
/-- A fresh random key of the Docent (R335), by its draw. -/
opaque randomKey : Nat → BitVec 256
/-- The attestation key's ECDSA P-384 signature of a message (R358, R362), by its draw. -/
opaque signature : Nat → List Byte → BitVec 768
/-- Whether a firmware image carries a valid Balqua signature (R359). -/
opaque balquaSigned : BitVec 384 → BitVec 768 → Bool
/-- Bytes that the expander behind each CXL port holds (R372). -/
opaque annexBytes : Nat → Nat
/-- The body of an image's private ENGINE part (R338), byte by byte, by the image's place and count. -/
opaque engineByte : Nat → Nat → Nat → Byte
/-- The digest of the firmware image that the Docent's ROM finds at boot (R358). -/
opaque bootDigest : BitVec 384
/-- Whether the host link answers an AtomicOp with a Successful completion, by its draw (R236). -/
opaque hostAtomicOk : Nat → Bool

/-- The number of enabled quads, 1 to 32 (R20). -/
def quads : Nat := 1 + fusedQuads % 32
/-- The number of enabled cores, 1 to 128 (R20). -/
def cores : Nat := 1 + fusedCores % 128

end Sys2Proof.Config
end

