-- ==== Sys2Proof/Machine/Sparse.lean ====
section
/-! DEFINITION. Sparse maps as plain data: lists of (key, value) pairs with strictly rising keys. Memory, register
files and tables of units are held so; what an unlisted key reads as is said where a map is read. -/

namespace Sys2Proof.Machine

/-- The value listed at a key. -/
def smGet {α : Type} : List (Nat × α) → Nat → Option α
  | [], _ => none
  | (k, v) :: m, key => if key = k then some v else smGet m key

/-- The value at a key, `d` where none is listed. -/
def smGetD {α : Type} (m : List (Nat × α)) (key : Nat) (d : α) : α :=
  match smGet m key with
  | some v => v
  | none => d

/-- List `v` at a key. -/
def smPut {α : Type} : List (Nat × α) → Nat → α → List (Nat × α)
  | [], key, v => [(key, v)]
  | (k, w) :: m, key, v =>
    if key = k then (key, v) :: m else if key < k then (key, v) :: (k, w) :: m else (k, w) :: smPut m key v

/-- List many values at once, their keys rising strictly. -/
def smPutMany {α : Type} : List (Nat × α) → List (Nat × α) → List (Nat × α)
  | [], us => us
  | (k, w) :: m, us =>
    us.takeWhile (fun u => decide (u.1 < k)) ++
      match us.dropWhile (fun u => decide (u.1 < k)) with
      | (k', v) :: rest => if k' = k then (k, v) :: smPutMany m rest else (k, w) :: smPutMany m ((k', v) :: rest)
      | [] => (k, w) :: m

/-- List nothing at a key. -/
def smDel {α : Type} : List (Nat × α) → Nat → List (Nat × α)
  | [], _ => []
  | (k, w) :: m, key => if key = k then smDel m key else (k, w) :: smDel m key

/-- Write a key in canonical form: the value `d` that an unlisted key reads as is not listed. -/
def smSet {α : Type} [DecidableEq α] (m : List (Nat × α)) (key : Nat) (v d : α) : List (Nat × α) :=
  if v = d then smDel m key else smPut m key v

/-- Keys rise strictly, each above `lo`. -/
def smSorted {α : Type} : Nat → List (Nat × α) → Bool
  | _, [] => true
  | lo, (k, _) :: m => decide (lo ≤ k) && smSorted (k + 1) m

/-- No listed value is the one that an unlisted key reads as. -/
def smProper {α : Type} [DecidableEq α] (d : α) : List (Nat × α) → Bool
  | [] => true
  | (_, v) :: m => decide (v ≠ d) && smProper d m

/-- The canonical form of a map whose unlisted keys read as `d`. -/
def smWf {α : Type} [DecidableEq α] (d : α) (m : List (Nat × α)) : Bool := smSorted 0 m && smProper d m

/-- Items of a list that meet a test. -/
def countIf {α : Type} (f : α → Bool) (l : List α) : Nat := (l.filter f).length

/-- Keep the entries whose key passes the test. -/
def smKeep {α : Type} (p : Nat → Bool) (m : List (Nat × α)) : List (Nat × α) := m.filter fun e => p e.1

end Sys2Proof.Machine
end

