-- ==== Sys2Proof/Machine/Types.lean ====
section
/-! DEFINITION. The plain data that the machine's state is made of: contexts with their registers and engines, the
structures of clusters, cores and dies, and the records of the package. -/

namespace Sys2Proof.Machine

/-- A vector register or data-queue block: 16 rows of 128 bytes, row 0 lowest (R10, R91). -/
abbrev Block := BitVec 16384
/-- An element mask: 16 rows of 128 bits (R10, R158). -/
abbrev KMask := BitVec 2048
/-- A row of 256 bytes of an operand slot (R168). -/
abbrev SlotRow := BitVec 2048
/-- A signature of written lines (R217). -/
abbrev Sig := BitVec 1024
/-- The states of a hardware context (R55). -/
inductive RunState where
  | free | dormant | runnable | waiting | saving | stopped
  deriving DecidableEq, Repr

/-- What a context waits for: in WAITING, or at a word that stalls without leaving RUNNABLE (R55). -/
inductive Wait where
  /-- MWAIT on the context's watch: whether the word ends its bundle, and its status register (R244). -/
  | monitor (e : Bool) (d : Nat)
  /-- BAR: the barrier's key, whether the word ends its bundle, its scope (R245). -/
  | barrier (key : Nat) (e : Bool) (scope : Nat)
  /-- TLWAIT until the counter reaches the value (R241). -/
  | counter (c n : Nat)
  /-- Until every engine operation that the context has issued has completed (R240), for EXIT but for its halted access
  engines (R79). -/
  | engines
  | exit
  /-- Until the context's matrix words have completed or stopped (R340, R345). -/
  | saves
  /-- Until no matrix word uses a ring (R171). -/
  | ring (q : Nat)
  /-- A synced bundle's group (R26). -/
  | sync
  /-- SQPUSH until the stage queue has room (R76). -/
  | queueRoom (q : Nat)
  /-- SQPOP until the stage queue has an entry or is closed (R76). -/
  | queueEntry (q : Nat)
  /-- A stall on empty or full data queues (R100, R101): each queue of the word with the blocks it needs, 0 for one it writes. -/
  | dataQueue (qs : List (Nat × Nat))
  /-- QFLUSH until every block entered has been performed (R101). -/
  | flush (q : Nat)
  /-- A stall of a matrix word on its rings or on the eight words in flight (R176): the physical quads of a quad-level word,
  which take no new task child meanwhile (R194), the filled slots it needs of each ring it reads, and the rings it fills. -/
  | matrix (quads : List Nat) (reads : List (Nat × Nat)) (writes : List Nat)
  /-- ST.H for version space on the home of a line: the store's address (R263). -/
  | versionSpace (line : Nat) (va : Word)
  /-- A gateway buffer slot (R249). -/
  | gatewaySlot
  /-- A delayed access to a line that a resolve changes (R267). -/
  | resolve
  deriving DecidableEq, Repr

/-- A timeline counter: the number last issued and the numbers not yet complete (R220, R242). -/
structure Counter where
  issued : Nat := 0
  pending : List Nat := []
  deriving DecidableEq, Repr

/-- The states of an access engine (R97). -/
inductive EngState where
  | idle | running | halted | waiting
  deriving DecidableEq, Repr

/-- An ALOOP in progress: its fields as read when it started, and how many blocks of its stream have been moved,
LEAD and TRAIL pads included (R83, R94). -/
structure Nest where
  f : ALoopF
  base : Word
  /-- Row pitch of its AGEN (R93). -/
  pitch : Word
  trips : List Nat
  strides : List Word
  pos : Nat
  /-- The cut of a linked stream: admitted iterations, once a drain has fixed them (R94). -/
  cut : Option Nat := none
  /-- The loop has refilled before every block up to the cut was moved: the stream refills once they are (R94). -/
  again : Bool := false
  /-- Real blocks of the nest already moved before the last refill (R94). -/
  skip : Nat := 0
  deriving DecidableEq, Repr

/-- One block of a data queue. A block of a read engine keeps where its engine stood before it, for R99's rewind, and
the register values that ASTEPs made since have replaced; a block for the write engine has its row mask and whether it
is a skipped block (R35). `bad` lists its poisoned 8-byte units, 16 a row (R347). -/
structure QBlock where
  data : Block
  rows : BitVec 16 := 0xFFFF
  skipped : Bool := false
  bad : List Nat := []
  cmd : Word := 0
  nest : Option Nest := none
  gen : Option AGenF := none
  undo : List (BitVec 4 × Word) := []
  /-- The start of the stream loop in which a block of the write engine was entered (R94). -/
  loop : Nat := 0
  deriving DecidableEq, Repr

/-- An access engine of a cluster (R91 to R99). -/
structure Engine where
  st : EngState := .idle
  /-- Cause of a halt, 0 for a halt by QCLR (R97). -/
  cause : Nat := 0
  /-- Faulting address of a halt. -/
  va : Word := 0
  /-- Number of the block that the engine has halted at, none for a halt at a command (R92, R98). -/
  haltNum : Option Nat := none
  /-- Address of the current command. -/
  cmd : Word := 0
  /-- The AGEN in force. -/
  gen : Option AGenF := none
  /-- The ALOOP in progress. -/
  nest : Option Nest := none
  /-- The view and tenant of the AGO that started or resumed the program (R262, R283). -/
  view : Nat := 0
  tenant : Nat := 0
  /-- The counter and value that an AWAIT holds for (R95). -/
  awaits : Option (Nat × Nat) := none
  /-- Discarded blocks to be fetched again first, each with its handle (R99, R101). -/
  redo : List (Nat × QBlock) := []
  /-- Number of the discarded block whose fetch has failed: the engine is halted at it (R98). -/
  redoNum : Option Nat := none
  /-- Number of a block that was given up before its access was performed: the next block takes it (R99). -/
  spare : Option Nat := none
  /-- A drain's cut that falls on the engine's next linked ALOOP, and whether the loop has refilled since (R94). -/
  cutAt : Option (Nat × Bool) := none
  deriving DecidableEq, Repr

/-- The number of the block at which an engine stands halted, none at a command (R98). -/
def Engine.haltAt (e : Engine) : Option Nat := match e.redoNum with | some k => some k | none => e.haltNum

/-- What a queue handle is bound to (R91, R169). -/
inductive Handle where
  | data (eng : Nat) (blocks : List QBlock)
  | ring (slots : List Nat) (p c f : Nat)
  deriving DecidableEq, Repr

/-- A halt with its trap cause, address and direction, and the context and address of the word that it was delivered at:
the operation restarts when that word executes again (R247). -/
structure Halt where
  cause : Nat
  va : Word
  write : Bool
  told : Option (Nat × Nat) := none
  deriving DecidableEq, Repr

/-- The events of the opcode table that the machine itself brings about, each the event of the same name. -/
inductive Event where
  | syncedBundleIssue (core lid serial : Nat)
  | loopPassEnd (ctx : Nat)
  | aaeBlock (cl eng : Nat)
  | kStep (ctx num : Nat)
  | tstageSlot (ctx num : Nat)
  | copyLine (ctx num : Nat)
  | mapFill (ctx region granule : Nat)
  | waitSatisfied (ctx : Nat)
  | waitTimeout (ctx : Nat)
  | hypcapTimeout (ctx : Nat)
  | orphan (ctx : Nat)
  | ckpt (ctx : Nat)
  | deadlineExpiry (ctx : Nat)
  | imageWritten (ctx : Nat)
  | schedulerPass (die : Nat)
  | handlerWake (cl : Nat)
  | gatewaySlotGrant (ctx num : Nat)
  | portRequestPass (core tenant : Nat)
  | tokenRefill
  | signatureRotation
  | taskSelect (u : UnitId)
  | childComplete (task child : Nat)
  | childFault (task child : Nat)
  | herbariumFill (die : Nat) (k : SiteKey)
  | resolveApply (part : Nat)
  | sweep (part node : Nat)
  | vitrineFrameBegin (core : Nat)
  | vitrineGrace (core : Nat)
  | vitrineEdge (core : Nat)
  | scrubStart (frame : Nat)
  | scrubComplete (frame : Nat)
  | frameReleaseComplete (frame : Nat)
  | reportAppend (part : Nat)
  | usageLogSignPeriodic (tenant : Nat)
  | snapshotFire
  | snapshotLatch
  | tresume (task : Nat)
  | packageReset
  deriving DecidableEq, Repr

/-- What an operation of the copy engine does (R185, R211, R246). -/
inductive CopyKind where
  /-- LIN and NEST: source and destination, scratchpad-local flags, bytes per row, trips and strides, and a NEST's
  register base. -/
  | move (src dst : Word) (sloc dloc : Bool) (len : Nat) (trips : List Nat) (ss ds : List Word) (l : Option Nat)
  /-- First-touch fill of a granule of a map region. -/
  | fill (region granule : Nat)
  /-- Write-back of the granules of a region that are left; `unmap` frees it after. -/
  | writeBack (region : Nat) (unmap : Bool) (left : List Nat)
  /-- TSTAGE: the word, its pitch, whether it is guarded off, and its order of issue among the matrix words. -/
  | stage (w : TileW) (pitch : Word) (off : Bool) (stamp : Nat)
  deriving DecidableEq, Repr

/-- An operation of the copy engine: its number, its agent, its progress in bytes (or slots, or granule lines), and a
halt. -/
structure CopyOp where
  num : Nat
  kind : CopyKind
  view : Nat
  tagged : Bool
  tenant : Nat
  pos : Nat := 0
  /-- The rest of the current row as read from `pos` on, each byte with its poison, and the halt that follows it: a row
  is read whole before it is written (R246). -/
  buf : Option (List (Byte × Bool) × Option Halt) := none
  halt : Option Halt := none
  /-- Cycle at which a wait for version space ends (R263). -/
  due : Option Nat := none
  /-- Pieces of a TSTAGE drain in sealed blocks that a later slot of the command writes too: each block is written once
  (R293). Lines of a map write-back, which are seen outside once its number completes (R211). -/
  kept : List (Word × List (Byte × Bool)) := []
  deriving DecidableEq, Repr

/-- A fabric operation at its source (R249, R250). -/
structure FabOp where
  num : Nat
  /-- Its place in the issue order of its context, destination and class, and in that of the package (R226). -/
  seq : Nat
  order : Nat
  cls : Nat
  part : Nat
  peer : Nat
  logical : Nat
  tenant : Nat
  dva : Word
  sva : Word
  len : Nat
  handler : Option (Nat × Nat)
  atomic : Option (Nat × Nat × Word)
  sent : Nat := 0
  acked : Nat := 0
  /-- It holds the buffer slot of its next packet (R298). -/
  slot : Bool := false
  halt : Option Halt := none
  deriving DecidableEq, Repr

/-- A stream matrix word in flight: its opcode, fields, issuing state and progress (R176, R177). -/
structure MxOp where
  num : Nat
  op : Nat
  w : TileW
  fte : Word
  guardOff : Bool
  key : Nat
  tenant : Nat
  /-- Physical cores of the word: its own, or a quad's in block order. -/
  cores : List Nat
  /-- Order of arrival at the array (R188). -/
  stamp : Nat
  step : Nat := 0
  /-- A TEPI's groups that failed, and those that are corrected or have failed: bit 128j + g for group g of column block j
  (R192). -/
  failed : Nat := 0
  fixed : Nat := 0
  /-- It had stopped for a save and is back: it goes ahead of every younger word of its context (R205). -/
  restored : Bool := false
  deriving DecidableEq, Repr

/-- The stage instance that a context belongs to (R62, R63). -/
structure Member where
  lid : Nat
  stage : Nat
  serial : Nat
  index : Nat
  deriving DecidableEq, Repr

/-- An ADMIT in progress whose checks 2 to 4 a home package makes: the peer asked, the descriptor, the partition, the
replica entry's tenant, and the answer once it has come: its status and the pinned version (R319). -/
structure HomeAdmit where
  peer : Nat
  desc : List Byte
  part : Nat
  logTenant : Nat
  /-- The home by its logical number. -/
  home : Nat
  answer : Option (Nat × Option VerInfo) := none
  deriving DecidableEq, Repr

/-- The rest of a bundle that a trap or a TRET.STOP has left part-way: the word it goes on at, and its control transfer
(R24, R25). -/
structure HeldBundle where
  next : Word
  jump : Option Word
  back : List (Option Word)
  deriving DecidableEq, Repr

/-- What the trap of a handler keeps for its return: the rest of the bundle, and what is left of a QADV that the trap has
taken out of its wait, with its address (R25, R101). -/
structure Frame where
  rest : Option HeldBundle := none
  adv : Option (Word × Nat) := none
  deriving DecidableEq, Repr

/-- A hardware context: a light one uses the scalar part only (R10). -/
structure Ctx where
  run : RunState := .free
  /-- What a WAITING context waits for, or what the word of a RUNNABLE one stalls on (R55). -/
  wait : Option Wait := none
  /-- Cycle at which a timed wait ends; a tagged store that is tried again keeps it (R244, R263). -/
  due : Option Nat := none
  pc : Word := 0
  /-- The next word is inside a bundle whose older words have retired (R25). -/
  mid : Bool := false
  /-- The control transfer made by the bundle's scalar word (R24). -/
  jump : Option Word := none
  /-- The transfer is a return into the rest of a bundle: the control transfer of that bundle, and so on (R25). -/
  back : List (Option Word) := []
  /-- What the traps of the handlers that have not returned keep, the last first (R25, R326). -/
  held : List Frame := []
  /-- The bundle that the context's stop has left part-way (R25). -/
  stopHeld : Option HeldBundle := none
  /-- The context's stop is a trap's: it goes on at XTRAPPC (R329). -/
  trapped : Bool := false
  /-- The context's group has met and its synced bundle issues (R26). -/
  syncGo : Bool := false
  s : List (Nat × Word) := []
  xstat : Word := 0
  xprio : Word := 0
  xdeadline : Word := 0x10000
  xsched : Word := 0
  tenant : BitVec 12 := 0
  xtrapc : Word := 0
  xtrappc : Word := 0
  xtrapva : Word := 0
  xtrapmap : Word := 0
  xhyp : Word := 0
  xovec : Word := 0
  xhypwait : Word := 0x4000
  xfmt : Word := 0
  xseed : Word := 0
  xloop : Word := 0
  xstagep : Word := 0
  xlpos : Word := 0
  xrrb : Word := 0
  xfte : List (Nat × Word) := []
  v : List (Nat × Block) := []
  k : List (Nat × KMask) := []
  /-- Loop register l(i) of sequencer q at key 16q + i (R81). -/
  l : List (Nat × Word) := []
  /-- Start of the stream loop's body, its trip counts as read at its start, and the captured body units (R84). -/
  bodyAt : Word := 0
  bodyTrips : List Nat := []
  /-- Starts of the stream loop: the model's own count, by which a block of a write queue tells its loop (R94). -/
  loopNo : Nat := 0
  bodyBuf : List (Nat × Nat) := []
  /-- Poisoned pairs of captured units (R346). -/
  bodyBad : List Nat := []
  eng : List (Nat × Engine) := []
  q : List (Nat × Handle) := []
  /-- A QADV in its wait: its address, and the blocks that it has still to move (R101). -/
  qadvLeft : Option (Word × Nat) := none
  tc : List (Nat × Counter) := []
  copies : List CopyOp := []
  fab : List FabOp := []
  mx : List MxOp := []
  /-- H bits of the lines that the context's engine operations have written (R220). -/
  engSig : Sig := 0
  /-- The watch: its armed line's address and physical line, and its fired state (R243). -/
  watchVa : Word := 0
  watchKey : Option Nat := none
  watchFired : Bool := false
  ckcnt : Word := 0
  member : Option Member := none
  /-- Cycle at which a pending pre-emption request's grace ends (R68). -/
  prqDue : Option Nat := none
  /-- CKPT is due at the context's next boundary (R351), or held until its next TRET (R331). -/
  ckpt : Bool := false
  ckptHeld : Bool := false
  /-- The suspension in progress is forced (R59, R68). -/
  forced : Bool := false
  /-- The address at which an ORPHAN without XOVEC executes its EXIT (R270). -/
  exiting : Option Word := none
  /-- Vector groups named dead by the YIELD that suspends (R78). -/
  dead : BitVec 16 := 0
  /-- The loop was drained and refills at resume; or its drain was cut short by a wait, and refills in place (R90). -/
  refill : Bool := false
  drainCut : Bool := false
  /-- The running handler was entered with the stream loop active, which is idle in it (R89). -/
  loopIdle : Bool := false
  /-- Debug conditions armed through PF1, a word count held as what is left (R357). -/
  dbg : List DbgCond := []
  /-- An ADMIT whose checks a home makes (R319). -/
  homeAdmit : Option HomeAdmit := none
  /-- Which start of a context this is: the model's own number, by which a task finds its counter (R200). -/
  uid : Nat := 0
  deriving DecidableEq, Repr

/-- An arrival with a handler address that waits for a dormant light context (R63). -/
structure HandlerReq where
  pc : Word
  addr : Word
  len : Nat
  src : Nat
  tenant : Nat
  deriving DecidableEq, Repr

/-- A cluster: its partition, the context that issued last at each priority, its handler queue (R54, R56, R63). -/
structure Cluster where
  part : Option Nat := none
  last : List (Nat × Nat) := []
  handlers : List HandlerReq := []
  deriving DecidableEq, Repr

/-- A scratchpad map region (R211). -/
structure Region where
  /-- The context that set up the map. -/
  owner : Nat
  gbase : Word
  off : Nat
  len : Nat
  filled : List Nat := []
  dirty : List Nat := []
  deriving DecidableEq, Repr

/-- The states of a binding entry (R182, R318). -/
inductive BindState where
  | resident | missing | refused
  deriving DecidableEq, Repr

/-- A binding-table entry (R182). -/
structure BindEntry where
  st : BindState
  key : SiteKey
  rank : Nat
  alpha : BitVec 32
  ffmt : Nat
  fscl : Bool
  aoff : Nat
  boff : Nat
  kd : Nat
  nd : Nat
  /-- The entry's site has no fill since one failed (R318). -/
  fillFailed : Bool := false
  /-- The home of the handle, as its admission knows it (R319). -/
  home : Nat := 0x1FFF
  deriving DecidableEq, Repr

/-- A held side-path step of one row: the decoded inputs are kept as the row's slot bytes and scales (R192). -/
structure HeldStep where
  acc : Nat
  row : Nat
  entry : Nat
  k0 : Nat
  kpos : Nat
  klen : Nat
  arow : List Nat
  scales : List Nat
  afmt : Nat
  /-- The row is poisoned (R347). -/
  bad : Bool := false
  deriving DecidableEq, Repr

/-- A copy of a line in an L1 or a visitor store, with its view tag: none for ANY (R208, R217, R264). -/
structure CacheLine where
  line : Nat
  tag : Option (Nat × Nat)
  filled : Nat
  bytes : List Byte
  /-- Poisoned 8-byte units (R346). -/
  bad : List Nat := []
  deriving DecidableEq, Repr

/-- A store performed at P-L1 on its way to the line's home (R208): the context it counts for, the engine operation
that wrote it until a TLWAIT has acquired that (R220), whether a release at P-L1 has covered it, so that the other contexts
of the unit may have acquired it (R216), and its bytes by their offset in the line, each with its poison.
DEDUCED (log entry 7). -/
structure Pending where
  line : Nat
  ctx : Nat
  /-- The tenant that the store was issued under (R283). -/
  tenant : Nat
  op : Option (Nat × Nat)
  passed : Bool := false
  bytes : List (Nat × Byte × Bool)
  deriving DecidableEq, Repr

/-- An agent that waits at a port: a context at its word, an engine of a context (1 to 3 its access engines, 4 its copy
engine), a tile task, or a core's written-through stores (R297). -/
inductive PortAgent where
  | ctx (id : Nat)
  | eng (id n : Nat)
  | task (id : Nat)
  | core (k : Nat)
  deriving DecidableEq, Repr

/-- A request at a core's network port: its tenant, its bytes, and the agent that waits with it, none where the access is
part of an event that waits for nothing (R297). -/
structure PortReq where
  tenant : Nat
  bytes : Nat
  agent : Option PortAgent := none
  deriving DecidableEq, Repr

/-- A core (R12). Operand row r of slot n is at key 128n + r; accumulator element (r, c) of tile a at
(128a + r) × 128 + c with its o bit; u(r, j) at (128a + r) × 64 + j; quarter c of tile a at 4a + c. -/
structure Core where
  scratch : List Host.Cell := []
  regions : List (Nat × Region) := []
  slots : List (Nat × SlotRow) := []
  claims : List (Nat × Nat) := []
  acc : List (Nat × (BitVec 32 × Bool)) := []
  owner : List (Nat × Nat) := []
  u : List (Nat × BitVec 32) := []
  /-- Rows marked by a saturated u, at key 128a + r (R190). -/
  marked : List Nat := []
  /-- n0 of the last side-path word by row, at key 128a + r, and the largest rank bound by tile (R179, R190, R191). -/
  sideN0 : List (Nat × Nat) := []
  sideRank : List (Nat × Nat) := []
  /-- Rows whose group has failed, at key 128a + r (R192). -/
  failed : List Nat := []
  /-- Binding entries that issued side-path words use, by quarter, each with the order of its word: they pin Herbarium
  lines until the TEPI that consumes them completes (R317). -/
  sideEnts : List (Nat × List (Nat × Nat)) := []
  held : List HeldStep := []
  smeta : List Host.Cell := []
  metaBad : List (Nat × Nat) := []
  metaOwner : List (Nat × Nat) := []
  bind : List (Nat × BindEntry) := []
  l1 : List CacheLine := []
  pending : List Pending := []
  cur : Sig := 0
  prv : Sig := 0
  /-- The Vitrine frame table of 16 entries, none outside Vitrine mode (R295). -/
  vitrine : Option (List (BitVec 16)) := none
  /-- The edge has begun and the next frame has not (R296). -/
  edge : Bool := false
  /-- The grace point of the current frame has passed (R296). -/
  graced : Bool := false
  /-- Token buckets, requests waiting at the port in order of arrival, tenants seen there in this period, and the tenant
  served last (R297). -/
  buckets : List (Nat × Nat) := []
  portWait : List PortReq := []
  portSeen : List Nat := []
  /-- Requests that have passed and whose agents have not made their accesses yet (R297). -/
  portPaid : List PortAgent := []
  portLast : Nat := 0
  /-- Idle cycles that the Docent has inserted (R377). -/
  throttled : Nat := 0
  deriving DecidableEq, Repr

/-- A side-store entry of a synchronising line, most recently used first (R217). -/
structure SideEntry where
  line : Nat
  sig : Sig
  deriving DecidableEq, Repr

/-- A cached translation with the agent whose owner check it passed (R286). -/
structure TlbEntry where
  part : Nat
  tenant : Nat
  /-- The frame of the virtual space: address / 65,536. -/
  vframe : Nat
  lo : Word
  hi : Word
  /-- Physical address of the 64 KiB frame. -/
  pa : Nat
  /-- Offset of the 64 KiB frame in its page. -/
  inPage : Nat
  deriving DecidableEq, Repr

/-- A Herbarium line (R317). -/
structure HerbLine where
  key : SiteKey
  idx : Nat
  data : List Byte
  used : Nat
  /-- Poisoned 8-byte units (R346). -/
  bad : List Nat := []
  deriving DecidableEq, Repr

/-- A running fill of a site: the lines that the site needs; whether the home has been asked for it, and the pieces that have come,
by their offset (R318, R319). -/
structure Fill where
  key : SiteKey
  lines : Nat
  asked : Bool := false
  came : List (Nat × List Byte) := []
  deriving DecidableEq, Repr

/-- A die: the sizes of its four SRAM regions in MiB, its visitor copies, side store, translations, place caches by
partition, Herbarium, running fills and version-store size (R13, R71, R208, R217, R263, R317).
DESIGN CHOICE (log entry 13). -/
structure Die where
  home : Nat := 128
  herb : Nat := 0
  stage : Nat := 0
  queue : Nat := 0
  visitors : List CacheLine := []
  side : List SideEntry := []
  tlb : List TlbEntry := []
  /-- Entry at byte offset o of partition p's table at key 16,384p + o (R71). -/
  place : List (Nat × Nat) := []
  loaded : List Nat := []
  lines : List HerbLine := []
  fills : List Fill := []
  vstore : Nat := 1024
  stageUsed : List (Nat × Nat) := []
  corrected : Nat := 0
  deriving DecidableEq, Repr

/-- The states of a hypothesis node (R254). -/
inductive NodeState where
  | free | opened | merged | refuted
  deriving DecidableEq, Repr

/-- An entry of a hypothesis table; `swept` says that the background sweep of a resolved node is done (R254, R255).
The reference count is found from the rest of the state (R257). -/
structure Node where
  st : NodeState := .free
  parent : Nat := 0
  aliasOf : Nat := 0
  tenant : Nat := 0
  pend : Bool := false
  swept : Bool := false
  deriving DecidableEq, Repr

/-- A version of a line at its home (R261): its masked bytes by their offset, each with its poison. A merged or
discarded version stays charged, with no bytes, until its sweep (R266). -/
structure Version where
  line : Nat
  node : Nat
  bytes : List (Nat × Byte × Bool)
  deriving DecidableEq, Repr

/-- A decided resolve that every die has still to apply: its effects on the table are fixed here (R256, R267). -/
structure Resolve where
  part : Nat
  node : Nat
  confirm : Bool
  /-- The place of its issuer with the model's number of that start, and its tc.hr number. -/
  ctx : Nat
  uid : Nat
  num : Nat
  /-- The nodes whose versions it changes, for the delay of R267. -/
  touched : List Nat
  deriving DecidableEq, Repr

/-- A partition record with what the partition commands give and the partition's own state (R280, R339, R348, R349). -/
structure PartRec where
  valid : Bool := false
  root : Nat := 0
  place : Nat := 0
  peermap : Nat := 0
  clshare : Nat := 0
  floors : List Nat := [0, 0, 0, 0]
  /-- Per die: L2/home, Herbarium, staging and stage-queue shares in MiB. -/
  sram : List (List Nat) := [[0, 0, 0, 0], [0, 0, 0, 0], [0, 0, 0, 0], [0, 0, 0, 0]]
  vstore : List Nat := [0, 0, 0, 0]
  save : Nat := 0
  ring : Nat := 0
  ringLen : Nat := 0
  /-- Next ring slot, entries in the ring not yet taken, and reports that wait in the Docent. -/
  ringAt : Nat := 0
  ringUsed : Nat := 0
  waiting : List (BitVec 256) := []
  quiesced : Bool := false
  epoch : Nat := 0
  lossPeer : Nat := 0
  lossReason : Nat := 0
  /-- FPLOW of the checkpoint record by context (R350). -/
  fplow : List (Nat × Nat) := []
  nodes : List (Nat × Node) := []
  versions : List Version := []
  resolves : List Resolve := []
  /-- Factor-pool frames in index order, and the indices given to versions (R306). -/
  pool : List Nat := []
  poolUsed : List Nat := []
  deriving DecidableEq, Repr

/-- A tenant record (R281). -/
structure TenantRec where
  part : Nat
  world : Nat
  valid : Bool
  tscope : Bool
  vf : Nat
  slotmin : Nat
  bwshare : Nat
  hblines : Nat
  fpages : Nat
  deriving DecidableEq, Repr

/-- A key slot (R290): the two positions and which of them encrypts. -/
structure KeySlot where
  kind : Nat
  tenant : Nat
  key0 : Option (BitVec 256)
  key1 : Option (BitVec 256)
  cur : Nat
  warn : Bool := false
  exh : Bool := false
  deriving DecidableEq, Repr

/-- A stage of a launch (R60, R62). -/
structure Stage where
  entry : Word
  width : Nat
  prio : Nat
  min : Nat
  max : Nat
  inq : Option Nat
  outq : Option Nat
  arg : Word
  span : Nat
  deriving DecidableEq, Repr

/-- A stage queue (R60): entries oldest first, their bytes with their poison. -/
structure StageQueue where
  depth : Nat
  esize : Nat
  die : Nat
  closed : Bool := false
  entries : List (List (Byte × Bool)) := []
  /-- Entries that the host has put (R355). -/
  puts : Nat := 0
  deriving DecidableEq, Repr

/-- The states of a stage instance (R65). -/
inductive InstState where
  | pending | running | suspending | suspended | exited | stranded
  deriving DecidableEq, Repr

/-- Where a member of an instance stands. -/
inductive MemState where
  | bound | saved | gone
  deriving DecidableEq, Repr

/-- A stage instance: its members by context, in member order (R62, R65). -/
structure Inst where
  stage : Nat
  serial : Nat
  st : InstState
  members : List (Nat × MemState)
  started : Nat := 0
  requested : Bool := false
  deriving DecidableEq, Repr

/-- A launch in a launch slot (R60 to R64, R73): `fn` owns it; `map` is its placement map. -/
structure Launch where
  part : Nat
  fn : Nat
  tenant : Nat
  fuse : Bool
  hprio : Nat
  map : Nat
  save : Nat
  status : Nat
  deadline : Word
  seed : Word
  stages : List Stage
  queues : List StageQueue
  insts : List Inst
  serial : Nat := 1
  code : Nat := 0
  stranded : Nat := 0
  deriving DecidableEq, Repr

/-- What an image stands for: its partition, the context and the parts of its core as saved, and its quarters on other cores of its
quad (R338, log entry 16). -/
structure SavedPart where
  partn : Nat := 0
  ctx : Ctx
  part : Core
  others : List (Nat × Core) := []
  deriving DecidableEq, Repr

/-- A queued save image (R68, R69, R336, R342): its place, its count, its cell and what it resumes. -/
structure Image where
  place : Nat
  cnt : Nat
  part : Nat
  tenant : Nat
  member : Option Member
  /-- Virtual address of the save area and the number of the cell. -/
  area : Nat
  cell : Nat
  refused : Nat := 0
  ckpt : Bool := false
  deriving DecidableEq, Repr

/-- The states of a tile task. -/
inductive TaskState where
  | queued | running | faulted | taken
  deriving DecidableEq, Repr

/-- Sums of a trailer (R126): out-of-range elements, NaNs, and failed groups. -/
structure Sums where
  ovf : Nat := 0
  nans : Nat := 0
  groups : Nat := 0
  deriving DecidableEq, Repr

/-- A fault on its way up from a child of a tile task (R201, R202). -/
structure ChildFault where
  flv : Nat
  cause : Nat
  opnd : Nat
  addr : Nat
  path : List Nat
  deriving DecidableEq, Repr

/-- A tile task (R74, R75, R197 to R205). -/
structure Task where
  id : Nat
  unit : UnitId
  seq : Nat
  prio : Nat
  bytes : List Byte
  addr : Nat
  ctx : Nat
  num : Nat
  tenant : Nat
  view : Nat
  fte : Word
  key : Nat
  lid : Option Nat
  /-- The start of the issuer, and that of the full context that keeps tc.mx (R200, R203). -/
  owner : Nat
  full : Nat
  /-- The issuer's tenant and instance serial, and whether its launch fuses quads (R195, R381). -/
  itenant : Nat
  inst : Nat
  fuse : Bool
  /-- The task's own unit, logical and physical, as translated when TTASK ran; none where it is unmapped (R38). -/
  place : Option (Nat × Nat)
  /-- Physical full context, counter and value of each used wait selector. -/
  waits : List (Nat × Nat × Nat)
  resume : Bool
  st : TaskState := .queued
  /-- Direct children that have completed, those of the pass in progress with their units, and those that have faulted
  (R194, R201). -/
  done : List Nat := []
  pass : List (Nat × Nat) := []
  flt : List (Nat × ChildFault) := []
  /-- Offset of the completion map that a TRESUME reads (R204). -/
  mapAt : Nat := 0
  /-- The cluster whose tc.mx counted the task has gone to another partition (R54). -/
  uncounted : Bool := false
  /-- Its order of selection among the tasks of its queue (R75). -/
  order : Nat := 0
  /-- Its package was attached to no fabric when TTASK ran (R3). -/
  solo : Bool := false
  /-- Sites that a child has waited for (R192). -/
  asked : List SiteKey := []
  sums : Sums := {}
  deriving DecidableEq, Repr

/-- A Catalogue record that has still to be acknowledged: its number, where it goes, the tenant whose buffer slots it is
charged to, its class, and whether it has found a slot and left (R298, R319). -/
structure CatMsg where
  num : Nat
  peer : Nat
  tenant : Nat
  cls : Nat
  rec_ : CatRecord
  sent : Bool
  deriving DecidableEq, Repr

/-- What the gateway has performed of one source context's operations of one class: the operation that is next, and its
bytes so far (R226). -/
structure Arrived where
  peer : Nat
  ctx : Nat
  cls : Nat
  next : Nat := 1
  done : Nat := 0
  deriving DecidableEq, Repr

/-- A barrier episode: scope, unit, identifier, partition, count and arrived contexts (R245). -/
structure Barrier where
  key : Nat
  n : Nat
  arrived : List Nat
  /-- Arrivals of other packages' contexts, at `.pd`. -/
  away : Nat := 0
  deriving DecidableEq, Repr

/-- The states of a version record (R303). -/
inductive VSt where
  | free | staged | current | retiring
  deriving DecidableEq, Repr

/-- A version record (R303); `pool` is the partition whose pool holds the pages. -/
structure VRec where
  ver : Nat := 0
  st : VSt := .free
  rank : Nat := 0
  ffmt : Nat := 0
  fscl : Bool := false
  alpha : BitVec 32 := 0
  pidx : Nat := 0
  npage : Nat := 0
  pins : Nat := 0
  nsite : Nat := 0
  ownt : Nat := 0
  pool : Nat := 0
  deriving DecidableEq, Repr

/-- A valid Catalogue entry (R302, R319). -/
structure CatEntry where
  part : Nat
  handle : Nat
  tenant : Nat
  pub : Nat
  home : Nat
  kslot : Nat
  lastver : Nat
  vrec : List VRec
  /-- Pins that other packages hold, a pair (peer, version) for each, and packages that may hold lines. -/
  peers : List (Nat × Nat) := []
  holders : List (Nat × Nat) := []
  deriving DecidableEq, Repr

/-- An admission record (R309). -/
structure Admission where
  part : Nat
  tenant : Nat
  handle : Nat
  ver : Nat
  gen : Nat
  refs : Nat
  /-- On a replica: what the home has told of the version, and the home's logical number (R319). -/
  info : Option VerInfo := none
  home : Nat := 0x1FFF
  deriving DecidableEq, Repr

/-- A tenant's usage log: the last SEQ and the ring's records by slot (R361). -/
structure UsageLog where
  seq : Nat := 0
  recs : List (Nat × BitVec 1024) := []
  /-- The last 4,096th record that the Docent has signed (R362). -/
  signed : Nat := 0
  deriving DecidableEq, Repr

/-- A function's command registers and the MSI-X signals it has raised (R368, R370). -/
structure Fn where
  base : Nat := 0
  size : Nat := 0
  tail : Nat := 0
  head : Nat := 0
  msi0 : Nat := 0
  msi1 : Nat := 0
  deriving DecidableEq, Repr

/-- The armed snapshot trigger when it has fired: its cycle, TAG and place, and what it was armed for, so that a second
firing in that cycle is told from one that finds nothing armed (R353, R354). -/
structure Firing where
  cycle : Nat
  tag : Nat
  place : Nat
  mask : BitVec 16
  src : SnapSource
  deriving DecidableEq, Repr

/-- The latched snapshot registers: the firing's TAG, place and cycle, and the blocks of the package as they stood: its
contexts with their engines, queues, rings and counters, arbiters, cores, dies, schedulers and links (R353, R354).
DESIGN CHOICE (log entry 15). -/
structure Snapshot where
  tag : Nat
  place : Nat
  cycle : Nat
  ctxs : List (Nat × Ctx)
  clusters : List (Nat × Cluster)
  cores : List (Nat × Core)
  dies : List (Nat × Die)
  launches : List (Nat × Launch)
  images : List Image
  tasks : List Task
  barriers : List Barrier
  gwSlots : List (Nat × Nat)
  outbox : List Packet
  catOut : List CatMsg
  portsDown : List Nat
  annexDown : List Nat
  scnt : List (Nat × Nat)
  deriving DecidableEq, Repr

/-- What the Docent answers over a session or DOE (R350, R353, R357, R358, R362). -/
inductive Reply where
  | measurements (requester : Nat) (record : List (BitVec 384)) (sig : BitVec 768)
  | logSigned (tenant seq : Nat) (hash : BitVec 384) (sig : BitVec 768)
  | value (tenant : Nat) (v : Word)
  | status (code : Nat)
  /-- The latched snapshot, read over the management plane. -/
  | snapshot (x : Option Snapshot)
  /-- A partition's checkpoint record. -/
  | checkpoint (part : Nat) (record : List Byte)
  deriving DecidableEq, Repr

/-- A staged firmware update and the tenants that have acknowledged it (R359). -/
structure Staged where
  fw : Firmware
  acks : List Nat
  deriving DecidableEq, Repr

/-- A released frame whose accesses have still to be performed (R288): the RELEASE command to complete, and the
tenant charged for the factor page until then (R314). -/
structure FrameWork where
  src : Option CmdSrc
  charge : Option Nat
  deriving DecidableEq, Repr

end Sys2Proof.Machine
end

