-- ==== Sys2Proof/Machine/State.lean ====
section
/-! DEFINITION. The state of the machine as plain data: everything the spec gives one package, the outside inputs and
interleaving choices that it has still to meet (agenda), and the state right after reset. -/

namespace Sys2Proof.Machine

/-- Why the machine stops with a fault. Each is safe: the model stops where the machine has no such step. -/
inductive Fault where
  /-- Raised by step for an agenda move that names no unit of the package (R10, R18). Safe: no part takes such an event. -/
  | noSuchUnit
  deriving DecidableEq, Repr

/-- Why the machine refuses an instruction. -/
inductive Refusal where
  /-- Raised by an arm of exec that has no meaning yet. Safe: it claims nothing about the instruction. -/
  | notModelled (mnemonic : String)
  deriving DecidableEq, Repr

/-- What the outside does to the package, and which of the orders that the spec leaves open comes next. -/
inductive Move where
  /-- An event or an engine command of the opcode table, or (for a test) an instruction of the issuing context. -/
  | run (i : Instr)
  /-- An event that the machine itself has brought about. -/
  | auto (e : Event)
  /-- The arbiter of a cluster chooses the context that issues next (R56). -/
  | issue (cl : Nat)
  /-- A core's written-through stores to a line reach their home (R208). -/
  | drain (core line : Nat)
  /-- An L1 gives up its copies of a line. -/
  | evictL1 (core line : Nat)
  /-- A die gives up its visitor copies of a line. -/
  | evictVisitor (die line : Nat)
  /-- The home drops the least recently used side-store entry (R217). -/
  | evictSide (die : Nat)
  /-- A cached translation is dropped (R286). -/
  | evictTlb (die : Nat)
  /-- The host writes a byte of its memory. -/
  | hostWrite (pa : Nat) (b : Byte)
  /-- The Docent takes the next command of a function's ring (R370). -/
  | docent (fn : Nat)
  /-- The supervisor takes entries out of a partition's report ring. -/
  | takeReports (part n : Nat)
  /-- Recording is enabled for a launch (R355), or its replay from logged records (R356). -/
  | record (lid : Nat)
  | replayLog (lid : Nat) (recs : List (BitVec 256))
  /-- The Docent reads the latched snapshot, or a partition's checkpoint record (R350, R353). -/
  | readSnapshot
  | readCheckpoint (part : Nat)
  /-- The fabric manager gives a physical peer number, and says which peers are populated (R373, R16). -/
  | fabricTrained (own : Nat) (peers : List Nat)
  /-- The fabric says how many arrivals of other packages stand at a `.pd` barrier with a count (R245). -/
  | podBarrier (part i n away : Nat)
  /-- A cycle in which nothing issues. -/
  | idle
  deriving DecidableEq, Repr

/-- The machine. -/
structure State where
  /-- The context that issues, and whether it is inside an issue slot (R56). -/
  cur : Nat
  busy : Bool
  /-- The outside inputs and interleaving choices still to come, first first: the model's own. -/
  agenda : List Move
  /-- Draws taken from the free values: the model's own. -/
  fresh : Nat
  /-- The package cycle count, 64 bits wide (R378). -/
  cycle : Nat
  /-- Memory: HBM, Annex and host memory by physical address (R14, R367). -/
  mem : List Host.Cell
  /-- Poisoned storage (R346, R347). -/
  poison : List PLoc
  ctxs : List (Nat × Ctx)
  clusters : List (Nat × Cluster)
  cores : List (Nat × Core)
  dies : List (Nat × Die)
  parts : List (Nat × PartRec)
  tenants : List (Nat × TenantRec)
  /-- Frame-table entries by frame number; an unlisted frame is DIRTY (R287). -/
  frames : List (Nat × BitVec 32)
  frameWork : List (Nat × FrameWork)
  keys : List (Nat × KeySlot)
  /-- Issue counters SCNT by place (R336). -/
  scnt : List (Nat × Nat)
  launches : List (Nat × Launch)
  images : List Image
  /-- The private parts of images, by place and count (R338). -/
  saved : List ((Nat × Nat) × SavedPart)
  tasks : List Task
  /-- Sequence numbers last given by each task queue, and the next task id and array stamp: counters. -/
  taskSeq : List (UnitId × Nat)
  nextId : Nat
  barriers : List Barrier
  catalogue : List CatEntry
  admissions : List (Nat × Admission)
  /-- The generation last given to an admission (R309). -/
  gen : Nat
  logs : List (Nat × UsageLog)
  /-- The gateway: its signatures, and the buffer slots held by each tenant's packets (R227, R298). -/
  gwCur : Sig
  gwPrv : Sig
  gwSlots : List (Nat × Nat)
  /-- Fabric packets in the replay buffers of the links, unacknowledged (R299). -/
  outbox : List Packet
  /-- Operations issued per source context, destination and class, and what has been performed here for peers (R226). -/
  fabSeq : List (Nat × Nat)
  arrived : List Arrived
  /-- Acknowledgements that have left for peers (R249, R251). -/
  acks : List (Nat × Ack)
  /-- Catalogue records not yet acknowledged, and the number last given to one (R319). -/
  catOut : List CatMsg
  catNum : Nat
  ownPeer : Nat
  populated : List Nat
  disabled : List Nat
  /-- Physical places that are disabled: kind code and package-wide number (R69). -/
  deadPlaces : List (PlaceKind × Nat)
  portsDown : List Nat
  /-- CXL ports whose link is down; agents whose accesses were in flight when a port's went down, and the ports of the agent whose
  turn it is (R372). -/
  annexDown : List Nat
  cut : List (Nat × PortAgent)
  cutNow : List Nat
  fns : List (Nat × Fn)
  ready : Bool
  fatal : Bool
  /-- Burnt SVN fuses (R360). -/
  svnFuses : Nat
  firmware : Firmware
  staged : Option Staged
  measured : List (BitVec 384)
  sessions : List Nat
  certs : List (Nat × BitVec 384)
  replies : List Reply
  /-- The snapshot trigger: armed, fired, latched (R353). -/
  snapArmed : Option (BitVec 16 × SnapSource)
  snapFired : Option Firing
  snapshot : Option Snapshot
  /-- Launches being recorded with their logs, and launches being replayed with what is left of theirs (R355, R356). -/
  recorded : List (Nat × List (BitVec 256))
  replaying : List (Nat × List (BitVec 256))
  deriving DecidableEq, Repr

/-- What a byte of memory that nothing has written reads as: every frame is scrubbed to zero before it can be mapped
(R288), and host memory the model starts at zero. DESIGN CHOICE (log entry 2). -/
def unwritten : Byte := 0

/-- The canonical form of memory: addresses strictly rising, and no listed byte equal to `unwritten`. -/
def Memory.wf (m : List Host.Cell) : Bool := smWf unwritten m

/-- The firmware image that the ROM finds at the first boot: its digest is the part's own. DESIGN CHOICE (entry 12). -/
def bootFirmware : Firmware := { digest := Config.bootDigest, signature := 0, svn := 0 }

/-- The machine right after reset (R13, R288, R368, R378, R379): nothing runs, every context is FREE or DORMANT, every
frame DIRTY, no partition, tenant, key or launch exists, the cycle count is 0, and bring-up has not completed.
DESIGN CHOICE (log entry 4). -/
def State.reset : State :=
  { cur := 0, busy := false, agenda := [], fresh := 0, cycle := 0, mem := [], poison := [], ctxs := [],
    clusters := [], cores := [], dies := [], parts := [], tenants := [], frames := [], frameWork := [], keys := [],
    scnt := [], launches := [], images := [], saved := [], tasks := [], taskSeq := [], nextId := 0, barriers := [],
    catalogue := [], admissions := [], gen := 0, logs := [], gwCur := 0, gwPrv := 0, gwSlots := [], outbox := [],
    fabSeq := [], arrived := [], acks := [], catOut := [], catNum := 0, ownPeer := 0, populated := [], disabled := [], deadPlaces := [], portsDown := [], annexDown := [], cut := [], cutNow := [],
    fns := [], ready := false, fatal := false, svnFuses := 0, firmware := bootFirmware, staged := none,
    measured := [], sessions := [], certs := [], replies := [], snapArmed := none, snapFired := none,
    snapshot := none, recorded := [], replaying := [] }

end Sys2Proof.Machine
end

