-- ==== Sys2Proof/Machine/Ops.lean ====
section
/-! DEFINITION. Shared operations over the state: its units, scalar registers, plain memory by physical address,
reports, the snapshot trigger, taking a trap and returning from one, and the ends of words and bundles. -/

namespace Sys2Proof.Machine

/-- An outcome of a meaning. -/
abbrev Out := Host.Outcome State Fault Refusal

/-- The number of a context within its cluster (R53). -/
def ctxNum (id : Nat) : Nat := id % 8
/-- The cluster of a context, package-wide. -/
def clusterOf (id : Nat) : Nat := id / 8
/-- The core of a context, package-wide. -/
def coreOf (id : Nat) : Nat := id / 32
/-- The quad of a context, package-wide. -/
def quadOf (id : Nat) : Nat := id / 128
/-- The die of a context. -/
def dieOf (id : Nat) : Nat := id / 1024
/-- A light context (R10). -/
def isLight (id : Nat) : Bool := id % 8 != 0

/-- A context that no start has touched: context 0 FREE, the others DORMANT (R55). -/
def idleCtx (id : Nat) : Ctx := { run := if isLight id then .dormant else .free }

def getCtx (s : State) (id : Nat) : Ctx := smGetD s.ctxs id (idleCtx id)
def setCtx (s : State) (id : Nat) (c : Ctx) : State := { s with ctxs := smPut s.ctxs id c }
def modCtx (s : State) (id : Nat) (f : Ctx → Ctx) : State := setCtx s id (f (getCtx s id))
def getCluster (s : State) (n : Nat) : Cluster := smGetD s.clusters n {}
def modCluster (s : State) (n : Nat) (f : Cluster → Cluster) : State :=
  { s with clusters := smPut s.clusters n (f (getCluster s n)) }
def getCore (s : State) (n : Nat) : Core := smGetD s.cores n {}
def modCore (s : State) (n : Nat) (f : Core → Core) : State := { s with cores := smPut s.cores n (f (getCore s n)) }
def getDie (s : State) (n : Nat) : Die := smGetD s.dies n {}
def modDie (s : State) (n : Nat) (f : Die → Die) : State := { s with dies := smPut s.dies n (f (getDie s n)) }
def getPart (s : State) (n : Nat) : PartRec := smGetD s.parts n {}
def modPart (s : State) (n : Nat) (f : PartRec → PartRec) : State :=
  { s with parts := smPut s.parts n (f (getPart s n)) }
def getFn (s : State) (n : Nat) : Fn := smGetD s.fns n {}
def modFn (s : State) (n : Nat) (f : Fn → Fn) : State := { s with fns := smPut s.fns n (f (getFn s n)) }
def modLaunch (s : State) (lid : Nat) (f : Launch → Launch) : State :=
  match smGet s.launches lid with
  | some l => { s with launches := smPut s.launches lid (f l) }
  | none => s

/-- The issuing context. -/
def me (s : State) : Ctx := getCtx s s.cur
/-- Change the issuing context. -/
def onMe (s : State) (f : Ctx → Ctx) : State := modCtx s s.cur f

/-- The partition of a context's cluster (R54). -/
def partOf (s : State) (id : Nat) : Nat := (getCluster s (clusterOf id)).part.getD 0
/-- The issuing context's partition. -/
def myPart (s : State) : Nat := partOf s s.cur

/-- Read a scalar register: s0 reads all ones (R133). -/
def sread (c : Ctx) (r : SReg) : Word := if r = 0 then BitVec.allOnes 64 else smGetD c.s r.toNat 0
/-- Write a scalar register: a write of s0 is discarded (R133). -/
def swrite (c : Ctx) (r : SReg) (v : Word) : Ctx := if r = 0 then c else { c with s := smSet c.s r.toNat v 0 }

/-- The issuing context's s(r). -/
def rs (s : State) (r : SReg) : Word := sread (me s) r
/-- Write the issuing context's s(r). -/
def ws (s : State) (r : SReg) (v : Word) : State := onMe s fun c => swrite c r v

/-- A number with `n` bits from `lo` replaced. -/
def putField (x lo n v : Nat) : Nat := x - natField x lo n * 2 ^ lo + v % 2 ^ n * 2 ^ lo
/-- A bit field of a word as a number. -/
def fld (w : Word) (lo n : Nat) : Nat := natField w.toNat lo n
/-- A word with the `n` bits from `lo` replaced. -/
def setFld (w : Word) (lo n v : Nat) : Word :=
  BitVec.ofNat 64 (w.toNat - natField w.toNat lo n * 2 ^ lo + v % 2 ^ n * 2 ^ lo)
/-- One bit of a word. -/
def bitAt (w : Word) (i : Nat) : Bool := natBit w.toNat i
/-- A word with bit `i` set to `b`. -/
def setBit (w : Word) (i : Nat) (b : Bool) : Word := setFld w i 1 (bitNat b)

/-- A priority of 120 to 127 makes a supervisor (R18, Words that carry fixed meaning). -/
def isSupervisor (c : Ctx) : Bool := decide (120 ≤ fld c.xprio 0 7)

/-- The management plane answers. -/
def answer (s : State) (r : Reply) : State := { s with replies := s.replies ++ [r] }

/-- Put events at the head of the agenda: they come about before any later input. -/
def raise (s : State) (es : List Event) : State := { s with agenda := es.map Move.auto ++ s.agenda }

/-- Whether storage holds poison (R347). -/
def isPoison (s : State) (p : PLoc) : Bool := s.poison.contains p
/-- Mark storage poisoned, or clean. -/
def setPoison (s : State) (p : PLoc) (b : Bool) : State :=
  if b then (if s.poison.contains p then s else { s with poison := p :: s.poison })
  else (if s.poison.contains p then { s with poison := s.poison.filter (· ≠ p) } else s)

/-- The cycle count `n` cycles ahead: it is 64 bits wide (R378). -/
def cycleIn (s : State) (n : Nat) : Nat := (s.cycle + n) % 2 ^ 64
/-- Cycles that have passed since a count. -/
def since (s : State) (t : Nat) : Nat := (s.cycle + 2 ^ 64 - t) % 2 ^ 64
/-- A count has come: it lies no more than half the counter's range back. -/
def reached (s : State) (t : Nat) : Bool := decide (since s t < 2 ^ 63)
/-- The count of two that comes first. -/
def sooner (s : State) (a b : Nat) : Nat := if (since s b + 2 ^ 63) % 2 ^ 64 ≤ (since s a + 2 ^ 63) % 2 ^ 64 then a else b

/-- A byte of memory by physical address. -/
def memByte (s : State) (pa : Nat) : Byte := smGetD s.mem pa unwritten
/-- Bytes of memory by physical address. -/
def memBytes (s : State) (pa n : Nat) : List Byte := (rangeFrom pa n).map (memByte s)
/-- Set bytes of memory; the storage units wholly overwritten lose their poison (R222, R347). -/
def memSetCells (m : List Host.Cell) (pa : Nat) (bs : List Byte) : List Host.Cell :=
  match bs with
  | [] => m
  | b :: bs => memSetCells (smSet m pa b unwritten) (pa + 1) bs
/-- The 8-byte units that a range touches. -/
def granules (a n : Nat) : List Nat := if n = 0 then [] else rangeFrom (a / 8) ((a + n - 1) / 8 - a / 8 + 1)
/-- The 8-byte units that lie wholly inside a range. -/
def wholeGranules (a n : Nat) : List Nat := (granules a n).filter fun g => decide (a ≤ 8 * g ∧ 8 * g + 8 ≤ a + n)
/-- Write bytes at a physical address. -/
def memWrite (s : State) (pa : Nat) (bs : List Byte) : State :=
  let s := { s with mem := memSetCells s.mem pa bs }
  if s.poison.isEmpty then s
  else { s with poison := s.poison.filter fun p => !((wholeGranules pa bs.length).map PLoc.mem).contains p }
/-- Whether any byte of a physical range is poisoned. -/
def memPoison (s : State) (pa n : Nat) : Bool :=
  !s.poison.isEmpty && (granules pa n).any fun g => isPoison s (.mem g)
/-- A number in bytes. -/
def fieldAt (bs : List Byte) (at_ n : Nat) : Nat := leNat ((bs.drop at_).take n)

/-- A little-endian number of memory. -/
def memNat (s : State) (pa n : Nat) : Nat := leNat (memBytes s pa n)

/-- The trigger's partition mask and source: while it is armed, and for the rest of the cycle in which it fires (R354). -/
def snapFor (s : State) : Option (BitVec 16 × SnapSource) :=
  match s.snapArmed with
  | some a => some a
  | none => s.snapFired.bind fun f => if f.cycle = s.cycle then some (f.mask, f.src) else none

/-- Whether the trigger takes a firing from a source and a partition. -/
def snapReady (s : State) (src : SnapSource) (part : Nat) : Bool :=
  match snapFor s with
  | some (mask, armed) => decide (armed = src) && natBit mask.toNat part
  | none => false

/-- The armed trigger fires, once; of several firings in its cycle the lowest place is recorded (R353, R354). -/
def recordFiring (s : State) (tag place : Nat) : State :=
  match s.snapArmed, s.snapFired with
  | some (mask, src), _ => { s with snapArmed := none, snapFired := some { cycle := s.cycle, tag := tag, place := place, mask := mask, src := src } }
  | none, some f => if place < f.place then { s with snapFired := some { f with tag := tag, place := place } } else s
  | none, none => s

/-- Fire the snapshot trigger for a source. -/
def fireSnap (s : State) (src : SnapSource) (part tag place : Nat) : State :=
  if snapReady s src part then recordFiring s tag place else s

-- Watches (R243).

/-- The key of a memory line's watch. -/
def watchLine (line : Nat) : Nat := 2 * line
/-- The key of a scratchpad line's watch. -/
def watchScratch (core off : Nat) : Nat := 2 * (core * 65536 + off / 64) + 1

/-- Contexts whose MWAIT a fired watch ends. -/
def monitorWaits (cs : List (Nat × Ctx)) (key : Nat) : List Nat :=
  (cs.filter fun e => e.2.watchKey == some key && !e.2.watchFired &&
    (match e.2.wait with | some (.monitor _ _) => true | _ => false)).map (·.1)
/-- A context whose watch on a line fires. -/
def fired (key : Nat) (c : Ctx) : Ctx := if c.watchKey == some key then { c with watchFired := true } else c
/-- A write of a watched line fires the watch, in a saved context too; a waiting MWAIT ends (R243, R244). -/
def fireWatch (s : State) (key : Nat) : State :=
  if s.ctxs.any (fun e => e.2.watchKey == some key && !e.2.watchFired) ||
      s.saved.any (fun e => e.2.ctx.watchKey == some key && !e.2.ctx.watchFired) then
    raise { s with ctxs := s.ctxs.map fun e => (e.1, fired key e.2)
                   saved := s.saved.map fun e => (e.1, { e.2 with ctx := fired key e.2.ctx }) }
      ((monitorWaits s.ctxs key).map Event.waitSatisfied)
  else s

-- Reports (R348).

/-- The lines of a physical range. -/
def linesIn (pa n : Nat) : List Nat := if n = 0 then [] else rangeFrom (pa / 64) ((pa + n - 1) / 64 - pa / 64 + 1)

/-- Write one waiting report into a partition's ring where it has room, and signal PF0's vector 1 (R348, R370). -/
def appendReport (s : State) (part : Nat) : State :=
  let p := getPart s part
  match p.waiting with
  | [] => s
  | r :: rest =>
    if p.ringUsed < p.ringLen then
      let pa := p.ring + 32 * p.ringAt
      let s := (linesIn pa 32).foldl (fun s l => fireWatch s (watchLine l)) (memWrite s pa (leBytes 32 r.toNat))
      let s := modPart s part fun p =>
        { p with waiting := rest, ringAt := (p.ringAt + 1) % p.ringLen, ringUsed := p.ringUsed + 1 }
      modFn s 0 fun f => { f with msi1 := f.msi1 + 1 }
    else s

/-- A report's 32 bytes (R348). -/
def reportBits (code cause place tenant part inst : Nat) (addr : Word) (cycle : Nat) : BitVec 256 :=
  BitVec.ofNat 256 (code % 256 + cause % 256 * 2 ^ 8 + place % 2 ^ 16 * 2 ^ 16 +
    (tenant % 4096 + part % 16 * 4096) * 2 ^ 32 + inst % 2 ^ 16 * 2 ^ 48 + addr.toNat * 2 ^ 64 + cycle % 2 ^ 64 * 2 ^ 128)

/-- Append a report to its partition's ring; it waits while the ring is full, in order (R348). -/
def report (s : State) (code cause place tenant part inst : Nat) (addr : Word) : State :=
  let s := fireSnap s (.reportCode code) part 0 place
  let s := modPart s part fun p =>
    { p with waiting := p.waiting ++ [reportBits code cause place tenant part inst addr s.cycle] }
  appendReport s part

/-- The instance serial of a context, 0 in a light one (R59). -/
def instOf (c : Ctx) : Nat := (c.member.map (·.serial)).getD 0

/-- A report about a context. -/
def reportCtx (s : State) (code cause id : Nat) (addr : Word) : State :=
  report s code cause id (getCtx s id).tenant.toNat (partOf s id) (instOf (getCtx s id)) addr

/-- A trap's cause, source, write flag, address value, completion map and underlying cause (R325 to R328). -/
structure Trap where
  cause : Nat
  src : Nat := 0
  w : Bool := false
  va : Word := 0
  map : Word := 0
  orig : Nat := 0
  deriving DecidableEq, Repr

/-- XTRAPC's fields (R327). -/
def trapcWord (cause src : Nat) (w : Bool) (orig : Nat) : Word :=
  BitVec.ofNat 64 (cause % 64 + src % 16 * 2 ^ 8 + bitNat w * 2 ^ 12 + orig % 64 * 2 ^ 16)

/-- The rest of the bundle that a context stands in, once an older word of it has retired (R25). -/
def restHere (c : Ctx) : Option HeldBundle :=
  if c.mid then some { next := c.pc, jump := c.jump, back := c.back } else none

/-- Continue at an address with a new bundle (R23). -/
def enterAt (a : Word) (c : Ctx) : Ctx := { c with pc := a, mid := false, jump := none, back := [] }
/-- Continue with the rest of a bundle (R25). -/
def enterRest (h : HeldBundle) (c : Ctx) : Ctx := { c with pc := h.next, mid := true, jump := h.jump, back := h.back }

/-- What a trap writes into its context (R329): the trap registers, TH and the handler's address, or STOPPED. The rest
of its bundle is kept for the return (R25), beside what the handlers that it interrupts keep (R326). -/
def trapCtx (t : Trap) (c : Ctx) : Ctx :=
  let h := restHere c
  let c := { enterAt c.pc c with syncGo := false, wait := none, due := none }
  if bitAt c.xstat 0 then
    { c with xtrapc := trapcWord 19 t.src t.w t.cause, xtrappc := c.pc, xtrapva := t.va, run := .stopped, stopHeld := h,
             trapped := true }
  else
    let c := { c with xtrapc := trapcWord t.cause t.src t.w t.orig, xtrappc := c.pc, xtrapva := t.va, xtrapmap := t.map }
    if t.cause = 18 ∨ fld c.xstat 8 56 = 0 then { c with run := .stopped, stopHeld := h, trapped := true }
    else { c with xstat := setBit c.xstat 0 true, pc := BitVec.ofNat 64 (fld c.xstat 8 56 * 256), run := .runnable,
                  held := { rest := h, adv := c.qadvLeft } :: c.held, qadvLeft := none, loopIdle := bitAt c.xloop 24 }

/-- The number of the trap that is taken: SYS while a handler runs (R325, R329). -/
def trapNumber (t : Trap) (c : Ctx) : Nat := if bitAt c.xstat 0 then 19 else t.cause

/-- Take a trap at the word that the context's PC names (R329), with its STOP report. -/
def takeTrap (id : Nat) (t : Trap) (s : State) : State :=
  let pc := (getCtx s id).pc
  let n := trapNumber t (getCtx s id)
  let s := fireSnap s (.trapNumber n) (partOf s id) 0 id
  let s := modCtx s id (trapCtx t)
  if (getCtx s id).run = .stopped then reportCtx s 1 n id pc else s

/-- A trap of the issuing context. -/
def trapNext (t : Trap) (s : State) : Out := .next (takeTrap s.cur t s)

/-- ILLOP at a word whose W0 is `w0` (R325). -/
def illop (w0 : Nat) : Trap := { cause := 1, va := BitVec.ofNat 64 w0 }
/-- PRIV at a word whose W0 is `w0` (R325). -/
def priv (w0 : Nat) : Trap := { cause := 2, va := BitVec.ofNat 64 w0 }

/-- The stream loop is active, XLOOP.GO (R84). -/
def loopActive (c : Ctx) : Bool := bitAt c.xloop 24
/-- Bytes of the stream loop's body (R84). -/
def bodyLen (c : Ctx) : Nat := 4 * (fld c.xloop 0 8 + 1)
/-- The active loop is draining (R90). -/
def draining (c : Ctx) : Bool := loopActive c && bitAt c.xloop 25
/-- An address lies in the active loop's body, outside a handler that interrupted the loop (R84, R89). -/
def inBody (c : Ctx) (a : Word) : Bool :=
  loopActive c && !(bitAt c.xstat 0 && c.loopIdle) && decide (c.bodyAt.toNat ≤ a.toNat ∧ a.toNat < c.bodyAt.toNat + bodyLen c)

/-- Where another word executes, what is left of a QADV is gone (R101). -/
def dropQadv (c : Ctx) : Ctx := { c with qadvLeft := c.qadvLeft.filter fun x => x.1 == c.pc }

/-- The end of a bundle whose last word ended at the context's PC: a pending control transfer takes effect (R24), a
return into the rest of a bundle as that rest (R25). -/
def finishBundle (c : Ctx) : Ctx :=
  match c.jump, c.back with
  | some t, j :: js => enterRest { next := t, jump := j, back := js } c
  | some t, [] => enterAt t c
  | none, _ => { c with mid := false }

/-- A word of `len` bytes of the issuing context has taken effect. At the end of a bundle control transfers take
effect, and the last bundle of an active loop's body ends a pass (R24, R88). -/
def retireCtx (e : Bool) (len : Nat) (c : Ctx) : Ctx :=
  let c := { c with pc := c.pc + BitVec.ofNat 64 len, mid := true, syncGo := false }
  if e then finishBundle c else c

/-- Whether the word of `len` bytes that ends its bundle at the context's PC is the last of an active body. -/
def endsPass (len : Nat) (c : Ctx) : Bool :=
  inBody c c.pc && decide (c.pc.toNat + len = c.bodyAt.toNat + bodyLen c)

/-- A debug word count falls by one at each word (R357). -/
def countWord (c : Ctx) : Ctx :=
  if c.dbg.isEmpty then c
  else { c with dbg := c.dbg.map fun d => match d with | .words n => .words (n - 1) | d => d }

/-- A context's word of `len` bytes retires. -/
def retireAt (id : Nat) (e : Bool) (len : Nat) (s : State) : State :=
  let pass := e && endsPass len (getCtx s id)
  let s := modCtx s id fun c => countWord (retireCtx e len c)
  if pass then raise s [.loopPassEnd id] else s

/-- Retire the issuing context's word. -/
def retire (e : Bool) (len : Nat) (s : State) : State := retireAt s.cur e len s

/-- The length in bytes of an instruction's word. -/
def wordLen (i : Instr) : Nat := 4 * (encode i).length

/-- A context leaves a barrier whose episode it has joined (R245). -/
def leaveBarriers (s : State) (id : Nat) : State :=
  if s.barriers.any (fun b => b.arrived.contains id) then
    { s with barriers := (s.barriers.map fun b => { b with arrived := b.arrived.filter (· ≠ id) }).filter fun b => !b.arrived.isEmpty || b.away != 0 }
  else s

/-- A suspension begins: the context leaves its wait and is SAVING until its image is written (R55, R68). -/
def beginSave (id : Nat) (forced : Bool) (s : State) : State :=
  let s := leaveBarriers s id
  let s := modCtx s id fun c => { c with run := .saving, wait := none, due := none, forced := forced, prqDue := none }
  raise s [.imageWritten id]

/-- A word of the issuing context stalls until a condition holds and executes again then. The wait is none of those that
make a context WAITING: it stays RUNNABLE, inside its bundle (R55). -/
def stallHere (w : Wait) (s : State) : State := onMe s fun c => { c with wait := some w }

/-- Put a context into a wait at its word; it executes again when the wait ends (R55). With a pre-emption request
pending it is suspended at once (R68), in a drain as forced (R90). A word whose bundle has begun stalls inside it: only a
trap stops a bundle part-way (R25). DEDUCED (log entry 8). DEDUCED (log entry 33). -/
def waitCtx (id : Nat) (w : Wait) (due : Option Nat) (s : State) : State :=
  if (getCtx s id).mid then modCtx s id fun c => { c with wait := some w, due := due }
  else if bitAt (getCtx s id).xsched 0 then beginSave id (draining (getCtx s id)) s
  else modCtx s id fun c => { c with run := .waiting, wait := some w, due := due }
/-- The issuing context waits. -/
def waitHere (w : Wait) (s : State) : State := waitCtx s.cur w none s
/-- A wait with a timeout, counted from now. -/
def waitUntil (w : Wait) (cycles : Nat) (s : State) : State := waitCtx s.cur w (some (cycleIn s cycles)) s

/-- The time that a wait leaves behind: a tagged store's is one wait for version space, however often it is tried
(R263). -/
def keptDue (c : Ctx) : Option Nat := match c.wait with | some (.versionSpace _ _) => c.due | _ => none

/-- The context waits at a matrix word (R176). -/
def Ctx.onMatrix (c : Ctx) : Bool := match c.wait with | some (.matrix _ _ _) => true | _ => false

/-- A context's wait ends, and it executes its word again (R55). -/
def wake (s : State) (id : Nat) : State :=
  modCtx s id fun c => if c.run = .waiting then { c with run := .runnable, wait := none, due := keptDue c } else c

/-- The counter `c` of a context (R48). -/
def tcOf (c : Ctx) (n : Nat) : Counter := smGetD c.tc n {}
/-- The value that a counter has reached: every number up to it has completed (R176). -/
def tcDone (t : Counter) : Nat :=
  match t.pending with
  | [] => t.issued
  | n :: ns => ns.foldl min n - 1
/-- Take the next number of a counter; it stays pending. -/
def tcTake (c : Ctx) (n : Nat) : Nat × Ctx :=
  let t := tcOf c n
  (t.issued + 1, { c with tc := smPut c.tc n { issued := t.issued + 1, pending := t.pending ++ [t.issued + 1] } })
/-- A number completes. -/
def tcFinish (c : Ctx) (n num : Nat) : Ctx :=
  let t := tcOf c n
  { c with tc := smPut c.tc n { t with pending := t.pending.filter (· ≠ num) } }
/-- Take the next number, whose operation completes at once (R230). -/
def tcStep (c : Ctx) (n : Nat) : Ctx :=
  let t := tcOf c n
  { c with tc := smPut c.tc n { t with issued := t.issued + 1 } }

/-- Full context of a context's cluster, which keeps tc.mx and the engines (R10, R200). -/
def fullOf (id : Nat) : Nat := id / 8 * 8

/-- The launch that a context belongs to. -/
def launchOf (s : State) (id : Nat) : Option Launch :=
  match (getCtx s id).member with
  | some m => smGet s.launches m.lid
  | none => none

/-- A draw of the free values. -/
def draw (s : State) : Nat × State := (s.fresh, { s with fresh := s.fresh + 1 })

/-- Whether the tenant record of a number is valid in a partition (R281, R282). -/
def tenantIn (s : State) (t part : Nat) : Bool :=
  match smGet s.tenants t with
  | some r => r.valid && r.part == part
  | none => false

/-- The used entries of a Vitrine frame table (R295). -/
def usedFrames (tbl : List (BitVec 16)) : List (BitVec 16) := tbl.takeWhile fun e => natBit e.toNat 3
/-- Length of a frame in cycles (R295). -/
def frameLen (e : BitVec 16) : Nat := 2 ^ (16 + natField e.toNat 0 3)
/-- World of a frame (R295). -/
def frameWorldOf (e : BitVec 16) : Nat := natField e.toNat 4 8
/-- The frame that holds a count of cycles from the first frame's start, and the cycles into it. -/
def frameGo : List (BitVec 16) → Nat → Option (BitVec 16 × Nat)
  | [], _ => none
  | e :: es, t => if t < frameLen e then some (e, t) else frameGo es (t - frameLen e)
/-- A core's current frame and the cycles into it, in Vitrine mode: frames repeat from cycle 0 of the package cycle
count (R295). -/
def frameAt (s : State) (core : Nat) : Option (BitVec 16 × Nat) :=
  match (getCore s core).vitrine with
  | none => none
  | some tbl =>
    let fs := usedFrames tbl
    frameGo fs (s.cycle % (fs.map frameLen).sum)
/-- A core admits a world: it is not in Vitrine mode, or the world is its frame's and the edge has not begun (R296). -/
def coreAdmits (s : State) (core world : Nat) : Bool :=
  match (getCore s core).vitrine with
  | none => true
  | some _ =>
    match frameAt s core with
    | some (e, _) => frameWorldOf e == world && frameWorldOf e != 0 && !(getCore s core).edge
    | none => false

/-- WORLD of a tenant (R281). -/
def worldOf (s : State) (t : Nat) : Nat := ((smGet s.tenants t).map (·.world)).getD 0

/-- The word of a tile-format trap and others that carry an accumulator or handle number. -/
def natW (n : Nat) : Word := BitVec.ofNat 64 n

end Sys2Proof.Machine
end

