-- ==== Sys2Proof/Machine/Memory.lean ====
section
/-! DEFINITION. Memory accesses: hypothesis views, the points P-L1, P-H and P-M with their cached copies, releases and
acquires, the scratchpad with its map regions, and page-table walks (09, 10, 11, R284 to R288). -/

namespace Sys2Proof.Machine

/-- A byte with its poison. -/
abbrev PB := Byte × Bool

/-- Clean bytes. -/
def clean (bs : List Byte) : List PB := bs.map fun b => (b, false)
/-- The bytes without their poison. -/
def bytesOf (bs : List PB) : List Byte := bs.map (·.1)
/-- Any byte is poisoned. -/
def anyBad (bs : List PB) : Bool := bs.any (·.2)

-- Hypothesis nodes and views (R254 to R261, R270).

/-- An entry of a partition's table: the root is OPEN (R254). -/
def getNode (p : PartRec) (n : Nat) : Node := smGetD p.nodes n (if n = 0 then { st := .opened } else { aliasOf := n })
/-- Resolve(h) (R255). -/
def resolveN (p : PartRec) (n : Nat) : Nat := if (getNode p n).st = .merged then (getNode p n).aliasOf else n
/-- Survivor(h) after its first step to the parent (R270). -/
def survivorGo (p : PartRec) : Nat → Nat → Nat
  | 0, _ => 0
  | f + 1, a =>
    match (getNode p a).st with
    | .opened => a
    | .merged => survivorGo p f (getNode p a).aliasOf
    | _ => survivorGo p f (getNode p a).parent
/-- Survivor(h) (R270). -/
def survivor (p : PartRec) (h : Nat) : Nat := survivorGo p 1024 (getNode p h).parent
/-- The nodes from a view upward, the root left out. -/
def pathGo (p : PartRec) : Nat → Nat → List Nat
  | 0, _ => []
  | f + 1, h => if h = 0 then [] else h :: pathGo p f (resolveN p (getNode p h).parent)
/-- The nodes whose versions a view reads, deepest first (R261). -/
def viewPath (p : PartRec) (v : Nat) : List Nat :=
  let h := if (getNode p v).st = .refuted then survivor p v else v
  pathGo p 1024 (resolveN p h)

/-- A partition's versions of a line that hold bytes. -/
def versionsOf (p : PartRec) (line : Nat) : List Version := p.versions.filter fun v => v.line == line && !v.bytes.isEmpty
/-- The byte of a version set under a node. -/
def versionByte (p : PartRec) (vs : List Version) (off : Nat) : List Nat → Option PB
  | [] => none
  | h :: hs =>
    match vs.find? (fun v => resolveN p v.node == h && (smGet v.bytes off).isSome) with
    | some v => smGet v.bytes off
    | none => versionByte p vs off hs

/-- The committed byte at a physical address with its poison. -/
def committed (s : State) (pa : Nat) : PB := (memByte s pa, !s.poison.isEmpty && isPoison s (.mem (pa / 8)))

/-- VisibleVersion of a range of one line at its home (R261). -/
def visibleHome (s : State) (part view line off n : Nat) : List PB :=
  let p := getPart s part
  let vs := versionsOf p line
  if vs.isEmpty then (rangeFrom (64 * line + off) n).map (committed s)
  else
    let path := viewPath p view
    (rangeFrom off n).map fun i => (versionByte p vs i path).getD (committed s (64 * line + i))

/-- Whether a view's byte comes from a version. -/
def shadowed (s : State) (part view line off : Nat) : Bool :=
  let p := getPart s part
  let vs := versionsOf p line
  !vs.isEmpty && (versionByte p vs off (viewPath p view)).isSome

/-- A decided resolve that is not applied yet delays an access that would consult a version it changes (R267). -/
def delayed (s : State) (part line : Nat) : Bool :=
  let p := getPart s part
  !p.resolves.isEmpty && (versionsOf p line).any fun v => p.resolves.any fun r => r.touched.contains (resolveN p v.node)

-- Lines, homes and units (R207 to R209, R217).

/-- H(a) of a physical line address a (R217). -/
def hashLine (line : Nat) : Nat :=
  let a := 64 * line
  (BitVec.ofNat 10 (a / 2 ^ 6) ^^^ BitVec.ofNat 10 (a / 2 ^ 16) ^^^ BitVec.ofNat 10 (a / 2 ^ 26) ^^^
    BitVec.ofNat 10 (a / 2 ^ 36) ^^^ BitVec.ofNat 10 (natField a 46 6)).toNat
/-- The signature of one line. -/
def sigBit (line : Nat) : Sig := BitVec.ofNat 1024 (2 ^ hashLine line)
/-- A line's bit is set in a signature. -/
def inSig (sg : Sig) (line : Nat) : Bool := natBit sg.toNat (hashLine line)

/-- A physical address is host memory (R367). -/
def isHost (pa : Nat) : Bool := decide (2 ^ 51 ≤ pa)
/-- The home die of a line, for memory that has one (R207, R367). -/
def homeDie (line : Nat) : Nat :=
  let pa := 64 * line
  if pa < 2 ^ 39 then pa / 2 ^ 37 else if pa < 2 ^ 45 then 0 else 2
/-- The CXL port that an address is reached over (R367, R372). -/
def annexPort (pa : Nat) : Option Nat := if pa < 2 ^ 44 then none else if pa < 2 ^ 45 then some 0 else if pa < 2 ^ 46 then some 1 else none
/-- An address lies in a populated range of the package (R367). -/
def populatedPa (pa : Nat) : Bool :=
  decide (pa < 2 ^ 39 ∨ (2 ^ 44 ≤ pa ∧ pa < 2 ^ 44 + min (Config.annexBytes 0) (2 ^ 42)) ∨
    (2 ^ 45 ≤ pa ∧ pa < 2 ^ 45 + min (Config.annexBytes 1) (2 ^ 42)))
/-- The link to an address is up (R372). -/
def linkUp (s : State) (pa : Nat) : Bool := !(annexPort pa).any s.annexDown.contains

/-- A launch with FUSE runs on a quad (R60, R209). -/
def fusedQuad (s : State) (q : Nat) : Bool :=
  s.ctxs.any fun e =>
    e.1 / 128 == q &&
      match e.2.member with
      | some m => ((smGet s.launches m.lid).map (·.fuse)).getD false
      | none => false
/-- The core that the written-through stores of a core's L1 leave from: its own, or its quad's first with FUSE (R209). -/
def l1Unit (s : State) (core : Nat) : Nat := if fusedQuad s (core / 4) then core / 4 * 4 else core
/-- The cores whose arrays make up the L1 of a core (R209). -/
def l1Arrays (s : State) (core : Nat) : List Nat := if fusedQuad s (core / 4) then rangeFrom (core / 4 * 4) 4 else [core]
/-- The core whose array holds a line in the L1 of a core: with FUSE, the lines are spread by address bits [7:6] (R209). -/
def l1Array (s : State) (core line : Nat) : Nat := if fusedQuad s (core / 4) then core / 4 * 4 + line % 4 else core
/-- The copies in the L1 of a core that may hold a line. -/
def l1At (s : State) (core line : Nat) : List CacheLine := (getCore s (l1Array s core line)).l1
/-- Change the copies of the L1 of a core that may hold a line. -/
def onL1 (s : State) (core line : Nat) (f : List CacheLine → List CacheLine) : State :=
  modCore s (l1Array s core line) fun c => { c with l1 := f c.l1 }
/-- Change every copy of the L1 of a core. -/
def onL1s (s : State) (core : Nat) (f : List CacheLine → List CacheLine) : State :=
  (l1Arrays s core).foldl (fun s k => modCore s k fun c => { c with l1 := f c.l1 }) s

-- Writes at a home and copies nearer the core (R208, R215, R264).

/-- Write bytes with their poison: a wholly overwritten unit is clean, a unit with a poisoned byte is poison (R347). -/
def memWritePB (s : State) (pa : Nat) (bs : List PB) : State :=
  let s := memWrite s pa (bytesOf bs)
  if anyBad bs then
    (granules pa bs.length).foldl
      (fun s g => if ((rangeFrom pa bs.length).zip bs).any (fun e => e.1 / 8 == g && e.2.2) then setPoison s (.mem g) true else s) s
  else s

/-- Bytes of a line by their offset. -/
def offBytes (off : Nat) (bs : List PB) : List (Nat × PB) := (rangeFrom off bs.length).zip bs

/-- A cached copy with the bytes of a plain write that its view is not kept from seeing (R264). -/
def patchCopy (s : State) (part : Nat) (off : Nat) (bs : List PB) (c : CacheLine) : CacheLine :=
  let hit := fun (i : Nat) => decide (off ≤ i ∧ i < off + bs.length) &&
    !(match c.tag with | some (_, v) => shadowed s part v c.line i | none => false)
  { c with
    bytes := (rangeFrom 0 64).zip c.bytes |>.map fun e => if hit e.1 then ((bs[e.1 - off]?).map (·.1)).getD e.2 else e.2
    bad := c.bad.filter fun g => !(rangeFrom (8 * g) 8).all hit }

/-- A plain write updates the copies of its line, or removes them where they cannot follow it. -/
def patchCopies (s : State) (part line off : Nat) (bs : List PB) (drop : Bool) (cs : List CacheLine) : List CacheLine :=
  if cs.any (fun c => c.line == line) then
    if drop || anyBad bs then cs.filter fun c => c.line != line
    else cs.map fun c => if c.line == line then patchCopy s part off bs c else c
  else cs

/-- A request comes to a core's port. A step performs what its requests carry once they have all passed: until then its agent
waits with them (R297). -/
def portRequest (s : State) (core tenant bytes : Nat) : State :=
  match smGet s.tenants tenant with
  | none => s
  | some _ =>
    modCore s core fun c =>
      { c with portSeen := if c.portSeen.contains tenant then c.portSeen else tenant :: c.portSeen
               portWait := c.portWait ++ [{ tenant := tenant, bytes := bytes }] }

/-- A run of bytes at a core's port, in requests of 64 bytes. -/
def portStream (s : State) (core tenant bytes : Nat) : State :=
  if (smGet s.tenants tenant).isNone then s
  else (rangeFrom 0 (ceilDiv bytes 64)).foldl (fun s i => portRequest s core tenant (min 64 (bytes - 64 * i))) s

/-- A request of an agent waits at a port: the agent waits with it (R297). -/
def portHeld (s : State) (a : PortAgent) : Bool := s.cores.any fun e => e.2.portWait.any fun r => r.agent == some a

/-- Committed bytes reach a line's home from a die: the write is performed there, the die's visitor copies follow it
and a watch fires (R208, R219, R243). -/
def homeWrite (s : State) (die part line off : Nat) (bs : List PB) (drop : Bool) : State :=
  let s := memWritePB s (64 * line + off) bs
  let s := if (getDie s die).visitors.isEmpty then s
           else modDie s die fun d => { d with visitors := patchCopies s part line off bs drop d.visitors }
  fireWatch s (watchLine line)

/-- One written-through store, as runs of consecutive bytes, reaches the home. -/
def performPending (die part : Nat) (s : State) (p : Pending) : State :=
  p.bytes.foldl (fun s e => homeWrite s die part p.line e.1 [e.2] false) s

/-- The stores of a unit that a test selects, with every older store of their lines, reach their homes in order. -/
def drainWhere (s : State) (unit : Nat) (f : Pending → Bool) : State :=
  let ps := (getCore s unit).pending
  if ps.any f then
    let lines := (ps.filter f).map (·.line)
    let go := ps.filter fun p => lines.contains p.line
    let s := modCore s unit fun c => { c with pending := ps.filter fun p => !lines.contains p.line }
    go.foldl (fun s p =>
      performPending (unit / 32) (partOf s p.ctx) (portRequest s (coreOf p.ctx) p.tenant p.bytes.length) p) s
  else s

/-- The stores of a unit to one line reach their home. -/
def drainLine (s : State) (unit line : Nat) : State := drainWhere s unit fun p => p.line == line

/-- Set bit H of a written line in the core's CUR (R217, R231). -/
def signLine (s : State) (core line : Nat) : State := modCore s core fun c => { c with cur := c.cur ||| sigBit line }

/-- A line that an engine operation of a context has written, for its TLWAITs (R220). -/
def noteEng (s : State) (ctx : Nat) (op : Option (Nat × Nat)) (line : Nat) : State :=
  if op.isSome then modCtx s ctx fun c => { c with engSig := c.engSig ||| sigBit line } else s

-- Agents and translation (R229, R284 to R288).

/-- Who makes an access: the context it counts for, its partition, tenant and view (R262, R283), and the number of the
engine operation. -/
structure Agent where
  ctx : Nat
  part : Nat
  tenant : Nat
  view : Nat
  op : Option (Nat × Nat) := none
  deriving DecidableEq, Repr

/-- The view of a context, XHYP.NODE (R258). -/
def viewOf (c : Ctx) : Nat := fld c.xhyp 0 10

/-- The agent of a context's scalar access. -/
def agentOf (s : State) (id : Nat) : Agent :=
  let c := getCtx s id
  { ctx := id, part := partOf s id, tenant := c.tenant.toNat, view := viewOf c }

/-- The per-engine permissions, by their bit in the leaf (R285). -/
inductive Use where
  | ls | ar | aw | cr | cw | ms | fg
  deriving DecidableEq, Repr

/-- The leaf bit of a permission. -/
def Use.bit : Use → Nat
  | .ls => 3
  | .ar => 4
  | .aw => 5
  | .cr => 6
  | .cw => 7
  | .ms => 8
  | .fg => 9

/-- Where an address leads. -/
inductive Route where
  /-- The issuing core's scratchpad at an offset (R210). -/
  | scratch (off : Nat)
  /-- A page: its leaf and the physical address; the offset in the page. -/
  | page (lo hi : Word) (pa inPage : Nat)
  /-- No translation: the trap's cause. -/
  | bad (cause : Nat)
  deriving DecidableEq, Repr

/-- An address is canonical in the 57-bit space (R229). -/
def canonical (va : Word) : Bool := fld va 56 8 == 0 || fld va 56 8 == 255
/-- An address lies in the scratchpad window (R210). -/
def inWindow (va : Word) : Bool := decide (0xFFFFFFFFFFC00000 ≤ va.toNat)

/-- A sealed leaf. -/
def leafSeal (lo : Word) : Bool := bitAt lo 16
/-- A peer-window leaf. -/
def leafPeer (lo : Word) : Bool := bitAt lo 17
/-- The ORD value of a leaf: 0 RC, 1 SO, 2 UN (R212). -/
def leafOrd (lo : Word) : Nat := fld lo 10 2

/-- Stands for every tenant of a partition: the Docent's reads of a launch record (R369). -/
def anyTenant : Nat := 4096
/-- The owner check of a physical address (R288); host memory has none (R367). -/
def ownerOk (s : State) (part tenant pa : Nat) : Bool :=
  isHost pa ||
    (populatedPa pa &&
      let e := (smGetD s.frames (pa / 65536) 0).toNat
      natField e 0 2 == 3 && natField e 2 4 == part && (natField e 6 12 == tenant || natField e 6 12 == 4095 || tenant == anyTenant))

/-- The cause of a failed owner check: an access that was in flight on a link that has gone down gets poison (R372). -/
def ownerCause (s : State) (pa : Nat) : Nat := if (annexPort pa).any s.cutNow.contains then 6 else 3

/-- Address bits below the page size of a leaf at a level. -/
def pageBits (level : Nat) : Nat :=
  match level with
  | 0 => 16
  | 1 => 21
  | _ => 30

/-- The entry of a leaf: its checks and the address it gives (R285, R286). -/
def leafRoute (s : State) (part tenant level : Nat) (lo hi va : Word) : Route :=
  let pb := pageBits level
  let inPage := va.toNat % 2 ^ pb
  let pa := fld lo 28 36 * 65536 / 2 ^ pb * 2 ^ pb + inPage
  if fld lo 10 2 = 3 ∨ fld lo 12 2 = 3 then .bad 3
  else if leafSeal lo && leafPeer lo then .bad 3
  else if leafPeer lo then .page lo hi 0 inPage
  else if !ownerOk s part tenant pa then .bad (ownerCause s pa)
  else if leafSeal lo && !ownerOk s part tenant (fld hi 16 40 * 4096 + inPage / 512 * 32) then .bad 3
  else .page lo hi pa inPage

/-- The walk from a table of a level (R284, R286). A poisoned entry takes UCE (R347). -/
def walk (s : State) (part tenant : Nat) (va : Word) : Nat → Nat → Route
  | level, table =>
    let idx := if level = 0 then fld va 16 5 else fld va (12 + 9 * level) 9
    let e := table + 16 * idx
    let lo := BitVec.ofNat 64 (memNat s e 8)
    if memPoison s e 8 then .bad 6
    else if !bitAt lo 0 then .bad 3
    else if bitAt lo 1 then
      if 3 ≤ level then .bad 3 else leafRoute s part tenant level lo (BitVec.ofNat 64 (memNat s (e + 8) 8)) va
    else
      match level with
      | 0 => .bad 3
      | l + 1 => walk s part tenant va l (fld lo 9 43 * 512 / (if l = 0 then 512 else 8192) * (if l = 0 then 512 else 8192))

/-- The leaf grants an access (R252, R285). -/
def grants (lo : Word) (u : Use) (write : Bool) : Bool :=
  bitAt lo u.bit && (!write || bitAt lo 2) &&
    (if leafSeal lo then u == .cr || u == .cw else if leafPeer lo then u == .fg else true)

/-- Where an agent's address leads (R229): a cached translation that grants the access is used, else a walk. -/
def xlate (s : State) (ag : Agent) (u : Use) (write : Bool) (va : Word) : Route :=
  if inWindow va then .scratch (va.toNat % 2 ^ 22)
  else if !canonical va then .bad 3
  else
    let vf := va.toNat / 65536
    match (getDie s (dieOf ag.ctx)).tlb.find? (fun e => e.part == ag.part && e.tenant == ag.tenant && e.vframe == vf && grants e.lo u write) with
    | some e => .page e.lo e.hi (if leafPeer e.lo then 0 else e.pa + va.toNat % 65536) (e.inPage + va.toNat % 65536)
    | none => walk s ag.part ag.tenant va 4 (getPart s ag.part).root

/-- Cache a translation that an access has used (R286). DEDUCED (log entry 29). -/
def tlbNote (s : State) (ag : Agent) (va : Word) (r : Route) : State :=
  match r with
  | .page lo hi pa inPage =>
    let die := dieOf ag.ctx
    let vf := va.toNat / 65536
    let e : TlbEntry := { part := ag.part, tenant := ag.tenant, vframe := vf, lo := lo, hi := hi,
                          pa := pa / 65536 * 65536, inPage := inPage / 65536 * 65536 }
    if (getDie s die).tlb.contains e then s
    else modDie s die fun d =>
      { d with tlb := e :: d.tlb.filter fun t => !(t.part == ag.part && t.tenant == ag.tenant && t.vframe == vf) }
  | _ => s

/-- The point of a page: 0 P-L1, 1 P-H, 2 P-M (R212). -/
def pagePoint (lo : Word) (pa : Nat) : Nat :=
  if bitAt lo 14 || isHost pa then 2
  else
    match fld lo 12 2 with
    | 0 => if leafOrd lo = 1 then 1 else 0
    | n => n

-- Reads and writes of one line at a point.

/-- The copy that an access under a view hits (R264). -/
def hitCopy (cs : List CacheLine) (line part view : Nat) : Option CacheLine :=
  cs.find? fun c => c.line == line && (c.tag == none || c.tag == some (part, view))

/-- A copy's bytes with their poison (R346). -/
def copyBytes (c : CacheLine) : List PB :=
  if c.bad.isEmpty then clean c.bytes else (rangeFrom 0 c.bytes.length).zip c.bytes |>.map fun e => (e.2, c.bad.contains (e.1 / 8))

/-- The tag of a fill from the home (R264). -/
def fillTag (s : State) (part view line : Nat) : Option (Nat × Nat) :=
  if (versionsOf (getPart s part) line).isEmpty then none else some (part, view)

/-- Data queues bound on a core. -/
def boundQueues (s : State) (core : Nat) : Nat :=
  (s.ctxs.map fun e =>
    if coreOf e.1 == core then countIf (fun (h : Nat × Handle) => match h.2 with | .data _ _ => true | _ => false) e.2.q else 0).sum
/-- Lines of 64 bytes that the L1 array of a core holds: 1,024 KiB less 8 KiB for each data queue bound there (R12, R91). -/
def l1Lines (s : State) (core : Nat) : Nat := 16384 - 128 * boundQueues s core
/-- The copies of a core's array beyond its room go. -/
def trimL1 (s : State) (core : Nat) : State :=
  if l1Lines s core < (getCore s core).l1.length then modCore s core fun c => { c with l1 := c.l1.take (l1Lines s core) } else s
/-- A new copy makes room for itself: the one that was filled longest ago goes. DESIGN CHOICE (log entry 95). -/
def addCopy (n : Nat) (c : CacheLine) (cs : List CacheLine) : List CacheLine := (c :: cs).take n

/-- A copy after an access past it, as it stands now at the line's home, none where it cannot be kept (R215, R264). -/
def refreshCopy (s : State) (part : Nat) (c : CacheLine) : Option CacheLine :=
  if c.tag.isNone && !(versionsOf (getPart s part) c.line).isEmpty then none
  else
    let bs := match c.tag with
      | some (p, v) => visibleHome s p v c.line 0 64
      | none => (rangeFrom (64 * c.line) 64).map (committed s)
    if anyBad bs then none else some { c with bytes := bytesOf bs, bad := [], filled := s.cycle }
/-- The copies of a line after an access past them: up to date, or gone for `.str` (R215). -/
def refreshCopies (s : State) (part line : Nat) (drop : Bool) (cs : List CacheLine) : List CacheLine :=
  if drop then cs.filter fun c => c.line != line else cs.filterMap fun c => if c.line == line then refreshCopy s part c else some c
/-- An access at P-H or P-M leaves no stale copy of its line nearer the core (R215, R219). -/
def refreshLine (s : State) (ag : Agent) (line : Nat) (drop : Bool) : State :=
  let here := fun (cs : List CacheLine) => cs.any fun c => c.line == line
  let core := coreOf ag.ctx
  let s := if here (l1At s core line) then onL1 s core line (refreshCopies s ag.part line drop) else s
  if here (getDie s (dieOf ag.ctx)).visitors then
    modDie s (dieOf ag.ctx) fun d => { d with visitors := refreshCopies s ag.part line drop d.visitors }
  else s

/-- An agent's request at its core's port (R297). -/
def portAsk (s : State) (ag : Agent) (bytes : Nat) : State := portRequest s (coreOf ag.ctx) ag.tenant bytes

/-- The visitor copy that serves an access of a die to a line homed elsewhere (R208). -/
def dieCopy (s : State) (ag : Agent) (line : Nat) : Option CacheLine :=
  if homeDie line = dieOf ag.ctx then none else hitCopy (getDie s (dieOf ag.ctx)).visitors line ag.part ag.view

/-- The line as a die's L2 serves it, with the view tag that a copy of it takes: from a visitor copy of a line homed elsewhere,
or from the home (R208, R264). -/
def dieLine (s : State) (ag : Agent) (line : Nat) : List PB × Option (Nat × Nat) × State :=
  match dieCopy s ag line with
  | some c => (copyBytes c, c.tag, s)
  | none =>
    let bs := visibleHome s ag.part ag.view line 0 64
    let tag := fillTag s ag.part ag.view line
    if homeDie line = dieOf ag.ctx ∨ anyBad bs = true then (bs, tag, s)
    else (bs, tag, modDie s (dieOf ag.ctx) fun d =>
      { d with visitors := addCopy (16384 * d.home) { line := line, tag := tag, filled := s.cycle, bytes := bytesOf bs } d.visitors })

/-- The bytes of a unit's own stores that are still on their way, over a line as a copy with a view tag holds it. -/
def overlay (s : State) (unit line : Nat) (tag : Option (Nat × Nat)) (bs : List PB) : List PB :=
  let ps := (getCore s unit).pending.filter fun p => p.line == line
  if ps.isEmpty then bs
  else
    (rangeFrom 0 64).zip bs |>.map fun e =>
      if (match tag with | some (p, v) => shadowed s p v line e.1 | none => false) then e.2
      else ps.foldl (fun b p => (smGet p.bytes e.1).getD b) e.2

/-- A slice of a line's bytes. -/
def slice (bs : List PB) (off n : Nat) : List PB := (bs.drop off).take n

/-- Read bytes of one line at P-L1, filling the L1 (R207, R208, R264). -/
def readL1 (s : State) (ag : Agent) (line off n : Nat) : List PB × State :=
  let core := coreOf ag.ctx
  match hitCopy (l1At s core line) line ag.part ag.view with
  | some c => (slice (copyBytes c) off n, s)
  | none =>
    let (bs, tag, s) := dieLine (portAsk s ag 64) ag line
    let bs := overlay s (l1Unit s core) line tag bs
    if anyBad bs then (slice bs off n, s)
    else (slice bs off n,
      onL1 s core line (addCopy (l1Lines s (l1Array s core line)) { line := line, tag := tag, filled := s.cycle, bytes := bytesOf bs }))

/-- Bytes of one line as an agent that keeps no copy reads them at a point: at P-L1 through the copies nearer the core, and with
its unit's own stores (R207, R208, R219). -/
def peekLine (s : State) (ag : Agent) (point line off n : Nat) : List PB :=
  let core := coreOf ag.ctx
  if isHost (64 * line) then (rangeFrom (64 * line + off) n).map (committed s)
  else
    let home := (visibleHome s ag.part ag.view line 0 64, fillTag s ag.part ag.view line)
    if point = 0 then
      match hitCopy (l1At s core line) line ag.part ag.view with
      | some c => slice (copyBytes c) off n
      | none =>
        let (bs, tag) := ((dieCopy s ag line).map fun c => (copyBytes c, c.tag)).getD home
        slice (overlay s (l1Unit s core) line tag bs) off n
    else slice (overlay s (l1Unit s core) line home.2 home.1) off n

/-- Read bytes of one line at a point (R207, R233); past P-L1 nearer copies follow, or go with `drop`, as for `.str`
(R215). -/
def readLine (s : State) (ag : Agent) (point : Nat) (drop : Bool) (line off n : Nat) : List PB × State :=
  match point with
  | 0 => readL1 s ag line off n
  | _ =>
    let s := drainLine (portAsk s ag n) (l1Unit s (coreOf ag.ctx)) line
    if isHost (64 * line) then ((rangeFrom (64 * line + off) n).map (committed s), s)
    else (visibleHome s ag.part ag.view line off n, refreshLine s ag line drop)

/-- Write plain bytes of one line at a point; `drop` removes nearer copies, as `.str` does (R208, R215).
DEDUCED (log entry 6). -/
def writeLine (s : State) (ag : Agent) (point : Nat) (drop : Bool) (line off : Nat) (bs : List PB) : State :=
  let core := coreOf ag.ctx
  let unit := l1Unit s core
  let s := noteEng (signLine s core line) ag.ctx ag.op line
  match point with
  | 0 =>
    onL1 (modCore s unit fun c =>
        { c with pending := c.pending ++ [{ line := line, ctx := ag.ctx, tenant := ag.tenant, op := ag.op, bytes := offBytes off bs }] })
      core line (patchCopies s ag.part line off bs false)
  | _ =>
    let s := drainLine (portAsk s ag bs.length) unit line
    refreshLine (homeWrite s (dieOf ag.ctx) ag.part line off bs drop) ag line drop

-- Scratchpad and its map regions (R210, R211).

/-- Bytes of a core's scratchpad. -/
def scratchRead (s : State) (core off n : Nat) : List PB :=
  (rangeFrom off n).map fun i => (smGetD (getCore s core).scratch i 0, !s.poison.isEmpty && isPoison s (.scratch core (i / 8)))

/-- Write bytes of a core's scratchpad; a watch fires (R243). -/
def scratchWrite (s : State) (core off : Nat) (bs : List PB) : State :=
  let s := modCore s core fun c => { c with scratch := memSetCells c.scratch off (bytesOf bs) }
  let s := if s.poison.isEmpty then s
           else { s with poison := s.poison.filter fun p => !((wholeGranules off bs.length).map (PLoc.scratch core)).contains p }
  let s := if anyBad bs then
      (granules off bs.length).foldl
        (fun s g => if ((rangeFrom off bs.length).zip bs).any (fun e => e.1 / 8 == g && e.2.2) then setPoison s (.scratch core g) true else s) s
    else s
  if bs.isEmpty then s
  else (rangeFrom (off / 64) ((off + bs.length - 1) / 64 - off / 64 + 1)).foldl (fun s l => fireWatch s (watchScratch core (64 * l))) s

/-- The map region that holds a scratchpad offset. -/
def regionAt (c : Core) (off : Nat) : Option (Nat × Region) := c.regions.find? fun e => decide (e.2.off ≤ off ∧ off < e.2.off + e.2.len)

/-- The first granule of a scratchpad range that its map region has not filled: region and granule (R211). -/
def unfilled (c : Core) (off n : Nat) : Option (Nat × Nat) :=
  if c.regions.isEmpty then none
  else
    (rangeFrom (off / 4096) ((off + n - 1) / 4096 - off / 4096 + 1)).findSome? fun g =>
      match regionAt c (4096 * g) with
      | some (r, reg) => if reg.filled.contains (g - reg.off / 4096) then none else some (r, g - reg.off / 4096)
      | none => none

/-- The granules of a map region that a written range touches and that are not dirty yet. -/
def newDirty (r : Region) (off n : Nat) : List Nat :=
  ((rangeFrom (off / 4096) ((off + n - 1) / 4096 - off / 4096 + 1)).filter
    (fun g => decide (r.off ≤ 4096 * g ∧ 4096 * g < r.off + r.len) && !r.dirty.contains (g - r.off / 4096))).map
    (fun g => g - r.off / 4096)

/-- Mark the granules of a written range dirty (R211). -/
def markDirty (c : Core) (off n : Nat) : Core :=
  if c.regions.isEmpty ∨ n = 0 then c
  else { c with regions := c.regions.map fun e => (e.1, { e.2 with dirty := e.2.dirty ++ newDirty e.2 off n }) }

/-- A halted first-touch fill of a granule, of any context of the core (R211). -/
def fillHalt (s : State) (core region granule : Nat) : Option (Nat × CopyOp × Halt) :=
  s.ctxs.findSome? fun e =>
    if coreOf e.1 = core then
      e.2.copies.findSome? fun o =>
        match o.halt with
        | some h => if o.kind = .fill region granule then some (e.1, o, h) else none
        | none => none
    else none

-- Releases and acquires (R216 to R218).

/-- Scopes by their code (R228): 0 .cl, 1 .co, 2 .qd, 3 .di, 4 .pk, 5 .pd, 6 .sy. A `.sy` of a context under TSCOPE
counts as `.pk` (R300). -/
def wideScope (s : State) (id sc : Nat) : Bool := decide (3 ≤ sc) || (sc == 2 && !fusedQuad s (quadOf id))

/-- XTENANT.TSCOPE of a context (R282). -/
def tscope (s : State) (id : Nat) : Bool := ((smGet s.tenants (getCtx s id).tenant.toNat).map (·.tscope)).getD false

/-- The scope a context's ordering is performed at, and the mark that a `.sy` was demoted (R300, R326). -/
def demote (s : State) (id sc : Nat) : Nat × State :=
  if sc = 6 ∧ tscope s id = true then (4, modCtx s id fun c => { c with xstat := setBit c.xstat 1 true }) else (sc, s)

/-- The stores that a release of a context covers (R216): its own at every page kind (R208), and those of its unit that a
release at P-L1 has passed on, which it may have acquired. -/
def covered (id : Nat) (p : Pending) : Bool := p.op == none && (p.ctx == id || p.passed)
/-- The stores that a release covers reach their home; one at P-L1 passes them on to the contexts of the unit (R216). -/
def releaseDrain (s : State) (id sc : Nat) : State :=
  let unit := l1Unit s (coreOf id)
  if wideScope s id sc then drainWhere s unit (covered id)
  else if (getCore s unit).pending.isEmpty then s
  else modCore s unit fun c => { c with pending := c.pending.map fun p => if covered id p then { p with passed := true } else p }

/-- A release's own store, performed at P-L1, is one that the release passes on: an acquirer that reads it carries it with its
later releases (R216). -/
def passStore (s : State) (id line : Nat) : State :=
  let unit := l1Unit s (coreOf id)
  if (getCore s unit).pending.isEmpty then s
  else modCore s unit fun c => { c with pending := c.pending.map fun p => if covered id p && p.line == line then { p with passed := true } else p }

/-- Write a signature into the side-store entry of a line at its home: a new entry starts with all bits set, the least
recently used makes room, and the entry becomes the most recent (R217). -/
def sideWrite (s : State) (line : Nat) (sg : Sig) : State :=
  modDie s (homeDie line) fun d =>
    match d.side.find? (fun e => e.line == line) with
    | some e => { d with side := { e with sig := e.sig ||| sg } :: d.side.filter fun e => e.line != line }
    | none => { d with side := { line := line, sig := BitVec.allOnes 1024 } :: d.side.take 2047 }

/-- A release at a scope with its synchronising line, if it names one (R216, R217). -/
def release (s : State) (id sc : Nat) (line : Option Nat) : State :=
  let s := releaseDrain s id sc
  match line with
  | some l =>
    if wideScope s id sc && !isHost (64 * l) then
      let c := getCore s (coreOf id)
      sideWrite s l (c.cur ||| c.prv)
    else s
  | none => s

/-- Copies that an acquire leaves: their bit is clear in the signature and they are young enough (R217). -/
def keepCopies (s : State) (sg : Sig) (cs : List CacheLine) : List CacheLine :=
  cs.filter fun c => !inSig sg c.line && decide (since s c.filled ≤ 65536)

/-- Invalidate what an acquire at a scope selects by a signature, and carry the signature on (R216, R217). -/
def acquireSig (s : State) (id sc : Nat) (sg : Sig) : State :=
  if wideScope s id sc then
    let s := onL1s s (coreOf id) (keepCopies s sg)
    let s := if 4 ≤ sc then modDie s (dieOf id) fun d => { d with visitors := keepCopies s sg d.visitors } else s
    modCore s (coreOf id) fun c => { c with cur := c.cur ||| sg }
  else s

/-- An acquire that invalidates as for a signature of all ones (R218, R245). -/
def acquireAll (s : State) (id sc : Nat) : State := acquireSig s id sc (BitVec.allOnes 1024)

/-- An acquire of a synchronising line (R217): reading the entry makes it the most recently used. -/
def acquireLine (s : State) (id sc : Nat) (line : Nat) : State :=
  if !wideScope s id sc then s
  else if isHost (64 * line) then acquireAll s id sc
  else
    match (getDie s (homeDie line)).side.find? (fun e => e.line == line) with
    | some e => acquireSig (modDie s (homeDie line) fun d => { d with side := e :: d.side.filter fun x => x.line != line }) id sc e.sig
    | none => acquireAll s id sc

/-- Scope `.pd` and `.sy` wait for every earlier fabric write to be acknowledged (R216). -/
def fabricPending (c : Ctx) (sc : Nat) : Bool := decide (5 ≤ sc) && !(tcOf c 6).pending.isEmpty

-- Scalar accesses of the issuing context (R229 to R236).

/-- What becomes of an access. -/
inductive Acc where
  | done (bs : List PB) (s : State)
  | trap (t : Trap) (s : State)
  /-- The word stays and executes again. -/
  | stay (s : State)

/-- Change the halt of a context's copy operation. -/
def setHalt (s : State) (owner num : Nat) (h : Option Halt) : State :=
  modCtx s owner fun c => { c with copies := c.copies.map fun x => if x.num = num then { x with halt := h } else x }

/-- The mark of a halt delivered at the word that a context executes. -/
def toldHere (s : State) (id : Nat) : Option (Nat × Nat) := some (id, (getCtx s id).pc.toNat)

/-- The halt of a fill is delivered to the word that waits on it; the fill restarts when that word executes again
(R211, R330). -/
def takeFillHalt (s : State) (id owner : Nat) (o : CopyOp) (h : Halt) : Acc :=
  if h.told = toldHere s id then .stay (setHalt s owner o.num none)
  else
    .trap { cause := h.cause, src := 5, w := h.write, va := h.va }
      (setHalt s owner o.num (some { h with told := toldHere s id }))

/-- A scratchpad access waits for the first-touch fill of its granules (R211). -/
def touchScratch (s : State) (id off n : Nat) (k : State → Acc) : Acc :=
  match unfilled (getCore s (coreOf id)) off n with
  | none => k s
  | some (r, g) =>
    match fillHalt s (coreOf id) r g with
    | some (owner, o, h) => takeFillHalt s id owner o h
    | none => .stay (raise s [.mapFill id r g])

/-- A scalar load of `n` bytes inside one line (R233): `pol` is 0, 1 for `.byp`, 2 for `.str`. -/
def loadAt (pol : Nat) (va : Word) (n : Nat) (s : State) : Acc :=
  let id := s.cur
  let ag := agentOf s id
  match xlate s ag .ls false va with
  | .bad c => .trap { cause := c, va := va } s
  | .scratch off =>
    touchScratch s id off n fun s =>
      let bs := scratchRead s (coreOf id) off n
      if anyBad bs then .trap { cause := 6, va := va } s else .done bs s
  | .page lo hi pa inPage =>
    if !grants lo .ls false then .trap { cause := 4, va := va } s
    else if delayed s ag.part (pa / 64) then .stay (stallHere .resolve s)
    else
      let (bs, s) := readLine (tlbNote s ag va (.page lo hi pa inPage)) ag (max pol (pagePoint lo pa)) (pol == 2) (pa / 64) (pa % 64) n
      if anyBad bs then .trap { cause := 6, va := va } s else .done bs s

/-- A plain scalar store of bytes with their poison inside one line (R233, R347). -/
def storePB (pol : Nat) (va : Word) (bs : List PB) (s : State) : Acc :=
  let id := s.cur
  let ag := agentOf s id
  match xlate s ag .ls true va with
  | .bad c => .trap { cause := c, w := true, va := va } s
  | .scratch off =>
    touchScratch s id off bs.length fun s =>
      .done [] (scratchWrite (modCore s (coreOf id) fun c => markDirty c off bs.length) (coreOf id) off bs)
  | .page lo hi pa inPage =>
    if !grants lo .ls true then .trap { cause := 4, w := true, va := va } s
    else
      .done [] (writeLine (tlbNote s ag va (.page lo hi pa inPage)) ag (max pol (pagePoint lo pa)) (pol == 2)
        (pa / 64) (pa % 64) bs)
/-- A plain scalar store inside one line (R233). -/
def storeAt (pol : Nat) (va : Word) (bs : List Byte) (s : State) : Acc := storePB pol va (clean bs) s

/-- An access spans two 64-byte lines (R233). -/
def spansLine (va : Word) (n : Nat) : Bool := decide (64 < va.toNat % 64 + n)

/-- An address rounded down to a size (R234, R236). -/
def alignDown (va : Word) (n : Nat) : Word := BitVec.ofNat 64 (va.toNat / n * n)

/-- The value that loaded bytes hold. -/
def valueOf (bs : List PB) : Nat := leNat (bytesOf bs)

/-- The end of an access word: it takes and completes a tc.ls number (R230) and writes its result. -/
def accDone (e : Bool) (rd : Option (SReg × Word)) (s : State) : Out :=
  let s := onMe s fun c =>
    let c := tcStep c 0
    match rd with
    | some (d, v) => swrite c d v
    | none => c
  .next (retire e 4 s)

/-- Finish an access: its trap, its wait, or what follows it. -/
def Acc.bind (a : Acc) (k : List PB → State → Out) : Out :=
  match a with
  | .done bs s => k bs s
  | .trap t s => trapNext t s
  | .stay s => .next s

-- Atomics (R236).

/-- Read and write one operand inside one line as an indivisible step at its home, memory or scratchpad bank: `f` gives
the new bytes, none where nothing is written. `host` says that a host page can perform it. -/
def atomicAt (va : Word) (n : Nat) (host : Bool) (f : List PB → Option (List PB)) (s : State) : Acc :=
  let id := s.cur
  let ag := { agentOf s id with view := 0 }
  match xlate s ag .ls true va with
  | .bad c => .trap { cause := c, w := true, va := va } s
  | .scratch off =>
    touchScratch s id off n fun s =>
      let bs := scratchRead s (coreOf id) off n
      if anyBad bs then .trap { cause := 6, w := true, va := va } s
      else
        match f bs with
        | some new => .done bs (scratchWrite (modCore s (coreOf id) fun c => markDirty c off n) (coreOf id) off new)
        | none => .done bs s
  | .page lo hi pa inPage =>
    if !grants lo .ls true || (isHost pa && !host) then .trap { cause := 4, w := true, va := va } s
    else
      let line := pa / 64
      let s := tlbNote s ag va (.page lo hi pa inPage)
      let (num, s) := if isHost pa then draw s else (0, s)
      if isHost pa && !Config.hostAtomicOk num then .trap { cause := 6, w := true, va := va } s
      else
        let s := refreshLine (drainLine s (l1Unit s (coreOf id)) line) ag line false
        let bs := (rangeFrom pa n).map (committed s)
        if anyBad bs then .trap { cause := 6, w := true, va := va } s
        else
          match f bs with
          | some new => .done bs (writeLine s ag (max 1 (pagePoint lo pa)) false line (pa % 64) new)
          | none => .done bs (portAsk s ag n)

end Sys2Proof.Machine
end

