-- ==== Sys2Proof/Machine/Fetch.lean ====
section
/-! DEFINITION. Fetching and framing: the units of a word, bundle legality, the events of a bundle boundary, synced
groups, the loop buffer and the debug conditions that stand before a word executes (02 R21 to R26, R46, R70, R84). -/

namespace Sys2Proof.Machine

/-- What becomes of the fetch of a 32-bit unit. -/
inductive UnitRes where
  | unit (w : Nat)
  /-- PAGE, PERM or UCE (R22). -/
  | fault (cause : Nat)
  /-- A scratchpad granule has still to be filled (R211). -/
  | fill (region granule : Nat)
  /-- A resolve that is not applied yet delays the access (R267). -/
  | wait
  deriving DecidableEq, Repr

/-- Fetch one unit with LS read permission (R252). The fetch reads as a load at the page's point would, with the core's own stores
on their way, and makes no copy: the L1 is a data cache (R12). -/
def fetchUnit (s : State) (id : Nat) (va : Word) : UnitRes :=
  let ag := agentOf s id
  match xlate s ag .ls false va with
  | .bad c => .fault c
  | .scratch off =>
    match unfilled (getCore s (coreOf id)) off 4 with
    | some (r, g) => .fill r g
    | none =>
      let bs := scratchRead s (coreOf id) off 4
      if anyBad bs then .fault 6 else .unit (valueOf bs)
  | .page lo _ pa _ =>
    if !grants lo .ls false then .fault 4
    else if delayed s ag.part (pa / 64) then .wait
    else
      let bs := peekLine s ag (pagePoint lo pa) (pa / 64) (pa % 64) 4
      if anyBad bs then .fault 6 else .unit (valueOf bs)

/-- The unit at an address as the context executes it: from the loop buffer where it was captured, UCE where
poison lies there (R84, R87, R346). -/
def unitAt (s : State) (id : Nat) (va : Word) : UnitRes :=
  let c := getCtx s id
  if inBody c va then
    match smGet c.bodyBuf ((va.toNat - c.bodyAt.toNat) / 4) with
    | some w => if c.bodyBad.contains ((va.toNat - c.bodyAt.toNat) / 8) then .fault 6 else .unit w
    | none => fetchUnit s id va
  else fetchUnit s id va

/-- A unit comes from memory, not from the scratchpad or the loop buffer: the leaf and physical address of its fetch. -/
def fetchedFrom (s : State) (id : Nat) (va : Word) : Option (Word × Nat) :=
  let c := getCtx s id
  if inBody c va && (smGet c.bodyBuf ((va.toNat - c.bodyAt.toNat) / 4)).isSome then none
  else
    match xlate s (agentOf s id) .ls false va with
    | .page lo _ pa _ => some (lo, pa)
    | _ => none
/-- The fetch of a word of `n` units has been made: its bytes pass the core's port (R297), and where it was performed past the L1
no nearer copy of its lines is left stale (R215, R219). DEDUCED (log entry 96). -/
def noteFetch (s : State) (id n : Nat) (va : Word) : State :=
  let us := (rangeFrom 0 n).filterMap fun i => fetchedFrom s id (va + BitVec.ofNat 64 (4 * i))
  if us.isEmpty then s
  else
    let ag := agentOf s id
    ((us.filter fun e => pagePoint e.1 e.2 != 0).map fun e => e.2 / 64).eraseDups.foldl (fun s l => refreshLine s ag l false)
      (portAsk s ag (4 * us.length))

/-- The units of a word after its first, or the address and fate of the first that cannot be fetched. -/
def moreUnits (s : State) (id : Nat) : Nat → Word → Except (UnitRes × Word) (List Nat)
  | 0, _ => .ok []
  | n + 1, va =>
    match unitAt s id va with
    | .unit w =>
      match moreUnits s id n (va + 4) with
      | .ok ws => .ok (w :: ws)
      | .error e => .error e
    | r => .error (r, va)

/-- Units of a word by its first (R21). -/
def unitCount (w0 : Nat) : Nat := if natBit w0 31 then (if natBit w0 30 then 6 else 3) else 1

/-- The units of the word at an address (R21, R22). -/
def fetchWord (s : State) (id : Nat) (va : Word) : Except (UnitRes × Word) (List Nat) :=
  match unitAt s id va with
  | .unit w =>
    match moreUnits s id (unitCount w - 1) (va + 4) with
    | .ok ws => .ok (w :: ws)
    | .error e => .error e
  | r => .error (r, va)

/-- Position of a word in its bundle: 1 scalar, 2 vector, 3 matrix. -/
def wordKind (w0 : Nat) : Nat := if natBit w0 31 then (if natBit w0 30 then 3 else 2) else 1
/-- The E bit of a word (R27, R29, R36). -/
def wordE (w0 : Nat) : Bool := if natBit w0 31 then natBit w0 29 else natBit w0 30
/-- A SYNCB word (R77). -/
def isSyncb (w0 : Nat) : Bool := !natBit w0 31 && natField w0 23 7 == 0x1D

/-- What the words of a bundle say: whether it is legal, whether it is synced (R23, R26, R77), and the granule that the
look has to wait for (R211), or a resolve (R267). -/
structure Framing where
  legal : Bool
  synced : Bool
  need : Option UnitRes := none
  deriving DecidableEq, Repr

/-- Look through a bundle: the last position filled, a SYNCB seen, the S bit of its vector or matrix word. A word that
cannot be fetched ends the look; its own fetch traps when it is reached (R22). DEDUCED (log entry 27). -/
def frame (s : State) (id : Nat) : Nat → Word → Nat → Bool → Option Bool → Framing
  | 0, _, _, _, _ => { legal := false, synced := false }
  | f + 1, va, last, sb, sbit =>
    match unitAt s id va with
    | .unit w =>
      let k := wordKind w
      let sw := if k = 1 then sbit else some (natBit w 28)
      let sb := sb || isSyncb w
      if k ≤ last then { legal := false, synced := false }
      else if k ≠ 1 ∧ sbit.isSome ∧ sbit ≠ some (natBit w 28) then { legal := false, synced := false }
      else if k ≠ 1 ∧ sb = true ∧ natBit w 28 = false then { legal := false, synced := false }
      else if wordE w then { legal := true, synced := sb || sw == some true }
      else frame s id f (va + BitVec.ofNat 64 (4 * unitCount w)) k sb sw
    | .fill r g =>
      { legal := true, synced := sb || sbit == some true, need := if (fillHalt s (coreOf id) r g).isSome then none else some (.fill r g) }
    | .wait => { legal := true, synced := sb || sbit == some true, need := some .wait }
    | .fault _ => { legal := true, synced := sb || sbit == some true }

/-- Where an address lies in the rest of a bundle: the rest from there on, none outside it (R21, R25). -/
def restAt (s : State) (id : Nat) (t : Word) : Nat → HeldBundle → Option HeldBundle
  | 0, _ => none
  | f + 1, h =>
    if h.next = t then some h
    else
      match fetchUnit s id h.next with
      | .unit w => if wordE w then none else restAt s id t f { h with next := h.next + BitVec.ofNat 64 (4 * unitCount w) }
      | _ => none
/-- What the look through the rest of a bundle for an address has to wait for: a granule or a resolve. -/
def restStuck (s : State) (id : Nat) (t : Word) : Nat → Word → Option UnitRes
  | 0, _ => none
  | f + 1, a =>
    if a = t then none
    else
      match fetchUnit s id a with
      | .unit w => if wordE w then none else restStuck s id t f (a + BitVec.ofNat 64 (4 * unitCount w))
      | .fault _ => none
      | r => some r
/-- What the look through the frames of a context's handlers for an address has to wait for. -/
def framesStuck (s : State) (id : Nat) (t : Word) (fs : List Frame) : Option UnitRes :=
  fs.findSome? fun f => f.rest.bind fun h => restStuck s id t 3 h.next
/-- The part of a held bundle that starts at an address. -/
def restFrom (s : State) (id : Nat) (t : Word) (h : Option HeldBundle) : Option HeldBundle := h.bind (restAt s id t 3)
/-- What a return to an address takes up of a trap's frame (R25, R101). -/
def frameAtPc (s : State) (id : Nat) (t : Word) (f : Frame) : Frame :=
  { rest := restFrom s id t f.rest, adv := f.adv.filter fun x => x.1 == t }
/-- The frame that a return to an address takes up, and those left: the last one that holds the address, else the last one
ends with its handler (R25, R326). -/
def popFrame (s : State) (id : Nat) (t : Word) (fs : List Frame) : Frame × List Frame := (go fs).getD ({}, fs.drop 1)
where
  /-- The first frame of a list that holds the address. -/
  go : List Frame → Option (Frame × List Frame)
    | [] => none
    | f :: fs => if frameAtPc s id t f = {} then go fs else some (frameAtPc s id t f, fs)

/-- The bundle that starts at an address. -/
def framing (s : State) (id : Nat) (va : Word) : Framing := frame s id 4 va 0 false none

/-- The members of a context's synchronisation group: the clusters of its instance that share its core and have not
exited (R26). -/
def syncGroup (s : State) (id : Nat) : List Nat :=
  match (getCtx s id).member, launchOf s id with
  | some m, some l =>
    match l.insts.find? (fun i => i.serial == m.serial) with
    | some i => (i.members.filter fun e => e.2 != .gone && coreOf e.1 == coreOf id).map (·.1)
    | none => []
  | _, _ => []

/-- A member of a group waits at its synced bundle. -/
def atSync (s : State) (id : Nat) : Bool := (getCtx s id).run == .waiting && (getCtx s id).wait == some .sync

/-- A context waits for its group; the last to come lets the group issue (R26). -/
def waitSync (s : State) (id : Nat) : State :=
  let s := waitCtx id .sync none s
  match (getCtx s id).member with
  | some m => if (syncGroup s id).all (atSync s) then raise s [.syncedBundleIssue (coreOf id) m.lid m.serial] else s
  | none => s

/-- A context stands inside a bundle: older words of it have retired, or its first word is executing and stalls, as an
ADMIT in progress does, which is one step (R25, R55, R305). -/
def inBundle (c : Ctx) : Bool := c.mid || c.wait.isSome || c.homeAdmit.isSome

/-- A context that an ORPHAN without XOVEC has left to its EXIT stands there (R270). -/
def exitsHere (c : Ctx) : Bool := c.exiting == some c.pc && !c.mid && !bitAt c.xstat 0

/-- The event a context takes at a bundle boundary before anything else (R25, R70, R331, R351). -/
def boundaryEvent (s : State) (id : Nat) : Option Event :=
  let c := getCtx s id
  if exitsHere c then some (.orphan id)
  else if inBundle c then none
  else if (getNode (getPart s (partOf s id)) (viewOf c)).st = .refuted then some (.orphan id)
  else if c.ckpt then some (.ckpt id)
  else
    match c.prqDue with
    | some t => if reached s t = true ∧ t ≠ s.cycle ∧ draining c = false then some (.deadlineExpiry id) else none
    | none => none

/-- A debug condition that holds at the context's boundary: the matched address (R357). -/
def dbgHit (c : Ctx) : Option Word :=
  if inBundle c then none
  else if c.dbg.any (fun d => d == .address c.pc || d == .words 0) then some c.pc else none

/-- Conditions that do not hold at the boundary. -/
def dropDbg (c : Ctx) : Ctx := { c with dbg := c.dbg.filter fun d => !(d == .address c.pc || d == .words 0) }

/-- The context takes DBG, and the condition is spent (R329, R357). -/
def takeDbg (s : State) (id : Nat) (va : Word) : State := takeTrap id { cause := 18, va := va } (modCtx s id dropDbg)

/-- Add captured units from an index; a unit already captured stands. -/
def addUnits (b : List (Nat × Nat)) : Nat → List Nat → List (Nat × Nat)
  | _, [] => b
  | i, w :: ws => addUnits (if (smGet b i).isSome then b else smPut b i w) (i + 1) ws

/-- Capture the units of a word of an active body in the loop buffer (R84). -/
def capture (c : Ctx) (va : Word) (ws : List Nat) : Ctx :=
  if inBody c va then { c with bodyBuf := addUnits c.bodyBuf ((va.toNat - c.bodyAt.toNat) / 4) ws } else c

/-- What stands before a word's execution: an outcome of its own, or the instruction to execute. -/
inductive Ready where
  | out (o : Out)
  | event (e : Event)
  | go (i : Instr) (s : State)

/-- A fetch that fails: its trap at the word's W0, or the first touch of its granule (R22, R211). -/
def fetchFails (s : State) (id : Nat) (r : UnitRes) (va : Word) : Out :=
  match r with
  | .unit _ => .next s
  | .fault c => .next (takeTrap id { cause := c, src := 1, va := va } s)
  | .fill g n =>
    match fillHalt s (coreOf id) g n with
    | some (owner, o, h) => (takeFillHalt s id owner o h).bind fun _ s => .next s
    | none => .next (raise s [.mapFill id g n])
  | .wait => .next (stallHere .resolve s)

/-- Decode the fetched word (R44, R46), which executes now if it has stalled. -/
def decodeReady (s : State) (ws : List Nat) : Ready :=
  let s := noteFetch s s.cur ws.length (me s).pc
  match decode ws with
  | .ok i => .go i (onMe s fun c => { dropQadv (capture c c.pc ws) with wait := none })
  | .error _ => .out (trapNext (illop (ws.headD 0)) s)

/-- The next word of the issuing context: its boundary events, debug conditions, fetch, framing, group and decoding. A
synced bundle's group is waited for before its first word is decoded. DESIGN CHOICE (log entry 80). -/
def nextWord (s : State) : Ready :=
  let id := s.cur
  let c := me s
  match boundaryEvent s id with
  | some e => .event e
  | none =>
    match dbgHit c with
    | some va => .out (.next (takeDbg s id va))
    | none =>
      match fetchWord s id c.pc with
      | .error (r, va) => .out (fetchFails s id r va)
      | .ok ws =>
        if c.mid then decodeReady s ws
        else
          let f := framing s id c.pc
          if !f.legal then .out (trapNext (illop (ws.headD 0)) s)
          else if let some r := f.need then .out (fetchFails s id r c.pc)
          else if f.synced && !c.syncGo && decide (1 < (syncGroup s id).length) then .out (.next (waitSync s id))
          else decodeReady s ws

end Sys2Proof.Machine
end

