-- ==== Sys2Proof/Machine/Formats.lean ====
section
/-! DEFINITION. Number formats, exact values and rounding (05): Decode and RoundTo of R7, exact sums, products,
quotients and roots, comparisons, and the stochastic draws. -/

namespace Sys2Proof.Machine

/-- An exact value: NaN, an infinity, or (−1)^neg × m × 2^e. A zero keeps its sign. -/
inductive FVal where
  | nan
  | inf (neg : Bool)
  | fin (neg : Bool) (m : Nat) (e : Int)
  deriving DecidableEq, Repr

/-- Rounding modes; SR carries its draw (R114, R117, R118). -/
inductive Mode where
  | rne | rtz | rup | rdn
  | sr (d : Nat)
  deriving DecidableEq, Repr

/-- What a format does with its top exponent and beyond its range (R105, R114). -/
inductive Special where
  /-- Infinities and NaNs. -/
  | ieee
  /-- NaN only, at the all-ones pattern. -/
  | e4m3
  /-- Neither. -/
  | fp4
  deriving DecidableEq, Repr

/-- A floating format: exponent bits, mantissa bits, bias, special values (R105). -/
structure FloatFmt where
  eb : Nat
  mb : Nat
  bias : Int
  sp : Special
  deriving DecidableEq, Repr

def fp32 : FloatFmt := { eb := 8, mb := 23, bias := 127, sp := .ieee }
def fp16 : FloatFmt := { eb := 5, mb := 10, bias := 15, sp := .ieee }
def bf16 : FloatFmt := { eb := 8, mb := 7, bias := 127, sp := .ieee }
def e4m3 : FloatFmt := { eb := 4, mb := 3, bias := 7, sp := .e4m3 }
def e5m2 : FloatFmt := { eb := 5, mb := 2, bias := 15, sp := .ieee }
def fp4 : FloatFmt := { eb := 2, mb := 1, bias := 1, sp := .fp4 }

/-- A number format by its code (R103). -/
inductive Fmt where
  | float (f : FloatFmt)
  | int (w : Nat)
  | e8m0
  deriving DecidableEq, Repr

/-- The format of a code 0x0 to 0x9; VQ2 and the reserved codes have none here (R103). -/
def fmtOf (code : Nat) : Option Fmt :=
  match code with
  | 0 => some (.float fp32)
  | 1 => some (.float fp16)
  | 2 => some (.float bf16)
  | 3 => some (.float e4m3)
  | 4 => some (.float e5m2)
  | 5 => some (.float fp4)
  | 6 => some (.int 32)
  | 7 => some (.int 8)
  | 8 => some (.int 4)
  | 9 => some .e8m0
  | _ => none

/-- Bits of an element of a format code (R103). -/
def fmtBits (code : Nat) : Nat :=
  match code with
  | 0 => 32
  | 1 => 16
  | 2 => 16
  | 3 => 8
  | 4 => 8
  | 5 => 4
  | 6 => 32
  | 7 => 8
  | 8 => 4
  | 9 => 8
  | _ => 16

/-- The format code of an element type (R30, R103). -/
def tyFmt (ty : BitVec 3) : Nat :=
  match ty.toNat with
  | 0 => 7
  | 1 => 10
  | 2 => 6
  | 3 => 3
  | 4 => 4
  | 5 => 1
  | 6 => 2
  | _ => 0

/-- The exponent of the spacing of subnormals. -/
def FloatFmt.emin (f : FloatFmt) : Int := 1 - f.bias - f.mb
/-- The exponent of the spacing of the top binade (R114). -/
def FloatFmt.qmax (f : FloatFmt) : Int :=
  (match f.sp with
   | .ieee => (2 ^ f.eb - 2 : Int)
   | _ => (2 ^ f.eb - 1 : Int)) - f.bias - f.mb
/-- The largest finite value in units of 2^qmax (R105). -/
def FloatFmt.kmax (f : FloatFmt) : Nat :=
  match f.sp with
  | .e4m3 => 2 ^ (f.mb + 1) - 2
  | _ => 2 ^ (f.mb + 1) - 1
/-- All bits of a format but its sign. -/
def FloatFmt.signBit (f : FloatFmt) : Nat := 2 ^ (f.eb + f.mb)
/-- The pattern of the largest finite value. -/
def FloatFmt.maxBits (f : FloatFmt) : Nat := ((f.qmax - f.emin).toNat) * 2 ^ f.mb + f.kmax
/-- The pattern of +Inf, for a format that has one. -/
def FloatFmt.infBits (f : FloatFmt) : Nat := (2 ^ f.eb - 1) * 2 ^ f.mb
/-- The canonical NaN (R105, R106); FP4 has none and takes +0 (R114). -/
def FloatFmt.nanBits (f : FloatFmt) : Nat :=
  match f.sp with
  | .ieee => f.infBits + 2 ^ (f.mb - 1)
  | .e4m3 => 2 ^ (f.eb + f.mb) - 1
  | .fp4 => 0

/-- Decode of a floating pattern (R105 to R107). -/
def decodeFloat (f : FloatFmt) (x : Nat) : FVal :=
  let neg := natBit x (f.eb + f.mb)
  let ex := natField x f.mb f.eb
  let man := natField x 0 f.mb
  if f.sp = .ieee ∧ ex = 2 ^ f.eb - 1 then (if man = 0 then .inf neg else .nan)
  else if f.sp = .e4m3 ∧ ex = 2 ^ f.eb - 1 ∧ man = 2 ^ f.mb - 1 then .nan
  else if ex = 0 then .fin neg man f.emin
  else .fin neg (man + 2 ^ f.mb) (f.emin + ex - 1)

/-- The signed value of the low `w` bits. -/
def signedOf (w x : Nat) : Int :=
  let y := x % 2 ^ w
  if y < 2 ^ (w - 1) then (y : Int) else (y : Int) - 2 ^ w

/-- An integer as an exact value. -/
def intVal (i : Int) : FVal := .fin (decide (i < 0)) i.natAbs 0

/-- Decode(fmt, bits) (R7). -/
def decodeFmt (f : Fmt) (x : Nat) : FVal :=
  match f with
  | .float f => decodeFloat f x
  | .int w => intVal (signedOf w x)
  | .e8m0 => if x % 256 = 255 then .nan else .fin false 1 ((x % 256 : Nat) - 127 : Int)

/-- The number of bits of `m` minus one. -/
def log2 (m : Nat) : Nat := Nat.log2 m

/-- Whether a magnitude k with remainder r of 2^sh rounds away from zero (R114). -/
def roundsUp (mode : Mode) (neg : Bool) (k r sh : Nat) : Bool :=
  if r = 0 then false
  else
    match mode with
    | .rne => decide (2 * r > 2 ^ sh) || (decide (2 * r = 2 ^ sh) && k % 2 == 1)
    | .rtz => false
    | .rup => !neg
    | .rdn => neg
    | .sr d =>
      if neg then !decide (d < (2 ^ sh - r) * 2 ^ 32 / 2 ^ sh) else decide (d < r * 2 ^ 32 / 2 ^ sh)

/-- m × 2^e in units of 2^q, rounded to a whole number. -/
def roundMag (mode : Mode) (neg : Bool) (m : Nat) (e q : Int) : Nat :=
  if q ≤ e then m * 2 ^ (e - q).toNat
  else
    let sh := (q - e).toNat
    let k := m / 2 ^ sh
    if roundsUp mode neg k (m % 2 ^ sh) sh then k + 1 else k

/-- The fate of an overflow (R114). -/
def overflowBits (f : FloatFmt) (mode : Mode) (neg sat : Bool) : Nat :=
  let s := bitNat neg * f.signBit
  let toInf :=
    match mode with
    | .rne => true
    | .rtz => false
    | .rup => !neg
    | .rdn => neg
    | .sr _ => true
  if sat || !toInf || f.sp == .fp4 then s + f.maxBits
  else if f.sp == .e4m3 then f.nanBits else s + f.infBits

/-- RoundTo for a floating format, with saturation (R114). -/
def roundFloat (f : FloatFmt) (sat : Bool) (mode : Mode) (v : FVal) : Nat :=
  match v with
  | .nan => f.nanBits
  | .inf neg =>
    if sat || f.sp == .fp4 then bitNat neg * f.signBit + f.maxBits
    else if f.sp == .e4m3 then f.nanBits else bitNat neg * f.signBit + f.infBits
  | .fin neg m e =>
    let q := min f.qmax (max f.emin ((log2 m : Int) + e - f.mb))
    let k := roundMag mode neg m e q
    if k = 0 then bitNat neg * f.signBit
    else if q = f.qmax ∧ f.kmax < k then overflowBits f mode neg sat
    else bitNat neg * f.signBit + (q - f.emin).toNat * 2 ^ f.mb + k

/-- A finite value rounded to an integer (R115). -/
def roundInt (mode : Mode) (neg : Bool) (m : Nat) (e : Int) : Int :=
  let k : Int := roundMag mode neg m e 0
  if neg then -k else k

/-- An integer clamped to a signed width. -/
def clampInt (w : Nat) (i : Int) : Int := max (-(2 ^ (w - 1))) (min (2 ^ (w - 1) - 1) i)

/-- RoundTo for an integer format before clamping to the width: NaN gives 0, an infinity the limit (R115). -/
def roundToInt (w : Nat) (mode : Mode) (v : FVal) : Int :=
  match v with
  | .nan => 0
  | .inf neg => if neg then -(2 ^ (w - 1)) else 2 ^ (w - 1) - 1
  | .fin neg m e => roundInt mode neg m e

/-- The two's-complement pattern of an integer at a width. -/
def intBits (w : Nat) (i : Int) : Nat := (i % (2 ^ w : Int)).toNat

/-- E8M0 as destination (R120). -/
def toE8m0 (v : FVal) : Nat :=
  match v with
  | .nan => 255
  | .inf _ => 255
  | .fin _ m e => if m = 0 then 0 else (max 0 (min 254 ((log2 m : Int) + e + 127))).toNat

/-- RoundTo(fmt, x, mode) with saturation (R114, R115, R120). -/
def roundTo (f : Fmt) (sat : Bool) (mode : Mode) (v : FVal) : Nat :=
  match f with
  | .float f => roundFloat f sat mode v
  | .int w => intBits w (clampInt w (roundToInt w mode v))
  | .e8m0 => toE8m0 v

/-- A conversion between formats under R120: integers narrow by clamping or by keeping low bits. -/
def convert (dst src : Fmt) (sat : Bool) (mode : Mode) (x : Nat) : Nat :=
  match dst, src with
  | .int wd, .int ws => if sat then intBits wd (clampInt wd (signedOf ws x)) else intBits wd (signedOf ws x)
  | .e8m0, .e8m0 => x % 256
  | _, _ => roundTo dst sat mode (decodeFmt src x)

/-- Whether an output element is out of range by its conversion alone (R125). -/
def outOfRange (f : Fmt) (sat : Bool) (mode : Mode) (v : FVal) : Bool :=
  match f with
  | .float f =>
    if sat then roundFloat f true mode v != roundFloat f false mode v
    else
      match decodeFloat f (roundFloat f false mode v) with
      | .nan => v != .nan
      | .inf _ => true
      | .fin _ _ _ => false
  | .int w => decide (clampInt w (roundToInt w mode v) ≠ roundToInt w mode v) || (match v with | .inf _ => true | _ => false)
  | .e8m0 => false

/-- The sign of a value that is not NaN. -/
def FVal.neg : FVal → Bool
  | .nan => false
  | .inf n => n
  | .fin n _ _ => n

/-- The value with its sign turned. -/
def FVal.negate : FVal → FVal
  | .nan => .nan
  | .inf n => .inf (!n)
  | .fin n m e => .fin (!n) m e

/-- The magnitude. -/
def FVal.absV : FVal → FVal
  | .nan => .nan
  | .inf _ => .inf false
  | .fin _ m e => .fin false m e

/-- A value is zero. -/
def FVal.isZero : FVal → Bool
  | .fin _ m _ => m == 0
  | _ => false

/-- A finite value as a signed whole number of units 2^q, q at most its exponent. -/
def scaledInt (neg : Bool) (m : Nat) (e q : Int) : Int :=
  let k : Int := m * 2 ^ (e - q).toNat
  if neg then -k else k

/-- The exact sum. A zero sum of opposite signs is +0, or −0 when `rdn` (R147, R151). -/
def addV (rdn : Bool) (a b : FVal) : FVal :=
  match a, b with
  | .nan, _ => .nan
  | _, .nan => .nan
  | .inf x, .inf y => if x = y then .inf x else .nan
  | .inf x, _ => .inf x
  | _, .inf y => .inf y
  | .fin x m e, .fin y n d =>
    if m = 0 ∧ n = 0 then .fin (if x = y then x else rdn) 0 0
    else
      let q := min e d
      let i := scaledInt x m e q + scaledInt y n d q
      if i = 0 then .fin rdn 0 q else .fin (decide (i < 0)) i.natAbs q

/-- The exact product (R147). -/
def mulV (a b : FVal) : FVal :=
  match a, b with
  | .nan, _ => .nan
  | _, .nan => .nan
  | .inf x, .inf y => .inf (x != y)
  | .inf x, .fin y n _ => if n = 0 then .nan else .inf (x != y)
  | .fin x m _, .inf y => if m = 0 then .nan else .inf (x != y)
  | .fin x m e, .fin y n d => .fin (x != y) (m * n) (e + d)

/-- A quotient of whole numbers with 200 further bits, its last bit sticky: rounding it rounds the exact quotient,
since no format here resolves more than 64 bits (R114, R117). -/
def stickyDiv (m n : Nat) : Nat × Int :=
  let sh := 200 + log2 n
  let q := m * 2 ^ sh / n
  (2 * q + (if m * 2 ^ sh % n = 0 then 0 else 1), -(sh : Int) - 1)

/-- The quotient (R147). -/
def divV (a b : FVal) : FVal :=
  match a, b with
  | .nan, _ => .nan
  | _, .nan => .nan
  | .inf _, .inf _ => .nan
  | .inf x, .fin y _ _ => .inf (x != y)
  | .fin x _ _, .inf y => .fin (x != y) 0 0
  | .fin x m e, .fin y n d =>
    if n = 0 then (if m = 0 then .nan else .inf (x != y))
    else .fin (x != y) (stickyDiv m n).1 (e - d + (stickyDiv m n).2)

/-- The integer square root, one result bit a step from bit `fuel - 1` down. -/
def isqrtGo : Nat → Nat → Nat → Nat
  | 0, _, r => r
  | i + 1, n, r => if (r + 2 ^ i) * (r + 2 ^ i) ≤ n then isqrtGo i n (r + 2 ^ i) else isqrtGo i n r

/-- The integer square root. -/
def isqrt (n : Nat) : Nat := isqrtGo (log2 n / 2 + 1) n 0

/-- √(m × 2^e) of a positive number, with a sticky last bit. -/
def stickySqrt (m : Nat) (e : Int) : Nat × Int :=
  let odd := e % 2
  let sh : Nat := 400
  let n := m * 2 ^ (sh + odd.toNat)
  let r := isqrt n
  (2 * r + (if r * r = n then 0 else 1), (e - odd - sh) / 2 - 1)

/-- The square root (R147). -/
def sqrtV (a : FVal) : FVal :=
  match a with
  | .nan => .nan
  | .inf n => if n then .nan else .inf false
  | .fin n m e =>
    if m = 0 then .fin n 0 0 else if n then .nan else .fin false (stickySqrt m e).1 (stickySqrt m e).2

/-- The order of two values, none where either is NaN; −0 equals +0 (R148). -/
def cmpV (a b : FVal) : Option Ordering :=
  match a, b with
  | .nan, _ => none
  | _, .nan => none
  | .inf x, .inf y => some (if x = y then .eq else if x then .lt else .gt)
  | .inf x, _ => some (if x then .lt else .gt)
  | _, .inf y => some (if y then .gt else .lt)
  | .fin x m e, .fin y n d =>
    let q := min e d
    some (compare (scaledInt x m e q) (scaledInt y n d q))

/-- a < b with −0 < +0, for minima and maxima (R147, R153). -/
def ltMin (a b : FVal) : Bool :=
  match cmpV a b with
  | some .lt => true
  | some .eq => a.neg && !b.neg
  | _ => false

/-- The lesser of two values; NaN prevails. -/
def minV (a b : FVal) : FVal := if a = .nan ∨ b = .nan then .nan else if ltMin b a then b else a
/-- The greater of two values; NaN prevails. -/
def maxV (a b : FVal) : FVal := if a = .nan ∨ b = .nan then .nan else if ltMin a b then b else a

/-- One draw of the generator of R117, from its 32-bit state. -/
def drawStep (v : BitVec 32) : BitVec 32 :=
  let v := if v = 0 then 0x9E3779B9#32 else v
  let v := v ^^^ (v <<< 13)
  let v := v ^^^ (v >>> 17)
  v ^^^ (v <<< 5)

/-- Mix32 of R118. -/
def mix32 (z : BitVec 32) : BitVec 32 :=
  let z := z ^^^ (z >>> 16)
  let z := z * 0x7FEB352D#32
  let z := z ^^^ (z >>> 15)
  let z := z * 0x846CA68B#32
  z ^^^ (z >>> 16)

/-- The draw of a tile word's result element (R118). -/
def tileDraw (tkey m n : Nat) : Nat :=
  (mix32 (BitVec.ofNat 32 tkey ^^^ mix32 (BitVec.ofNat 32 (m + n * 2 ^ 16)))).toNat

/-- The eight weights of a VQ2 index under a scale (R110). -/
def decodeVq2 (idx scale : Nat) : List FVal :=
  if scale % 256 = 255 then List.replicate 8 .nan
  else
    let negs := (rangeFrom 0 7).filter fun i => natBit idx (1 + i)
    let sh := if natBit idx 0 then 1 else 0
    (rangeFrom 0 8).map fun i =>
      let neg := if i = 7 then negs.length % 2 == 1 else natBit idx (1 + i)
      .fin neg (if natBit idx (8 + i) then 3 else 1) ((scale % 256 : Nat) - 127 - 1 + sh : Int)

end Sys2Proof.Machine
end

