-- ==== Sys2Proof/Machine/Flags.lean ====
section
/-! DEFINITION. Condition results: comparisons of integers and floating values, the bit a compare writes, the row bits
of a vector compare, and the status words that several entries share. The part has no arithmetic status flags (R136,
R146); its conditions are bits of scalar registers and rows of masks. -/

namespace Sys2Proof.Machine

/-- The six relations of the compares (R140, R148, R156). -/
inductive Rel where
  | eq | ne | lt | le | gt | ge
  deriving DecidableEq, Repr

/-- A relation as an ordering decides it. -/
def Rel.holds (r : Rel) (o : Ordering) : Bool :=
  match r with
  | .eq => o == .eq
  | .ne => o != .eq
  | .lt => o == .lt
  | .le => o != .gt
  | .gt => o == .gt
  | .ge => o != .lt

/-- A signed relation of two words (R140). -/
def relS (r : Rel) (a b : Word) : Bool := r.holds (compare a.toInt b.toInt)
/-- An unsigned relation of two words (R140). -/
def relU (r : Rel) (a b : Word) : Bool := r.holds (compare a.toNat b.toNat)

/-- A relation of two floating values: only "not equal" holds with a NaN (R148, R156). -/
def relF (r : Rel) (a b : FVal) : Bool :=
  match cmpV a b with
  | some o => r.holds o
  | none => r == .ne

/-- Either value is a NaN. -/
def unordered (a b : FVal) : Bool := (cmpV a b).isNone

/-- A scalar compare's destination register (R27). -/
def sdReg (sd : BitVec 5) : SReg := BitVec.ofNat 6 sd.toNat

/-- Write one condition bit of an s register and keep the others (R140). -/
def writeCond (sd : BitVec 5) (bit : BitVec 6) (v : Bool) (c : Ctx) : Ctx :=
  swrite c (sdReg sd) (setBit (sread c (sdReg sd)) bit.toNat v)

/-- Write 16 row bits at a position of an s register; s0 discards them (R33). -/
def writeRowBits (r : SReg) (pos : Nat) (bits : Nat) (c : Ctx) : Ctx := swrite c r (setFld (sread c r) pos 16 bits)

end Sys2Proof.Machine
end

