-- ==== Sys2Proof/Machine/Operands.lean ====
section
/-! DEFINITION. Operand forms of scalar words: sources with their poison, immediates, destinations, displacements,
rounding modes and draws, and privilege and light-context checks (R28, R46, R53, R57, R117, R133, R347). -/

namespace Sys2Proof.Machine

/-- A source register of the issuing context is poisoned (R347). s0 is no storage. DEDUCED (log entry 32). -/
def srcBad (s : State) (r : SReg) : Bool := !s.poison.isEmpty && r != 0 && isPoison s (.sreg s.cur r.toNat)

/-- A word that reads a poisoned source traps UCE at that word; XTRAPVA is 0 for on-chip state (R325, R347). -/
def withSrc (rs : List SReg) (s : State) (k : State → Out) : Out :=
  if rs.any (srcBad s) then trapNext { cause := 6 } s else k s

/-- Write a scalar result: the register holds good data again. -/
def setReg (s : State) (d : SReg) (v : Word) : State :=
  let s := ws s d v
  if s.poison.isEmpty then s else setPoison s (.sreg s.cur d.toNat) false

/-- Write a scalar result and retire a scalar word. -/
def result (e : Bool) (d : SReg) (v : Word) (s : State) : Out := .next (retire e 4 (setReg s d v))

/-- The shape of a register-only scalar word: sources, then one destination (R133, R135). -/
def scalarOp (e : Bool) (d : SReg) (srcs : List SReg) (v : State → Word) (s : State) : Out :=
  withSrc srcs s fun s => result e d (v s) s

/-- The shape of a scalar compare (R140). Its destination register keeps its other bits, so it is read too. -/
def compareOp (e : Bool) (sd : BitVec 5) (bit : BitVec 6) (a b : SReg) (v : State → Bool) (s : State) : Out :=
  withSrc [a, b, sdReg sd] s fun s => .next (retire e 4 (onMe s (writeCond sd bit (v s))))

/-- imm11 sign-extended (R137). -/
def sext11 (i : BitVec 11) : Word := i.signExtend 64
/-- imm11 zero-extended (R137). -/
def zext11 (i : BitVec 11) : Word := i.setWidth 64

/-- A branch target: the word's address plus 4 × displacement, its low bits zero (R22, R28). -/
def target (pc : Word) (disp : Word) : Word := BitVec.ofNat 64 ((pc + 4 * disp).toNat / 4 * 4)
/-- An address with bits [1:0] zero (R22). -/
def aligned4 (a : Word) : Word := BitVec.ofNat 64 (a.toNat / 4 * 4)

/-- ILLOP for a field check that needs the machine's state, at an executing word. -/
def illopOf (i : Instr) (s : State) : Out := trapNext (illop (headUnit i)) s
/-- PRIV at an executing word. -/
def privOf (i : Instr) (s : State) : Out := trapNext (priv (headUnit i)) s

/-- Words that a light context has no state for trap ILLOP there (R53, R144). -/
def fullOnly (i : Instr) (s : State) (k : State → Out) : Out := if isLight s.cur then illopOf i s else k s

/-- Supervisor-only forms trap PRIV below priority 120 (R46). No word of a stream is the hypervisor's. -/
def supervisorOnly (i : Instr) (s : State) (k : State → Out) : Out := if isSupervisor (me s) then k s else privOf i s

/-- The rounding mode of XFMT.RM (R116). -/
def rmCode (c : Ctx) : Nat := fld c.xfmt 0 3

/-- A mode code with its draw for SR (R114, R117). -/
def modeOf (code d : Nat) : Mode :=
  match code with
  | 0 => .rne
  | 1 => .rtz
  | 2 => .rup
  | 3 => .rdn
  | _ => .sr d

/-- One draw of the context's generator (R117). -/
def takeDraw (c : Ctx) : Nat × Ctx :=
  let v := drawStep (BitVec.ofNat 32 (fld c.xseed 0 32))
  (v.toNat, { c with xseed := setFld c.xseed 0 32 v.toNat })

/-- The mode of a scalar rounding: under SR the word takes one draw (R117, R146). -/
def scalarMode (c : Ctx) : Mode × Ctx :=
  if rmCode c = 4 then
    let (d, c) := takeDraw c
    (.sr d, c)
  else (modeOf (rmCode c) 0, c)

/-- The FP32 value in the low half of a register (R146). -/
def f32 (w : Word) : FVal := decodeFloat fp32 (w.toNat % 2 ^ 32)
/-- A rounding mode turns exact zero sums to −0 (R147). -/
def isRdn (m : Mode) : Bool :=
  match m with
  | .rdn => true
  | _ => false

/-- Read XFMT, and under SR the generator's state: poison in them traps UCE (R117, R347). -/
def withMode (s : State) (k : State → Out) : Out :=
  if !s.poison.isEmpty && (isPoison s (.xreg s.cur 0x18) || (rmCode (me s) == 4 && isPoison s (.xreg s.cur 0x19))) then
    trapNext { cause := 6 } s
  else k s

/-- The shape of a rounding floating word: the exact value from the mode, rounded once to FP32 (R146, R147). -/
def fpOp (e : Bool) (d : SReg) (srcs : List SReg) (v : State → Mode → FVal) (s : State) : Out :=
  withSrc srcs s fun s => withMode s fun s =>
    let (m, c) := scalarMode (me s)
    result e d (BitVec.ofNat 64 (roundFloat fp32 false m (v s m))) (onMe s fun _ => c)

/-- The shape of a floating word that does not round: FMIN, FMAX, FABS, FNEG (R147). -/
def fpExact (e : Bool) (d : SReg) (srcs : List SReg) (v : State → FVal) (s : State) : Out :=
  withSrc srcs s fun s => result e d (BitVec.ofNat 64 (roundFloat fp32 false .rne (v s))) s

end Sys2Proof.Machine
end

