-- ==== Sys2Proof/Machine/Crypto.lean ====
section
/-! DEFINITION. The standard algorithms that the spec names: AES-256 with GCM and CMAC (R291, R308, R338), the
counter-mode KDF of SP 800-108 (R335) and SHA-384 (R361). They are the published standards; the order in which a
number becomes bytes follows R4. PRESUMED (log entry 17). Blocks and words are numbers, first byte most significant;
`evald` marks where a number is worked out before it is used, so that Lean's kernel can run the algorithms. -/

namespace Sys2Proof.Machine

/-- `k n`, with `n` worked out first: matching on a number evaluates it. -/
def evald {α : Type} (n : Nat) (k : Nat → α) : α := match n with | 0 => k 0 | m + 1 => k (m + 1)
@[simp] theorem evald_eq {α : Type} (n : Nat) (k : Nat → α) : evald n k = k n := by cases n <;> rfl

/-- A number as `n` bytes, most significant first. -/
def beBytes (n x : Nat) : List Byte := (leBytes n x).reverse
/-- The number that bytes hold, most significant first, after a number `a`. -/
def beGo : List Byte → Nat → Nat
  | [], a => a
  | b :: bs, a => evald (256 * a + b.toNat) fun a => beGo bs a
def beNat (bs : List Byte) : Nat := beGo bs 0
/-- Cut a list into pieces of `k`; `fuel` bounds the pieces. -/
def chunks {α : Type} (k : Nat) : Nat → List α → List (List α)
  | 0, _ => []
  | f + 1, xs => if xs.isEmpty then [] else xs.take k :: chunks k f (xs.drop k)
/-- Bitwise sum of byte lists, as long as the shorter. -/
def xorBytes (a b : List Byte) : List Byte := (a.zip b).map fun e => e.1 ^^^ e.2
/-- The sum of `f i` over the numbers of a list, worked out term by term. -/
def sumOver (f : Nat → Nat) : List Nat → Nat → Nat
  | [], a => a
  | i :: is, a => evald (a + f i) fun a => sumOver f is a
/-- A list of numbers, each worked out, handed on. -/
def withAll {α : Type} : List Nat → (List Nat → α) → α
  | [], k => k []
  | n :: ns, k => evald n fun n => withAll ns fun ns => k (n :: ns)

-- AES-256.

/-- Multiplication by x in AES's field. -/
def xtime (a : Nat) : Nat := if 128 ≤ a then (2 * a) ^^^ 0x11B else 2 * a
/-- Multiplication in AES's field: `r` gathers the products of the bits of `b`. -/
def gmulGo : Nat → Nat → Nat → Nat → Nat
  | 0, _, _, r => r
  | n + 1, a, b, r => evald (if natBit b 0 then r ^^^ a else r) fun r => evald (xtime a) fun a => gmulGo n a (b / 2) r
def gmul (a b : Nat) : Nat := gmulGo 8 a b 0
/-- a to the power 2^n - 2, by squarings: the inverse for n = 8. -/
def ginvGo : Nat → Nat → Nat → Nat
  | 0, _, r => r
  | n + 1, sq, r => evald (gmul r sq) fun r => evald (gmul sq sq) fun sq => ginvGo n sq r
def ginv (a : Nat) : Nat := evald (gmul a a) fun sq => ginvGo 7 sq 1
/-- A byte rotated left. -/
def rotl8 (b k : Nat) : Nat := b * 2 ^ k % 256 + b / 2 ^ (8 - k)
/-- The S-box as FIPS 197 defines it: the inverse, then an affine map. -/
def sboxOf (a : Nat) : Nat :=
  evald (ginv a) fun b => b ^^^ rotl8 b 1 ^^^ rotl8 b 2 ^^^ rotl8 b 3 ^^^ rotl8 b 4 ^^^ 0x63
/-- The rows of the S-box's table, the entry of the lowest byte first in each. -/
def sboxRows : List Nat :=
  [0x637C777BF26B6FC53001672BFED7AB76, 0xCA82C97DFA5947F0ADD4A2AF9CA472C0,
   0xB7FD9326363FF7CC34A5E5F171D83115, 0x04C723C31896059A071280E2EB27B275,
   0x09832C1A1B6E5AA0523BD6B329E32F84, 0x53D100ED20FCB15B6ACBBE394A4C58CF,
   0xD0EFAAFB434D338545F9027F503C9FA8, 0x51A3408F929D38F5BCB6DA2110FFF3D2,
   0xCD0C13EC5F974417C4A77E3D645D1973, 0x60814FDC222A908846EEB814DE5E0BDB,
   0xE0323A0A4906245CC2D3AC629195E479, 0xE7C8376D8DD54EA96C56F4EA657AAE08,
   0xBA78252E1CA6B4C6E8DD741F4BBD8B8A, 0x703EB5664803F60E613557B986C11D9E,
   0xE1F8981169D98E949B1E87E9CE5528DF, 0x8CA1890DBFE6426841992D0FB054BB16]
/-- The whole table, the entry of the lowest byte most significant. -/
def sboxTable : Nat := sboxRows.foldl (fun a r => a * 2 ^ 128 + r) 0
/-- The S-box, read from its table: `sbox_eq` says that it is the defined one. -/
def sbox (a : Nat) : Nat := sboxTable / 256 ^ (255 - a) % 256
theorem sbox_eq : ∀ a < 256, sbox a = sboxOf a := by decide +kernel

/-- Byte i of a number of `n` bytes, the first most significant. -/
def byteOf (n x i : Nat) : Nat := x / 256 ^ (n - 1 - i) % 256
/-- The number whose byte i of `n` is `f i`. -/
def ofBytes (n : Nat) (f : Nat → Nat) : Nat := sumOver (fun i => f i * 256 ^ (n - 1 - i)) (rangeFrom 0 n) 0
/-- The S-box on each byte of a word. -/
def subWord (w : Nat) : Nat := ofBytes 4 fun i => sbox (byteOf 4 w i)

/-- The key schedule of AES-256, words newest first. -/
def aesKeys : Nat → Nat → Nat → List Nat → List Nat
  | 0, _, _, ws => ws
  | n + 1, i, rc, ws =>
    let prev := ws.headD 0
    let t :=
      if i % 8 = 0 then subWord (prev * 256 % 2 ^ 32 + prev / 2 ^ 24) ^^^ (rc * 2 ^ 24)
      else if i % 8 = 4 then subWord prev else prev
    evald ((ws.getD 7 0) ^^^ t) fun w => evald (if i % 8 = 0 then xtime rc else rc) fun rc => aesKeys n (i + 1) rc (w :: ws)
/-- The fifteen round keys of a key of 32 bytes. -/
def roundKeys (key : Nat) : List Nat :=
  withAll ((rangeFrom 0 8).map fun i => key / 2 ^ (224 - 32 * i) % 2 ^ 32) fun ws =>
    let all := (aesKeys 52 8 1 ws.reverse).reverse
    withAll ((rangeFrom 0 15).map fun i => ((all.drop (4 * i)).take 4).foldl (fun a w => a * 2 ^ 32 + w) 0) fun ks => ks

/-- SubBytes and ShiftRows on a state in column order. -/
def subShift (st : Nat) : Nat := ofBytes 16 fun i => sbox (byteOf 16 st ((i + 4 * (i % 4)) % 16))
/-- Each byte of a state of 16 times x in AES's field. -/
def xtimes (st : Nat) : Nat :=
  ((st &&& 0x7F7F7F7F7F7F7F7F7F7F7F7F7F7F7F7F) * 2) ^^^ ((st / 128 &&& 0x01010101010101010101010101010101) * 0x1B)
/-- Each column of a state turned up by one byte. -/
def turnCols (st : Nat) : Nat :=
  (st &&& 0x00FFFFFF00FFFFFF00FFFFFF00FFFFFF) * 256 + (st / 2 ^ 24 &&& 0x000000FF000000FF000000FF000000FF)
/-- MixColumns: byte i becomes 2 a + 3 b + c + d in AES's field, of the bytes from i on in its column. -/
def mixCols (st : Nat) : Nat :=
  evald (turnCols st) fun b => evald (turnCols b) fun c => xtimes (st ^^^ b) ^^^ b ^^^ c ^^^ turnCols c
/-- The rounds after the first key has been added. -/
def aesRounds : List Nat → Nat → Nat
  | [], st => st
  | [k], st => evald (subShift st ^^^ k) fun st => st
  | k :: ks, st => evald (subShift st) fun st => evald (mixCols st ^^^ k) fun st => aesRounds ks st
/-- AES-256 of one block under round keys. -/
def aesBlock (ks : List Nat) (blk : Nat) : Nat := evald (blk ^^^ ks.headD 0) fun st => aesRounds ks.tail st

-- GCM with a 12-byte IV.

/-- Multiplication in GCM's field. -/
def ghashMul : Nat → Nat → Nat → Nat → Nat
  | 0, _, _, z => z
  | i + 1, x, v, z =>
    evald (z ^^^ (v * (x / 2 ^ i % 2))) fun z => evald ((v / 2) ^^^ (v % 2 * (0xE1 * 2 ^ 120))) fun v => ghashMul i x v z
/-- Zero bytes up to a whole block. -/
def padBlock (bs : List Byte) : List Byte := bs ++ List.replicate (roundUp bs.length 16 - bs.length) 0
/-- GHASH of whole blocks. -/
def ghashGo (h : Nat) : List (List Byte) → Nat → Nat
  | [], y => y
  | b :: bs, y => evald (y ^^^ beNat b) fun y => evald (ghashMul 128 y h 0) fun y => ghashGo h bs y
def ghash (h : Nat) (bs : List Byte) : Nat := ghashGo h (chunks 16 (bs.length / 16 + 1) bs) 0
/-- A counter block. -/
def gcmBlock (iv : List Byte) (n : Nat) : Nat := beNat (iv ++ beBytes 4 n)
/-- The key stream from counter block values on, applied to data. -/
def gcmCtr (ks : List Nat) (iv : List Byte) : Nat → Nat → List Byte → List Byte
  | 0, _, _ => []
  | f + 1, n, bs =>
    if bs.isEmpty then []
    else xorBytes (bs.take 16) (evald (aesBlock ks (gcmBlock iv n)) fun s => beBytes 16 s) ++ gcmCtr ks iv f (n + 1) (bs.drop 16)
/-- The tag of a ciphertext, as a number. -/
def gcmTagNat (ks : List Nat) (iv aad ct : List Byte) : Nat :=
  evald (aesBlock ks 0) fun h =>
    evald (ghash h (padBlock aad ++ padBlock ct ++ beBytes 8 (8 * aad.length) ++ beBytes 8 (8 * ct.length))) fun y =>
      evald (y ^^^ aesBlock ks (gcmBlock iv 1)) fun t => t
/-- The tag of a ciphertext. -/
def gcmTag (ks : List Nat) (iv aad ct : List Byte) : List Byte := beBytes 16 (gcmTagNat ks iv aad ct)
/-- Ciphertext and tag. -/
def gcmSeal (key : BitVec 256) (iv aad data : List Byte) : List Byte × List Byte :=
  let ks := roundKeys key.toNat
  let ct := gcmCtr ks iv (data.length / 16 + 1) 2 data
  (ct, gcmTag ks iv aad ct)
/-- Plaintext, where the tag matches. -/
def gcmOpen (key : BitVec 256) (iv aad ct tag : List Byte) : Option (List Byte) :=
  let ks := roundKeys key.toNat
  if gcmTag ks iv aad ct = tag then some (gcmCtr ks iv (ct.length / 16 + 1) 2 ct) else none

-- CMAC and the KDF.

/-- Doubling in CMAC's field. -/
def cmacDbl (x : Nat) : Nat := if natBit x 127 then (2 * x % 2 ^ 128) ^^^ 0x87 else 2 * x
/-- The chain of CMAC over blocks. -/
def cmacGo (ks : List Nat) : List Nat → Nat → Nat
  | [], x => x
  | b :: bs, x => evald (aesBlock ks (x ^^^ b)) fun x => cmacGo ks bs x
/-- AES-256-CMAC as a number of 16 bytes. -/
def cmacNat (key : BitVec 256) (msg : List Byte) : Nat :=
  let ks := roundKeys key.toNat
  evald (cmacDbl (aesBlock ks 0)) fun k1 =>
    let whole := !msg.isEmpty && msg.length % 16 == 0
    let blocks := (chunks 16 (msg.length / 16 + 1) (if whole then msg else padBlock (msg ++ [0x80]))).map beNat
    let last := blocks.getLastD 0 ^^^ (if whole then k1 else cmacDbl k1)
    cmacGo ks (blocks.dropLast ++ [last]) 0
/-- AES-256-CMAC: 16 bytes. -/
def cmac (key : BitVec 256) (msg : List Byte) : List Byte := beBytes 16 (cmacNat key msg)
/-- The counter-mode KDF with CMAC as its PRF and two blocks of output: counter, a zero byte, the context and the
output length in bits. -/
def kdf (key : BitVec 256) (context : List Byte) : BitVec 256 :=
  let blk := fun i => cmacNat key (beBytes 4 i ++ [0] ++ context ++ beBytes 4 256)
  evald (blk 1 * 2 ^ 128 + blk 2) fun n => BitVec.ofNat 256 n

-- SHA-384.

/-- The first primes. -/
def primes (n : Nat) : List Nat :=
  ((rangeFrom 2 408).filter fun p => (rangeFrom 2 19).all fun d => p ≤ d || p % d != 0).take n
/-- The integer cube root, bit by bit. -/
def icbrtGo : Nat → Nat → Nat → Nat
  | 0, _, r => r
  | i + 1, n, r => evald (r + 2 ^ i) fun t => if t * t * t ≤ n then icbrtGo i n t else icbrtGo i n r
/-- The 80 round constants: fractions of cube roots of the primes. -/
def shaK : List Nat := (primes 80).map fun p => icbrtGo 68 (p * 2 ^ 192) 0 % 2 ^ 64
/-- The initial value of SHA-384: fractions of square roots of the 9th to 16th primes. -/
def shaInit : List Nat := ((primes 16).drop 8).map fun p => isqrt (p * 2 ^ 128) % 2 ^ 64

/-- A 64-bit word rotated right. -/
def rotr64 (x k : Nat) : Nat := x / 2 ^ k + x * 2 ^ (64 - k) % 2 ^ 64
/-- The message schedule, newest first. -/
def shaSched : Nat → List Nat → List Nat
  | 0, ws => ws
  | n + 1, ws =>
    evald (ws.getD 14 0) fun x => evald (ws.getD 1 0) fun y =>
      let s0 := rotr64 x 1 ^^^ rotr64 x 8 ^^^ x / 2 ^ 7
      let s1 := rotr64 y 19 ^^^ rotr64 y 61 ^^^ y / 2 ^ 6
      evald ((ws.getD 15 0 + s0 + ws.getD 6 0 + s1) % 2 ^ 64) fun w => shaSched n (w :: ws)
/-- The rounds, over the sums of round constant and word. -/
def shaRounds : List Nat → List Nat → List Nat
  | [], v => v
  | kw :: kws, [a, b, c, d, e, f, g, h] =>
    let ch := (e &&& f) ^^^ ((2 ^ 64 - 1 - e) &&& g)
    let maj := (a &&& b) ^^^ (a &&& c) ^^^ (b &&& c)
    evald (h + (rotr64 e 14 ^^^ rotr64 e 18 ^^^ rotr64 e 41) + ch + kw) fun t1 =>
      evald ((t1 + (rotr64 a 28 ^^^ rotr64 a 34 ^^^ rotr64 a 39) + maj) % 2 ^ 64) fun x =>
        evald ((d + t1) % 2 ^ 64) fun y => shaRounds kws [x, a, b, c, y, e, f, g]
  | _ :: _, v => v
/-- One block of 128 bytes. -/
def shaBlock (h : List Nat) (blk : List Byte) : List Nat :=
  let ws := (shaSched 64 ((chunks 8 16 blk).map beNat).reverse).reverse
  let v := shaRounds ((shaK.zip ws).map fun e => e.1 + e.2) h
  (h.zip v).map fun e => (e.1 + e.2) % 2 ^ 64
/-- The chain of SHA-384 over blocks. -/
def shaGo : List (List Byte) → List Nat → List Nat
  | [], h => h
  | b :: bs, h => withAll (shaBlock h b) fun h => shaGo bs h
/-- SHA-384 of a message: 48 bytes. -/
def sha384 (msg : List Byte) : List Byte :=
  let n := msg.length
  let padded := msg ++ [0x80] ++ List.replicate (roundUp (n + 17) 128 - (n + 17)) 0 ++ beBytes 16 (8 * n)
  withAll shaInit fun h => ((shaGo (chunks 128 (n / 128 + 2) padded) h).take 6).flatMap fun w => beBytes 8 w
/-- A digest as a number, its first byte most significant. -/
def digest (msg : List Byte) : BitVec 384 := BitVec.ofNat 384 (beNat (sha384 msg))

end Sys2Proof.Machine
end

