-- ==== Sys2Proof/Machine/Sealed.lean ====
section
/-! DEFINITION. Sealed pages: the key slots that make them usable, and the copy engine's reads and writes of their
512-byte blocks (R290 to R294). -/

namespace Sys2Proof.Machine

/-- The key position of a slot. -/
def KeySlot.at (k : KeySlot) (i : Nat) : Option (BitVec 256) := if i = 0 then k.key0 else k.key1

/-- A sealed page's slot is usable by a tenant: ACTIVE, of KIND 2, the tenant's own (R290). -/
def sealSlot (s : State) (tenant : Nat) (hi : Word) : Option KeySlot :=
  match smGet s.keys (fld hi 0 13) with
  | some k => if k.kind = 2 ∧ k.tenant = tenant then some k else none
  | none => none

/-- Physical address of the shadow entry of the block that holds an offset of a page (R291). -/
def shadowAt (hi : Word) (inPage : Nat) : Nat := fld hi 16 40 * 4096 + inPage / 512 * 32
/-- The stream identifier of a block (R291). -/
def sealSid (slot pa : Nat) : Nat := slot * 2 ^ 51 + pa / 512 % 2 ^ 43 * 2 ^ 5
/-- The IV of a block's encryption. -/
def sealIv (sid ctr : Nat) : List Byte := leBytes 8 sid ++ leBytes 4 ctr

/-- The 512 bytes of a sealed block as a view sees them at their home. -/
def blockSeen (s : State) (part view base : Nat) : List PB := (rangeFrom (base / 64) 8).flatMap fun l => visibleHome s part view l 0 64
/-- A shadow entry as a view sees it. -/
def shadowSeen (s : State) (part view sh : Nat) : List PB := visibleHome s part view (sh / 64) (sh % 64) 32

/-- The plaintext of the block that holds a physical address under a view, or the cause of a halt (R262, R292). A poisoned block
gives poisoned bytes. -/
def sealedRead (s : State) (part view tenant : Nat) (hi : Word) (pa inPage : Nat) : Except Nat (List PB) :=
  match sealSlot s tenant hi with
  | none => .error 4
  | some k =>
    let sh := shadowSeen s part view (shadowAt hi inPage)
    let base := pa / 512 * 512
    let block := blockSeen s part view base
    let ctr := fieldAt (bytesOf sh) 16 4
    if ctr = 0 then .ok (List.replicate 512 (0, false))
    else if anyBad block || anyBad sh then .ok (List.replicate 512 (0, true))
    else
      match k.at (fieldAt (bytesOf sh) 20 1 % 2) with
      | none => .error 14
      | some key =>
        let sid := sealSid (fld hi 0 13) base
        match gcmOpen key (sealIv sid ctr) (leBytes 8 sid) (bytesOf block) ((bytesOf sh).take 16) with
        | some bs => .ok (clean bs)
        | none => .error 14

/-- A block encrypted anew: its ciphertext, its shadow entry, and its counter. -/
structure SealOut where
  ct : List Byte
  entry : List Byte
  n : Nat

/-- Store an encrypted block and its shadow entry at its home. -/
def sealedStore (s : State) (ag : Agent) (base sh : Nat) (o : SealOut) : State :=
  let s := memWrite (portStream s (coreOf ag.ctx) ag.tenant 512) sh o.entry
  (rangeFrom (base / 64) 8).foldl
    (fun s line => homeWrite (noteEng (signLine s (coreOf ag.ctx) line) ag.ctx ag.op line) (dieOf ag.ctx) ag.part line 0
      (clean ((o.ct.drop (64 * line - base)).take 64)) true) s

/-- Set the sticky flags of a key slot. -/
def setKeyFlags (s : State) (slot : Nat) (warn exh : Bool) : State :=
  match smGet s.keys slot with
  | some k => { s with keys := smPut s.keys slot { k with warn := k.warn || warn, exh := k.exh || exh } }
  | none => s

/-- The encryption of a block with bytes merged into it, as a view sees it; the cause where it cannot be (R293). -/
def sealBlock (s : State) (ag : Agent) (view : Nat) (hi : Word) (pa inPage : Nat) (bs : List Byte) : Except Nat SealOut :=
  match sealSlot s ag.tenant hi with
  | none => .error 4
  | some k =>
    match sealedRead s ag.part view ag.tenant hi pa inPage with
    | .error c => .error c
    | .ok old =>
      if anyBad old && bs.length < 512 then .error 6
      else
        let sh := bytesOf (shadowSeen s ag.part view (shadowAt hi inPage))
        let base := pa / 512 * 512
        let ctr := fieldAt sh 16 4
        let n := if fieldAt sh 20 1 % 2 = k.cur ∧ ctr ≠ 0 then ctr + 1 else 1
        if 2 ^ 32 - 1 < n then .error 13
        else
          match k.at k.cur with
          | none => .error 4
          | some key =>
            let off := pa % 512
            let data := (bytesOf old).take off ++ bs ++ (bytesOf old).drop (off + bs.length)
            let sid := sealSid (fld hi 0 13) base
            let (ct, tag) := gcmSeal key (sealIv sid n) (leBytes 8 sid) data
            .ok { ct := ct, entry := tag ++ leBytes 4 n ++ leBytes 1 k.cur ++ List.replicate 11 0, n := n }
/-- What an encryption does to the flags of its key slot: EXH where the counter is at its limit, WARN before that (R293). -/
def sealFlags (s : State) (hi : Word) (r : Except Nat SealOut) : State :=
  match r with
  | .ok o => setKeyFlags s (fld hi 0 13) (o.n == 2 ^ 32 - 2 ^ 24) false
  | .error c => if c = 13 then setKeyFlags s (fld hi 0 13) false true else s

/-- An encrypting write of bytes inside one block: one indivisible step at the block's home (R293). -/
def sealedWrite (s : State) (ag : Agent) (hi : Word) (pa inPage : Nat) (bs : List Byte) : Except Nat Unit × State :=
  let r := sealBlock s ag 0 hi pa inPage bs
  let s := sealFlags s hi r
  match r with
  | .error c => (.error c, s)
  | .ok o => (.ok (), sealedStore s ag (pa / 512 * 512) (shadowAt hi inPage) o)

end Sys2Proof.Machine
end

