-- ==== Sys2Proof/Machine/Range.lean ====
section
/-! DEFINITION. Accesses of engines over ranges of addresses, split at lines and pages, and tagged writes (R214, R220,
R231, R261 to R264). -/

namespace Sys2Proof.Machine

/-- What becomes of a range access. -/
inductive RangeRes where
  | ok (bs : List PB) (s : State)
  /-- A fault at an address; the parts before it stand (R214). -/
  | fault (cause : Nat) (va : Word) (s : State)
  /-- Nothing can be done yet: a granule has to be filled, or a resolve delays the line. -/
  | wait (s : State)

/-- Bytes of a range that lie in its first line. -/
def segLen (va : Word) (n : Nat) : Nat := min n (64 - va.toNat % 64)

/-- An engine waits for a scratchpad granule: its fill is begun, unless it has halted (R211). -/
def askFill (s : State) (ag : Agent) (r g : Nat) : State :=
  match fillHalt s (coreOf ag.ctx) r g with
  | some _ => s
  | none => raise s [.mapFill ag.ctx r g]

/-- Read `n` bytes from `va`; `fuel` bounds the segments. DEDUCED (log entry 45). -/
def rangeRead (ag : Agent) (u : Use) : Nat → State → Word → Nat → List PB → RangeRes
  | 0, s, _, _, acc => .ok acc s
  | f + 1, s, va, n, acc =>
    if n = 0 then .ok acc s
    else
      let k := segLen va n
      match xlate s ag u false va with
      | .bad c => .fault c va s
      | .scratch off =>
        match unfilled (getCore s (coreOf ag.ctx)) off k with
        | some (r, g) => .wait (askFill s ag r g)
        | none => rangeRead ag u f s (va + natW k) (n - k) (acc ++ scratchRead s (coreOf ag.ctx) off k)
      | .page lo hi pa inPage =>
        if !grants lo u false || leafPeer lo then .fault 4 va s
        else if leafSeal lo then
          if (shadowAt hi inPage / 64 :: rangeFrom (pa / 512 * 8) 8).any (delayed s ag.part) then .wait s
          else
          match sealedRead s ag.part ag.view ag.tenant hi pa inPage with
          | .error cause => .fault cause va s
          | .ok blk =>
            let k := min n (512 - pa % 512)
            let s := portStream s (coreOf ag.ctx) ag.tenant 512
            rangeRead ag u f (tlbNote s ag va (.page lo hi pa inPage)) (va + natW k) (n - k) (acc ++ slice blk (pa % 512) k)
        else if delayed s ag.part (pa / 64) then .wait s
        else
          let (bs, s) := readLine (tlbNote s ag va (.page lo hi pa inPage)) ag (pagePoint lo pa) false (pa / 64) (pa % 64) k
          rangeRead ag u f s (va + natW k) (n - k) (acc ++ bs)

/-- Write bytes from `va` on as plain data. -/
def rangeWrite (ag : Agent) (u : Use) : Nat → State → Word → List PB → RangeRes
  | 0, s, _, _ => .ok [] s
  | f + 1, s, va, bs =>
    if bs.isEmpty then .ok [] s
    else
      let k := segLen va bs.length
      let part := bs.take k
      match xlate s ag u true va with
      | .bad c => .fault c va s
      | .scratch off =>
        match unfilled (getCore s (coreOf ag.ctx)) off k with
        | some (r, g) => .wait (askFill s ag r g)
        | none =>
          rangeWrite ag u f (scratchWrite (modCore s (coreOf ag.ctx) fun c => markDirty c off k) (coreOf ag.ctx) off part)
            (va + natW k) (bs.drop k)
      | .page lo hi pa inPage =>
        if !grants lo u true || leafPeer lo then .fault 4 va s
        else if leafSeal lo then
          let k := min bs.length (512 - pa % 512)
          if anyBad (bs.take k) then .fault 6 va s
          else
            match sealedWrite s ag hi pa inPage (bytesOf (bs.take k)) with
            | (.error cause, s) => .fault cause va s
            | (.ok _, s) => rangeWrite ag u f (tlbNote s ag va (.page lo hi pa inPage)) (va + natW k) (bs.drop k)
        else if isHost pa && anyBad part && (u == .cw || u == .fg) then .fault 6 va s
        else
          rangeWrite ag u f
            (writeLine (tlbNote s ag va (.page lo hi pa inPage)) ag (pagePoint lo pa) false (pa / 64) (pa % 64) part)
            (va + natW k) (bs.drop k)

-- Tagged writes (R261 to R264, R269).

/-- Bytes of version space in use by a partition on a die (R263). -/
def versionUse (s : State) (part die : Nat) : Nat :=
  64 * ((getPart s part).versions.filter fun v => homeDie v.line == die).length
/-- A partition's version space on a die: its L2/home share and its VSTORE share (R263, R280). -/
def versionSpace (s : State) (part die : Nat) : Nat :=
  let p := getPart s part
  ((((p.sram[die]?).getD []).headD 0) + (p.vstore[die]?).getD 0) * 1048576

/-- What a home does with a tagged write (R261, R263, R269). -/
inductive TagRes where
  | done (s : State)
  /-- A new version is needed and the space is full. -/
  | full
  /-- A resolve that is not applied yet delays the write (R267). -/
  | wait

/-- Put bytes over a version's. -/
def mergeBytes (old new : List (Nat × PB)) : List (Nat × PB) := new.foldl (fun m e => smPut m e.1 e.2) old

/-- Every copy of a line in the writing core's L1 and among its die's visitors goes: the next read finds the version (R208,
R264). DEDUCED (log entry 6). -/
def dropNearCopies (s : State) (core line : Nat) : State :=
  let s := onL1 s core line fun cs => cs.filter fun x => x.line != line
  if (getDie s (core / 32)).visitors.any (fun c => c.line == line) then
    modDie s (core / 32) fun d => { d with visitors := d.visitors.filter fun x => x.line != line }
  else s

/-- Commit bytes of a node that has merged into the root (R269). -/
def commitWrite (s : State) (ag : Agent) (line off : Nat) (bs : List PB) : State :=
  homeWrite (noteEng (signLine (drainLine (portAsk s ag bs.length) (l1Unit s (coreOf ag.ctx)) line) (coreOf ag.ctx) line) ag.ctx ag.op line) (dieOf ag.ctx) ag.part line off bs false

/-- Write bytes of one line as a version of the agent's view (R261). -/
def tagWrite (s : State) (ag : Agent) (line off : Nat) (bs : List PB) : TagRes :=
  let p := getPart s ag.part
  if delayed s ag.part line || p.resolves.any (fun r => r.touched.contains ag.view) then .wait
  else if (getNode p ag.view).st = .refuted then .done (dropNearCopies (portAsk s ag bs.length) (coreOf ag.ctx) line)
  else
    let h := resolveN p ag.view
    if h = 0 then .done (commitWrite (dropNearCopies s (coreOf ag.ctx) line) ag line off bs)
    else
      let s := drainLine (portAsk s ag bs.length) (l1Unit s (coreOf ag.ctx)) line
      let hit := fun (v : Version) => v.line == line && resolveN p v.node == h && !v.bytes.isEmpty
      if (getPart s ag.part).versions.any hit then
        let s := modPart s ag.part fun p =>
          { p with versions := p.versions.map fun v => if hit v then { v with bytes := mergeBytes v.bytes (offBytes off bs) } else v }
        .done (fireWatch (dropNearCopies (noteEng (signLine s (coreOf ag.ctx) line) ag.ctx ag.op line) (coreOf ag.ctx) line) (watchLine line))
      else if versionSpace s ag.part (homeDie line) < versionUse s ag.part (homeDie line) + 64 then .full
      else
        let s := modPart s ag.part fun p =>
          { p with versions := p.versions ++ [{ line := line, node := h, bytes := mergeBytes [] (offBytes off bs) }] }
        .done (fireWatch (dropNearCopies (noteEng (signLine s (coreOf ag.ctx) line) ag.ctx ag.op line) (coreOf ag.ctx) line) (watchLine line))

/-- Write several runs of lines as versions, all or none of them. -/
def tagRuns (s : State) (ag : Agent) : List (Nat × List PB) → TagRes
  | [] => .done s
  | (pa, bs) :: rest =>
    match tagWrite s ag (pa / 64) (pa % 64) bs with
    | .done s => tagRuns s ag rest
    | r => r
/-- A tagged write of bytes inside one sealed block: the block as the view sees it is encrypted anew, and its ciphertext and
shadow entry are held as versions, since no plaintext of a sealed page leaves the core (R252, R261, R293, R294); the cause where it
cannot be. DEDUCED (log entry 101). -/
def tagSealed (s : State) (ag : Agent) (hi : Word) (pa inPage : Nat) (bs : List Byte) : Except Nat TagRes × State :=
  let base := pa / 512 * 512
  let r := sealBlock s ag ag.view hi pa inPage bs
  let s := sealFlags s hi r
  match r with
  | .error c => (.error c, s)
  | .ok o =>
    (.ok (tagRuns s ag ((shadowAt hi inPage, clean o.entry) ::
      (rangeFrom 0 8).map fun i => (base + 64 * i, clean ((o.ct.drop (64 * i)).take 64)))), s)

-- Engine numbers and what a TLWAIT acquires (R220).

/-- The operations of counter `c` up to `n` count as earlier accesses of their context (R220). -/
def acquireOps (s : State) (id c n : Nat) : State :=
  modCore s (l1Unit s (coreOf id)) fun k =>
    { k with pending := k.pending.map fun p =>
        if p.ctx == id && (match p.op with | some (a, m) => a == c && decide (m ≤ n) | none => false) then { p with op := none } else p }

end Sys2Proof.Machine
end

