-- ==== Sys2Proof/Machine/LoadStore.lean ====
section
/-! DEFINITION. Scalar loads and stores, the acquiring and releasing forms, tagged stores, atomics and exact cells
(10 R232 to R239, 05 R130 to R132). -/

namespace Sys2Proof.Machine

/-- Bytes of a size code (R232). -/
def sizeOf2 (z : BitVec 2) : Nat := 2 ^ z.toNat

/-- s(ra) + imm11 (R232). -/
def addrI (s : State) (a : SReg) (i : BitVec 11) : Word := rs s a + sext11 i
/-- s(ra) + s(rb) (R232). -/
def addrX (s : State) (a b : SReg) : Word := rs s a + rs s b

/-- A loaded value, zero- or sign-extended (R232). -/
def loaded (sign : Bool) (n : Nat) (bs : List PB) : Word :=
  if sign then BitVec.ofInt 64 (signedOf (8 * n) (valueOf bs)) else natW (valueOf bs)

/-- A load's checks, its access and its result (R233). -/
def loadWord (e : Bool) (d : SReg) (pol n : Nat) (sign : Bool) (va : Word) (s : State) : Out :=
  if spansLine va n then trapNext { cause := 5, va := va } s
  else (loadAt pol va n s).bind fun bs s => accDone e (some (d, loaded sign n bs)) (setPoisonReg s d)
where
  /-- A written register holds good data (R347). -/
  setPoisonReg (s : State) (d : SReg) : State :=
    if s.poison.isEmpty then s else setPoison s (.sreg s.cur d.toNat) false

/-- A load from s(ra) + imm11. -/
def loadI (e : Bool) (d a : SReg) (i : BitVec 11) (n : Nat) (sign : Bool) (s : State) : Out :=
  withSrc [a] s fun s => loadWord e d 0 n sign (addrI s a i) s

def execLd8 (e : Bool) (d a : SReg) (i : BitVec 11) (s : State) : Out := loadI e d a i 1 false s
def execLd16 (e : Bool) (d a : SReg) (i : BitVec 11) (s : State) : Out := loadI e d a i 2 false s
def execLd32 (e : Bool) (d a : SReg) (i : BitVec 11) (s : State) : Out := loadI e d a i 4 false s
def execLd64 (e : Bool) (d a : SReg) (i : BitVec 11) (s : State) : Out := loadI e d a i 8 false s
def execLd8s (e : Bool) (d a : SReg) (i : BitVec 11) (s : State) : Out := loadI e d a i 1 true s
def execLd16s (e : Bool) (d a : SReg) (i : BitVec 11) (s : State) : Out := loadI e d a i 2 true s
def execLd32s (e : Bool) (d a : SReg) (i : BitVec 11) (s : State) : Out := loadI e d a i 4 true s
/-- LDX: the policy codes are the points that they name, 0 none (R215, R232). -/
def execLdx (e : Bool) (d a b : SReg) (p : BitVec 2) (sg : Bool) (z : BitVec 2) (s : State) : Out :=
  withSrc [a, b] s fun s => loadWord e d p.toNat (sizeOf2 z) sg (addrX s a b) s

/-- A store's checks and its access (R233). -/
def storeWord (e : Bool) (pol n : Nat) (va : Word) (v : Word) (s : State) : Out :=
  if spansLine va n then trapNext { cause := 5, w := true, va := va } s
  else (storeAt pol va (leBytes n v.toNat) s).bind fun _ s => accDone e none s

/-- A store to s(ra) + imm11. -/
def storeI (e : Bool) (d a : SReg) (i : BitVec 11) (n : Nat) (s : State) : Out :=
  withSrc [d, a] s fun s => storeWord e 0 n (addrI s a i) (rs s d) s

def execSt8 (e : Bool) (d a : SReg) (i : BitVec 11) (s : State) : Out := storeI e d a i 1 s
def execSt16 (e : Bool) (d a : SReg) (i : BitVec 11) (s : State) : Out := storeI e d a i 2 s
def execSt32 (e : Bool) (d a : SReg) (i : BitVec 11) (s : State) : Out := storeI e d a i 4 s
def execSt64 (e : Bool) (d a : SReg) (i : BitVec 11) (s : State) : Out := storeI e d a i 8 s
def execStx (e : Bool) (d a b : SReg) (p z : BitVec 2) (s : State) : Out :=
  withSrc [d, a, b] s fun s => storeWord e p.toNat (sizeOf2 z) (addrX s a b) (rs s d) s

-- Acquires and releases (R234).

/-- The physical line of an address that translates, none in the scratchpad window. -/
def syncLine (s : State) (u : Use) (write : Bool) (va : Word) : Option Nat :=
  match xlate s (agentOf s s.cur) u write va with
  | .page _ _ pa _ => some (pa / 64)
  | _ => none

/-- The point that a synchronising access is performed at: the scope's own or one further out (R216, R234).
DEDUCED (log entry 28). -/
def scopePoint (s : State) (id sc : Nat) : Nat := if wideScope s id sc then 1 else 0

/-- Acquire at a scope by the line of an address; an address that has no home is acquired as for all ones. -/
def acquireAt (s : State) (id sc : Nat) (line : Option Nat) : State :=
  match line with
  | some l => acquireLine s id sc l
  | none => if wideScope s id sc then acquireAll s id sc else s

/-- LDA: the load, then the acquire at its scope (R234). -/
def execLda (e : Bool) (d a : SReg) (z : BitVec 2) (c : BitVec 3) (s : State) : Out :=
  withSrc [a] s fun s =>
    let va := alignDown (rs s a) (sizeOf2 z)
    let line := syncLine s .ls false va
    (loadAt (scopePoint s s.cur c.toNat) va (sizeOf2 z) s).bind fun bs s =>
      let (sc, s) := demote s s.cur c.toNat
      accDone e (some (d, loaded false (sizeOf2 z) bs)) (loadWord.setPoisonReg (acquireAt s s.cur sc line) d)

/-- Whether an address takes a precise trap as a store. -/
def storeChecked (s : State) (va : Word) (k : State → Out) : Out :=
  match xlate s (agentOf s s.cur) .ls true va with
  | .bad c => trapNext { cause := c, w := true, va := va } s
  | .page lo _ _ _ => if grants lo .ls true then k s else trapNext { cause := 4, w := true, va := va } s
  | .scratch _ => k s

/-- STL: the release at its scope, then the store; at `.pd` and `.sy` it waits for the context's fabric writes (R216,
R234). -/
def execStl (e : Bool) (d a : SReg) (z : BitVec 2) (c : BitVec 3) (s : State) : Out :=
  withSrc [d, a] s fun s =>
    let va := alignDown (rs s a) (sizeOf2 z)
    storeChecked s va fun s =>
      let sc := (demote s s.cur c.toNat).1
      if fabricPending (me s) sc then .next (stallHere (.counter 6 (tcOf (me s) 6).issued) s)
      else
        let line := syncLine s .ls true va
        (storeAt (scopePoint s s.cur c.toNat) va (leBytes (sizeOf2 z) (rs s d).toNat)
          (release (demote s s.cur c.toNat).2 s.cur sc line)).bind fun _ s =>
            accDone e none (match line with | some l => passStore s s.cur l | none => s)

-- Tagged stores (R235).

/-- A leaf and address that no version may lie at (R235). -/
def hypExcluded (lo : Word) (pa : Nat) : Bool := leafPeer lo || isHost pa || pagePoint lo pa == 2

/-- ST.H (R235, R263). -/
def execStH (e : Bool) (d a : SReg) (z : BitVec 2) (s : State) : Out :=
  withSrc [d, a] s fun s =>
    let va := rs s a
    let n := sizeOf2 z
    if viewOf (me s) = 0 then storeWord e 0 n va (rs s d) s
    else if spansLine va n then trapNext { cause := 5, w := true, va := va } s
    else
      let ag := agentOf s s.cur
      match xlate s ag .ls true va with
      | .bad c => trapNext { cause := c, w := true, va := va } s
      | .scratch _ => trapNext { cause := 10, w := true, va := va } s
      | .page lo hi pa inPage =>
        if hypExcluded lo pa then trapNext { cause := 10, w := true, va := va } s
        else if !grants lo .ls true then trapNext { cause := 4, w := true, va := va } s
        else
          match tagWrite (tlbNote s ag va (.page lo hi pa inPage)) ag (pa / 64) (pa % 64) (clean (leBytes n (rs s d).toNat)) with
          | .done s => accDone e none (onMe s fun c => { c with due := none })
          | .wait => .next (stallHere .resolve s)
          | .full => waitSpace (pa / 64) va s
where
  /-- The store waits for version space until XHYPWAIT cycles have passed since it first did, then traps (R263). -/
  waitSpace (line : Nat) (va : Word) (s : State) : Out :=
    let d := (me s).due.getD (cycleIn s (fld (me s).xhypwait 0 32))
    if reached s d then trapNext { cause := 11, w := true, va := va } s
    else .next (waitCtx s.cur (.versionSpace line va) (some d) s)

-- Atomics (R236 to R238).

/-- The new value of an AMO at a width in bits (R237). -/
def amoValue (o w old x : Nat) : Nat :=
  match o with
  | 0 => (old + x) % 2 ^ w
  | 1 => old &&& x
  | 2 => old ||| x
  | 3 => old ^^^ x
  | 4 => if signedOf w x < signedOf w old then x else old
  | 5 => if signedOf w old < signedOf w x then x else old
  | 6 => min old x
  | 7 => max old x
  | _ => x

/-- Bytes of an AMO's operand. -/
def amoBytes (z : Bool) : Nat := if z then 8 else 4

/-- The end of an atomic: rd receives the old value. -/
def atomicDone (e : Bool) (d : SReg) (bs : List PB) (s : State) : Out :=
  accDone e (some (d, natW (valueOf bs))) (loadWord.setPoisonReg s d)

/-- AMO; host memory has only FetchAdd and Swap (R236, R237). -/
def execAmo (e : Bool) (d a b : SReg) (z : Bool) (o : BitVec 4) (s : State) : Out :=
  withSrc [a, b] s fun s =>
    let n := amoBytes z
    let x := (rs s b).toNat % 2 ^ (8 * n)
    (atomicAt (alignDown (rs s a) n) n (o == 0 || o == 8)
      (fun bs => some (clean (leBytes n (amoValue o.toNat (8 * n) (valueOf bs) x)))) s).bind (atomicDone e d)

/-- CAS (R237). -/
def execCas (e : Bool) (d a b : SReg) (z : Bool) (s : State) : Out :=
  withSrc [d, a, b] s fun s =>
    let n := amoBytes z
    let want := (rs s d).toNat % 2 ^ (8 * n)
    let new := leBytes n (rs s b).toNat
    (atomicAt (alignDown (rs s a) n) n true
      (fun bs => if valueOf bs = want then some (clean new) else none) s).bind (atomicDone e d)

/-- A byte with one nibble replaced (R238). -/
def insNibble (hi : Bool) (old x : Nat) : Nat := if hi then old % 16 + x % 16 * 16 else old / 16 * 16 + x % 16

/-- AMO.BINS (R238). -/
def execAmoBins (e : Bool) (d a b : SReg) (n : Bool) (s : State) : Out :=
  withSrc [a, b] s fun s =>
    let x := (rs s b).toNat
    (atomicAt (rs s a) 1 false (fun bs => some (clean (leBytes 1 (insNibble n (valueOf bs) x)))) s).bind (atomicDone e d)

-- Exact cells (R130 to R132, R239).

/-- The bound of a cell's magnitude (R131). -/
def cellMax : Int := 2 ^ 222 - 1

/-- An exact cell: grain exponent, integer and flags. -/
structure Cell where
  e : Int
  n : Int
  sat : Bool
  nan : Bool
  deriving DecidableEq, Repr

/-- Keep a number within the bound, and whether it had to be. -/
def cellClamp (i : Int) : Int × Bool := (max (-cellMax) (min cellMax i), decide (i < -cellMax ∨ cellMax < i))

/-- AXADD of an addend (R131). -/
def Cell.add (c : Cell) (x : FVal) : Cell :=
  match x with
  | .nan => { c with nan := true }
  | .inf neg =>
    let (n, o) := cellClamp (c.n + if neg then -cellMax else cellMax)
    { c with n := n, sat := c.sat || true || o }
  | .fin neg m ex =>
    let (g, o1) := cellClamp (roundInt .rne neg m (ex - c.e))
    let (n, o2) := cellClamp (c.n + g)
    { c with n := n, sat := c.sat || o1 || o2 }

/-- AXRD's result: [31:0] the value, [32] SAT, [33] NAN (R132, R239). -/
def Cell.read (c : Cell) : Word :=
  natW ((if c.nan then fp32.nanBits else roundFloat fp32 false .rne (.fin (decide (c.n < 0)) c.n.natAbs c.e)) +
    bitNat c.sat * 2 ^ 32 + bitNat c.nan * 2 ^ 33)

/-- The status word of AXADD and AXCLR (R239). -/
def Cell.status (c : Cell) : Word := natW (bitNat c.sat * 2 + bitNat c.nan * 4)

/-- The slot of a cell's address (R239). -/
def cellSlot (va : Word) : Nat := va.toNat / 32 % 2048

/-- The address of a slot's flags in its page, and their place in the byte (R130). -/
def flagAt (page slot : Nat) : Nat := page + 512 + slot / 4

/-- The cell of a slot as its home holds it. -/
def readCell (s : State) (page slot : Nat) : Cell :=
  let fb := (memByte s (flagAt page slot)).toNat
  { e := signedOf 16 (memNat s page 2), n := signedOf 256 (memNat s (page + 32 * slot) 32),
    sat := natBit fb (2 * (slot % 4)), nan := natBit fb (2 * (slot % 4) + 1) }

/-- Write a cell and its flags at its home. -/
def writeCell (s : State) (ag : Agent) (lo : Word) (page slot : Nat) (c : Cell) : State :=
  let w := fun (s : State) (pa : Nat) (bs : List Byte) =>
    writeLine s ag (max 1 (pagePoint lo pa)) false (pa / 64) (pa % 64) (clean bs)
  let fb := (memByte s (flagAt page slot)).toNat
  let s := w s (page + 32 * slot) (leBytes 32 (intBits 256 c.n))
  w s (flagAt page slot) (leBytes 1 (putField fb (2 * (slot % 4)) 2 (bitNat c.sat + 2 * bitNat c.nan)))

/-- Any byte that a cell operation reads is poisoned. -/
def cellBad (s : State) (page slot : Nat) : Bool :=
  memPoison s page 2 || memPoison s (page + 32 * slot) 32 || memPoison s (flagAt page slot) 1

/-- The end of an exact-cell word. -/
def cellDone (e : Bool) (d : SReg) (v : Word) (s : State) : Out := accDone e (some (d, v)) (loadWord.setPoisonReg s d)

/-- The shape of an exact-cell word: a slot below 32, the scratchpad, host pages and peer windows refuse it with the
status `refused`; `f` gives the new cell, none where it is only read, and the result (R239). -/
def cellWord (e : Bool) (d : SReg) (va refused : Word) (f : Cell → Option Cell × Word) (s : State) : Out :=
  if cellSlot va < 32 ∨ inWindow va = true then cellDone e d refused s
  else
    let ag := { agentOf s s.cur with view := 0 }
    match xlate s ag .ls true va with
    | .bad c => trapNext { cause := c, w := true, va := va } s
    | .scratch _ => cellDone e d refused s
    | .page lo hi pa inPage =>
      if leafPeer lo || isHost pa then cellDone e d refused s
      else if !grants lo .ls true then trapNext { cause := 4, w := true, va := va } s
      else
        let page := pa / 65536 * 65536
        let slot := cellSlot va
        let unit := l1Unit s (coreOf s.cur)
        let s := tlbNote s ag va (.page lo hi pa inPage)
        let s := [page / 64, pa / 64, flagAt page slot / 64].foldl (fun s line => refreshLine (drainLine s unit line) ag line false) s
        if cellBad s page slot then trapNext { cause := 6, w := true, va := va } s
        else
          match f (readCell s page slot) with
          | (some c, v) => cellDone e d v (writeCell s ag lo page slot c)
          | (none, v) => cellDone e d v s

def execAxadd (e : Bool) (d a b : SReg) (s : State) : Out :=
  withSrc [a, b] s fun s =>
    let x := f32 (rs s b)
    cellWord e d (rs s a) 1 (fun c => (some (c.add x), (c.add x).status)) s
def execAxrd (e : Bool) (d a : SReg) (s : State) : Out :=
  withSrc [a] s fun s => cellWord e d (rs s a) (natW (2 ^ 34)) (fun c => (none, c.read)) s
def execAxclr (e : Bool) (d a : SReg) (s : State) : Out :=
  withSrc [a] s fun s =>
    cellWord e d (rs s a) 1 (fun c => (some { c with n := 0, sat := false, nan := false }, 0)) s

end Sys2Proof.Machine
end

