-- ==== Sys2Proof/Machine/StateRegs.lean ====
section
/-! DEFINITION. State registers: XRD and XWR over every register of R144 with its access rules, and the starts and the
abandoning of the stream loop through XLOOP (R20, R57 to R59, R84 to R88, R97, R116, R119, R127, R143, R144, R258 to
R260, R282, R326 to R328). -/

namespace Sys2Proof.Machine

/-- XIDENT (R20). -/
def xident : Word :=
  BitVec.ofNat 64 (0x4800 * 2 ^ 48 + Config.fusedStep.toNat * 2 ^ 44 + 15 * 2 ^ 40 + Config.quads * 2 ^ 32 + Config.cores * 2 ^ 24)

/-- XTENANT with the fields that follow TENANT (R282). -/
def xtenantWord (s : State) (id : Nat) : Word :=
  let t := (getCtx s id).tenant.toNat
  BitVec.ofNat 64 (t + partOf s id * 2 ^ 16 + worldOf s t % 256 * 2 ^ 20 + bitNat (tscope s id) * 2 ^ 28)

/-- XSCHED with CTX and INST (R59). -/
def xschedWord (c : Ctx) (id : Nat) : Word :=
  BitVec.ofNat 64 (c.xsched.toNat % 8 + ctxNum id * 2 ^ 8 + instOf c % 2 ^ 16 * 2 ^ 16)

/-- An engine of a context (R91). -/
def engOf (c : Ctx) (n : Nat) : Engine := smGetD c.eng n {}

/-- ST and CA of an engine (R97). -/
def engCode (e : Engine) : Nat :=
  match e.st with
  | .idle => 0
  | .running => 1
  | .halted => 2 + e.cause % 64 * 4
  | .waiting => 3

/-- XASTAT (R97). -/
def xastat (c : Ctx) : Word := BitVec.ofNat 64 (engCode (engOf c 0) + engCode (engOf c 1) * 2 ^ 8 + engCode (engOf c 2) * 2 ^ 16)

/-- The value of a state register (R144). -/
def xread (s : State) (id x : Nat) : Word :=
  let c := getCtx s id
  match x with
  | 0x00 => xident
  | 0x01 => c.xstat
  | 0x02 => c.xprio
  | 0x03 => c.xdeadline
  | 0x04 => xschedWord c id
  | 0x05 => xtenantWord s id
  | 0x08 => c.xtrapc
  | 0x09 => c.xtrappc
  | 0x0A => c.xtrapva
  | 0x0B => c.xtrapmap
  | 0x10 => c.xhyp
  | 0x11 => c.xovec
  | 0x12 => c.xhypwait
  | 0x18 => c.xfmt
  | 0x19 => c.xseed
  | 0x20 => c.xloop
  | 0x21 => c.xstagep
  | 0x22 => c.xlpos
  | 0x23 => c.xrrb
  | 0x24 => xastat c
  | _ => smGetD c.xfte (x - 0x40) 0

/-- Registers that only a full context has (R144). -/
def fullReg (x : Nat) : Bool := decide (0x20 ≤ x)
/-- Registers that grant no writer a field (R144). -/
def readOnlyReg (x : Nat) : Bool := x == 0x00 || x == 0x10 || x == 0x22 || x == 0x24

/-- A word masked by a number. -/
def maskW (v : Word) (m : Nat) : Word := v &&& BitVec.ofNat 64 m

/-- XSTAT after a write: TH and VEC are written, SCD keeps its value or is cleared (R326). -/
def xstatWrite (old v : Word) : Word :=
  BitVec.ofNat 64 (v.toNat % 2 + bitNat (bitAt old 1 && bitAt v 1) * 2 + fld v 8 56 * 2 ^ 8)
/-- XSCHED after a write: writing 0 clears FRC and RES (R59). -/
def xschedWrite (old v : Word) : Word :=
  BitVec.ofNat 64 (bitNat (bitAt old 0) + bitNat (bitAt old 1 && bitAt v 1) * 2 + bitNat (bitAt old 2 && bitAt v 2) * 4)
/-- XDEADLINE after a write: 32 bits, at least 0x100 (R58). DEDUCED (log entry 20). -/
def xdeadlineWrite (v : Word) : Word := natW (max 0x100 (fld v 0 32))

/-- XLOOP's fields after a write: ACT is 0; DRN is read-only and keeps its value until the next start, in an abandoned drain
too (R84, R86). DESIGN CHOICE (log entry 99). -/
def xloopWrite (old v : Word) : Word := setBit (maskW v 0xFFFFFF) 25 (bitAt old 25)

/-- Write a state register that has passed its permission checks (R143). -/
def xwriteCtx (x : Nat) (v : Word) (c : Ctx) : Ctx :=
  match x with
  | 0x01 => { c with xstat := xstatWrite c.xstat v }
  | 0x02 => { c with xprio := setFld c.xprio 0 7 v.toNat }
  | 0x03 => { c with xdeadline := xdeadlineWrite v }
  | 0x04 => { c with xsched := xschedWrite c.xsched v }
  | 0x05 => { c with tenant := BitVec.ofNat 12 v.toNat }
  | 0x08 => { c with xtrapc := maskW v 0x3F1F3F }
  | 0x09 => { c with xtrappc := aligned4 v }
  | 0x0A => { c with xtrapva := v }
  | 0x0B => { c with xtrapmap := v }
  | 0x11 => { c with xovec := v }
  | 0x12 => { c with xhypwait := natW (fld v 0 32) }
  | 0x18 => { c with xfmt := natW (if fld v 0 3 ≤ 4 then fld v 0 3 else 0) }
  | 0x19 => { c with xseed := v }
  | 0x20 => { c with xloop := xloopWrite c.xloop v, loopIdle := false, drainCut := false }
  | 0x21 => { c with xstagep := natW (fld v 0 8) }
  | 0x23 => { c with xrrb := natW (fld v 0 5) }
  | 0x00 => c
  | 0x10 => c
  | 0x22 => c
  | 0x24 => c
  | _ => { c with xfte := smSet c.xfte (x - 0x40) (maskW v 0x8FFFFFFF) 0 }

/-- An XWR that traps PRIV: no writable field, a supervisor's register, a PRIO above CEIL, or a tenant that is not
valid here or not of the Vitrine frame's world (R57, R58, R143, R144, R282). -/
def xwriteDenied (s : State) (x : Nat) (v : Word) : Bool :=
  let c := me s
  readOnlyReg x ||
    (!isSupervisor c &&
      (x == 0x03 || x == 0x05 || (x == 0x02 && decide (fld c.xprio 8 7 < fld v 0 7)))) ||
    (x == 0x05 &&
      (!tenantIn s (fld v 0 12) (myPart s) ||
        (match frameAt s (coreOf s.cur) with
         | some (f, _) => worldOf s (fld v 0 12) != frameWorldOf f
         | none => false)))

-- The stream loop (R84 to R88).

/-- Key of loop register i of a sequencer (R81). -/
def lkey (seq i : Nat) : Nat := 16 * seq + i
/-- A loop register. -/
def lget (c : Ctx) (seq i : Nat) : Word := smGetD c.l (lkey seq i) 0
/-- Set a loop register. -/
def lput (c : Ctx) (seq i : Nat) (v : Word) : Ctx := { c with l := smSet c.l (lkey seq i) v 0 }

/-- Some loop register of a list is poisoned (R347). -/
def loopBad (s : State) (id seq : Nat) (rs : List Nat) : Bool :=
  !s.poison.isEmpty && rs.any fun r => isPoison s (.loopReg (clusterOf id) (lkey seq r))
/-- A loop register is written: its poison goes. -/
def loopClean (s : State) (id seq r : Nat) : State :=
  if s.poison.isEmpty then s else setPoison s (.loopReg (clusterOf id) (lkey seq r)) false

/-- DIMS + 1 of XLOOP. -/
def loopDims (x : Word) : Nat := fld x 8 3 + 1
/-- LB of XLOOP. -/
def loopBase (x : Word) : Nat := fld x 11 4
/-- S, the stages of XLOOP. -/
def loopStages (x : Word) : Nat := fld x 15 3 + 1

/-- Mirror XSTAGEP into the low byte of s(PREG) (R88). -/
def mirror (c : Ctx) : Ctx :=
  let p := fld c.xloop 18 6
  if p = 0 then c else swrite c (BitVec.ofNat 6 p) (setFld (sread c (BitVec.ofNat 6 p)) 0 8 c.xstagep.toNat)

/-- The fate of the last check of R86: the body ends with a word whose E bit is set, or does not, or a unit cannot be
fetched. -/
inductive BodyRes where
  | ok
  | illegal
  | stuck (r : UnitRes) (va : Word)
  deriving DecidableEq, Repr

/-- Walk the body's words: `left` units from `va`, every one of which is fetched. -/
def bodyScan (s : State) (id : Nat) : Nat → Word → Nat → BodyRes
  | 0, _, _ => .illegal
  | f + 1, va, left =>
    match fetchUnit s id va with
    | .unit w =>
      let n := unitCount w
      if left < n then
        match moreUnits s id (left - 1) (va + 4) with
        | .error (r, a) => .stuck r a
        | .ok _ => .illegal
      else
        match moreUnits s id (n - 1) (va + 4) with
        | .error (r, a) => .stuck r a
        | .ok _ => if left = n then (if wordE w then .ok else .illegal) else bodyScan s id f (va + natW (4 * n)) (left - n)
    | r => .stuck r va

/-- Set the index registers of a nest to a tuple. -/
def putTuple (c : Ctx) (seq base : Nat) : Nat → List Nat → Ctx
  | _, [] => c
  | d, i :: is => putTuple (lput c seq (base + 2 * d + 1) (natW i)) seq base (d + 1) is

/-- Start the loop that XLOOP describes, its body at `start` (R88): a new loop, whose own handler is not its body's (R89). -/
def startLoop (v start : Word) (c : Ctx) : Ctx :=
  let x := maskW v 0xFFFFFF
  let trips := (rangeFrom 0 (loopDims x)).map fun d => (lget c 4 (loopBase x + 2 * d)).toNat
  if trips.contains 0 then { xwriteCtx 0x20 v c with jump := some (start + natW (4 * (fld x 0 8 + 1))) }
  else
    let c := putTuple { c with xloop := setBit x 24 true, bodyAt := start, bodyTrips := trips, bodyBuf := [], bodyBad := [],
                               xlpos := 1, xstagep := 1, loopNo := c.loopNo + 1, loopIdle := false, drainCut := false } 4 (loopBase x) 0 (trips.map fun _ => 0)
    mirror c

/-- A state register has been written: it holds good data, the fields that the write left alone too (R347).
DESIGN CHOICE (log entry 105). -/
def xclean (s : State) (x : Nat) : State := if s.poison.isEmpty then s else setPoison s (.xreg s.cur x) false

/-- XWR to XLOOP with GO = 1 (R86). -/
def loopStart (i : Instr) (e : Bool) (v : Word) (s : State) : Out :=
  let c := me s
  let n := fld v 0 8 + 1
  if !e || loopActive c || decide (5 < fld v 8 3) || decide (16 < loopBase v + 2 * loopDims v) then illopOf i s
  else
    match bodyScan s s.cur n (c.pc + 4) n with
    | .illegal => illopOf i s
    | .stuck r va => fetchFails s s.cur r va
    | .ok =>
      let rs := fun (k : Nat) => (rangeFrom 0 (loopDims v)).map fun d => loopBase v + 2 * d + k
      if loopBad s s.cur 4 (rs 0) then trapNext { cause := 6 } s
      else .next (retire e 4 (xclean (onMe ((rs 1).foldl (fun s r => loopClean s s.cur 4 r) s) (startLoop v (c.pc + 4))) 0x20))

/-- XWR to XLOOP with GO = 0 stores the fields and abandons an active loop (R86). -/
def loopAbandon (e : Bool) (v : Word) (s : State) : Out := .next (retire e 4 (xclean (onMe s (xwriteCtx 0x20 v)) 0x20))

/-- The checks of an XWR by its register and its operand `v`, and its effect (R46, R143). -/
def xwrite (i : Instr) (e : Bool) (d : SReg) (x : Nat) (v : State → Word) (s : State) : Out :=
  if fullReg x && isLight s.cur then illopOf i s
  else if readOnlyReg x || ((x == 0x03 || x == 0x05) && !isSupervisor (me s)) then privOf i s
  else
    withSrc [d] s fun s =>
      if xwriteDenied s x (v s) then privOf i s
      else if x = 0x20 then (if bitAt (v s) 24 then loopStart i e (v s) s else loopAbandon e (v s) s)
      else .next (retire e 4 (xclean (onMe s (xwriteCtx x (v s))) x))

/-- XRD (R143): a light context has no loop, engine or format registers, and a poisoned register traps UCE (R347). -/
def execXrd (e : Bool) (d : SReg) (x : BitVec 17) (s : State) : Out :=
  if fullReg x.toNat && isLight s.cur then illopOf (.xrd e d x) s
  else if !s.poison.isEmpty && isPoison s (.xreg s.cur x.toNat) then trapNext { cause := 6 } s
  else result e d (xread s s.cur x.toNat) s

/-- XWR (R143). -/
def execXwr (e : Bool) (d : SReg) (x : BitVec 17) (s : State) : Out := xwrite (.xwr e d x) e d x.toNat (fun s => rs s d) s

/-- XLOOP_START: the XWR to XLOOP whose operand has GO = 1 (R86). -/
def execXloopStart (e : Bool) (d : SReg) (s : State) : Out :=
  xwrite (.xwr e d 0x20) e d 0x20 (fun s => setBit (rs s d) 24 true) s
/-- XLOOP_ABANDON: the XWR to XLOOP whose operand has GO = 0 (R86). -/
def execXloopAbandon (e : Bool) (d : SReg) (s : State) : Out :=
  xwrite (.xwr e d 0x20) e d 0x20 (fun s => setBit (rs s d) 24 false) s
/-- XTENANT_WRITE: the XWR to XTENANT (R282). -/
def execXtenantWrite (e : Bool) (d : SReg) (s : State) : Out := xwrite (.xwr e d 0x05) e d 0x05 (fun s => rs s d) s

end Sys2Proof.Machine
end

