-- ==== Sys2Proof/Machine/Loops.lean ====
section
/-! DEFINITION. The loop registers, the end of a stream-loop pass, and the access engines: their commands, their blocks,
their halts, rewinds and cuts (04). -/

namespace Sys2Proof.Machine

-- Nests (R83).

/-- The tuple of an iteration number: the innermost index counts fastest. -/
def tupleOf : Nat → List Nat → List Nat
  | _, [] => []
  | i, n :: ns => i % n :: tupleOf (i / n) ns
/-- Iterations of a nest. -/
def iterations (ns : List Nat) : Nat := ns.foldl (· * ·) 1
/-- Σ i_d × stride_d. -/
def offsetOf : List Nat → List Word → Word
  | i :: is, s :: ss => natW i * s + offsetOf is ss
  | _, _ => 0
/-- The tuple after another, or none at the end. -/
def stepTuple (ns is : List Nat) : Option (List Nat) :=
  let k := (is.zip ns).foldr (fun e a => e.1 + e.2 * a) 0
  if k + 1 < iterations ns then some (tupleOf (k + 1) ns) else none

/-- Trip counts of a nest of D dimensions from register base L (R81). -/
def tripsOf (c : Ctx) (seq l dims : Nat) : List Nat := (rangeFrom 0 dims).map fun d => (lget c seq (l + 2 * d)).toNat
/-- Strides from a stride base (R81). -/
def stridesOf (c : Ctx) (seq b dims : Nat) : List Word := (rangeFrom 0 dims).map fun d => lget c seq (b + d)
/-- The running indexes of the stream loop. -/
def loopIndex (c : Ctx) : List Nat :=
  (rangeFrom 0 (loopDims c.xloop)).map fun d => (lget c 4 (loopBase c.xloop + 2 * d + 1)).toNat

-- Access engines (R91 to R99). The counter code of engine n is 1 + n (R48).

def setEng (c : Ctx) (n : Nat) (e : Engine) : Ctx := { c with eng := smPut c.eng n e }
/-- Blocks of a data queue. -/
def qblocks (c : Ctx) (q : Nat) : List QBlock :=
  match smGet c.q q with
  | some (.data _ bs) => bs
  | _ => []
def setBlocks (c : Ctx) (q eng : Nat) (bs : List QBlock) : Ctx := { c with q := smPut c.q q (.data eng bs) }
/-- The queue that an engine's last AGEN named. -/
def engQueue (e : Engine) : Option Nat := e.gen.map (·.q.toNat)

/-- Blocks moved per tuple (R94). -/
def Nest.perTuple (n : Nest) : Nat := n.f.blocks.toNat + 1
/-- Lead pads of a nest in blocks. -/
def Nest.lead (n : Nest) : Nat := n.f.lead.toNat * n.perTuple
/-- Trail pads of a nest in blocks. -/
def Nest.trail (n : Nest) : Nat := n.f.trail.toNat * n.perTuple
/-- Real blocks of this run of a nest: up to its cut (R94). -/
def Nest.real (n : Nest) : Nat :=
  let left := iterations n.trips * n.perTuple - n.skip
  match n.cut with
  | some a => min left (a * n.perTuple)
  | none => left
/-- All blocks of this run, pads included. -/
def Nest.total (n : Nest) : Nat := n.lead + n.real + n.trail
/-- The real block number at a position, none for a pad. -/
def Nest.realAt (n : Nest) : Option Nat :=
  if n.lead ≤ n.pos ∧ n.pos < n.lead + n.real then some (n.skip + (n.pos - n.lead)) else none
/-- The address of a real block (R83, R94). -/
def Nest.addr (n : Nest) (rows k : Nat) : Word :=
  n.base + offsetOf (tupleOf (k / n.perTuple) n.trips) n.strides + natW (k % n.perTuple) * natW rows * n.pitch

/-- Release the queue bindings of an engine (R91, R96). -/
def unbind (c : Ctx) (n : Nat) : Ctx :=
  { c with q := c.q.filter fun e => match e.2 with | .data g _ => g != n | _ => true }

/-- Numbers that an engine has taken complete with nothing performed (R96, R98). -/
def endNums (c : Ctx) (n : Nat) (ks : List (Option Nat)) : Ctx := (ks.filterMap id).foldl (fun c k => tcFinish c (1 + n) k) c
/-- The numbers of a halted engine's blocks complete with nothing performed (R96, R98). -/
def dropHalt (c : Ctx) (n : Nat) : Ctx :=
  let e := engOf c n
  setEng (endNums c n [e.haltNum, e.redoNum, e.spare]) n { e with haltNum := none, redoNum := none, spare := none }
/-- A number that no block has still to take completes. -/
def dropSpare (c : Ctx) (n : Nat) : Ctx :=
  let e := engOf c n
  if e.spare.isSome then setEng (endNums c n [e.spare]) n { e with spare := none } else c
/-- An engine gives up the block that it has halted at: the block's number waits for the next one (R99). -/
def giveUpHalt (e : Engine) : Engine :=
  { e with spare := (match e.haltNum with | some k => some k | none => e.spare), haltNum := none, cause := 0 }

/-- Undo the ASTEPs recorded with blocks, newest first (R99). -/
def undoAll (c : Ctx) (seq : Nat) (bs : List QBlock) : Ctx :=
  bs.reverse.foldl (fun c b => b.undo.foldl (fun c e => lput c seq e.1.toNat e.2) c) c

/-- The trap of a halted engine (R98, R327). -/
def engTrap (n : Nat) (e : Engine) : Trap := { cause := e.cause, src := 2 + n, w := n == 2, va := e.va }

/-- Put an engine back to where it stood before a block, the later blocks and steps undone. -/
def restoreTo (c : Ctx) (n : Nat) (b : QBlock) (gone : List QBlock) : Ctx :=
  let c := undoAll c n gone
  setEng c n { giveUpHalt (engOf c n) with st := .running, awaits := none, cmd := b.cmd, nest := b.nest, gen := b.gen }

/-- Unconsumed blocks in the queues of an engine's earlier AGENs, each with its handle. -/
def oldBlocks (c : Ctx) (n : Nat) : List (Nat × QBlock) :=
  c.q.flatMap fun e =>
    match e.2 with
    | .data g bs => if g = n ∧ engQueue (engOf c n) ≠ some e.1 then bs.map fun b => (e.1, b) else []
    | _ => []

/-- The queues of an engine's earlier AGENs give up their blocks, which the engine fetches again first (R99). -/
def rewindOld (c : Ctx) (n : Nat) : Ctx :=
  let bs := oldBlocks c n
  if bs.isEmpty then c
  else
    let c := (bs.map (·.1)).foldl (fun c q => setBlocks c q n []) c
    let e := engOf c n
    setEng c n { e with redo := bs ++ e.redo, st := if e.st = .idle then .running else e.st }

/-- An engine that a fault has halted stays halted at its block: what it delivered before is fetched again first (R99,
R334). -/
def heldByFault (e : Engine) : Bool := e.st == .halted && e.cause != 0

/-- Move a read engine's position back to the consumer's: its unconsumed blocks go (R99, R101). -/
def rewind (c : Ctx) (n : Nat) : Ctx :=
  let c := rewindOld c n
  match engQueue (engOf c n) with
  | none => c
  | some q =>
    match qblocks c q with
    | [] => c
    | b :: bs =>
      let e := engOf c n
      if heldByFault e || !e.redo.isEmpty then setBlocks (setEng c n { e with redo := (b :: bs).map (fun b => (q, b)) ++ e.redo }) q n []
      else setBlocks (restoreTo c n b (b :: bs)) q n []

/-- The commands of an engine act only while it runs (R95). -/
def onEng (cl n : Nat) (s : State) (f : Ctx → Ctx) : Out :=
  let c := getCtx s (8 * cl)
  if (engOf c n).st = .running ∨ (engOf c n).st = .waiting then .next (setCtx s (8 * cl) (f c)) else .next s

/-- An engine halts at its command (R92, R98). -/
def haltCmd (n cause : Nat) (va : Word) (c : Ctx) : Ctx :=
  setEng c n { engOf c n with st := .halted, cause := cause, va := va, haltNum := none, awaits := none }

/-- The engine goes on to its next command. -/
def nextCmd (n : Nat) (c : Ctx) : Ctx := setEng c n { engOf c n with cmd := (engOf c n).cmd + 8 }

/-- AEND (R95). -/
def execAend (cl eng : Nat) (s : State) : Out :=
  onEng cl eng s fun c =>
    let c := dropSpare c eng
    setEng c eng { engOf c eng with st := .idle, nest := none }

/-- After a binding the core's L1 holds no more lines than it has room for (R91). -/
def thenTrim (core : Nat) (o : Out) : Out :=
  match o with
  | .next s => .next (trimL1 s core)
  | o => o

/-- AGEN binds its queue: a handle bound elsewhere halts the engine with QERR (R91 to R93). The queue's blocks take their part
of the core's L1. -/
def execAgen (cl eng : Nat) (f : AGenF) (s : State) : Out :=
  thenTrim (coreOf (8 * cl)) <| onEng cl eng s fun c =>
    let bind := nextCmd eng (setEng c eng { engOf c eng with gen := some f })
    match smGet c.q f.q.toNat with
    | none => setBlocks bind f.q.toNat eng []
    | some (.data g _) => if g = eng then bind else haltCmd eng 7 (engOf c eng).cmd c
    | some _ => haltCmd eng 7 (engOf c eng).cmd c

/-- ALOOP starts its nest, or ends at once with no iterations; without an AGEN it halts (R92, R94). A linked one whose cut
came before it starts cut. -/
def execAloop (cl eng : Nat) (f : ALoopF) (s : State) : Out :=
  onEng cl eng s fun c =>
    match (engOf c eng).gen with
    | none => haltCmd eng 7 (engOf c eng).cmd c
    | some g =>
      let dims := f.dims.toNat + 1
      let trips := tripsOf c eng f.l.toNat dims
      if trips.contains 0 then nextCmd eng c
      else
        let e := engOf c eng
        let nest : Nest := { f := f, base := lget c eng g.base.toNat, pitch := lget c eng g.pitch.toNat, trips := trips,
                             strides := stridesOf c eng f.s.toNat dims, pos := 0 }
        match e.cutAt with
        | some (a, again) =>
          if f.link then setEng c eng { e with nest := some { nest with cut := some a, again := again }, cutAt := none }
          else setEng c eng { e with nest := some nest }
        | none => setEng c eng { e with nest := some nest }

/-- Record a replaced register with the newest block of a read engine. -/
def noteUndo (c : Ctx) (n : Nat) (r : BitVec 4) : Ctx :=
  match engQueue (engOf c n) with
  | some q =>
    match (qblocks c q).reverse with
    | b :: bs => if n = 2 then c else setBlocks c q n (({ b with undo := (r, lget c n r.toNat) :: b.undo } :: bs).reverse)
    | [] => c
  | none => c

/-- ASTEP (R95). -/
def execAstep (cl eng : Nat) (a b : BitVec 4) (s : State) : Out :=
  onEng cl eng s fun c =>
    nextCmd eng (lput (noteUndo c eng a) eng a.toNat (lget c eng a.toNat + lget c eng b.toNat))

/-- AWAIT holds the engine until the counter reaches the register's value, and acquires those operations, at the narrowest scope
(R95). DESIGN CHOICE (log entry 93). -/
def execAwaitCmd (cl eng : Nat) (cnt : BitVec 3) (r : BitVec 4) (s : State) : Out :=
  let id := 8 * cl
  let c := getCtx s id
  let n := (lget c eng r.toNat).toNat
  if (engOf c eng).st ≠ .running ∧ (engOf c eng).st ≠ .waiting then .next s
  else if n ≤ tcDone (tcOf c cnt.toNat) then
    .next (acquireOps (modCtx s id fun c => nextCmd eng (setEng c eng { engOf c eng with st := .running, awaits := none })) id cnt.toNat n)
  else .next (modCtx s id fun c => setEng c eng { engOf c eng with st := .waiting, awaits := some (cnt.toNat, n) })

/-- The agent of an engine's accesses (R262, R283). -/
def engAgent (s : State) (id n : Nat) (num : Nat) : Agent :=
  let e := engOf (getCtx s id) n
  { ctx := id, part := partOf s id, tenant := e.tenant, view := e.view, op := some (1 + n, num) }

/-- A block's bits from its rows, each padded with zeros to 128 bytes. -/
def blockOf (rows : List (List Byte)) : Block :=
  BitVec.ofNat 16384 (leNat ((rows.take 16).flatMap fun r => (r ++ List.replicate (128 - r.length) 0).take 128))
/-- The bytes of a block's row. -/
def blockRow (b : Block) (r : Nat) : List Byte := leBytes 128 (natField b.toNat (1024 * r) 1024)
/-- Poisoned 8-byte units of a block from its rows. -/
def badUnits (rows : List (List PB)) : List Nat :=
  ((rangeFrom 0 rows.length).zip rows).flatMap fun e =>
    (rangeFrom 0 16).filterMap fun g => if anyBad ((e.2.drop (8 * g)).take 8) then some (16 * e.1 + g) else none

/-- Read the rows of a block. -/
def readRows (ag : Agent) (n : Nat) (pitch : Word) : Nat → State → Word → List (List PB) → RangeRes × List (List PB)
  | 0, s, _, acc => (.ok [] s, acc)
  | r + 1, s, a, acc =>
    match rangeRead ag .ar n s a n [] with
    | .ok bs s => readRows ag n pitch r s (a + pitch) (acc ++ [bs])
    | x => (x, acc)

/-- Write the enabled rows of a block. -/
def writeRows (ag : Agent) (n : Nat) (pitch : Word) (blk : QBlock) : Nat → Nat → State → Word → RangeRes
  | 0, _, s, _ => .ok [] s
  | k + 1, r, s, a =>
    if natBit blk.rows.toNat r then
      let row := ((rangeFrom 0 n).zip ((blockRow blk.data r).take n)).map fun e => (e.2, blk.bad.contains (16 * r + e.1 / 8))
      match rangeWrite ag .aw n s a row with
      | .ok _ s => writeRows ag n pitch blk k (r + 1) s (a + pitch)
      | x => x
    else writeRows ag n pitch blk k (r + 1) s (a + pitch)

/-- The engine's number for the block it handles: a halted block keeps its own, and one that a given-up block had taken
is used first (R99). -/
def takeEngNum (c : Ctx) (n : Nat) : Nat × Ctx :=
  let e := engOf c n
  match e.haltNum, e.spare with
  | some k, _ => (k, setEng c n { e with haltNum := none })
  | none, some k => (k, setEng c n { e with spare := none })
  | none, none => tcTake c (1 + n)
/-- The number of a discarded block: one whose fetch has failed keeps its own. -/
def takeRedoNum (c : Ctx) (n : Nat) : Nat × Ctx :=
  match (engOf c n).redoNum with
  | some k => (k, setEng c n { engOf c n with redoNum := none })
  | none => tcTake c (1 + n)

/-- A context waiting on a queue executes its word again, if its wait is over. -/
def wakeQueue (s : State) (id q : Nat) : State :=
  match (getCtx s id).wait with
  | some (.dataQueue qs) => if qs.any (fun x => x.1 == q) then raise s [.waitSatisfied id] else s
  | _ => s

/-- The engine halts at a block with a fault; the block's number stays incomplete (R98). -/
def haltBlock (s : State) (id n cause : Nat) (va : Word) (num : Nat) : State :=
  let s := modCtx s id fun c => setEng c n { engOf c n with st := .halted, cause := cause, va := va, haltNum := some num }
  match engQueue (engOf (getCtx s id) n) with
  | some q => wakeQueue s id q
  | none => s

/-- Bytes of a row that an AGEN moves (R92). -/
def genBytes (g : AGenF) : Nat := 2 * (g.bytes.toNat + 1)
/-- Rows of an AGEN's block (R92). -/
def genRows (g : AGenF) : Nat := g.rows.toNat + 1

/-- The running-index registers hold the tuple of the iteration most recently started (R83). -/
def showTuple (c : Ctx) (n : Nat) (nest : Nest) (k : Nat) : Ctx :=
  if k % nest.perTuple = 0 then putTuple c n nest.f.l.toNat 0 (tupleOf (k / nest.perTuple) nest.trips) else c

/-- A read engine delivers a block. -/
def deliver (c : Ctx) (n q : Nat) (nest : Nest) (data : Block) (bad : List Nat) : Ctx :=
  let e := engOf c n
  let b : QBlock := { data := data, bad := bad, cmd := e.cmd, nest := some nest, gen := e.gen }
  setBlocks (setEng c n { e with nest := some { nest with pos := nest.pos + 1 } }) q n (qblocks c q ++ [b])

/-- A read engine's next block (R93, R94, R98). -/
def readBlock (s : State) (id n : Nat) (g : AGenF) (nest : Nest) : State :=
  let q := g.q.toNat
  match nest.realAt with
  | none => wakeQueue (modCtx s id fun c => deliver c n q nest 0 []) id q
  | some k =>
    let (num, c) := takeEngNum (getCtx s id) n
    let s0 := setCtx s id (showTuple c n nest k)
    match readRows (engAgent s id n num) (genBytes g) nest.pitch (genRows g) s0 (nest.addr (genRows g) k) [] with
    | (.ok _ s1, rows) =>
      wakeQueue (modCtx s1 id fun c => tcFinish (deliver c n q nest (blockOf (rows.map bytesOf)) (badUnits rows)) (1 + n) num) id q
    | (.fault cause va s1, _) => haltBlock s1 id n cause va num
    | (.wait s1, _) => { s with agenda := s1.agenda }

/-- The engine halts at a discarded block with a fault; the number of a block that it had halted at before stays (R98). -/
def haltRedo (s : State) (id n q cause : Nat) (va : Word) (num : Nat) : State :=
  wakeQueue (modCtx s id fun c => setEng c n { engOf c n with st := .halted, cause := cause, va := va, redoNum := some num }) id q

/-- A read engine fetches a discarded block again into its own queue (R99, R101). -/
def redoBlock (s : State) (id n q : Nat) (b : QBlock) (rest : List (Nat × QBlock)) : State :=
  let done := fun (c : Ctx) (b : QBlock) =>
    setBlocks (setEng c n { engOf c n with redo := rest }) q n (qblocks c q ++ [b])
  match b.nest, b.gen with
  | some nest, some g =>
    match nest.realAt with
    | none => wakeQueue (modCtx s id fun c => done c b) id q
    | some k =>
      let (num, c) := takeRedoNum (getCtx s id) n
      match readRows (engAgent s id n num) (genBytes g) nest.pitch (genRows g) (setCtx s id c) (nest.addr (genRows g) k) [] with
      | (.ok _ s1, rows) =>
        wakeQueue (modCtx s1 id fun c =>
          tcFinish (done c { b with data := blockOf (rows.map bytesOf), bad := badUnits rows }) (1 + n) num) id q
      | (.fault cause va s1, _) => haltRedo s1 id n q cause va num
      | (.wait s1, _) => { s with agenda := s1.agenda }
  | _, _ => modCtx s id fun c => done c b

/-- The write engine's next block: it is absorbed, skipped or stored, and its number completes (R35, R94, R99). One that a pad
absorbs completes its number, written or skipped. DESIGN CHOICE (log entry 104). -/
def writeBlock (s : State) (id : Nat) (g : AGenF) (nest : Nest) (b : QBlock) (bs : List QBlock) : State :=
  let q := g.q.toNat
  let (num, c) := takeEngNum (getCtx s id) 2
  let moved := fun (c : Ctx) =>
    tcFinish (setBlocks (setEng c 2 { engOf c 2 with nest := some { nest with pos := nest.pos + 1 } }) q 2 bs) 3 num
  match nest.realAt with
  | none => wakeQueue (setCtx s id (moved c)) id q
  | some k =>
    let c := showTuple c 2 nest k
    if b.skipped then wakeQueue (setCtx s id (moved c)) id q
    else
      match writeRows (engAgent s id 2 num) (genBytes g) nest.pitch b (genRows g) 0 (setCtx s id c) (nest.addr (genRows g) k) with
      | .ok _ s1 => wakeQueue (modCtx s1 id moved) id q
      | .fault cause va s1 => haltBlock s1 id 2 cause va num
      | .wait s1 => { s with agenda := s1.agenda }

/-- Fetch and run the engine's next command with AAE read permission (R92). -/
def engCommand (s : State) (cl n : Nat) : Out :=
  let id := 8 * cl
  let e := engOf (getCtx s id) n
  match rangeRead (engAgent s id n 0) .ar 8 s e.cmd 8 [] with
  | .fault cause va s => .next (modCtx s id (haltCmd n cause va))
  | .wait s => .next s
  | .ok bs s =>
    if anyBad bs then .next (modCtx s id (haltCmd n 6 e.cmd))
    else
      match decodeAae cl n (valueOf bs) with
      | some (.aend cl n) => execAend cl n s
      | some (.agen cl n f) => execAgen cl n f s
      | some (.aloop cl n f) => execAloop cl n f s
      | some (.astep cl n a b) => execAstep cl n a b s
      | some (.awaitCmd cl n c r) => execAwaitCmd cl n c r s
      | _ => .next (modCtx s id (haltCmd n 7 e.cmd))

/-- A linked stream refills: LEAD pads again, then from its resumable position; a stream with nothing left is done
(R94). What stands before the cut and is not yet moved is moved first. -/
def refillEng (c : Ctx) (n : Nat) : Ctx :=
  match (engOf c n).nest with
  | some nest =>
    match nest.cut with
    | some a =>
      let skip := nest.skip + a * nest.perTuple
      if nest.pos < nest.total then setEng c n { engOf c n with nest := some { nest with again := true } }
      else if iterations nest.trips * nest.perTuple ≤ skip then
        nextCmd n (setEng c n { engOf c n with nest := none })
      else setEng c n { engOf c n with nest := some { nest with cut := none, again := false, skip := skip, pos := 0 } }
    | none => laterCut c
  | none => laterCut c
where
  /-- A cut that the engine has still to meet: the loop has refilled since. -/
  laterCut (c : Ctx) : Ctx :=
    let e := engOf c n
    match e.cutAt with
    | some (a, _) => setEng c n { e with cutAt := some (a, true) }
    | none => c

/-- AAE_BLOCK: an engine moves its next block or takes its next command. A nest cut by a drain stays at its end until
the loop refills (R94, R99). -/
def execAaeBlock (cl eng : Nat) (s : State) : Out :=
  let id := 8 * cl
  let e := engOf (getCtx s id) eng
  match e.st, e.redo with
  | .idle, _ => .next s
  | .halted, (q, b) :: rest => .next (if heldByFault e && e.redoNum.isNone then redoBlock s id eng q b rest else s)
  | .halted, [] => .next s
  | _, (q, b) :: rest => .next (redoBlock s id eng q b rest)
  | _, [] =>
    match e.nest, e.gen with
    | some nest, some g =>
      if nest.total ≤ nest.pos then
        (if nest.cut.isSome then .next (if nest.again then modCtx s id fun c => refillEng c eng else s)
         else .next (modCtx s id fun c => nextCmd eng (setEng c eng { engOf c eng with nest := none })))
      else
        let q := g.q.toNat
        if eng = 2 then
          match qblocks (getCtx s id) q with
          | [] => .next s
          | b :: bs => .next (writeBlock s id g nest b bs)
        else if 4 ≤ (qblocks (getCtx s id) q).length then .next s
        else .next (readBlock s id eng g nest)
    | _, _ => engCommand s cl eng

/-- Whether an engine can do something. -/
def engEnabled (c : Ctx) (n : Nat) : Bool :=
  let e := engOf c n
  match e.st with
  | .idle => false
  | .halted => heldByFault e && e.redoNum.isNone && !e.redo.isEmpty
  | .waiting =>
    (match e.awaits with
     | some (k, v) => decide (v ≤ tcDone (tcOf c k))
     | none => true)
  | .running =>
    if !e.redo.isEmpty then true
    else
    match e.nest, e.gen with
    | some nest, some g =>
      if nest.total ≤ nest.pos then nest.cut.isNone || nest.again
      else if n = 2 then !(qblocks c g.q.toNat).isEmpty else decide ((qblocks c g.q.toNat).length < 4)
    | _, _ => true

-- AGO and LSET (R82, R96).

/-- AGO in start mode (R96). -/
def startEng (id n : Nat) (at_ : Word) (s : State) : State :=
  modCtx s id fun c =>
    let c := unbind (dropHalt c n) n
    setEng c n { st := .running, cmd := BitVec.ofNat 64 (at_.toNat / 8 * 8), view := viewOf c, tenant := c.tenant.toNat }

/-- The AGENs at the start of a program have bound their queues before AGO retires, so that the words after it find them
(R91, R93, R100): the engine takes the leading AGEN commands at once. DEDUCED (log entry 18). -/
def leadGens (cl n : Nat) : Nat → State → State
  | 0, s => s
  | f + 1, s =>
    let e := engOf (getCtx s (8 * cl)) n
    if e.st ≠ .running then s
    else
      match rangeRead (engAgent s (8 * cl) n 0) .ar 8 s e.cmd 8 [] with
      | .ok bs s1 =>
        if anyBad bs then s
        else
          match decodeAae cl n (valueOf bs) with
          | some (.agen cl n f1) =>
            (match execAgen cl n f1 s1 with
             | .next s2 => leadGens cl n f s2
             | _ => s)
          | _ => s
      | _ => s

/-- AGO in resume mode: a halted engine runs again from its block or command, under the view of this AGO (R96, R262). -/
def resumeEng (id n : Nat) (s : State) : State :=
  modCtx s id fun c =>
    let e := engOf c n
    if e.st = .halted then
      setEng c n { e with st := .running, cause := 0, view := viewOf c, tenant := c.tenant.toNat }
    else c

/-- AGO and AGO.R (R96). The QERR of an AGO on an engine at work gives the address in its register as XTRAPVA. DESIGN CHOICE
(log entry 92). -/
def execAgo (e : Bool) (d : SReg) (m : Bool) (g : BitVec 2) (s : State) : Out :=
  fullOnly (.ago e d m g) s fun s =>
    if m then .next (retire e 4 (resumeEng s.cur g.toNat s))
    else
      withSrc [d] s fun s =>
        let st := (engOf (me s) g.toNat).st
        if st = .running ∨ st = .waiting then trapNext { cause := 7, va := rs s d } s
        else .next (retire e 4 (leadGens (clusterOf s.cur) g.toNat 16 (startEng s.cur g.toNat (rs s d) s)))

/-- Register bases and dimensions of the copy nests that a cluster's contexts have in progress. -/
def copyNests (s : State) (id : Nat) : List (Nat × Nat) :=
  (rangeFrom (fullOf id) 8).flatMap fun x =>
    (getCtx s x).copies.filterMap fun o =>
      match o.kind with
      | .move _ _ _ _ _ trips _ _ (some l) => some (l, trips.length)
      | _ => none

/-- A loop register is the running index of a nest that is active on its sequencer (R82). -/
def isIndex (s : State) (c : Ctx) (seq r : Nat) : Bool :=
  let hit := fun (l dims : Nat) => (rangeFrom 0 dims).any fun d => l + 2 * d + 1 == r
  match seq with
  | 4 => loopActive c && hit (loopBase c.xloop) (loopDims c.xloop)
  | 3 => (copyNests s s.cur).any fun e => hit e.1 e.2
  | n =>
    match (engOf c n).nest with
    | some nest => hit nest.f.l.toNat nest.trips.length
    | none => false

def execLset (e : Bool) (a : SReg) (sq : BitVec 3) (l : BitVec 4) (s : State) : Out :=
  fullOnly (.lset e a sq l) s fun s =>
    withSrc [a] s fun s =>
      if isIndex s (me s) sq.toNat l.toNat then .next (retire e 4 s)
      else .next (retire e 4 (loopClean (onMe s fun c => lput c sq.toNat l.toNat (sread c a)) s.cur sq.toNat l.toNat))

-- The end of a pass, the cut of linked streams and the refill (R88, R90, R94).

/-- A block of a linked stream lies beyond the cut after `a` admitted iterations (R94). -/
def isBeyond (a : Nat) (b : QBlock) : Bool :=
  match b.nest with
  | some n => n.f.link && n.cut.isNone && decide (n.lead + a * n.perTuple ≤ n.pos)
  | none => false

/-- An engine halted by a fault at a block beyond the cut has nothing left to fetch: its TRAIL pads follow (R94). -/
def pastCut (e : Engine) (nest : Nest) (a : Nat) : Bool :=
  heldByFault e && e.haltNum.isSome && decide (nest.lead + a * nest.perTuple ≤ nest.pos)

/-- The write engine is still at the nest of an older loop, whose blocks it has not all stored (R94). -/
def atOlder (c : Ctx) (n : Nat) (nest : Nest) : Bool :=
  n == 2 &&
    match engQueue (engOf c n) with
    | some q =>
      (match qblocks c q with
       | b :: _ => b.loop != c.loopNo
       | [] => decide (nest.total ≤ nest.pos))
    | none => false

/-- Cut the nest in progress, where it is linked and the loop's, else the next linked one of a program that has not ended
(R94). DEDUCED (log entry 31). -/
def cutNest (c : Ctx) (n a : Nat) : Ctx :=
  let e := engOf c n
  match e.nest with
  | some nest =>
    if !nest.f.link || atOlder c n nest then cutNext c
    else if nest.cut.isSome then c
    else if pastCut e nest a then
      setEng c n { giveUpHalt e with nest := some { nest with cut := some a }, st := .running }
    else setEng c n { e with nest := some { nest with cut := some a } }
  | none => cutNext c
where
  /-- The cut waits for the program's next linked ALOOP. -/
  cutNext (c : Ctx) : Ctx :=
    let e := engOf c n
    if e.st = .idle || e.cutAt.isSome then c else setEng c n { e with cutAt := some (a, false) }

/-- Cut an engine's linked stream after `a` admitted iterations (R94). -/
def cutEng (a : Nat) (c : Ctx) (n : Nat) : Ctx :=
  match engQueue (engOf c n) with
  | none => cutNest c n a
  | some q =>
    if n = 2 then cutNest c n a
    else
      let bs := qblocks c q
      let redo := (engOf c n).redo
      let keep := bs.takeWhile fun b => !isBeyond a b
      let keepRedo := if keep.length < bs.length then [] else redo.takeWhile fun x => !isBeyond a x.2
      match bs.drop keep.length ++ (redo.drop keepRedo.length).map (·.2) with
      | [] => cutNest c n a
      | b :: gone =>
        let c := setBlocks (restoreTo c n b (b :: gone)) q n keep
        cutNest (setEng c n { engOf c n with redo := keepRedo }) n a

/-- The loop restarts at the next tuple, or is over (R90). -/
def refillLoop (c : Ctx) : Ctx :=
  let c := { [0, 1, 2].foldl refillEng c with refill := false, drainCut := false }
  match stepTuple c.bodyTrips (loopIndex c) with
  | some t =>
    mirror { enterAt c.bodyAt (putTuple c 4 (loopBase c.xloop) 0 t) with
      xlpos := 1, xstagep := 1, xloop := setBit (setBit c.xloop 25 false) 24 true }
  | none => { enterAt (c.bodyAt + natW (bodyLen c)) c with xloop := setBit (setBit c.xloop 25 false) 24 false }

/-- What the end of a pass does to the loop's position (R88): the context, and whether XSTAGEP is 0. A drain cuts the linked
streams where it leaves iterations out (R94). -/
def endPass (c : Ctx) : Ctx × Bool :=
  let drn := bitAt c.xloop 25
  let c := if drn && (stepTuple c.bodyTrips (loopIndex c)).isSome then [0, 1, 2].foldl (cutEng c.xlpos.toNat) c else c
  let next := if drn then none else stepTuple c.bodyTrips (loopIndex c)
  let c := match next with
    | some t => { putTuple c 4 (loopBase c.xloop) 0 t with xlpos := c.xlpos + 1 }
    | none => c
  let st := loopStages c.xloop
  let p := (fld c.xstagep 0 8 * 2 + bitNat next.isSome) % 2 ^ st
  let c := { c with xstagep := natW p, xrrb := if 2 ≤ st then natW ((fld c.xrrb 0 5 + 31) % 32) else c.xrrb }
  (c, p == 0)

/-- LOOP_PASS_END (R88, R90): a drain that a wait has cut short refills in place, whatever request is pending. -/
def execLoopPassEnd (ctx : Nat) (s : State) : Out :=
  let c := getCtx s ctx
  if !loopActive c || c.mid || c.pc ≠ c.bodyAt + natW (bodyLen c) then .next s
  else
    let (c, dry) := endPass c
    if !dry then .next (setCtx s ctx { mirror c with pc := c.bodyAt })
    else if bitAt c.xloop 25 then
      (if c.drainCut then .next (setCtx s ctx (refillLoop c))
       else .next (beginSave ctx true (setCtx s ctx { c with refill := true, pc := c.bodyAt, xloop := setBit c.xloop 24 false })))
    else .next (setCtx s ctx { c with xloop := setBit c.xloop 24 false })

end Sys2Proof.Machine
end

