-- ==== Sys2Proof/Machine/CopyEng.lean ====
section
/-! DEFINITION. The copy engine: XCOPY and XCOPY.H with their descriptors, the lines that it moves, and the map regions'
fills and write-backs (10 R246 to R248, 09 R211). -/

namespace Sys2Proof.Machine

-- Descriptors (R246).

/-- A copy descriptor's 64 bytes. -/
structure CopyDesc where
  saddr : Word
  daddr : Word
  len : Nat
  bytes : List Byte
  deriving DecidableEq, Repr

/-- The descriptor that 64 bytes hold. -/
def copyDesc (bs : List Byte) : CopyDesc :=
  { saddr := natW (leNat (bs.take 8)), daddr := natW (leNat ((bs.drop 8).take 8)), len := leNat ((bs.drop 16).take 8), bytes := bs }
/-- Byte i of a descriptor. -/
def CopyDesc.at (d : CopyDesc) (i : Nat) : Nat := (d.bytes.getD i 0).toNat
/-- Bytes from i on are zero. -/
def CopyDesc.zeroFrom (d : CopyDesc) (i : Nat) : Bool := (d.bytes.drop i).all (· == 0)
def CopyDesc.sloc (d : CopyDesc) : Bool := natBit (d.at 24) 0
def CopyDesc.dloc (d : CopyDesc) : Bool := natBit (d.at 24) 1
/-- Dimensions and register base of a NEST. -/
def CopyDesc.dims (d : CopyDesc) : Nat := d.at 25 % 8 + 1
def CopyDesc.base (d : CopyDesc) : Nat := natField (d.at 25) 3 4

/-- A LIN's fields are in range. -/
def CopyDesc.linOk (d : CopyDesc) : Bool :=
  decide (d.at 24 < 4) && d.zeroFrom 25 && decide (1 ≤ d.len ∧ d.len ≤ 2 ^ 32)
/-- A NEST's fields are in range. -/
def CopyDesc.nestOk (d : CopyDesc) : Bool :=
  decide (d.at 24 < 4 ∧ d.at 25 < 128 ∧ d.at 26 < 16 ∧ d.at 27 < 16) && d.zeroFrom 28 &&
    decide (1 ≤ d.len ∧ d.len ≤ 65536) && decide (d.dims ≤ 6 ∧ d.base + 2 * d.dims ≤ 16) &&
    decide (d.at 26 + d.dims ≤ 16 ∧ d.at 27 + d.dims ≤ 16)
/-- The reserved fields of a MAP, UNMAP or WB. -/
def CopyDesc.mapOk (d : CopyDesc) : Bool :=
  decide (d.at 24 = 0 ∧ d.at 25 = 0 ∧ d.at 26 = 0 ∧ d.at 27 = 0 ∧ d.at 28 < 16) && d.zeroFrom 29

/-- Least and greatest offsets of a nest's rows as signed numbers. -/
def nestSpan : List Nat → List Word → Int × Int
  | n :: ns, st :: ss =>
    let (lo, hi) := nestSpan ns ss
    let e := ((n - 1 : Nat) : Int) * st.toInt
    (lo + min 0 e, hi + max 0 e)
  | _, _ => (0, 0)
/-- A scratchpad-local range stays within 4 MiB. -/
def localOk (a : Word) (len : Nat) (trips : List Nat) (ss : List Word) : Bool :=
  trips.contains 0 ||
    (let (lo, hi) := nestSpan trips ss
     decide (0 ≤ (a.toNat : Int) + lo ∧ (a.toNat : Int) + hi + len ≤ 2 ^ 22))

/-- The address that a copy uses: a scratchpad offset lies in the window. -/
def copyAddr (loc : Bool) (a : Word) : Word := if loc then 0xFFFFFFFFFFC00000 + BitVec.ofNat 64 (a.toNat % 2 ^ 22) else a

/-- An address on a sealed page that does not begin a sealed block (R246, R293). -/
def splitsBlock (s : State) (ag : Agent) (u : Use) (a edge : Word) : Bool :=
  edge.toNat % 512 != 0 &&
    match xlate s ag u (u == .cw) a with
    | .page lo _ _ _ => leafSeal lo
    | _ => false
/-- A range that touches a sealed page without covering whole blocks. -/
def splitsRange (s : State) (ag : Agent) (u : Use) (a : Word) (len : Nat) : Bool :=
  splitsBlock s ag u a a || splitsBlock s ag u (a + natW (len - 1)) (a + natW len)
/-- Some row of a copy splits a sealed block. -/
def splitsSealed (s : State) (ag : Agent) (u : Use) (a : Word) (len : Nat) (trips : List Nat) (ss : List Word) : Bool :=
  if a.toNat % 512 = 0 ∧ len % 512 = 0 ∧ (ss.all fun w => w.toNat % 512 == 0) then false
  else (rangeFrom 0 (iterations trips)).any fun k => splitsRange s ag u (a + offsetOf (tupleOf k trips) ss) len

/-- The move that a LIN or NEST descriptor asks for, none where it is refused. -/
def copyMove (s : State) (nest : Bool) (d : CopyDesc) : Option CopyKind :=
  let c := getCtx s (fullOf s.cur)
  let trips := if nest then tripsOf c 3 d.base d.dims else []
  let ss := if nest then stridesOf c 3 (d.at 26) d.dims else []
  let ds := if nest then stridesOf c 3 (d.at 27) d.dims else []
  let ag := agentOf s s.cur
  if !(if nest then d.nestOk else d.linOk) then none
  else if (d.sloc && !localOk d.saddr d.len trips ss) || (d.dloc && !localOk d.daddr d.len trips ds) then none
  else if (!d.sloc && splitsSealed s ag .cr d.saddr d.len trips ss) || (!d.dloc && splitsSealed s ag .cw d.daddr d.len trips ds) then none
  else some (.move d.saddr d.daddr d.sloc d.dloc d.len trips ss ds (if nest then some d.base else none))

/-- Read the descriptor as a scalar load, and release at `.co` (R221, R246). The read is part of its word and takes no number of
tc.ls. DESIGN CHOICE (log entry 111). -/
def withDesc (n : Nat) (a : SReg) (s : State) (k : List Byte → State → Out) : Out :=
  withSrc [a] s fun s => (loadAt 0 (alignDown (rs s a) n) n s).bind fun bs s => k (bytesOf bs) (release s s.cur 1 none)

/-- The end of a copy word: rd receives the number. -/
def copyDone (e : Bool) (d : SReg) (n : Nat) (s : State) : Out := result e d (natW n) s

/-- Issue an operation of the copy engine. -/
def issueCopy (e : Bool) (d : SReg) (kind : CopyKind) (tagged : Bool) (s : State) : Out :=
  let c := me s
  let (n, c') := tcTake c 4
  let op : CopyOp := { num := n, kind := kind, view := viewOf c, tagged := tagged, tenant := c.tenant.toNat }
  copyDone e d n (onMe s fun _ => { c' with copies := c'.copies ++ [op] })

/-- XCOPY.LIN and XCOPY.NEST, and their tagged forms: with XHYP = 0 a tagged form is the plain one (R246, R248). A poisoned loop
register goes before the tag's HYPADDR, and both before the refusals that return 0. DESIGN CHOICE (log entry 113). -/
def copyWord (e : Bool) (d a : SReg) (nest tagged : Bool) (s : State) : Out :=
  withDesc 64 a s fun bs s =>
    let desc := copyDesc bs
    let tag := tagged && viewOf (me s) != 0
    let regs := (rangeFrom 0 desc.dims).flatMap fun i => [desc.base + 2 * i, desc.at 26 + i, desc.at 27 + i]
    if nest && desc.nestOk && loopBad s s.cur 3 regs then trapNext { cause := 6 } s
    else if tag && desc.dloc then trapNext { cause := 10, w := true, va := desc.daddr } s
    else
      match copyMove s nest desc with
      | none => copyDone e d 0 s
      | some k => issueCopy e d k tag s

def execXcopyLin (e : Bool) (d a : SReg) (s : State) : Out := copyWord e d a false false s
def execXcopyNest (e : Bool) (d a : SReg) (s : State) : Out := copyWord e d a true false s
def execXcopyHLin (e : Bool) (d a : SReg) (s : State) : Out := copyWord e d a false true s
def execXcopyHNest (e : Bool) (d a : SReg) (s : State) : Out := copyWord e d a true true s

/-- Two ranges overlap. -/
def overlaps (a n b m : Nat) : Bool := decide (a < b + m ∧ b < a + n)

/-- A MAP's region and range, none where it is refused (R211, R246). -/
def mapRegion (s : State) (d : CopyDesc) : Option (Nat × Region) :=
  let r := d.at 28
  let off := d.daddr.toNat
  let rs := (getCore s (coreOf s.cur)).regions
  if !d.mapOk || d.len = 0 || d.len % 65536 != 0 || d.saddr.toNat % 65536 != 0 || off % 65536 != 0 ||
      decide (2 ^ 22 < off + d.len) || (smGet rs r).isSome ||
      rs.any (fun e => overlaps off d.len e.2.off e.2.len || overlaps d.saddr.toNat d.len e.2.gbase.toNat e.2.len) then none
  else some (r, { owner := s.cur, gbase := d.saddr, off := off, len := d.len })

/-- XCOPY.MAP: the number completes at once, since nothing moves. -/
def execXcopyMap (e : Bool) (d a : SReg) (s : State) : Out :=
  withDesc 64 a s fun bs s =>
    match mapRegion s (copyDesc bs) with
    | none => copyDone e d 0 s
    | some (r, reg) =>
      let s := modCore s (coreOf s.cur) fun c => { c with regions := smPut c.regions r reg }
      let s := onMe s fun c => tcStep c 4
      copyDone e d (tcOf (me s) 4).issued s

/-- A region's granules that are dirty, lowest first. -/
def dirtyOf (s : State) (core r : Nat) : List Nat :=
  match smGet (getCore s core).regions r with
  | some reg => (rangeFrom 0 (reg.len / 4096)).filter fun g => reg.dirty.contains g
  | none => []

/-- UNMAP and WB of a mapped region. -/
def writeBackWord (e : Bool) (d a : SReg) (unmap : Bool) (s : State) : Out :=
  withDesc 64 a s fun bs s =>
    let desc := copyDesc bs
    let r := desc.at 28
    if !desc.mapOk || (smGet (getCore s (coreOf s.cur)).regions r).isNone then copyDone e d 0 s
    else issueCopy e d (.writeBack r unmap (dirtyOf s (coreOf s.cur) r)) false s

def execXcopyUnmap (e : Bool) (d a : SReg) (s : State) : Out := writeBackWord e d a true s
def execXcopyWb (e : Bool) (d a : SReg) (s : State) : Out := writeBackWord e d a false s

-- The lines of a copy (R246 to R248).

/-- The agent of a copy (R262, R283). -/
def copyAgent (s : State) (id : Nat) (o : CopyOp) : Agent :=
  { ctx := id, part := partOf s id, tenant := o.tenant, view := o.view, op := some (4, o.num) }

def setCopy (s : State) (id : Nat) (o : CopyOp) : State :=
  modCtx s id fun c => { c with copies := c.copies.map fun x => if x.num = o.num then o else x }
/-- An operation of the copy engine has completed. -/
def endCopy (s : State) (id num : Nat) : State :=
  modCtx s id fun c => tcFinish { c with copies := c.copies.filter fun x => x.num != num } 4 num
/-- A copy halts at its line (R247). -/
def haltCopy (s : State) (id : Nat) (o : CopyOp) (cause : Nat) (va : Word) (write : Bool) : State :=
  setCopy s id { o with buf := none, due := none, halt := some { cause := cause, va := va, write := write } }

/-- A page at an address is sealed. -/
def sealedAt (s : State) (ag : Agent) (va : Word) : Bool :=
  match xlate s ag .cw true va with
  | .page lo _ _ _ => leafSeal lo
  | _ => false
/-- Bytes of the next line of a destination: a sealed page is written by whole blocks (R293). -/
def lineLen (s : State) (ag : Agent) (dst : Word) (n : Nat) : Nat :=
  let unit := if sealedAt s ag dst then 512 else 64
  min n (unit - dst.toNat % unit)

/-- Read the rest of a row, line by line of its destination, up to the first fault. -/
def readRow (ag : Agent) : Nat → State → Word → Word → Nat → List PB → RangeRes × List PB × Option Halt
  | 0, s, _, _, _, acc => (.ok [] s, acc, none)
  | f + 1, s, src, dst, n, acc =>
    if n = 0 then (.ok [] s, acc, none)
    else
      let k := lineLen s ag dst n
      match rangeRead ag .cr k s src k [] with
      | .ok bs s => readRow ag f s (src + natW k) (dst + natW k) (n - k) (acc ++ bs)
      | .fault c va s => (.ok [] s, acc, some { cause := c, va := va, write := false })
      | .wait s => (.wait s, acc, none)

/-- Write one line of a tagged copy's destination (R248, R263). -/
def tagLine (s : State) (ag : Agent) (dst : Word) (bs : List PB) : RangeRes × Bool :=
  if inWindow dst then (.fault 10 dst s, false)
  else
    match xlate s ag .cw true dst with
    | .bad c => (.fault c dst s, false)
    | .scratch _ => (.fault 10 dst s, false)
    | .page lo hi pa inPage =>
      if hypExcluded lo pa then (.fault 10 dst s, false)
      else if !grants lo .cw true then (.fault 4 dst s, false)
      else if leafSeal lo then
        if anyBad bs then (.fault 6 dst s, false)
        else
          match tagSealed (tlbNote s ag dst (.page lo hi pa inPage)) ag hi pa inPage (bytesOf bs) with
          | (.error c, s) => (.fault c dst s, false)
          | (.ok (.done s), _) => (.ok [] s, false)
          | (.ok .wait, _) => (.wait s, false)
          | (.ok .full, _) => (.wait s, true)
      else
        match tagWrite (tlbNote s ag dst (.page lo hi pa inPage)) ag (pa / 64) (pa % 64) bs with
        | .done s => (.ok [] s, false)
        | .wait => (.wait s, false)
        | .full => (.wait s, true)

/-- The running-index registers show the row that starts (R83). -/
def showRow (s : State) (id : Nat) (trips : List Nat) (l : Option Nat) (k : Nat) : State :=
  match l with
  | some b => modCtx s (fullOf id) fun c => putTuple c 3 b 0 (tupleOf k trips)
  | none => s

/-- A copy has written `k` bytes of its row. -/
def copyMoved (s : State) (id : Nat) (o : CopyOp) (k total : Nat) (rest : List PB) (h : Option Halt) (rowEnd : Bool) : State :=
  let o := { o with pos := o.pos + k, due := none, buf := if rowEnd then none else some (rest, h) }
  if total ≤ o.pos then endCopy s id o.num else setCopy s id o

/-- A tagged line that finds no version space: it waits up to XHYPWAIT and then halts with HYPCAP (R263). -/
def copyFull (s : State) (id : Nat) (o : CopyOp) (dst : Word) : State :=
  match o.due with
  | some t => if reached s t then haltCopy s id o 11 dst true else s
  | none =>
    let w := fld (getCtx s id).xhypwait 0 32
    if w = 0 then haltCopy s id o 11 dst true else setCopy s id { o with due := some (cycleIn s w) }

/-- Write the next line of a row that has been read. -/
def writeCopyLine (s : State) (id : Nat) (o : CopyOp) (dst : Word) (len total : Nat) (bs : List PB) (h : Option Halt) : State :=
  if bs.isEmpty then
    match h with
    | some h => haltCopy s id o h.cause h.va h.write
    | none => setCopy s id { o with buf := none }
  else
    let ag := copyAgent s id o
    let k := lineLen s ag dst bs.length
    let (r, full) := if o.tagged then tagLine s ag dst (bs.take k) else (rangeWrite ag .cw k s dst (bs.take k), false)
    match r with
    | .ok _ s => copyMoved s id o k total (bs.drop k) h (o.pos % len + k == len)
    | .fault c va s => haltCopy s id o c va true
    | .wait s1 => if full then copyFull s id o dst else { s with agenda := s1.agenda }

/-- The next line of a LIN or NEST: a row is read whole before it is written (R246). -/
def moveLine (s : State) (id : Nat) (o : CopyOp) (src dst : Word) (len : Nat) (trips : List Nat) (ss ds : List Word)
    (l : Option Nat) : State :=
  let total := len * iterations trips
  if total ≤ o.pos then endCopy s id o.num
  else
    let t := tupleOf (o.pos / len) trips
    let off := natW (o.pos % len)
    let a := src + offsetOf t ss + off
    let b := dst + offsetOf t ds + off
    match o.buf with
    | some (bs, h) => writeCopyLine s id o b len total bs h
    | none =>
      let ag := copyAgent s id o
      let s0 := showRow s id trips l (o.pos / len)
      let n := len - o.pos % len
      match readRow ag n s0 a b n [] with
      | (.ok _ s1, bs, h) => writeCopyLine (setCopy s1 id { o with buf := some (bs, h) }) id { o with buf := some (bs, h) } b len total bs h
      | (.fault c va s1, _, _) => haltCopy s1 id o c va false
      | (.wait s1, _, _) => { s with agenda := s1.agenda }

/-- The dirty mark of a granule. -/
def setDirty (s : State) (core r g : Nat) (on : Bool) : State :=
  modCore s core fun c =>
    match smGet c.regions r with
    | some reg =>
      let rest := reg.dirty.filter (· ≠ g)
      { c with regions := smPut c.regions r { reg with dirty := if on then g :: rest else rest } }
    | none => c

/-- The granules of a write-back whose lines it holds are dirty again, and it starts over with them (R211). -/
def redirty (s : State) (core r : Nat) (unmap : Bool) (reg : Region) (o : CopyOp) (left : List Nat) : State × CopyOp :=
  let gs := (o.kept.map fun p => (p.1 - reg.gbase).toNat / 4096).eraseDups
  (gs.foldl (fun s g => setDirty s core r g true) s, { o with kind := .writeBack r unmap (gs ++ left.filter fun g => !gs.contains g), pos := 0, kept := [] })

/-- Write pieces of a range in order. -/
def writePieces (ag : Agent) : List (Word × List PB) → State → RangeRes
  | [], s => .ok [] s
  | (va, bs) :: rest, s =>
    match rangeWrite ag .cw bs.length s va bs with
    | .ok _ s => writePieces ag rest s
    | x => x

/-- A write-back has no granule left: an unmapped region is freed once nothing of it is dirty. Its lines become visible as its number
completes (R211). -/
def endWriteBack (s : State) (id : Nat) (o : CopyOp) (r : Nat) (unmap : Bool) : State :=
  let core := coreOf id
  match (if unmap then dirtyOf s core r else []) with
  | g :: gs => setCopy s id { o with kind := .writeBack r unmap (g :: gs), pos := 0 }
  | [] =>
    match writePieces (copyAgent s id o) o.kept s with
    | .ok _ s =>
      endCopy (if unmap then modCore s core fun c => { c with regions := smDel c.regions r } else s) id o.num
    | .fault c va s1 =>
      (match smGet (getCore s1 core).regions r with
       | some reg =>
         let (s2, o) := redirty { s with keys := s1.keys } core r unmap reg o []
         haltCopy s2 id o c va true
       | none => endCopy s id o.num)
    | .wait s1 => { s with agenda := s1.agenda }

/-- The next line of a write-back: it is translated and checked, and held until the number completes; a granule is clean from its
first line on, and dirty again after a fault (R211). -/
def writeBackLine (s : State) (id : Nat) (o : CopyOp) (r : Nat) (unmap : Bool) (left : List Nat) : State :=
  let core := coreOf id
  match left, smGet (getCore s core).regions r with
  | [], _ => endWriteBack s id o r unmap
  | _, none => endWriteBack s id { o with kind := .writeBack r unmap [] } r unmap
  | g :: gs, some reg =>
    if o.pos = 0 ∧ reg.dirty.contains g = false then setCopy s id { o with kind := .writeBack r unmap gs }
    else
      let ag := copyAgent s id o
      let dst := reg.gbase + natW (4096 * g + o.pos)
      let k := lineLen s ag dst (4096 - o.pos)
      let bs := scratchRead s core (reg.off + 4096 * g + o.pos) k
      match rangeWrite ag .cw k s dst bs with
      | .ok _ _ =>
        let o := { o with kept := o.kept ++ [(dst, bs)] }
        setCopy (if o.pos = 0 then setDirty s core r g false else s) id
          (if 4096 ≤ o.pos + k then { o with kind := .writeBack r unmap gs, pos := 0 } else { o with pos := o.pos + k })
      | .fault c va s1 =>
        let (s2, o) := redirty { s with keys := s1.keys } core r unmap reg o (g :: gs)
        haltCopy s2 id o c va true
      | .wait s1 => { s with agenda := s1.agenda }

/-- Fill a granule from `pos` on; the lines before a fault stand (R211). -/
def fillLines (ag : Agent) (core : Nat) (reg : Region) (g : Nat) : Nat → State → Nat → RangeRes × Nat
  | 0, s, pos => (.ok [] s, pos)
  | f + 1, s, pos =>
    if 4096 ≤ pos then (.ok [] s, pos)
    else
      match rangeRead ag .cr 64 s (reg.gbase + natW (4096 * g + pos)) 64 [] with
      | .ok bs s => fillLines ag core reg g f (scratchWrite s core (reg.off + 4096 * g + pos) bs) (pos + 64)
      | x => (x, pos)

/-- Run a fill. -/
def runFill (s : State) (id : Nat) (o : CopyOp) (r g : Nat) : State :=
  let core := coreOf id
  match smGet (getCore s core).regions r with
  | none => endCopy s id o.num
  | some reg =>
    match fillLines (copyAgent s id o) core reg g 64 s o.pos with
    | (.ok _ s, _) =>
      endCopy (modCore s core fun c =>
        match smGet c.regions r with
        | some reg => { c with regions := smPut c.regions r { reg with filled := g :: reg.filled } }
        | none => c) id o.num
    | (.fault c va s, pos) => haltCopy s id { o with pos := pos } c va false
    | (.wait s, pos) => setCopy s id { o with pos := pos }

/-- A fill of a granule in progress, of any context of the core. -/
def fillOp (s : State) (core r g : Nat) : Option (Nat × CopyOp) :=
  s.ctxs.findSome? fun e =>
    if coreOf e.1 = core then (e.2.copies.find? fun o => o.kind == .fill r g).map fun o => (e.1, o) else none

/-- MAP_FILL: the first access to a granule fills it, numbered on the accessor's tc.cp (R211). -/
def execMapFill (ctx region granule : Nat) (s : State) : Out :=
  match fillOp s (coreOf ctx) region granule with
  | some (id, o) => .next (if o.halt.isSome then s else runFill s id o region granule)
  | none =>
    match smGet (getCore s (coreOf ctx)).regions region with
    | none => .next s
    | some reg =>
      if reg.filled.contains granule || decide (reg.len / 4096 ≤ granule) then .next s
      else
        let c := getCtx s ctx
        let (n, c') := tcTake c 4
        let o : CopyOp := { num := n, kind := .fill region granule, view := viewOf c, tagged := false, tenant := c.tenant.toNat }
        .next (runFill (setCtx s ctx { c' with copies := c'.copies ++ [o] }) ctx o region granule)

end Sys2Proof.Machine
end

