-- ==== Sys2Proof/Machine/Command.lean ====
section
/-! DEFINITION. The ends of the host's commands: which function may give which, and the status, head and signal that
complete one (20 R368 to R371). -/

namespace Sys2Proof.Machine

/-- Statuses of a command (R369). -/
inductive CmdStatus where
  | done | format | busy | share | dirty | full | closed | denied | empty
  deriving DecidableEq, Repr

/-- The number of a status. -/
def CmdStatus.code : CmdStatus → Nat
  | .done => 0
  | .format => 1
  | .busy => 2
  | .share => 3
  | .dirty => 4
  | .full => 5
  | .closed => 6
  | .denied => 7
  | .empty => 8

/-- Physical address of a host address (R367). -/
def hostPa (a : Nat) : Nat := 2 ^ 51 + a % 2 ^ 51

/-- Host address of the entry at a function's head (R368). -/
def headEntry (f : Fn) : Nat := f.base + 64 * f.head

/-- The head passes an entry that it points at. -/
def passEntry (c : CmdSrc) (f : Fn) : Fn :=
  if f.size ≠ 0 ∧ f.head ≠ f.tail ∧ headEntry f = c.entry then { f with head := (f.head + 1) % f.size } else f

/-- A command is complete: its STATUS is written, HEAD advances, and vector 0 of its function signals (R370). -/
def cmdDone (c : CmdSrc) (st : CmdStatus) (s : State) : Out :=
  let s := memWrite s (hostPa (c.entry + 1)) [BitVec.ofNat 8 st.code]
  .next (modFn s c.fn fun f => { passEntry c f with msi0 := f.msi0 + 1 })

/-- A command that PF0 alone may give; one written before READY stays in its ring (R369, R371, R380). -/
def pf0Command (c : CmdSrc) (s : State) (k : State → Out) : Out :=
  if !s.ready then .next s
  else if c.fn = 0 then k s
  else cmdDone c .denied s

/-- A command that PF0 and the virtual functions may give (R371). -/
def launchCommandOf (c : CmdSrc) (s : State) (k : State → Out) : Out :=
  if !s.ready then .next s
  else if c.fn = 1 then cmdDone c .denied s
  else k s

/-- Bytes of host memory at a host address, with their poison. -/
def hostRead (s : State) (a n : Nat) : List PB := (rangeFrom a n).map fun i => committed s (hostPa i)
/-- Bytes of host memory at a host address. The requester ID of the access (R371) is left out. DESIGN CHOICE (log entry 103). -/
def hostBytes (s : State) (a n : Nat) : List Byte := (rangeFrom a n).map fun i => memByte s (hostPa i)

end Sys2Proof.Machine
end

