-- ==== Sys2Proof/Machine/Frames.lean ====
section
/-! DEFINITION. Memory frames: their table, assignment and release, the scrub engine, and the quota of factor pages
whose release is still under way (13 R287 to R289, 14 R314). -/

namespace Sys2Proof.Machine

/-- The frame of a physical address. -/
def frameOf (pa : Nat) : Nat := pa / 65536
/-- A frame's table entry (R287). -/
def frameEntry (s : State) (f : Nat) : Nat := (smGetD s.frames f 0).toNat
/-- A frame's STATE: 0 DIRTY, 1 SCRUBBING, 2 CLEAN, 3 ASSIGNED. -/
def frameState (s : State) (f : Nat) : Nat := natField (frameEntry s f) 0 2
/-- Write a frame's table entry. -/
def setFrame (s : State) (f e : Nat) : State := { s with frames := smSet s.frames f (BitVec.ofNat 32 e) 0 }
/-- The entry of an assigned frame. -/
def assignedEntry (part owner : Nat) : Nat := 3 + part % 16 * 4 + owner % 4096 * 64

/-- A frame is released and its accesses have still to be performed. -/
def releasing (s : State) (f : Nat) : Bool := s.frameWork.any fun e => e.1 == f

/-- A physical address names a frame: aligned, populated, in no host memory (R288). -/
def namesFrame (pa : Nat) : Bool := pa % 65536 == 0 && !isHost pa && populatedPa pa

/-- ASSIGN of a frame by number (R288). -/
def assignFrame (s : State) (f part owner : Nat) : CmdStatus × State :=
  match frameState s f with
  | 2 => (.done, setFrame s f (assignedEntry part owner))
  | 3 => (.busy, s)
  | _ => (.dirty, s)

/-- Watch keys armed on lines of a frame. -/
def frameWatches (s : State) (f : Nat) : List Nat :=
  ((s.ctxs.filterMap fun e => e.2.watchKey) ++ (s.saved.filterMap fun e => e.2.ctx.watchKey)).filter
    fun k => k % 2 == 0 && k / 2 / 1024 == f

/-- A cached translation leads to a frame, as its page or, of a sealed page, as its shadow (R288, R291). -/
def leadsTo (f : Nat) (t : TlbEntry) : Bool :=
  !leafPeer t.lo && (t.pa / 65536 == f || (leafSeal t.lo && (fld t.hi 16 40 * 4096 + t.inPage / 512 * 32) / 65536 == f))

/-- The first step of a release: every cached translation of the frame goes on every die, and watches on its lines
fire (R288). From here on no access translates to it. -/
def dropFrame (s : State) (f : Nat) : State :=
  let s := { s with dies := s.dies.map fun e => (e.1, { e.2 with tlb := e.2.tlb.filter fun t => !leadsTo f t }) }
  (frameWatches s f).foldl fireWatch s

/-- RELEASE of an assigned frame begins; it becomes DIRTY once the accesses already translated to it have been
performed (R288). -/
def releaseFrame (s : State) (f : Nat) (w : FrameWork) : State :=
  let s := setFrame (dropFrame s f) f 0
  raise { s with frameWork := smPut s.frameWork f w } [.frameReleaseComplete f]

/-- Stores on their way to a frame's lines reach their homes. -/
def drainFrame (s : State) (f : Nat) : State :=
  s.cores.foldl (fun s e => drainWhere s e.1 fun p => p.line / 1024 == f) s

/-- ASSIGN (R288, R369). -/
def execAssign (c : CmdSrc) (pa p owner : Nat) (s : State) : Out :=
  pf0Command c s fun s =>
    if !namesFrame pa || decide (16 ≤ p ∨ 4096 ≤ owner) then cmdDone c .format s
    else
      let (st, s) := assignFrame s (frameOf pa) p owner
      cmdDone c st s

/-- RELEASE (R288, R369): its status is written when the release is complete. -/
def execRelease (c : CmdSrc) (pa p owner : Nat) (s : State) : Out :=
  pf0Command c s fun s =>
    if !namesFrame pa || decide (16 ≤ p ∨ 4096 ≤ owner) then cmdDone c .format s
    else if frameState s (frameOf pa) = 3 then .next (releaseFrame s (frameOf pa) { src := some c, charge := none })
    else cmdDone c .done s

/-- FRAME_RELEASE_COMPLETE (R288). -/
def execFrameReleaseComplete (frame : Nat) (s : State) : Out :=
  match smGet s.frameWork frame with
  | none => .next s
  | some w =>
    let s := drainFrame s frame
    let s := { s with frameWork := smDel s.frameWork frame }
    match w.src with
    | some c => cmdDone c .done s
    | none => .next s

/-- SCRUB_START: the scrub engine starts on a DIRTY frame that it can reach; the boot scrub does not wait for READY (R288, R289, R372,
R380). -/
def execScrubStart (frame : Nat) (s : State) : Out :=
  if frameState s frame = 0 ∧ releasing s frame = false ∧ populatedPa (65536 * frame) = true ∧ linkUp s (65536 * frame) = true then
    .next (setFrame s frame 1)
  else .next s

/-- Every byte of a frame becomes zero, with good check bits. -/
def zeroFrame (s : State) (f : Nat) : State :=
  { s with
    mem := s.mem.filter fun c => c.1 / 65536 != f
    poison := s.poison.filter fun p => match p with | .mem g => g / 8192 != f | _ => true }

/-- Copies outside a frame. -/
def outside (f : Nat) (cs : List CacheLine) : List CacheLine := cs.filter fun c => c.line / 1024 != f

/-- Every copy of a frame's lines goes: L1, visitor copies, translations, versions (R288). -/
def forgetFrame (s : State) (f : Nat) : State :=
  { s with
    cores := s.cores.map fun e =>
      (e.1, { e.2 with l1 := outside f e.2.l1, pending := e.2.pending.filter fun p => p.line / 1024 != f })
    dies := s.dies.map fun e => (e.1, { e.2 with visitors := outside f e.2.visitors })
    parts := s.parts.map fun e => (e.1, { e.2 with versions := e.2.versions.filter fun v => v.line / 1024 != f }) }

/-- SCRUB_COMPLETE (R288). -/
def execScrubComplete (frame : Nat) (s : State) : Out :=
  if frameState s frame = 1 then .next (setFrame (forgetFrame (zeroFrame s frame) frame) frame 2)
  else .next s

/-- The lowest number from `n` on that a rising list of frames does not hold. -/
def firstGap : List (Nat × BitVec 32) → Nat → Nat
  | [], n => n
  | (k, _) :: m, n => if k < n then firstGap m n else if k = n then firstGap m (n + 1) else n

/-- The frame that the scrub engine takes next: the lowest DIRTY frame of a populated range. The spec leaves the order
open. DESIGN CHOICE (log entry 1). -/
def nextDirty (s : State) : Option Nat :=
  if !s.frameWork.isEmpty || s.frames.any (fun e => natField e.2.toNat 0 2 == 1) then none
  else [0, 2 ^ 44 / 65536, 2 ^ 45 / 65536].findSome? fun b =>
    let f := firstGap s.frames b
    if populatedPa (65536 * f) && linkUp s (65536 * f) then some f else none

end Sys2Proof.Machine
end

