-- ==== Sys2Proof/Machine/Sync.lean ====
section
/-! DEFINITION. Fences, timeline waits, watches, barriers and the ends of waits (10 R240 to R245, 03 R55, R26, 11 R263). -/

namespace Sys2Proof.Machine

-- Timeline counters (R48, R176, R200, R230).

/-- The context that keeps a counter: tc.mx is the cluster's, in its full context. DEDUCED (log entry 36). -/
def cntOwner (id c : Nat) : Nat := if c = 5 then fullOf id else id
/-- A counter as a context sees it. -/
def counterOf (s : State) (id c : Nat) : Counter := tcOf (getCtx s (cntOwner id c)) c

-- Deferred faults (R98, R186, R203, R241, R247, R251, R330).

/-- The lowest-numbered operation of a list of (number, fault). -/
def lowestFault {α : Type} : List (Nat × α) → Option (Nat × α)
  | [] => none
  | x :: xs =>
    match lowestFault xs with
    | some y => some (if x.1 ≤ y.1 then x else y)
    | none => some x

/-- A halt still to be delivered at the word that a context executes. -/
def haltDue (s : State) (id : Nat) (h : Option Halt) : Option Halt :=
  match h with
  | some h => if h.told = toldHere s id then none else some h
  | none => none

/-- The trap of an engine that has halted at or below a number, or at a command (R98). -/
def engDue (c : Ctx) (n lim : Nat) : Option Trap :=
  let e := engOf c n
  if e.st = .halted ∧ e.cause ≠ 0 ∧ (e.haltAt.all fun k => decide (k ≤ lim)) = true then some (engTrap n e) else none

/-- The faulted copy of lowest number at or below a limit (R186, R247). -/
def copyDue (s : State) (id lim : Nat) : Option (Nat × Halt) :=
  lowestFault ((getCtx s id).copies.filterMap fun o =>
    if o.num ≤ lim then (haltDue s id o.halt).map fun h => (o.num, h) else none)
/-- The faulted fabric operation of lowest number at or below a limit (R251). -/
def fabDue (s : State) (id lim : Nat) : Option (Nat × Halt) :=
  lowestFault ((getCtx s id).fab.filterMap fun o =>
    if o.num ≤ lim then (haltDue s id o.halt).map fun h => (o.num, h) else none)
/-- FAULT of a tile-task record (R197). -/
def taskFault (t : Task) : Nat := leNat ((t.bytes.drop 104).take 8)
/-- The faulted tile task of a context with the lowest number at or below a limit (R203). -/
def taskDue (s : State) (id lim : Nat) : Option (Nat × Task) :=
  lowestFault (s.tasks.filterMap fun t => if t.st = .faulted ∧ t.owner = (getCtx s id).uid ∧ t.num ≤ lim then some (t.num, t) else none)

/-- Mark a halt as delivered at the word that the context executes. -/
def markFab (s : State) (id num : Nat) (h : Halt) : State :=
  modCtx s id fun c =>
    { c with fab := c.fab.map fun o => if o.num = num then { o with halt := some { h with told := toldHere s id } } else o }

/-- The deferred fault of a counter due at a word with a limit, and the state in which it is taken. -/
def counterDue (s : State) (id lim c : Nat) : Option (Trap × State) :=
  match c with
  | 4 => (copyDue s id lim).map fun (n, h) =>
      ({ cause := h.cause, src := 5, w := h.write, va := h.va }, setHalt s id n (some { h with told := toldHere s id }))
  | 5 => (taskDue s id lim).map fun (_, t) =>
      ({ cause := 15, src := 6, va := natW t.addr, map := natW (taskFault t) }, s)
  | 6 => (fabDue s id lim).map fun (n, h) => ({ cause := h.cause, src := 7, w := h.write, va := h.va }, markFab s id n h)
  | 1 => (engDue (getCtx s id) 0 lim).map fun t => (t, s)
  | 2 => (engDue (getCtx s id) 1 lim).map fun t => (t, s)
  | 3 => (engDue (getCtx s id) 2 lim).map fun t => (t, s)
  | _ => none

/-- The first deferred fault of a list of counters: the lowest counter code first (R330). -/
def faultDue (s : State) (id lim : Nat) : List Nat → Option (Trap × State)
  | [] => none
  | c :: cs =>
    match counterDue s id lim c with
    | some x => some x
    | none => faultDue s id lim cs

/-- A halt delivered at this word earlier: its operation restarts (R186, R247, R251). -/
def restartHalt (s : State) (id : Nat) (h : Option Halt) : Option Halt :=
  match h with
  | some h => if h.told = toldHere s id then none else some h
  | none => none
/-- The operations whose faults this word has taken restart. -/
def restartTold (s : State) (id : Nat) : State :=
  let c := getCtx s id
  if c.copies.any (fun o => o.halt.isSome) || c.fab.any (fun o => o.halt.isSome) then
    setCtx s id { c with
      copies := c.copies.map fun o => { o with halt := restartHalt s id o.halt }
      fab := c.fab.map fun o => { o with halt := restartHalt s id o.halt } }
  else s

/-- A number larger than any that a counter can have issued. -/
def anyNumber : Nat := 2 ^ 64

-- TLWAIT, TLGET and FENCE (R240 to R242).

/-- No further number can arise on a counter (R241). -/
def noMore (s : State) (id c : Nat) : Bool :=
  match c with
  | 1 => engStopped (getCtx s id) 0
  | 2 => engStopped (getCtx s id) 1
  | 3 => engStopped (getCtx s id) 2
  | _ => true
where
  /-- An engine is idle, ended or halted. -/
  engStopped (c : Ctx) (n : Nat) : Bool := (engOf c n).st == .idle || (engOf c n).st == .halted

/-- The acquire of a TLWAIT: the operations count as earlier accesses, and the copies of lines that they wrote go
(R220). -/
def acquireCounter (s : State) (id c n sc : Nat) : State :=
  let s := acquireOps s id c n
  if 1 ≤ c then acquireSig s id sc (getCtx s (cntOwner id c)).engSig else s

def execTlwait (e : Bool) (d a : SReg) (sc c : BitVec 3) (s : State) : Out :=
  withSrc [a] s fun s =>
    let id := s.cur
    let n := (rs s a).toNat
    let s := restartTold s id
    match counterDue s id n c.toNat with
    | some (t, s) => trapNext t s
    | none =>
      let t := counterOf s id c.toNat
      if n ≤ tcDone t then
        let (k, s) := demote s id sc.toNat
        result e d 1 (acquireCounter s id c.toNat n k)
      else if t.issued < n ∧ noMore s id c.toNat = true then result e d 2 s
      else .next (waitHere (.counter c.toNat n) s)

def execTlget (e : Bool) (d : SReg) (v : Bool) (c : BitVec 3) (s : State) : Out :=
  let t := counterOf s s.cur c.toNat
  result e d (natW (if v then t.issued else tcDone t)) s

/-- Every operation that the context has numbered has completed: of its cluster's tc.mx, its own words and tasks. -/
def allDone (s : State) (id : Nat) : Bool :=
  let c := getCtx s id
  ((rangeFrom 0 8).filter (· != 5)).all (fun k => (tcOf c k).pending.isEmpty) && c.mx.isEmpty &&
    !s.tasks.any fun t => t.owner == c.uid && (counterOf s id 5).pending.contains t.num
/-- Acquire every operation of the eight counters. -/
def acquireEvery (s : State) (id sc : Nat) : State :=
  (rangeFrom 0 8).foldl (fun s c => acquireCounter s id c anyNumber sc) s

/-- The work of a release and an acquire at a scope, at every page kind (R218). -/
def fenceAt (s : State) (id sc : Nat) : State :=
  let s := releaseDrain s id sc
  if wideScope s id sc then acquireAll s id sc else s

def execFence (e g : Bool) (sc : BitVec 3) (s : State) : Out :=
  let id := s.cur
  let s := if g then restartTold s id else s
  match (if g then faultDue s id anyNumber (rangeFrom 0 8) else none) with
  | some (t, s) => trapNext t s
  | none =>
    if g && !allDone s id then .next (stallHere .engines s)
    else
      let k := (demote s id sc.toNat).1
      if fabricPending (me s) k then .next (stallHere (.counter 6 (tcOf (me s) 6).issued) s)
      else
        let s := (demote s id sc.toNat).2
        let s := if g then acquireEvery s id k else s
        .next (retire e 4 (fenceAt s id k))

-- MONITOR and MWAIT (R243, R244).

/-- Arm the watch on a line. -/
def armWatch (va : Word) (key : Nat) (c : Ctx) : Ctx := { c with watchVa := va, watchKey := some key, watchFired := false }

def execMonitor (e : Bool) (a : SReg) (s : State) : Out :=
  withSrc [a] s fun s =>
    let id := s.cur
    let va := rs s a
    let ag := agentOf s id
    match xlate s ag .ls false va with
    | .bad c => trapNext { cause := c, va := va } s
    | .scratch off => accDone e none (onMe s (armWatch va (watchScratch (coreOf id) off)))
    | .page lo hi pa inPage =>
      if !grants lo .ls false || isHost pa then trapNext { cause := 4, va := va } s
      else if delayed s ag.part (pa / 64) then .next (stallHere .resolve s)
      else
        let (_, s) := readLine (tlbNote s ag va (.page lo hi pa inPage)) ag (pagePoint lo pa) false (pa / 64) 0 64
        accDone e none (onMe s (armWatch va (watchLine (pa / 64))))

/-- MWAIT returns: the fired state is cleared, the watch stays armed (R244). -/
def mwaitDone (id : Nat) (e : Bool) (d : SReg) (v : Word) (s : State) : State :=
  let s := modCtx s id fun c => swrite { c with watchFired := false, run := .runnable, wait := none, due := none } d v
  retireAt id e 4 (if s.poison.isEmpty then s else setPoison s (.sreg id d.toNat) false)

def execMwait (e : Bool) (d a : SReg) (s : State) : Out :=
  withSrc [a] s fun s =>
    let c := me s
    let t := fld (rs s a) 0 32
    if c.watchKey = none then .next (mwaitDone s.cur e d 0 s)
    else if c.watchFired then .next (mwaitDone s.cur e d 1 s)
    else if t = 0 then .next (waitHere (.monitor e d.toNat) s)
    else .next (waitUntil (.monitor e d.toNat) t s)

-- BAR (R245).

/-- The unit of a scope that a context lies in. -/
def scopeUnit (id sc : Nat) : Nat :=
  match sc with
  | 0 => clusterOf id
  | 1 => coreOf id
  | 2 => quadOf id
  | 3 => dieOf id
  | _ => 0
/-- The key of a barrier: unit of the scope, identifier, partition. -/
def barKey (s : State) (id sc i : Nat) : Nat := ((sc * 512 + scopeUnit id sc) * 32 + i) * 16 + partOf s id

/-- The members of a context's instance. -/
def instMembers (s : State) (id : Nat) : Option (List Nat) :=
  match (getCtx s id).member, launchOf s id with
  | some m, some l => (l.insts.find? (fun i => i.serial == m.serial)).map fun i => i.members.map (·.1)
  | _, _ => none

/-- The count of a BAR that names s0: its instance's members, where they lie in the scope's unit. -/
def instCount (s : State) (id sc : Nat) : Option Nat :=
  if isLight id then none
  else
    match instMembers s id with
    | some ms => if ms.all fun m => scopeUnit m sc == scopeUnit id sc then some ms.length else none
    | none => none

/-- A context leaves a full barrier: it acquires as for all ones and its BAR retires (R245). -/
def leaveBar (sc : Nat) (s : State) (m : Nat × Bool) : State :=
  let s := if wideScope s m.1 sc then acquireAll s m.1 sc else s
  retireAt m.1 m.2 4 (modCtx s m.1 fun c => { c with run := .runnable, wait := none, due := none })

/-- Whether the BAR that a context waits in ends its bundle. -/
def barE (s : State) (id : Nat) : Bool :=
  match (getCtx s id).wait with
  | some (.barrier _ e _) => e
  | _ => false

/-- The release of a scope's barrier comes over the fabric: the package is attached to one (R3, R245). -/
def relayed (s : State) (sc : Nat) : Bool := sc == 5 && !s.populated.isEmpty

/-- A context arrives at a barrier with a count. DEDUCED (log entry 21). -/
def arrive (e : Bool) (key n sc : Nat) (s : State) : Out :=
  let id := s.cur
  let old := (s.barriers.find? fun b => b.key == key).getD { key := key, n := n, arrived := [] }
  if n = 0 ∨ old.n ≠ n then trapNext { cause := 7 } s
  else
    let rest := s.barriers.filter fun b => b.key != key
    if n ≤ old.arrived.length + old.away + 1 ∧ relayed s sc = false then
      .next (((old.arrived.map fun m => (m, barE s m)) ++ [(id, e)]).foldl (leaveBar sc) { s with barriers := rest })
    else
      .next (joinBar id { old with arrived := old.arrived ++ [id] } rest (waitHere (.barrier key e sc) s))
where
  /-- The arrival stands unless the context was suspended at once (R68, R245). -/
  joinBar (id : Nat) (b : Barrier) (rest : List Barrier) (s : State) : State :=
    if (getCtx s id).run = .saving then s else { s with barriers := b :: rest }

/-- The key of a `.pd` barrier. -/
def podKey (part i : Nat) : Nat := (5 * 512 * 32 + i) * 16 + part
/-- The fabric brings the arrivals of other packages that stand at a `.pd` barrier: once they and the package's own make up the
count, every context leaves its wait. An arrival there with another count traps there. DEDUCED (log entry 98). -/
def podBarrier (part i n away : Nat) (s : State) : State :=
  let key := podKey part i
  let b := (s.barriers.find? fun b => b.key == key).getD { key := key, n := n, arrived := [] }
  let rest := s.barriers.filter fun b => b.key != key
  if n = 0 ∨ b.n ≠ n ∨ 16 ≤ part ∨ 32 ≤ i then s
  else if n ≤ b.arrived.length + away then (b.arrived.map fun m => (m, barE s m)).foldl (leaveBar 5) { s with barriers := rest }
  else { s with barriers := if b.arrived.isEmpty && away == 0 then rest else { b with away := away } :: rest }
/-- `.pd` barriers that hold their count: identifier, partition, and what they hold. -/
def podFull (s : State) : List (Nat × Nat × Barrier) :=
  (s.barriers.filter fun b => decide (podKey 0 0 ≤ b.key ∧ b.n ≤ b.arrived.length + b.away)).map fun b =>
    ((b.key - podKey 0 0) / 16, b.key % 16, b)

def execBar (e : Bool) (d : SReg) (i : BitVec 5) (c : BitVec 3) (s : State) : Out :=
  withSrc (if d = 0 then [] else [d]) s fun s =>
    let id := s.cur
    let sc := c.toNat
    match (if d = 0 then instCount s id sc else some (fld (rs s d) 0 24)) with
    | none => trapNext { cause := 7 } s
    | some n =>
      if fabricPending (me s) sc then .next (stallHere (.counter 6 (tcOf (me s) 6).issued) s)
      else arrive e (barKey s id sc i.toNat) n sc (release s id sc none)

-- The ends of waits (R55).

/-- The launch queue of a context's instance by its index. -/
def launchQueue (s : State) (id q : Nat) : Option StageQueue :=
  match launchOf s id with
  | some l => l.queues[q]?
  | none => none

/-- Packets that hold buffer slots, by tenant (R298). -/
def slotsHeld (s : State) (t : Nat) : Nat := smGetD s.gwSlots t 0
/-- SLOTMIN of a valid tenant. -/
def slotMin (s : State) (t : Nat) : Nat := ((smGet s.tenants t).map fun r => if r.valid then r.slotmin else 0).getD 0
/-- Slots of the shared pool in use. -/
def poolHeld (s : State) : Nat := (s.gwSlots.map fun e => e.2 - slotMin s e.1).sum
/-- Slots of the shared pool. -/
def poolSize (s : State) : Nat := 4096 - ((s.tenants.filter fun e => e.2.valid).map fun e => e.2.slotmin).sum
/-- A tenant's packet can take a slot (R298). -/
def slotFree (s : State) (t : Nat) : Bool := decide (slotsHeld s t < slotMin s t) || decide (poolHeld s < poolSize s)

/-- SYNCED_BUNDLE_ISSUE: a group that has all reached synced bundles issues them (R26). -/
def execSyncedBundleIssue (core lid serial : Nat) (s : State) : Out :=
  let ids := (s.ctxs.filter fun e =>
    coreOf e.1 == core && (match e.2.member with | some m => m.lid == lid && m.serial == serial | none => false)).map (·.1)
  match ids with
  | [] => .next s
  | id :: _ =>
    let g := syncGroup s id
    if g.all (atSync s) then
      .next (g.foldl (fun s m => modCtx s m fun c => { c with run := .runnable, wait := none, syncGo := true }) s)
    else .next s

end Sys2Proof.Machine
end

