-- ==== Sys2Proof/Machine/Hyp.lean ====
section
/-! DEFINITION. Hypotheses: the tree with its reference counts, HOPEN, HSET, HGET, HSTAT, HVEC and HRES, and the
application and sweep of resolves (11 R254 to R277). -/

namespace Sys2Proof.Machine

-- The tree (R254 to R257, R266).

/-- Change the listed nodes of a table. -/
def mapNodes (p : PartRec) (f : Nat → Node → Node) : PartRec := { p with nodes := p.nodes.map fun e => (e.1, f e.1 e.2) }

/-- A node lies below another by PARENT. -/
def isBelow (p : PartRec) (x : Nat) : Nat → Nat → Bool
  | 0, _ => false
  | f + 1, n => n != 0 && ((getNode p n).parent == x || isBelow p x f (getNode p n).parent)

/-- The OPEN nodes that Refute(x) takes: x and those below it (R266). -/
def refuteSet (p : PartRec) (x : Nat) : List Nat :=
  (p.nodes.filter fun e => e.2.st == .opened && e.1 != 0 && (e.1 == x || isBelow p x numNodes e.1)).map (·.1)

/-- A node's entry once a set of nodes is refuted: MERGED nodes follow their ALIAS (R255, R266). -/
def refutedNode (gone : List Nat) (n : Nat) (x : Node) : Node :=
  if gone.contains n || (x.st == .merged && gone.contains x.aliasOf) then { x with st := .refuted, aliasOf := n } else x

/-- Refute(x) (R266). -/
def refuteNodes (p : PartRec) (x : Nat) : PartRec := mapNodes p (refutedNode (refuteSet p x))

/-- The OPEN siblings of a node. -/
def siblings (p : PartRec) (h : Nat) : List Nat :=
  (p.nodes.filter fun e => e.2.st == .opened && e.1 != h && e.1 != 0 && e.2.parent == (getNode p h).parent).map (·.1)

/-- A node's entry once h merges into q: h's children are re-parented, and ALIAS goes on pointing at an OPEN node. -/
def mergedNode (h q n : Nat) (x : Node) : Node :=
  if n = h then { x with st := .merged, aliasOf := q }
  else if x.st = .opened ∧ x.parent = h then { x with parent := q }
  else if x.st = .merged ∧ x.aliasOf = h then { x with aliasOf := q }
  else x

/-- A confirm of OPEN node h (R266). -/
def confirmNodes (p : PartRec) (h : Nat) : PartRec :=
  mapNodes ((siblings p h).foldl refuteNodes p) (mergedNode h (getNode p h).parent)

/-- A resolve's effect on the table. -/
def resolveNodes (confirm : Bool) (h : Nat) (p : PartRec) : PartRec := if confirm then confirmNodes p h else refuteNodes p h

/-- The table as the serialisation point has decided it: every earlier entry of the resolve order applied (R256). -/
def decided (p : PartRec) : PartRec := p.resolves.foldl (fun p r => resolveNodes r.confirm r.node p) p

/-- OPEN nodes whose entry a resolve moves: accesses to their versions are delayed until it is applied (R267). -/
def changedNodes (old new : PartRec) : List Nat :=
  (old.nodes.filter fun e => e.2.st == .opened && (getNode new e.1).st != .opened).map (·.1)
/-- Nodes that a resolve makes REFUTED, MERGED ones whose ALIAS goes included (R266, R267). -/
def newlyRefuted (old new : PartRec) : List Nat :=
  (old.nodes.filter fun e => e.2.st != .refuted && (getNode new e.1).st == .refuted).map (·.1)

/-- References that a context and its engine work make to a node (R257). -/
def ctxRefs (n : Nat) (c : Ctx) : Nat :=
  bitNat (c.run != .free && c.run != .dormant && viewOf c == n) +
    countIf (fun (e : Nat × Engine) => e.2.st != .idle && e.2.view == n) c.eng +
    countIf (fun (o : CopyOp) => o.view == n) c.copies

/-- REFS of a node of a partition (R257). DEDUCED (log entry 10). -/
def nodeRefs (s : State) (part n : Nat) : Nat :=
  ((s.ctxs.filter fun e => partOf s e.1 == part).map fun e => ctxRefs n e.2).sum +
    ((s.saved.filter fun e => e.2.partn == part).map fun e => ctxRefs n { e.2.ctx with run := .saving }).sum +
    countIf (fun (t : Task) => t.unit.part == part && t.view == n && t.st != .faulted) s.tasks +
    countIf (fun (e : Nat × Node) => e.2.st != .free && e.1 != n && (e.2.parent == n || e.2.aliasOf == n)) (getPart s part).nodes

/-- Drop the cached copies whose line and tag meet a test, on every core and die (R264). -/
def dropCopies (s : State) (f : CacheLine → Bool) : State :=
  let keep := fun (c : CacheLine) => !f c
  { s with cores := s.cores.map fun e => (e.1, { e.2 with l1 := e.2.l1.filter keep })
           dies := s.dies.map fun e => (e.1, { e.2 with visitors := e.2.visitors.filter keep }) }

/-- A copy is tagged with a node of a partition that meets a test. -/
def taggedWith (part : Nat) (f : Nat → Bool) (c : CacheLine) : Bool :=
  match c.tag with
  | some (p, n) => p == part && f n
  | none => false

/-- A node becomes FREE, and no copy keeps its tag. -/
def freeNode (s : State) (part n : Nat) : State :=
  dropCopies (modPart s part fun p => { p with nodes := smDel p.nodes n }) (taggedWith part (· == n))

/-- A node's sweep is done and nothing names it (R255). -/
def nodeDone (s : State) (part n : Nat) (x : Node) : Bool :=
  n != 0 && x.swept && (x.st == .merged || x.st == .refuted) && nodeRefs s part n == 0

/-- Free the nodes of a partition that have come to their end, and those that only they named; `fuel` bounds them. -/
def freeGo (part : Nat) : Nat → State → State
  | 0, s => s
  | fuel + 1, s =>
    match (getPart s part).nodes.find? fun e => nodeDone s part e.1 e.2 with
    | some e => freeGo part fuel (freeNode s part e.1)
    | none => s

/-- Free every node that has come to its end: it becomes FREE at once (R255). Every step ends with it. -/
def freeNodes (s : State) : State := s.parts.foldl (fun s e => freeGo e.1 e.2.nodes.length s) s

-- Instructions (R271 to R277).

/-- XHYP with a node, ORF and DISC clear (R258). -/
def setView (w : Word) (n : Nat) : Word := setFld (setFld w 0 10 n) 26 2 0

/-- The lowest FREE ID of a table. -/
def freeId (p : PartRec) : Option Nat := (rangeFrom 1 (numNodes - 1)).find? fun n => (getNode p n).st == .free

/-- HOPEN (R272). It waits until every die has applied the resolves that stand before it in the resolve order. -/
def execHopen (e : Bool) (d : SReg) (n : Bool) (s : State) : Out :=
  let part := myPart s
  let p := getPart s part
  if !p.resolves.isEmpty then .next (stallHere .resolve s)
  else
    match freeId p with
    | none => result e d 0 s
    | some i =>
      let c := me s
      let x : Node := { st := .opened, parent := resolveN p (viewOf c), aliasOf := i, tenant := c.tenant.toNat }
      let s := modPart s part fun p => { p with nodes := smPut p.nodes i x }
      let s := if n then onMe s fun c => { c with xhyp := setView c.xhyp i } else s
      result e d (natW i) s

/-- A view that some context of the cores that share an L1, which stores leave from `unit`, still has. -/
def viewHeld (s : State) (unit part n : Nat) : Bool :=
  s.ctxs.any fun e => l1Unit s (coreOf e.1) == unit && partOf s e.1 == part && viewOf e.2 == n &&
    e.2.run != .free && e.2.run != .dormant

/-- Tagged copies of the core's L1 whose view no context of the core has any more go (R264). -/
def dropOldViews (s : State) (id : Nat) : State :=
  let unit := l1Unit s (coreOf id)
  onL1s s (coreOf id) fun cs => cs.filter fun x => match x.tag with | some (p, n) => viewHeld s unit p n | none => true

/-- HSET (R273). -/
def execHset (e : Bool) (d a : SReg) (s : State) : Out :=
  withSrc [a] s fun s =>
    let p := getPart s (myPart s)
    let t := fld (rs s a) 0 10
    let x := getNode p t
    if t = 0 ∨ ((x.st = .opened ∨ x.st = .merged) ∧ x.tenant = (me s).tenant.toNat) then
      let s := onMe s fun c => { c with xhyp := setView c.xhyp (resolveN p t) }
      result e d 1 (dropOldViews s s.cur)
    else result e d 0 s

/-- PARENT steps from a node to the root. -/
def depthGo (p : PartRec) : Nat → Nat → Nat
  | 0, _ => 0
  | f + 1, n => if n = 0 then 0 else depthGo p f (getNode p n).parent + 1

/-- HGET (R274). -/
def execHget (e : Bool) (d : SReg) (sel : BitVec 2) (s : State) : Out :=
  let p := getPart s (myPart s)
  let v := viewOf (me s)
  match sel.toNat with
  | 0 => result e d (natW v) s
  | 1 => result e d (natW (getNode p v).parent) s
  | 2 => result e d (natW (depthGo p numNodes v)) s
  | _ => illopOf (.hget e d sel) s

/-- The code of a node's state (R254). -/
def stateCode (x : NodeState) : Nat :=
  match x with
  | .free => 0
  | .opened => 1
  | .merged => 2
  | .refuted => 3

/-- HSTAT's value (R275). -/
def nodeWord (s : State) (part n : Nat) : Word :=
  let x := getNode (getPart s part) n
  if x.st = .free then 0
  else natW (stateCode x.st + bitNat x.pend * 4 + x.parent * 2 ^ 8 + x.aliasOf * 2 ^ 18 + x.tenant * 2 ^ 32 +
    min (nodeRefs s part n) 0xFFFF * 2 ^ 48)

def execHstat (e : Bool) (d a : SReg) (s : State) : Out :=
  withSrc [a] s fun s => result e d (nodeWord s (myPart s) (fld (rs s a) 0 10)) s

/-- A node on a context's path: its view or an ancestor of it by PARENT (R276). -/
def onPath (p : PartRec) (v n : Nat) : Bool := n == v || n == 0 || isBelow p n numNodes v

/-- HVEC's predicates (R276), none for a code that traps. -/
def vecPred (p : PartRec) (v code n : Nat) : Option Bool :=
  match code with
  | 0 => some ((getNode p n).st == .opened)
  | 1 => some ((getNode p n).st == .merged)
  | 2 => some ((getNode p n).st == .refuted)
  | 3 => some ((getNode p n).st == .free)
  | 4 => some (onPath p v n)
  | _ => none

def execHvec (e : Bool) (d a : SReg) (c : BitVec 3) (s : State) : Out :=
  withSrc [a] s fun s =>
    let p := getPart s (myPart s)
    let g := fld (rs s a) 0 4
    match (rangeFrom (64 * g) 64).mapM (vecPred p (viewOf (me s)) c.toNat) with
    | some bs => result e d (natW ((bs.zip (rangeFrom 0 64)).map fun x => bitNat x.1 * 2 ^ x.2).sum) s
    | none => illopOf (.hvec e d a c) s

/-- A decided resolve joins the resolve order, and every die marks its node (R256, R267). -/
def orderResolve (s : State) (part h : Nat) (confirm : Bool) (num : Nat) : State :=
  let p := decided (getPart s part)
  let r : Resolve := { part := part, node := h, confirm := confirm, ctx := s.cur, uid := (me s).uid, num := num,
                       touched := changedNodes p (resolveNodes confirm h p) }
  modPart s part fun q =>
    { mapNodes q fun n x => if n = h then { x with pend := true } else x with resolves := q.resolves ++ [r] }

/-- HRES: a release at `.pk`, the decision, and a tc.hr number where it is accepted (R277). DEDUCED (log entry 26). -/
def hresWord (e : Bool) (d a : SReg) (confirm : Bool) (s : State) : Out :=
  withSrc [a] s fun s =>
    let h := fld (rs s a) 0 10
    let s := release s s.cur 4 none
    let part := myPart s
    let x := getNode (decided (getPart s part)) h
    if h = 0 then result e d 2 s
    else if x.st ≠ .opened then result e d 3 s
    else if x.tenant ≠ (me s).tenant.toNat then result e d 4 s
    else
      let (num, c) := tcTake (me s) 7
      result e d (natW (1 + num * 2 ^ 16)) (orderResolve (onMe s fun _ => c) part h confirm num)

def execHresCf (e : Bool) (d a : SReg) (s : State) : Out := hresWord e d a true s
def execHresRf (e : Bool) (d a : SReg) (s : State) : Out := hresWord e d a false s

-- Applying a resolve (R265 to R269).

/-- Versions of a table that stand for a node and hold bytes. -/
def nodeVersions (p : PartRec) (h : Nat) : List Version := p.versions.filter fun v => resolveN p v.node == h && !v.bytes.isEmpty

/-- A confirm into the root: every byte is a committed write at its home (R266, R268). -/
def commitVersion (s : State) (v : Version) : State :=
  fireWatch (v.bytes.foldl (fun s e => memWritePB s (64 * v.line + e.1) [e.2]) s) (watchLine v.line)

/-- The bytes of h's versions over those of q's on one line. -/
def mergeInto (p : PartRec) (h q : Nat) (v : Version) : Version :=
  if resolveN p v.node = q ∧ v.bytes.isEmpty = false then
    (nodeVersions p h).foldl (fun v w => if w.line = v.line then { v with bytes := mergeBytes v.bytes w.bytes } else v) v
  else if resolveN p v.node = h ∧ (nodeVersions p q).any (fun w => w.line == v.line) then { v with bytes := [] }
  else v

/-- The versions once h merges into q: what q holds on the same lines takes h's bytes, the rest are read through
Resolve (R266). At the root they are empty, and charged until their sweep. -/
def mergeVersions (p : PartRec) (h q : Nat) : List Version :=
  if q = 0 then p.versions.map fun v => if resolveN p v.node = h then { v with bytes := [] } else v
  else p.versions.map (mergeInto p h q)

/-- The versions of refuted nodes are discarded; a watch on their lines fires (R243, R266). -/
def discardVersions (s : State) (part : Nat) (gone : List Nat) : State :=
  let p := getPart s part
  let hit := fun (v : Version) => gone.contains (resolveN p v.node) && !v.bytes.isEmpty
  let lines := (p.versions.filter hit).map (·.line)
  let s := modPart s part fun p => { p with versions := p.versions.map fun v => if hit v then { v with bytes := [] } else v }
  lines.foldl (fun s l => fireWatch s (watchLine l)) s

/-- The copies that a resolve makes stale (R267). -/
def staleCopy (part : Nat) (new : PartRec) (gone : List Nat) (into : Option Nat) (sg : Sig) (c : CacheLine) : Bool :=
  match into with
  | none => taggedWith part gone.contains c
  | some 0 => taggedWith part (fun _ => true) c || (c.tag == none && inSig sg c.line)
  | some q => taggedWith part (fun n => n == q || isBelow new q numNodes n || gone.contains n) c

/-- Contexts in a wait whose view has been refuted leave it (R70, R270). -/
def orphanWaits (s : State) (part : Nat) : State :=
  raise s ((s.ctxs.filter fun e =>
    e.2.run == .waiting && partOf s e.1 == part && (getNode (getPart s part) (viewOf e.2)).st == .refuted).map fun e => .orphan e.1)

/-- Change the context of one start, at its place, moved or saved; nothing where that start is over. -/
def onStart (s : State) (place uid : Nat) (f : Ctx → Ctx) : State :=
  match s.ctxs.find? fun e => e.2.uid == uid && e.2.run != .free && e.2.run != .dormant with
  | some e => modCtx s e.1 f
  | none =>
    if s.saved.any fun e => e.2.ctx.uid == uid then
      { s with saved := s.saved.map fun e => if e.2.ctx.uid = uid then (e.1, { e.2 with ctx := f e.2.ctx }) else e }
    else if (getCtx s place).uid = uid then modCtx s place f else s

/-- Every die applies the oldest decided resolve (R265 to R267). -/
def applyResolve (s : State) (part : Nat) (r : Resolve) (rest : List Resolve) : State :=
  let old := getPart s part
  let q := (getNode old r.node).parent
  let moved := if r.confirm then nodeVersions old r.node else []
  let sg := moved.foldl (fun g v => g ||| sigBit v.line) 0
  let new := mapNodes (resolveNodes r.confirm r.node old) fun n x => if n = r.node then { x with pend := false } else x
  let gone := newlyRefuted old new
  let s := discardVersions s part gone
  let s := if r.confirm && q == 0 then moved.foldl commitVersion s else s
  let s := modPart s part fun p =>
    { p with nodes := new.nodes, resolves := rest, versions := if r.confirm then mergeVersions { p with nodes := old.nodes } r.node q else p.versions }
  let s := dropCopies s (staleCopy part new gone (if r.confirm then some q else none) sg)
  let s := modCore s (coreOf r.ctx) fun c => { c with cur := c.cur ||| sg }
  let s := onStart s r.ctx r.uid fun c => tcFinish { c with engSig := c.engSig ||| sg } 7 r.num
  orphanWaits s part

/-- RESOLVE_APPLY: the oldest decided resolve of a partition is applied on every die as one event (R256, R267). -/
def execResolveApply (part : Nat) (s : State) : Out :=
  match (getPart s part).resolves with
  | [] => .next s
  | r :: rest => .next (applyResolve s part r rest)

/-- Whether the sweep of a node can be done: its resolve has been applied (R255). -/
def sweepable (p : PartRec) (n : Nat) : Bool :=
  let x := getNode p n
  n != 0 && !x.swept && (x.st == .merged || x.st == .refuted)

/-- The versions after the sweep of a node: emptied ones free their space, the others take the tag that they stand for
(R266). -/
def sweptVersions (p : PartRec) (n : Nat) : List Version :=
  (p.versions.filter fun v => v.node != n || !v.bytes.isEmpty).map fun v => if v.node = n then { v with node := resolveN p n } else v

/-- SWEEP: the background sweep of a resolved node (R255, R263). -/
def execSweep (part node : Nat) (s : State) : Out :=
  if sweepable (getPart s part) node then
    let s := modPart s part fun p =>
      { p with versions := sweptVersions p node, nodes := smPut p.nodes node { getNode p node with swept := true } }
    .next (freeNodes s)
  else .next s

end Sys2Proof.Machine
end

