-- ==== Sys2Proof/Machine/UsageLog.lean ====
section
/-! DEFINITION. The tenants' usage logs and their signed checkpoints (18 R361, R362), and the reads and writes of the
schedulers and the Docent, which are performed at the homes. -/

namespace Sys2Proof.Machine

-- Accesses of the schedulers and of the Docent.

/-- Where an address of a partition leads for a tenant, without the context's window and cached translations: its leaf and
physical address. -/
def sysPage (s : State) (part tenant : Nat) (u : Use) (write : Bool) (va : Word) : Except Nat (Word × Nat) :=
  if inWindow va then .error 4
  else if !canonical va then .error 3
  else
    match walk s part tenant va 4 (getPart s part).root with
    | .page lo _ pa _ => if grants lo u write && !leafPeer lo && !leafSeal lo then .ok (lo, pa) else .error 4
    | .bad c => .error c
    | .scratch _ => .error 4
/-- The physical address of one. -/
def sysRoute (s : State) (part tenant : Nat) (u : Use) (write : Bool) (va : Word) : Except Nat Nat :=
  match sysPage s part tenant u write va with
  | .ok e => .ok e.2
  | .error c => .error c

/-- Read committed bytes; a failure gives its cause and address. -/
def sysRead (s : State) (part tenant : Nat) (u : Use) : Nat → Word → Nat → List Byte → Except (Nat × Word) (List Byte)
  | 0, _, _, acc => .ok acc
  | f + 1, va, n, acc =>
    if n = 0 then .ok acc
    else
      let k := segLen va n
      match sysRoute s part tenant u false va with
      | .error c => .error (c, va)
      | .ok pa => if memPoison s pa k then .error (6, va) else sysRead s part tenant u f (va + natW k) (n - k) (acc ++ memBytes s pa k)

/-- Read `n` committed bytes with a permission. -/
def sysLoad (s : State) (part tenant : Nat) (u : Use) (va : Word) (n : Nat) : Except (Nat × Word) (List Byte) :=
  sysRead s part tenant u n va n []

/-- Write bytes of one line at its home. -/
def sysPut (s : State) (part pa : Nat) (bs : List Byte) : State :=
  homeWrite s (homeDie (pa / 64)) part (pa / 64) (pa % 64) (clean bs) false

/-- Write bytes at their homes; a failure gives its cause and address, and the state with what was written before. -/
def sysWrite (part tenant : Nat) (u : Use) : Nat → State → Word → List Byte → Option (Nat × Word) × State
  | 0, s, _, _ => (none, s)
  | f + 1, s, va, bs =>
    if bs.isEmpty then (none, s)
    else
      let k := segLen va bs.length
      match sysRoute s part tenant u true va with
      | .error c => (some (c, va), s)
      | .ok pa => sysWrite part tenant u f (sysPut s part pa (bs.take k)) (va + natW k) (bs.drop k)

/-- Write bytes with a permission. -/
def sysStore (s : State) (part tenant : Nat) (u : Use) (va : Word) (bs : List Byte) : Option (Nat × Word) × State :=
  sysWrite part tenant u bs.length s va bs

-- Usage logs (R361, R362).

/-- Slots of a log's ring. -/
def logSlots : Nat := 65536

/-- A log record's 128 bytes. -/
def logRecord (seq kind status ver handle : Nat) (nonce : Word) (cycle : Nat) (prev : BitVec 384) : BitVec 1024 :=
  BitVec.ofNat 1024 (seq % 2 ^ 64 + kind % 256 * 2 ^ 64 + status % 256 * 2 ^ 72 + ver % 2 ^ 16 * 2 ^ 80 +
    handle % 2 ^ 32 * 2 ^ 96 + nonce.toNat * 2 ^ 128 + cycle % 2 ^ 64 * 2 ^ 192 +
    leNat (beBytes 48 prev.toNat) * 2 ^ 256)

/-- Digest of the record of a number, zero before the first. -/
def digestOf (u : UsageLog) (n : Nat) : BitVec 384 :=
  match smGet u.recs ((n - 1) % logSlots) with
  | some r => if n = 0 then 0 else digest (leBytes 128 r.toNat)
  | none => 0

/-- The digest of a log's last record, zero before the first. -/
def lastDigest (u : UsageLog) : BitVec 384 := digestOf u u.seq

/-- Append a record to a tenant's log; after every 4,096 the Docent signs (R361, R362). -/
def appendLog (s : State) (tenant kind status ver handle : Nat) (nonce : Word) : State :=
  let u := smGetD s.logs tenant {}
  let r := logRecord (u.seq + 1) kind status ver handle nonce s.cycle (lastDigest u)
  let s := { s with logs := smPut s.logs tenant { u with seq := u.seq + 1, recs := smPut u.recs (u.seq % logSlots) r } }
  if (u.seq + 1) % 4096 = 0 then raise s [.usageLogSignPeriodic tenant] else s

/-- The Docent signs (tenant, SEQ, digest of record SEQ) with the attestation key (R362). -/
def signLog (tenant n : Nat) (s : State) : State :=
  let h := digestOf (smGetD s.logs tenant {}) n
  let (k, s) := draw s
  let sig := Config.signature k (leBytes 2 tenant ++ leBytes 8 n ++ beBytes 48 h.toNat)
  { s with replies := s.replies ++ [.logSigned tenant n h sig] }

/-- USAGE_LOG_SIGN_PERIODIC: the next 4,096th record that is not signed yet, be it the last or not. -/
def execUsageLogSignPeriodic (tenant : Nat) (s : State) : Out :=
  let u := smGetD s.logs tenant {}
  let n := u.signed + 4096
  .next (if n ≤ u.seq then signLog tenant n { s with logs := smPut s.logs tenant { u with signed := n } } else s)
/-- USAGE_LOG_SIGN_REQUEST, over the tenant's session. -/
def execUsageLogSignRequest (tenant : Nat) (s : State) : Out :=
  .next (if s.sessions.contains tenant then signLog tenant (smGetD s.logs tenant {}).seq s else s)

end Sys2Proof.Machine
end

