-- ==== Sys2Proof/Machine/Launch.lean ====
section
/-! DEFINITION. Launches: place tables, launch records, their checks and their start, stage queues with SQPUSH and
SQPOP, and the closing of queues and completion of launches (03 R60 to R64, R71, R73, R76). -/

namespace Sys2Proof.Machine

-- Place tables (R71).

/-- Offsets of the first entries of the kinds of a place table. -/
def placeBase (k : PlaceKind) : Nat :=
  match k with
  | .die => 0
  | .quad => 0x10
  | .core => 0x40
  | .cluster => 0x100
  | .bank => 0x200
  | .peer => 0x2000
/-- How many logical names a kind has. -/
def placeCount (k : PlaceKind) : Nat :=
  match k with
  | .die => 4
  | .quad => 8
  | .core => 32
  | .cluster => 128
  | .bank => 256
  | .peer => 4096

/-- Load a die's place cache for a partition from its table in memory (R71). -/
def loadPlace (part die : Nat) (s : State) : State :=
  let base := (getPart s part).place + 16384 * die
  let offs := (s.mem.filter fun c => decide (base ≤ c.1 ∧ c.1 < base + 16384)).map fun c => (c.1 - base) / 2 * 2
  modDie s die fun d =>
    { d with
      place := offs.foldl (fun m o => smPut m (16384 * part + o) (memNat s (base + o) 2))
        (d.place.filter fun e => e.1 / 16384 != part)
      loaded := if d.loaded.contains part then d.loaded else part :: d.loaded }

/-- The physical number of a logical name in a die's place cache, none where it is unmapped (R71). -/
def physical (s : State) (die part : Nat) (k : PlaceKind) (n : Nat) : Option Nat :=
  if n < placeCount k then
    let e := smGetD (getDie s die).place (16384 * part + placeBase k + 2 * n) 0
    if natBit e 15 = true ∧ natField e 0 13 < placeCount k then some (natField e 0 13) else none
  else none

/-- A physical cluster of a die, package-wide, by its logical number. -/
def logicalCluster (s : State) (die part n : Nat) : Option Nat := (physical s die part .cluster n).map fun c => 128 * die + c

-- Launch records (R60, R61).

/-- A queue number, none for 0xFF. -/
def queueNo (n : Nat) : Option Nat := if n = 255 then none else some n

/-- The stage descriptor in 32 bytes. -/
def stageOf (bs : List Byte) : Stage :=
  { entry := natW (fieldAt bs 0 8 / 4 * 4), width := fieldAt bs 8 1, prio := fieldAt bs 9 1, min := fieldAt bs 10 2,
    max := fieldAt bs 12 2, inq := queueNo (fieldAt bs 14 1), outq := queueNo (fieldAt bs 15 1),
    arg := natW (fieldAt bs 16 8), span := fieldAt bs 24 4 }
/-- The queue descriptor in 16 bytes. -/
def queueOf (bs : List Byte) : StageQueue := { depth := fieldAt bs 0 4, esize := fieldAt bs 4 2, die := fieldAt bs 8 1 }

/-- What a launch record says. -/
structure LaunchRec where
  format : Nat
  nstage : Nat
  nqueue : Nat
  tenant : Nat
  fuse : Bool
  hprio : Nat
  map : Nat
  save : Nat
  status : Nat
  deadline : Nat
  seed : Nat
  stages : List Stage
  queues : List StageQueue
  deriving DecidableEq, Repr

/-- Read a launch record's 512 bytes. -/
def launchRec (bs : List Byte) : LaunchRec :=
  { format := fieldAt bs 0 2, nstage := fieldAt bs 2 1, nqueue := fieldAt bs 3 1, tenant := fieldAt bs 4 2 % 4096,
    fuse := natBit (fieldAt bs 6 1) 0, hprio := fieldAt bs 7 1, map := fieldAt bs 8 8, save := fieldAt bs 16 8,
    status := fieldAt bs 24 8, deadline := fieldAt bs 32 8, seed := fieldAt bs 40 8,
    stages := (rangeFrom 0 (min (fieldAt bs 2 1) 8)).map fun i => stageOf ((bs.drop (64 + 32 * i)).take 32)
    queues := (rangeFrom 0 (min (fieldAt bs 3 1) 8)).map fun i => queueOf ((bs.drop (320 + 16 * i)).take 16) }

/-- Clusters of an instance of a width (R60). -/
def widthClusters (w : Nat) : Nat := if w = 8 then 16 else w

/-- No value stands twice in a list. -/
def noTwice : List Nat → Bool
  | [] => true
  | x :: xs => !xs.contains x && noTwice xs

/-- A stage descriptor within its range (R61). -/
def stageOk (nq : Nat) (t : Stage) : Bool :=
  [1, 2, 3, 4, 8].contains t.width && decide (t.prio ≤ 127) && decide (1 ≤ t.min) &&
    (t.inq.isNone || (decide (t.min ≤ t.max) && decide (t.max ≤ if t.width = 8 then 32 else 512 / t.width))) &&
    t.inq.all (fun q => decide (q < nq)) && t.outq.all (fun q => decide (q < nq)) &&
    (t.inq.isNone || t.inq != t.outq) && decide (t.span % 4096 = 0 ∧ t.span ≤ 4194304)

/-- A queue descriptor within its range (R60, R61). -/
def queueOk (q : StageQueue) : Bool :=
  decide (1 ≤ q.depth ∧ q.depth ≤ 65536 ∧ 64 ≤ q.esize ∧ q.esize ≤ 4096 ∧ q.esize % 64 = 0) &&
    (decide (q.die ≤ 3) || q.die == 255)

/-- A record is well formed (R61). -/
def LaunchRec.ok (r : LaunchRec) : Bool :=
  decide (r.format = 1 ∧ 1 ≤ r.nstage ∧ r.nstage ≤ 8 ∧ r.nqueue ≤ 8 ∧ r.hprio ≤ 127) &&
    r.stages.all (stageOk r.nqueue) && noTwice (r.stages.filterMap (·.outq)) && noTwice (r.stages.filterMap (·.inq)) &&
    r.queues.all queueOk &&
    (rangeFrom 0 r.nqueue).all (fun q => r.stages.any fun t => t.inq == some q || t.outq == some q) &&
    decide (r.status % 64 = 0 ∧ r.map % 64 = 0 ∧ r.save % 64 = 0)

-- Placement by residence (R64).

/-- The range entries of a placement map; a map that cannot be read has none. -/
def mapRanges (s : State) (part tenant map : Nat) : List (Word × Nat × Nat) :=
  if map = 0 then []
  else
    match sysLoad s part tenant .ls (natW map) 64 with
    | .error _ => []
    | .ok h =>
      let n := min (fieldAt h 0 1) 64
      match sysLoad s part tenant .ls (natW (map + 64)) (16 * n) with
      | .error _ => []
      | .ok bs => (rangeFrom 0 n).map fun i => (natW (fieldAt bs (16 * i) 8), fieldAt bs (16 * i + 8) 4, fieldAt bs (16 * i + 12) 1)

/-- The die whose HBM holds the page of an address. -/
def residence (s : State) (part tenant : Nat) (va : Word) : Option Nat :=
  match walk s part tenant va 4 (getPart s part).root with
  | .page lo _ pa _ => if !leafPeer lo && decide (pa < 2 ^ 39) then some (pa / 2 ^ 37) else none
  | _ => none

/-- 64 KiB units of a range that reside in a die's HBM. -/
def unitsOn (s : State) (part tenant die : Nat) : Nat → Word → Nat
  | 0, _ => 0
  | n + 1, va => bitNat (residence s part tenant va == some die) + unitsOn s part tenant die n (va + 65536)

/-- A place of the package that is disabled (R69). -/
def placeDead (s : State) (cl : Nat) : Bool :=
  s.deadPlaces.contains (.cluster, cl) || s.deadPlaces.contains (.core, cl / 4) || s.deadPlaces.contains (.quad, cl / 16) ||
    s.deadPlaces.contains (.die, cl / 128)

/-- An image is queued for a context of a cluster: the cluster stays with its partition (R69). -/
def imageQueued (s : State) (cl : Nat) : Bool := s.images.any fun i => i.place / 8 == cl

/-- A cluster that a partition can take for a stage instance (R54, R69): its context 0 is FREE, and a cluster of
another partition is idle with no image of its partition queued. -/
def clusterFree (s : State) (part cl : Nat) : Bool :=
  (getCtx s (8 * cl)).run == .free && !placeDead s cl &&
    ((getCluster s cl).part == some part ||
      ((rangeFrom 1 7).all (fun n => (getCtx s (8 * cl + n)).run == .dormant) && !imageQueued s cl))

/-- Clusters that a partition's instances hold (R66). -/
def heldClusters (s : State) (part : Nat) : Nat :=
  ((s.launches.filter fun e => e.2.part == part).map fun e =>
    (e.2.insts.map fun i => countIf (fun (m : Nat × MemState) => m.2 == .bound) i.members).sum).sum

/-- Physical clusters of a die that a partition's place table names. -/
def mappedClusters (s : State) (part die : Nat) : List Nat :=
  ((rangeFrom 0 128).filterMap fun n => logicalCluster s die part n).eraseDups
/-- Free clusters of a die for a partition. -/
def freeOn (s : State) (part die : Nat) : Nat := countIf (fun cl => clusterFree s part cl) (mappedClusters s part die)

/-- What R64 weighs for a die: units of the stage's ranges, or free clusters where the stage has no range. -/
def dieWeight (s : State) (part tenant stage : Nat) (rs : List (Word × Nat × Nat)) (die : Nat) : Nat :=
  let mine := rs.filter fun r => natBit r.2.2 stage
  if mine.isEmpty then freeOn s part die else (mine.map fun r => unitsOn s part tenant die r.2.1 r.1).sum

/-- Put a die among dies in descending weight, ties to the lower number. -/
def insertDie (w : Nat → Nat) (d : Nat) : List Nat → List Nat
  | [] => [d]
  | x :: xs => if w x < w d then d :: x :: xs else x :: insertDie w d xs

/-- The dies in the order that R64 tries them for a stage. -/
def dieOrder (s : State) (part tenant map stage : Nat) : List Nat :=
  let rs := mapRanges s part tenant map
  [0, 1, 2, 3].foldl (fun l d => insertDie (dieWeight s part tenant stage rs) d l) []

-- Room (R64, R296).

/-- The first `n` of a list, none where it is shorter. -/
def firstN (n : Nat) (l : List Nat) : Option (List Nat) := if n ≤ l.length then some (l.take n) else none

/-- Clusters for a width on a die among those that `free` names: the lowest logical core with enough, or the lowest
logical quad that is all free (R64). A logical quad whose clusters a map of spares puts on more than one physical quad is
passed over. DESIGN CHOICE (log entry 109). -/
def findRoom (s : State) (die part w : Nat) (free : Nat → Bool) : Option (List Nat) :=
  let cls := fun (a n : Nat) => (rangeFrom a n).filterMap fun k => logicalCluster s die part k
  if w = 8 then
    (rangeFrom 0 8).findSome? fun q =>
      let l := cls (16 * q) 16
      if l.length = 16 ∧ (l.all free && noTwice l && l.all fun c => c / 16 == l.headD 0 / 16) = true then some l else none
  else
    (rangeFrom 0 32).findSome? fun c =>
      let l := cls (4 * c) 4
      if (noTwice l && l.all fun c => c / 4 == l.headD 0 / 4) then firstN w (l.filter free) else none

/-- Clusters that a partition's stage may take now for a tenant's world. -/
def freeFor (s : State) (part tenant : Nat) (cl : Nat) : Bool :=
  clusterFree s part cl && coreAdmits s (cl / 4) (worldOf s tenant)

/-- Room for a stage on a die as it stands. -/
def roomNow (s : State) (die part tenant : Nat) (t : Stage) : Option (List Nat) :=
  findRoom s die part t.width (freeFor s part tenant)

/-- The dies that an instance of stage `k` may go to: those with room first, in R64's order. -/
def homesOf (s : State) (part tenant map k : Nat) (t : Stage) : List Nat :=
  let order := dieOrder s part tenant map k
  let room := fun d => (roomNow s d part tenant t).isSome
  order.filter room ++ order.filter fun d => !room d

-- Launching (R73).

/-- The stage whose first instance decides a queue's die. -/
def queueStage (stages : List Stage) (q : Nat) : Nat :=
  match stages.findIdx? (fun t => t.inq == some q) with
  | some i => i
  | none => (stages.findIdx? (fun t => t.outq == some q)).getD 0

/-- The die that R64 chooses for the first instance of a stage of a record. -/
def firstHome (s : State) (part : Nat) (r : LaunchRec) (k : Nat) : Nat :=
  match r.stages[k]? with
  | some t => (homesOf s part r.tenant r.map k t).headD 0
  | none => 0

/-- The queues of a record with their dies settled (R60). -/
def settleDies (s : State) (part : Nat) (r : LaunchRec) : List StageQueue :=
  ((rangeFrom 0 r.queues.length).zip r.queues).map fun (i, q) =>
    if q.die = 255 then { q with die := firstHome s part r (queueStage r.stages i) } else q

/-- Bytes of stage queues of a list on a die. -/
def queueBytes (qs : List StageQueue) (die : Nat) : Nat := ((qs.filter fun q => q.die == die).map fun q => q.depth * q.esize).sum
/-- Bytes of stage queues that a partition has on a die. -/
def queueUse (s : State) (part die : Nat) : Nat :=
  ((s.launches.filter fun e => e.2.part == part).map fun e => queueBytes e.2.queues die).sum
/-- A partition's stage-queue share on a die in bytes (R280). -/
def queueShare (s : State) (part die : Nat) : Nat := ((((getPart s part).sram[die]?).getD []).getD 3 0) * 1048576

/-- The lowest free launch slot. -/
def freeLaunch (s : State) : Option Nat := (rangeFrom 0 256).find? fun i => (smGet s.launches i).isNone

/-- The launcher: its partition, function, and the highest stage priority it may ask for. -/
structure Launcher where
  part : Nat
  fn : Nat
  ceil : Nat
  deriving DecidableEq, Repr

/-- The first check of R73 that fails. -/
def launchCheck (s : State) (l : Launcher) (r : LaunchRec) : Nat :=
  if !r.ok then 1
  else if !tenantIn s r.tenant l.part then 2
  else if r.stages.any (fun t => decide (l.ceil < t.prio)) then 3
  else if (getPart s l.part).clshare < (r.stages.map fun t => t.min * widthClusters t.width).sum then 4
  else if (rangeFrom 0 4).any (fun d =>
      decide (queueShare s l.part d < queueUse s l.part d + queueBytes (settleDies s l.part r) d)) then 5
  else if (freeLaunch s).isNone then 6
  else 0

/-- The serial after another (R62). -/
def nextSerial (n : Nat) : Nat := if n = 0xFFFF then 1 else n + 1

/-- Make an instance of a stage: it is PENDING. -/
def makeInst (l : Launch) (stage : Nat) : Launch :=
  { l with insts := l.insts ++ [{ stage := stage, serial := l.serial, st := .pending, members := [] }], serial := nextSerial l.serial }

/-- Make `n` instances of a stage. -/
def makeInsts (stage : Nat) : Nat → Launch → Launch
  | 0, l => l
  | n + 1, l => makeInsts stage n (makeInst l stage)

/-- Every die's scheduler applies its rules (R67). -/
def wakeSchedulers (s : State) : State := raise s ((rangeFrom 0 4).map Event.schedulerPass)

/-- Start a launch in a slot: its queues are empty and its source-stage instances PENDING (R62, R73). Nothing is written to
the status area, which the scheduler writes at the launch's end. DESIGN CHOICE (log entry 82). -/
def startLaunch (s : State) (l : Launcher) (r : LaunchRec) (lid : Nat) : State :=
  let x : Launch :=
    { part := l.part, fn := l.fn, tenant := r.tenant, fuse := r.fuse, hprio := r.hprio, map := r.map, save := r.save,
      status := r.status, deadline := if r.deadline = 0 then 0x10000 else xdeadlineWrite (natW r.deadline), seed := natW r.seed,
      stages := r.stages, queues := settleDies s l.part r, insts := [] }
  let x := ((rangeFrom 0 r.stages.length).zip r.stages).foldl
    (fun x e => if e.2.inq.isNone then makeInsts e.1 e.2.min x else x) x
  let s := (rangeFrom 0 4).foldl (fun s d => loadPlace l.part d s) s
  wakeSchedulers { s with launches := smPut s.launches lid x }

/-- The checks and the start of a launch: its status and launch ID as LAUNCH returns them (R73). -/
def launchRecord (s : State) (l : Launcher) (r : LaunchRec) : Word × State :=
  match launchCheck s l r, freeLaunch s with
  | 0, some lid => (natW (lid * 2 ^ 16), startLaunch s l r lid)
  | c, _ => (natW c, s)

/-- Load 64-byte lines one after another. -/
def loadLines : Nat → Word → List Byte → State → (List Byte → State → Out) → Out
  | 0, _, acc, s, k => k acc s
  | n + 1, va, acc, s, k => (loadAt 0 va 64 s).bind fun bs s => loadLines n (va + 64) (acc ++ bytesOf bs) s k

/-- Read the header of a record's placement map, where it names one that is aligned. -/
def withMapHeader (r : LaunchRec) (s : State) (k : State → Out) : Out :=
  if r.map = 0 ∨ r.map % 64 ≠ 0 then k s else loadLines 1 (natW r.map) [] s fun _ s => k s

/-- LAUNCH (R73). A stream's launch belongs to PF0 (log entry 11). -/
def execLaunch (e : Bool) (d a : SReg) (s : State) : Out :=
  supervisorOnly (.launch e d a) s fun s =>
    withSrc [a] s fun s =>
      let s := release s s.cur 4 none
      loadLines 8 (alignDown (rs s a) 64) [] s fun bs s =>
        let r := launchRec bs
        withMapHeader r s fun s =>
          let (v, s) := launchRecord s { part := myPart s, fn := 0, ceil := min 119 (fld (me s).xprio 8 7) } r
          result e d v s

-- The ends of stages, queues and launches (R62).

/-- A stage's instances that have not exited. -/
def liveInsts (l : Launch) (stage : Nat) : Nat := countIf (fun (i : Inst) => i.stage == stage && i.st != .exited) l.insts

/-- A stage has finished. -/
def stageFinished (l : Launch) (k : Nat) (t : Stage) : Bool :=
  liveInsts l k == 0 &&
    match t.inq with
    | none => true
    | some q => (match l.queues[q]? with | some x => x.closed && x.entries.isEmpty | none => true)

/-- The producing stage of a queue has finished. -/
def producerDone (l : Launch) (q : Nat) : Bool :=
  ((rangeFrom 0 l.stages.length).zip l.stages).any fun e => e.2.outq == some q && stageFinished l e.1 e.2

/-- Close the queues whose producing stage has finished. -/
def closeQueues (l : Launch) : Launch :=
  { l with queues := ((rangeFrom 0 l.queues.length).zip l.queues).map fun e =>
      if producerDone l e.1 then { e.2 with closed := true } else e.2 }
/-- Close queues down the pipeline. -/
def closeAll : Nat → Launch → Launch
  | 0, l => l
  | n + 1, l => closeAll n (closeQueues l)

/-- A queue that no stage names as IN: the host drains it. -/
def hostDrained (l : Launch) (q : Nat) : Bool := !l.stages.any fun t => t.inq == some q
/-- A queue that no stage names as OUT: the host fills it. -/
def external (l : Launch) (q : Nat) : Bool := !l.stages.any fun t => t.outq == some q

/-- The launch is complete (R62). -/
def launchDone (l : Launch) : Bool :=
  ((rangeFrom 0 l.stages.length).zip l.stages).all (fun e => stageFinished l e.1 e.2) &&
    ((rangeFrom 0 l.queues.length).zip l.queues).all fun e => !hostDrained l e.1 || (e.2.closed && e.2.entries.isEmpty)

/-- Write a launch's status area: STATE, CODE and STRANDED (R62). What cannot be written is left. -/
def writeStatus (s : State) (l : Launch) (state : Nat) : State :=
  (sysStore s l.part l.tenant .ls (natW l.status) (leBytes 8 state ++ leBytes 8 l.code ++ leBytes 8 l.stranded)).2

/-- The launch ends with a STATE: its status area, its log record, its slot (R62, R361). -/
def endLaunch (s : State) (lid : Nat) (l : Launch) (state : Nat) : State :=
  let s := writeStatus { s with launches := smDel s.launches lid } l state
  appendLog s l.tenant 2 state 0 0 (natW lid)

/-- What follows a change of a launch: queues close, and a launch that is complete ends. -/
def settleLaunch (lid : Nat) (s : State) : State :=
  match smGet s.launches lid with
  | none => s
  | some l =>
    let l := closeAll l.stages.length l
    let s := { s with launches := smPut s.launches lid l }
    wakeSchedulers (if launchDone l then endLaunch s lid l 1 else s)

-- Stage queues (R76).

/-- Change a queue of a launch. -/
def setQueue (s : State) (lid q : Nat) (x : StageQueue) : State := modLaunch s lid fun l => { l with queues := l.queues.set q x }

/-- The queue that a word names, where it is its stage's own: its launch and number. -/
def stageQueueOf (s : State) (push : Bool) (q : Nat) : Option (Nat × StageQueue) :=
  match (me s).member, launchOf s s.cur with
  | some m, some l =>
    match l.stages[m.stage]?, l.queues[q]? with
    | some t, some x => if (if push then t.outq else t.inq) = some q then some (m.lid, x) else none
    | _, _ => none
  | _, _ => none

/-- Check that every line of a range can be stored to. -/
def storeCheckedAll : Nat → Word → State → (State → Out) → Out
  | 0, _, s, k => k s
  | n + 1, va, s, k => storeChecked s va fun s => storeCheckedAll n (va + 64) s k

/-- Store 64-byte lines one after another. -/
def storeLines : Nat → Word → List PB → State → (State → Out) → Out
  | 0, _, _, s, k => k s
  | n + 1, va, bs, s, k => (storePB 0 va (bs.take 64) s).bind fun _ s => storeLines n (va + 64) (bs.drop 64) s k

/-- SQPUSH (R76). The address value of its QERR is the stage queue's number. DEDUCED (log entry 21). -/
def execSqpush (e : Bool) (d a : SReg) (n : Bool) (q : BitVec 3) (s : State) : Out :=
  fullOnly (.sqpush e d a n q) s fun s =>
    withSrc [a] s fun s =>
      match stageQueueOf s true q.toNat with
      | none => trapNext { cause := 7, va := natW q.toNat } s
      | some (lid, x) =>
        if x.depth ≤ x.entries.length then
          (if n then result e d 0 s else .next (waitHere (.queueRoom q.toNat) s))
        else
          loadLines (x.esize / 64) (alignDown (rs s a) 64) [] s fun bs s =>
            let s := setQueue (release s s.cur 4 none) lid q.toNat { x with entries := x.entries ++ [clean bs] }
            let s := if x.entries.isEmpty || x.entries.length + 1 == x.depth then wakeSchedulers s else s
            result e d 1 s

/-- SQPOP (R76). The address value of its QERR is the stage queue's number. DEDUCED (log entry 21). -/
def execSqpop (e : Bool) (d a : SReg) (n : Bool) (q : BitVec 3) (s : State) : Out :=
  fullOnly (.sqpop e d a n q) s fun s =>
    withSrc [a] s fun s =>
      match stageQueueOf s false q.toNat with
      | none => trapNext { cause := 7, va := natW q.toNat } s
      | some (lid, x) =>
        match x.entries with
        | [] => if x.closed then result e d 2 s else if n then result e d 0 s else .next (waitHere (.queueEntry q.toNat) s)
        | bs :: rest =>
          let va := alignDown (rs s a) 64
          storeCheckedAll (x.esize / 64) va s fun s =>
            storeLines (x.esize / 64) va bs (acquireAll s s.cur 4) fun s =>
              let s := setQueue s lid q.toNat { x with entries := rest }
              let s := if rest.isEmpty || x.entries.length == x.depth then settleLaunch lid s else s
              result e d 1 s

end Sys2Proof.Machine
end

