-- ==== Sys2Proof/Machine/Special.lean ====
section
/-! DEFINITION. The special functions of R166 (06) as exact values: exact cases exactly, every other value to 900
fractional bits with a sticky last bit, which rounds as the exact value does. -/

namespace Sys2Proof.Machine

/-- Fractional bits of the fixed-point numbers here. -/
def fxP : Nat := 900
/-- One. -/
def fxOne : Int := 2 ^ fxP
/-- The product of two fixed-point numbers. -/
def fxMul (a b : Int) : Int := a * b / 2 ^ fxP
/-- The quotient of two fixed-point numbers. -/
def fxDiv (a b : Int) : Int := if b = 0 then 0 else a * 2 ^ fxP / b

/-- Σ t^(2i+1) / (2i+1) from a term t^(2k+1): the series of atanh, alternating for arctan. -/
def atanhGo (alt : Bool) : Nat → Nat → Int → Int → Int
  | 0, _, _, _ => 0
  | f + 1, k, p, t2 =>
    let term := p / (2 * k + 1)
    if p = 0 then 0 else (if alt && k % 2 == 1 then -term else term) + atanhGo alt f (k + 1) (fxMul p t2) t2
/-- atanh of |t| below 1/2. -/
def fxAtanh (t : Int) : Int := atanhGo false 1000 0 t (fxMul t t)
/-- arctan(1 / n). -/
def fxArctanInv (n : Nat) : Int := let t := fxOne / (n : Int); atanhGo true 1000 0 t (fxMul t t)

/-- ln 2 = 2 atanh(1/3). -/
def fxLn2 : Int := 2 * fxAtanh (fxOne / 3)
/-- π, by Machin's formula. -/
def fxPi : Int := 4 * (4 * fxArctanInv 5 - fxArctanInv 239)

/-- Σ x^k / k! from a term. -/
def expGo : Nat → Nat → Int → Int → Int
  | 0, _, _, _ => 0
  | f + 1, k, term, x => if term = 0 ∨ term = -1 then 0 else term + expGo f (k + 1) (fxMul term x / (k + 1 : Int)) x
/-- e^y for |y| below 300, as a fixed-point number. -/
def fxExp (y : Int) : Int :=
  let k := y / fxLn2
  let r := y - k * fxLn2
  let v := expGo 400 0 fxOne r
  if 0 ≤ k then v * 2 ^ k.toNat else v / 2 ^ (-k).toNat

/-- Σ of the alternating series of sine (from k = 1) or cosine (from k = 0). -/
def trigGo : Nat → Nat → Int → Int → Int
  | 0, _, _, _ => 0
  | f + 1, k, term, x2 =>
    if term = 0 then 0 else term - trigGo f (k + 2) (fxMul term x2 / ((k + 1) * (k + 2) : Int)) x2
/-- sin y. -/
def fxSin (y : Int) : Int := trigGo 300 1 y (fxMul y y)
/-- cos y. -/
def fxCos (y : Int) : Int := trigGo 300 0 fxOne (fxMul y y)

/-- Σ (−1)^n z^(2n+1) / (n! (2n+1)) from a power over n!. -/
def erfGo : Nat → Nat → Int → Int → Int
  | 0, _, _, _ => 0
  | f + 1, n, p, z2 =>
    if p = 0 then 0 else p / (2 * n + 1 : Int) - erfGo f (n + 1) (fxMul p z2 / (n + 1 : Int)) z2
/-- The square root of a positive fixed-point number. -/
def fxSqrt (a : Int) : Int := (isqrt (a.toNat * 2 ^ fxP) : Nat)

/-- A finite value as a fixed-point number, exact above 2^−900. -/
def fxOf (neg : Bool) (m : Nat) (e : Int) : Int :=
  let a : Int := if -(fxP : Int) ≤ e then (m * 2 ^ (e + fxP).toNat : Nat) else (m / 2 ^ (-(e + fxP)).toNat : Nat)
  if neg then -a else a

/-- An inexact fixed-point result with its sticky bit. -/
def fxVal (a : Int) : FVal :=
  if a < 0 then .fin true (2 * (-a).toNat + 1) (-(fxP : Int) - 1) else .fin false (2 * a.toNat + 1) (-(fxP : Int) - 1)

/-- A value of either sign too small for any format here. -/
def tinyV (neg : Bool) : FVal := .fin neg 1 (-5000)
/-- A value a little nearer zero than m × 2^e. -/
def belowV (neg : Bool) (m : Nat) (e : Int) : FVal := .fin neg (m * 2 ^ 900 - 1) (e - 900)
/-- One. -/
def oneV : FVal := .fin false 1 0
/-- |m × 2^e| is at least 2^k. -/
def atLeast (m : Nat) (e k : Int) : Bool := m != 0 && decide (k ≤ (log2 m : Int) + e)
/-- m × 2^e as a whole number, when it is one. -/
def wholeOf (m : Nat) (e : Int) : Option Nat :=
  if 0 ≤ e then some (m * 2 ^ e.toNat) else if m % 2 ^ (-e).toNat = 0 then some (m / 2 ^ (-e).toNat) else none

/-- 2^x. -/
def exp2V : FVal → FVal
  | .nan => .nan
  | .inf n => if n then .fin false 0 0 else .inf false
  | .fin n m e =>
    if m = 0 then oneV
    else if atLeast m e 9 then (if n then tinyV false else .fin false 1 5000)
    else
      match wholeOf m e with
      | some k => .fin false 1 (if n then -(k : Int) else k)
      | none =>
        let x := fxOf n m e
        let k := x / fxOne
        match fxVal (fxExp (fxMul (x - k * fxOne) fxLn2)) with
        | .fin s m' e' => .fin s m' (e' + k)
        | v => v

/-- log2 x. -/
def log2V : FVal → FVal
  | .nan => .nan
  | .inf n => if n then .nan else .inf false
  | .fin n m e =>
    if m = 0 then .inf true
    else if n then .nan
    else
      let l := log2 m
      if m = 2 ^ l then intVal (l + e)
      else
        let z := fxOf false m (-(l : Int))
        fxVal (fxDiv (2 * fxAtanh (fxDiv (z - fxOne) (z + fxOne))) fxLn2 + (l + e) * fxOne)

/-- 1 ÷ √x. -/
def rsqrtV : FVal → FVal
  | .nan => .nan
  | .inf n => if n then .nan else .fin false 0 0
  | .fin n m e =>
    if m = 0 then .inf n
    else if n then .nan
    else
      let odd := e % 2
      let m' := m * 2 ^ odd.toNat
      let e' := e - odd
      let k := 2 * (300 + log2 m')
      let r := isqrt (2 ^ k / m')
      .fin false (2 * r + (if r * r * m' = 2 ^ k then 0 else 1)) (-(k / 2 : Nat) - e' / 2 - 1)

/-- sin(π x), or cos(π x). -/
def trigV (cosine : Bool) : FVal → FVal
  | .nan => .nan
  | .inf _ => .nan
  | .fin n m e =>
    if m = 0 then (if cosine then oneV else .fin n 0 0)
    else
      -- h: the argument in quarters of a turn, x = h / 2 + r / 2 with r in [0, 1).
      match wholeOf m (e + 1) with
      | some h =>
        let h := if cosine then h + 1 else h
        let neg := n && !cosine
        match h % 4 with
        | 1 => .fin neg 1 0
        | 3 => .fin (!neg) 1 0
        | _ => .fin false 0 0
      | none =>
        -- The fraction of a whole turn (two half-turns), exact: m × 2^e mod 2, with e negative here.
        let x : Int := (m % 2 ^ (1 - e).toNat : Nat)
        let y := fxOf false x.toNat e
        let h := y / (fxOne / 2)
        let r := fxMul (y - h * (fxOne / 2)) fxPi
        let v :=
          match (h.toNat + (if cosine then 1 else 0)) % 4 with
          | 0 => fxSin r
          | 1 => fxCos r
          | 2 => -fxSin r
          | _ => -fxCos r
        fxVal (if n && !cosine then -v else v)

/-- tanh x. -/
def tanhV : FVal → FVal
  | .nan => .nan
  | .inf n => .fin n 1 0
  | .fin n m e =>
    if m = 0 then .fin n 0 0
    else if atLeast m e 8 then belowV n 1 0
    else if atLeast m e (-8) then
      let t := fxExp (2 * fxOf false m e)
      let v := fxDiv (t - fxOne) (t + fxOne)
      fxVal (if n then -v else v)
    else
      -- sinh x ÷ cosh x by their series, which loses nothing at small x.
      let x := fxOf false m e
      let x2 := fxMul x x
      let sh := x + expGoOdd 200 1 x x2
      let v := fxDiv sh (fxSqrt (fxOne + fxMul sh sh))
      fxVal (if n then -v else v)
where
  /-- The terms of sinh after x^k / k!. -/
  expGoOdd : Nat → Nat → Int → Int → Int
    | 0, _, _, _ => 0
    | f + 1, k, term, x2 =>
      let t := fxMul term x2 / ((k + 1) * (k + 2) : Int)
      if t = 0 then 0 else t + expGoOdd f (k + 2) t x2

/-- 1 ÷ (1 + e^−x) as a fixed-point number, for |x| below 256. -/
def fxSigm (x : Int) : Int := fxDiv fxOne (fxOne + fxExp (-x))

/-- 1 ÷ (1 + e^−x). -/
def sigmV : FVal → FVal
  | .nan => .nan
  | .inf n => if n then .fin false 0 0 else oneV
  | .fin n m e =>
    if m = 0 then .fin false 1 (-1)
    else if atLeast m e 8 then (if n then tinyV false else belowV false 1 0)
    else fxVal (fxSigm (fxOf n m e))

/-- x ÷ (1 + e^−x). -/
def siluV : FVal → FVal
  | .nan => .nan
  | .inf n => if n then .fin true 0 0 else .inf false
  | .fin n m e =>
    if m = 0 then .fin n 0 0
    else if atLeast m e 8 then (if n then tinyV true else belowV false m e)
    else fxVal (fxMul (fxOf n m e) (fxSigm (fxOf n m e)))

/-- x (1 + erf(x ÷ √2)) ÷ 2. -/
def geluV : FVal → FVal
  | .nan => .nan
  | .inf n => if n then .fin true 0 0 else .inf false
  | .fin n m e =>
    if m = 0 then .fin n 0 0
    else if atLeast m e 4 then (if n then tinyV true else belowV false m e)
    else
      let x := fxOf n m e
      let z := fxDiv x (fxSqrt (2 * fxOne))
      let erf := fxDiv (2 * erfGo 4000 0 z (fxMul z z)) (fxSqrt fxPi)
      fxVal (fxMul x (fxOne + erf) / 2)

end Sys2Proof.Machine
end

