-- ==== Sys2Proof/Machine/TileMath.lean ====
section
/-! DEFINITION. Tile arithmetic: operand pairs and format entries, elements of rows, block scales, the exact step sum with
its accumulation, the side path's sums, and the epilogue (05 R110 to R113, R121 to R128, 07 R178, R180, R181, R190). -/

namespace Sys2Proof.Machine

-- Format entries (R121, R127, R128).

/-- A row of R121: the K step in dense positions, INT32 accumulation, and the scale modes that it allows. -/
structure PairRow where
  kstep : Nat
  int : Bool
  aScale : Bool
  bScale : Bool
  bMust : Bool
  deriving DecidableEq, Repr

/-- The row of an operand pair, none for an invalid pair (R121). -/
def pairRow (a b : Nat) : Option PairRow :=
  if (a = 2 ∧ b = 2) ∨ (a = 1 ∧ b = 1) then some ⟨128, false, false, false, false⟩
  else if (a = 3 ∨ a = 4) ∧ (b = 3 ∨ b = 4) then some ⟨256, false, true, true, false⟩
  else if (a = 3 ∨ a = 4) ∧ b = 10 then some ⟨256, false, true, true, true⟩
  else if a = 5 ∧ b = 5 then some ⟨512, false, true, true, false⟩
  else if a = 7 ∧ b = 7 then some ⟨256, true, false, false, false⟩
  else if a = 7 ∧ b = 8 then some ⟨256, true, false, true, false⟩
  else if a = 8 ∧ b = 8 then some ⟨512, true, true, true, false⟩
  else none

/-- A format entry that has passed R128, with the word's own rounding and saturation applied. -/
structure TFmt where
  afmt : Nat
  bfmt : Nat
  ascl : Bool
  bscl : Bool
  int : Bool
  ofmt : Nat
  rnd : Nat
  sat : Bool
  ffmt : Nat
  fscl : Bool
  /-- Stored elements of a column of B in a full step (R121, R178). -/
  kept : Nat
  sparse : Bool
  deriving DecidableEq, Repr

/-- Dense K positions of a step: twice the stored ones under 2:4 sparsity (R121). -/
def TFmt.kstep (f : TFmt) : Nat := if f.sparse then 2 * f.kept else f.kept

/-- A field of a format entry. -/
def entField (x lo n : Nat) : Nat := natField x lo n

/-- The checks of R128 on an entry `x` for a word with its rounding code, saturation, sparse and side-path fields. -/
def tileFmt (x rnd : Nat) (sat sparse side : Bool) : Option TFmt :=
  match pairRow (entField x 0 4) (entField x 4 4) with
  | none => none
  | some p =>
    let asc := natBit x 8
    let bsc := natBit x 9
    let ffmt := entField x 23 4
    let fsc := natBit x 27
    if !natBit x 31 || entField x 10 4 != (if p.int then 6 else 0) || (asc && !p.aScale) || (bsc && !p.bScale) ||
        (p.bMust && !bsc) || decide (8 < entField x 14 4) || (rnd == 5 && decide (4 < entField x 18 3)) ||
        natBit x 22 != sparse ||
        (side && !((ffmt == 2 && !fsc) || ((ffmt == 3 || ffmt == 4) && fsc))) then none
    else some { afmt := entField x 0 4, bfmt := entField x 4 4, ascl := asc, bscl := bsc, int := p.int, ofmt := entField x 14 4,
                rnd := if rnd = 5 then entField x 18 3 else rnd, sat := sat || natBit x 21, ffmt := ffmt, fscl := fsc,
                kept := p.kstep, sparse := sparse }

/-- Rounding steps of a product over K (R121). -/
def TFmt.steps (f : TFmt) (k : Nat) : Nat := ceilDiv k f.kstep
/-- Dense positions of step `st`. -/
def TFmt.count (f : TFmt) (k st : Nat) : Nat := min f.kstep (k - st * f.kstep)
/-- Stored elements of a column of B in step `st`. -/
def TFmt.stored (f : TFmt) (k st : Nat) : Nat := if f.sparse then f.count k st / 2 else f.count k st
/-- B is in VQ2. -/
def TFmt.vq (f : TFmt) : Bool := f.bfmt == 10
/-- Scales of a row of A and of a column of B in a step (R113). -/
def TFmt.na (f : TFmt) (k st : Nat) : Nat := if f.ascl then ceilDiv (f.count k st) 32 else 0
def TFmt.nb (f : TFmt) (k st : Nat) : Nat :=
  if f.bscl then ceilDiv (if f.vq then ceilDiv (f.stored k st) 8 else f.stored k st) 32 else 0
/-- Bits of a row of `n` stored elements of a format (R104, R110). -/
def storedBits (fmt n : Nat) : Nat := if fmt = 10 then 16 * ceilDiv n 8 else fmtBits fmt * n

-- Elements (R104, R110 to R113).

/-- Codes of `n` elements of a width that divides 8 or is a multiple of it, packed by R104. -/
def unpackRow (w n : Nat) (bs : List Byte) : List Nat :=
  if w = 4 then ((bs.flatMap fun (b : Byte) => [b.toNat % 16, b.toNat / 16]) ++ List.replicate n 0).take n
  else (rangeFrom 0 n).map fun i => leNat ((bs.drop (w / 8 * i)).take (w / 8))

/-- Bytes of element codes of a width, packed by R104. -/
def packRow (w : Nat) : List Nat → List Byte
  | [] => []
  | [x] => if w = 4 then [BitVec.ofNat 8 (x % 16)] else leBytes (w / 8) x
  | x :: y :: xs => if w = 4 then BitVec.ofNat 8 (x % 16 + y % 16 * 16) :: packRow w xs else leBytes (w / 8) x ++ packRow w (y :: xs)

/-- The exact value of an element code. -/
def elemVal (fmt x : Nat) : FVal :=
  match fmtOf fmt with
  | some f => decodeFmt f x
  | none => .fin false 0 0

/-- Values with one E8M0 scale per 32 elements (R112). -/
def scaled (on : Bool) (vs : List FVal) (sc : List Nat) : List FVal :=
  if on then ((rangeFrom 0 vs.length).zip vs).map fun e => mulV e.2 (decodeFmt .e8m0 (sc.getD (e.1 / 32) 0)) else vs

/-- Values of the stored elements of a column of B in a step (R110, R112). -/
def bVals (f : TFmt) (n : Nat) (bs : List Byte) (sc : List Nat) : List FVal :=
  if f.vq then (((unpackRow 16 (ceilDiv n 8) bs).zip (rangeFrom 0 (ceilDiv n 8))).flatMap
    fun e => decodeVq2 e.1 (sc.getD (e.2 / 32) 0)).take n
  else scaled f.bscl ((unpackRow (fmtBits f.bfmt) n bs).map (elemVal f.bfmt)) sc

/-- Values of a row of A in a step. -/
def aVals (f : TFmt) (codes sc : List Nat) : List FVal := scaled f.ascl (codes.map (elemVal f.afmt)) sc

/-- The dense positions of kept elements by the nibbles of their groups (R111, R178). -/
def keptPos (nibs : List Nat) : List Nat :=
  ((rangeFrom 0 nibs.length).zip nibs).flatMap fun e => [4 * e.1 + e.2 % 4, 4 * e.1 + e.2 / 4]

-- Step sums and accumulation (R122).

/-- A zero sum is +0. -/
def plusZero (v : FVal) : FVal := if v.isZero then .fin false 0 0 else v

/-- The exact sum of products (R122). -/
def dotV (a b : List FVal) : FVal := plusZero ((a.zip b).foldl (fun v e => addV false v (mulV e.1 e.2)) (.fin false 0 0))

/-- An FP32 value with another added under R122: the new bits, and whether it saturated. -/
def fpStep (c : Nat) (p : FVal) : Nat × Bool :=
  let x := addV false (decodeFloat fp32 c) (decodeFloat fp32 (roundFloat fp32 false .rne p))
  let r := roundFloat fp32 false .rne x
  match decodeFloat fp32 r with
  | .inf _ => (roundFloat fp32 true .rne x, true)
  | _ => (r, false)

/-- An INT32 value with a step sum added under R122. -/
def intStep (c : Nat) (p : FVal) : Nat × Bool :=
  let q := clampInt 32 (roundToInt 32 .rne p)
  let x := signedOf 32 c + q
  (intBits 32 (clampInt 32 x), outOfRange (.int 32) false .rne p || p == .nan || decide (clampInt 32 x ≠ x))

/-- One accumulation step of R122. -/
def accStep (int : Bool) (c : Nat) (p : FVal) : Nat × Bool := if int then intStep c p else fpStep c p

/-- The value of an accumulator element. -/
def accVal (int : Bool) (c : Nat) : FVal := if int then intVal (signedOf 32 c) else decodeFloat fp32 c

/-- TQRED's sum of the four partial values (R187). -/
def quadSum (int : Bool) (cs : List Nat) : Nat × Bool :=
  let x := plusZero (cs.foldl (fun v c => addV false v (accVal int c)) (.fin false 0 0))
  if int then
    let i := (cs.map (signedOf 32)).sum
    (intBits 32 (clampInt 32 i), decide (clampInt 32 i ≠ i))
  else
    match decodeFloat fp32 (roundFloat fp32 false .rne x) with
    | .inf _ => (roundFloat fp32 true .rne x, true)
    | _ => (roundFloat fp32 false .rne x, false)

-- The side path (R190).

/-- One side-path step of a row: its u values after it, and whether one of them saturated. -/
def sideStep (us : List Nat) (a : List FVal) (fa : Nat → List FVal) : List Nat × Bool :=
  let rs := ((rangeFrom 0 us.length).zip us).map fun e => fpStep e.2 (dotV a (fa e.1))
  (rs.map (·.1), rs.any (·.2))

/-- The correction of an element: α × Σ RoundTo(BF16, u) × Fb, exact. DEDUCED (log entry 24). -/
def sideCorr (alpha : Nat) (us : List Nat) (fb : List FVal) : FVal :=
  mulV (decodeFloat fp32 alpha)
    (dotV (us.map fun u => decodeFloat bf16 (roundFloat bf16 false .rne (decodeFloat fp32 u))) fb)

-- The epilogue (R125, R180, R181).

/-- The activation of an epilogue code. -/
def activate (code : Nat) (x : FVal) : FVal :=
  match code with
  | 0 => x
  | 1 => if x = .nan then .nan else if x.neg || x.isZero then .fin false 0 0 else x
  | 2 => geluV x
  | 3 => siluV x
  | 4 => tanhV x
  | _ => sigmV x

/-- The rounding mode of a code with its draw. -/
def tileMode (code draw : Nat) : Mode :=
  match code with
  | 0 => .rne
  | 1 => .rtz
  | 2 => .rup
  | 3 => .rdn
  | _ => .sr draw

/-- An output element: its bits, out of range by conversion, NaN before it. -/
structure OutElem where
  bits : Nat
  oor : Bool
  nan : Bool
  deriving DecidableEq, Repr

/-- One element through the epilogue (R181). An INT8 or INT4 output is clamped without saturation too.
DEDUCED (log entry 84). -/
def epiElem (f : TFmt) (code : Nat) (scale : FVal) (draw c : Nat) : OutElem :=
  let y := activate code (mulV scale (accVal f.int c))
  let m := tileMode f.rnd draw
  match fmtOf f.ofmt with
  | some t => { bits := roundTo t f.sat m y, oor := outOfRange t f.sat m y, nan := y == .nan }
  | none => { bits := 0, oor := false, nan := false }

/-- The scale of a TEPI word from W5 (R181). -/
def epiScale (w5 : Nat) : FVal := if w5 = 0 then .fin false 1 0 else decodeFloat fp32 w5

/-- The 64 bytes of a trailer (R126). -/
def trailerBytes (ovf nans m n ofmt groups : Nat) : List Byte :=
  leBytes 4 ovf ++ leBytes 4 nans ++ leBytes 2 m ++ leBytes 2 n ++ leBytes 1 ofmt ++ leBytes 3 0 ++ leBytes 16 groups ++ leBytes 32 0

/-- The bit of GROUPS that a failed group sets (R192). -/
def groupBit (g : Nat) : Nat := 2 ^ min g 127

end Sys2Proof.Machine
end

