-- ==== Sys2Proof/Machine/Catalog.lean ====
section
/-! DEFINITION. The Catalogue and the Herbarium: entries, versions and their pages, binding tokens, pins, lines of
factors and their eviction, and the side path's reads of them (14 R302 to R319, 07 R182, R190, R192). -/

namespace Sys2Proof.Machine

-- Entries and versions (R302 to R304).

/-- The valid entry of a partition and handle. -/
def entryOf (s : State) (part handle : Nat) : Option CatEntry :=
  s.catalogue.find? fun e => e.part == part && e.handle == handle
/-- The entry that an APAGE or APUB of a partition and tenant names (R314). -/
def entryFor (s : State) (part tenant handle : Nat) : Option CatEntry :=
  match entryOf s part handle with
  | some e => some e
  | none => s.catalogue.find? fun e => e.handle == handle && e.pub == tenant
/-- Replace an entry. -/
def setEntry (s : State) (e : CatEntry) : State :=
  { s with catalogue := s.catalogue.map fun x => if x.part == e.part && x.handle == e.handle then e else x }
/-- The entry's home is another package (R302). -/
def isReplica (e : CatEntry) : Bool := e.home != 0x1FFF
/-- The record in a state. -/
def recIn (e : CatEntry) (st : VSt) : Option VRec := e.vrec.find? fun v => v.st == st
/-- The record of a version. -/
def recOf (e : CatEntry) (ver : Nat) : Option VRec := e.vrec.find? fun v => v.st != .free && v.ver == ver
/-- Change the record of a version. -/
def modRec (e : CatEntry) (ver : Nat) (f : VRec → VRec) : CatEntry :=
  { e with vrec := e.vrec.map fun v => if v.st != .free && v.ver == ver then f v else v }

-- Pages and slabs (R306, R307).

/-- Frame of page i of a version. -/
def pageFrame (s : State) (v : VRec) (i : Nat) : Option Nat := (getPart s v.pool).pool[v.pidx + i]?
/-- A byte of a version's slab run, with its poison: committed data at its home. -/
def runByte (s : State) (v : VRec) (off : Nat) : PB :=
  match pageFrame s v (off / 65536) with
  | some f => committed s (65536 * f + off % 65536)
  | none => (0, false)
/-- Bytes of a slab run. -/
def runBytes (s : State) (v : VRec) (off n : Nat) : List PB := (rangeFrom off n).map (runByte s v)

/-- A site directory entry. -/
structure Site where
  aoff : Nat
  boff : Nat
  kd : Nat
  nd : Nat
  resv : Nat
  deriving DecidableEq, Repr

/-- The fields of a directory entry. -/
def siteOf (x : BitVec 128) : Site :=
  let n := x.toNat
  { aoff := natField n 0 32, boff := natField n 32 32, kd := natField n 64 16, nd := natField n 80 16, resv := natField n 96 32 }

/-- Bytes of a factor element. -/
def factorBytes (ffmt : Nat) : Nat := if ffmt = 2 then 2 else 1
/-- Bytes of a factor column of `n` elements, scales and padding included. -/
def columnBytes (ffmt : Nat) (fscl : Bool) (n : Nat) : Nat :=
  roundUp (n * factorBytes ffmt + if fscl then ceilDiv n 32 else 0) 64
/-- Where the factors of a site begin and end in its run. -/
def siteSpan (ffmt : Nat) (fscl : Bool) (rank aoff boff kd nd : Nat) : Nat × Nat :=
  (min aoff boff, max (aoff + rank * columnBytes ffmt fscl kd) (boff + nd * columnBytes ffmt fscl rank))
/-- Herbarium lines of a site. -/
def siteLines (ffmt : Nat) (fscl : Bool) (rank : Nat) (x : Site) : Nat :=
  let (a, b) := siteSpan ffmt fscl rank x.aoff x.boff x.kd x.nd
  ceilDiv (b - a) 4096

/-- What a version is, as the home tells it (R303, R307). -/
def verInfo (s : State) (v : VRec) : VerInfo :=
  { ver := v.ver, rank := v.rank, ffmt := v.ffmt, nsite := v.nsite, fscl := v.fscl, alpha := v.alpha,
    dir := (rangeFrom 0 v.nsite).map fun i => BitVec.ofNat 128 (leNat (bytesOf (runBytes s v (16 * i) 16))) }
/-- A site of a version. -/
def verSite (v : VerInfo) (i : Nat) : Site := siteOf (v.dir.getD i 0)
/-- Herbarium lines of a version's site. -/
def verLines (v : VerInfo) (i : Nat) : Nat := siteLines v.ffmt v.fscl (2 ^ v.rank) (verSite v i)

/-- Pages charged to a tenant, those still being released included (R314). -/
def pagesCharged (s : State) (t : Nat) : Nat :=
  (s.catalogue.map fun e => ((e.vrec.filter fun v => v.st != .free && v.ownt == t).map (·.npage)).sum).sum +
    (s.frameWork.filter fun w => w.2.charge == some t).length

/-- Release a version's pages (R314, R316). -/
def releasePages (s : State) (v : VRec) : State :=
  let idx := rangeFrom v.pidx v.npage
  let s := idx.foldl (fun s i =>
    match (getPart s v.pool).pool[i]? with
    | some f => if frameState s f = 3 then releaseFrame s f { src := none, charge := some v.ownt } else s
    | none => s) s
  modPart s v.pool fun p => { p with poolUsed := p.poolUsed.filter fun i => !idx.contains i }

-- Peers (R301).

/-- The physical peer of a logical one that passes the checks. -/
def peerCheck (s : State) (die part logical : Nat) : Option Nat :=
  match physical s die part .peer logical with
  | some p =>
    if s.populated.contains p && !s.disabled.contains p && natBit (memNat s ((getPart s part).peermap + p / 8) 1) (p % 8) then some p
    else none
  | none => none

/-- A peer that the package may reach for a partition: populated, not disabled, in its PEERMAP (R301). -/
def peerOk (s : State) (part peer : Nat) : Bool :=
  s.populated.contains peer && !s.disabled.contains peer && natBit (memNat s ((getPart s part).peermap + peer / 8) 1) (peer % 8)

/-- A tenant's packet or record takes a gateway slot, or gives it back (R298, R319). -/
def takeSlot (s : State) (t : Nat) : State := { s with gwSlots := smSet s.gwSlots t (slotsHeld s t + 1) 0 }
def giveSlot (s : State) (t : Nat) : State := { s with gwSlots := smSet s.gwSlots t (slotsHeld s t - 1) 0 }

/-- Send a Catalogue record of a partition to a physical peer that passes the checks, charged to a tenant: class 2, or 3 for
an answer. It leaves once it finds a gateway slot (R298, R301, R319). -/
def sendRecord (s : State) (part peer tenant cls : Nat) (r : CatRecord) : State :=
  if peerOk s part peer then
    let go := slotFree s tenant
    let s : State := { s with catNum := s.catNum + 1
                              catOut := s.catOut ++ [{ num := s.catNum + 1, peer := peer, tenant := tenant, cls := cls, rec_ := r, sent := go }] }
    if go then takeSlot s tenant else s
  else s

/-- Catalogue records that wait for a gateway slot leave, oldest first, as slots come free (R298). -/
def sendWaiting (s : State) : State :=
  (s.catOut.filter fun m => !m.sent).foldl (fun s m =>
    if slotFree s m.tenant then
      takeSlot { s with catOut := s.catOut.map fun x => if x.num = m.num then { x with sent := true } else x } m.tenant
    else s) s

/-- Records that a test selects are done with: their slots come back (R298). -/
def dropRecords (s : State) (f : CatMsg → Bool) : State :=
  ((s.catOut.filter f).filter (·.sent)).foldl (fun s m => giveSlot s m.tenant) { s with catOut := s.catOut.filter fun m => !f m }

/-- A pin of a binding, or an unpin, on its way to the home of a replica's handle (R311, R319). DEDUCED (log entry 40). -/
def sendPin (on : Bool) (s : State) (die tenant part handle ver home : Nat) : State :=
  match peerCheck s die part home with
  | some p => sendRecord s part p tenant 2 (if on then .pin s.ownPeer part handle ver tenant else .unpin s.ownPeer part handle ver tenant)
  | none => s

-- Herbarium lines (R317).

/-- Lines of a site on a die. -/
def linesOf (d : Die) (k : SiteKey) : List HerbLine := d.lines.filter fun l => l.key == k
/-- Every line of a site is on a die. -/
def siteHere (d : Die) (k : SiteKey) (n : Nat) : Bool :=
  (rangeFrom 0 n).all fun i => d.lines.any fun l => l.key == k && l.idx == i

/-- Cores of a die. -/
def coresOf (die : Nat) : List Nat := rangeFrom (32 * die) 32

/-- A fill of a site is running. -/
def filling (d : Die) (k : SiteKey) : Bool := d.fills.any fun f => f.key == k
/-- Change the fill of a site. -/
def modFill (s : State) (die : Nat) (k : SiteKey) (f : Fill → Fill) : State :=
  modDie s die fun d => { d with fills := d.fills.map fun x => if x.key == k then f x else x }
/-- The fill of a site is over. -/
def endFill (s : State) (die : Nat) (k : SiteKey) : State := modDie s die fun d => { d with fills := d.fills.filter fun f => f.key != k }
/-- Lines that a die keeps free for sites that it has asked of their homes (R318). -/
def roomHeld (d : Die) (mine : SiteKey → Bool) : Nat :=
  ((d.fills.filter fun f => f.asked && mine f.key).map fun f => f.lines - (linesOf d f.key).length).sum
/-- The binding entries of a die that name a site. -/
def bindsOf (s : State) (die : Nat) (k : SiteKey) : List BindEntry :=
  s.cores.flatMap fun e => if e.1 / 32 == die then (e.2.bind.map (·.2)).filter fun b => b.key == k && b.st != .refused else []

/-- A site is named by an entry that an issued side-path word uses, or is being filled (R317). -/
def sitePinned (s : State) (die : Nat) (k : SiteKey) : Bool :=
  filling (getDie s die) k ||
    s.cores.any fun e => e.1 / 32 == die &&
      e.2.sideEnts.any fun q => q.2.any fun b =>
        match smGet e.2.bind b.1 with
        | some x => x.key == k && x.st != .refused
        | none => false

/-- Change the binding entries of a die that name a site. -/
def mapBinds (s : State) (die : Nat) (k : SiteKey) (f : BindEntry → BindEntry) : State :=
  { s with cores := s.cores.map fun e =>
      if e.1 / 32 == die then (e.1, { e.2 with bind := e.2.bind.map fun b => if b.2.key == k && b.2.st != .refused then (b.1, f b.2) else b })
      else e }

/-- The least recently used line of a list. -/
def lruLine (s : State) : List HerbLine → Option HerbLine
  | [] => none
  | l :: ls =>
    match lruLine s ls with
    | some x => if since s x.used ≤ since s l.used then some l else some x
    | none => some l

/-- Evict a line: entries that name its site become MISSING (R318). -/
def evictHerb (s : State) (die : Nat) (l : HerbLine) : State :=
  let s := modDie s die fun d => { d with lines := d.lines.filter fun x => !(x.key == l.key && x.idx == l.idx) }
  mapBinds s die l.key fun b => { b with st := .missing }

/-- A partition's Herbarium share on a die in lines (R280, R317). -/
def herbShare (s : State) (part die : Nat) : Nat := ((((getPart s part).sram[die]?).getD []).getD 1 0) * 256
/-- HBLINES of a tenant. -/
def hbLines (s : State) (t : Nat) : Nat := ((smGet s.tenants t).map (·.hblines)).getD 0

/-- Make room for `n` lines of a site by evicting, none where it cannot be found (R318). -/
def makeRoom (die : Nat) (k : SiteKey) (n : Nat) : Nat → State → Option State
  | 0, _ => none
  | fuel + 1, s =>
    let d := getDie s die
    let own := d.lines.filter fun l => l.key.part == k.part && l.key.tenant == k.tenant
    let mine := d.lines.filter fun l => l.key.part == k.part
    if hbLines s k.tenant < own.length + roomHeld d (fun x => x != k && x.part == k.part && x.tenant == k.tenant) + n then
      match lruLine s (own.filter fun l => !sitePinned s die l.key) with
      | some l => makeRoom die k n fuel (evictHerb s die l)
      | none => none
    else if herbShare s k.part die < mine.length + roomHeld d (fun x => x != k && x.part == k.part) + n then
      match lruLine s (mine.filter fun l => !sitePinned s die l.key) with
      | some l => makeRoom die k n fuel (evictHerb s die l)
      | none => none
    else some s

/-- A fill of a site of some lines begins, unless it is running: what an earlier one has failed to bring may come (R318). -/
def startFill (s : State) (die : Nat) (k : SiteKey) (n : Nat) : State :=
  if filling (getDie s die) k then s
  else modDie (mapBinds s die k fun b => { b with fillFailed := false }) die fun d => { d with fills := d.fills ++ [{ key := k, lines := n }] }

/-- Lines of an entry's site. -/
def BindEntry.lines (b : BindEntry) : Nat :=
  siteLines b.ffmt b.fscl b.rank { aoff := b.aoff, boff := b.boff, kd := b.kd, nd := b.nd, resv := 0 }
/-- Lines of a site that an entry of a die names. -/
def siteNeed (s : State) (die : Nat) (k : SiteKey) : Nat := ((bindsOf s die k).head?.map BindEntry.lines).getD 0

/-- Evict until no more lines of a kind are left on a die than a limit: unpinned ones first, the least recently used first; a
site that is in use is filled again. DESIGN CHOICE (log entry 91). -/
def trimLines (die : Nat) (mine : HerbLine → Bool) (limit : Nat) : Nat → State → State
  | 0, s => s
  | fuel + 1, s =>
    let ls := (getDie s die).lines.filter mine
    if ls.length ≤ limit then s
    else
      match lruLine s (ls.filter fun l => !sitePinned s die l.key), lruLine s ls with
      | some l, _ => trimLines die mine limit fuel (evictHerb s die l)
      | none, some l =>
        trimLines die mine limit fuel (startFill (evictHerb s die l) die l.key (siteNeed s die l.key))
      | none, none => s

/-- A partition's lines fall to its shares, a tenant's to its HBLINES (R317). -/
def trimHerbs (s : State) (mine : Nat → HerbLine → Bool) (limit : State → Nat → Nat) : State :=
  (s.dies.map (·.1)).foldl (fun s d => trimLines d (mine d) (limit s d) ((getDie s d).lines.length + 1) s) s

/-- Touch the lines of a site. -/
def touchSite (s : State) (die : Nat) (k : SiteKey) : State :=
  modDie s die fun d => { d with lines := d.lines.map fun l => if l.key == k then { l with used := s.cycle } else l }

/-- Every line of a version goes on every die (R316). -/
def dropLines (s : State) (part handle ver : Nat) : State :=
  let mine := fun (k : SiteKey) => k.part == part && k.handle == handle && k.ver == ver
  { s with
    dies := s.dies.map fun e => (e.1, { e.2 with lines := e.2.lines.filter fun l => !mine l.key })
    cores := s.cores.map fun e =>
      (e.1, { e.2 with bind := e.2.bind.map fun b => if mine b.2.key && b.2.st == .resident then (b.1, { b.2 with st := .missing }) else b }) }

-- Pins and retirement (R304, R316).

/-- Retire a version whose pins are gone. -/
def retireVersion (s : State) (e : CatEntry) (v : VRec) : State :=
  let s := dropLines s e.part e.handle v.ver
  let held := ((e.peers ++ e.holders).filter fun p => p.2 == v.ver).map (·.1)
  let s := held.eraseDups.foldl (fun s p => sendRecord s e.part p e.tenant 2 (.invalidate s.ownPeer e.part e.handle v.ver e.tenant)) s
  let s := releasePages s v
  match entryOf s e.part e.handle with
  | some e => setEntry s { modRec e v.ver (fun _ => {}) with
      peers := e.peers.filter fun p => p.2 != v.ver, holders := e.holders.filter fun p => p.2 != v.ver }
  | none => s

/-- A binding's pin on a version, taken on a die for a tenant: its pins rise by one, on a replica at the home (R311). -/
def pinVersion (s : State) (die tenant part handle ver home : Nat) : State :=
  if home ≠ 0x1FFF then sendPin true s die tenant part handle ver home
  else
    match entryOf s part handle with
    | some e => setEntry s (modRec e ver fun v => { v with pins := v.pins + 1 })
    | none => s
/-- A version's pins fall by one, on a replica at the home, whose entry here may be gone; a RETIRING version without pins retires. -/
def unpinVersion (s : State) (die tenant part handle ver home : Nat) : State :=
  if home ≠ 0x1FFF then sendPin false s die tenant part handle ver home
  else
    match (entryOf s part handle).bind fun e => (recOf e ver).map fun v => (e, v) with
    | some (e, v) =>
      let v := { v with pins := v.pins - 1 }
      let s := setEntry s (modRec e ver fun _ => v)
      if v.st = .retiring ∧ v.pins = 0 then retireVersion s e v else s
    | none => s

-- Tokens (R310, R311).

/-- A binding token's fields. -/
structure Token where
  aidx : Nat
  site : Nat
  gen : Nat
  handle : Nat
  ver : Nat
  tenant : Nat
  resv : Bool
  deriving DecidableEq, Repr

/-- The token in 16 bytes. -/
def tokenOf (bs : List Byte) : Token :=
  let n := leNat bs
  { aidx := natField n 0 14, site := natField n 16 8, gen := natField n 32 32, handle := natField n 64 20, ver := natField n 96 16,
    tenant := natField n 112 12,
    resv := natField n 14 2 != 0 || natField n 24 8 != 0 || natField n 84 12 != 0 || natField n 124 4 != 0 }
/-- The 16 bytes of a token with site 0. -/
def tokenBytes (aidx gen handle ver tenant : Nat) : List Byte :=
  leBytes 4 aidx ++ leBytes 4 gen ++ leBytes 4 handle ++ leBytes 2 ver ++ leBytes 2 tenant

/-- What is known here of the version that an admission holds. -/
def admittedInfo (s : State) (a : Admission) : Option VerInfo :=
  match a.info with
  | some v => some v
  | none => ((entryOf s a.part a.handle).bind fun e => recOf e a.ver).map (verInfo s)

/-- The admission that a token names, for an agent of a partition and tenant; SITE is not looked at. -/
def tokenAdmission (s : State) (part tenant : Nat) (k : Token) : Option Admission :=
  match smGet s.admissions k.aidx with
  | some a =>
    if 1 ≤ k.aidx ∧ a.gen = k.gen ∧ a.handle = k.handle ∧ a.ver = k.ver ∧ a.tenant = k.tenant ∧ a.part = part ∧ a.tenant = tenant ∧ k.resv = false then
      some a
    else none
  | none => none

/-- The check of a token for a binding (R311): its admission and version. A token of a tenant that is no longer valid
does not pass (R320). -/
def bindToken (s : State) (part tenant : Nat) (k : Token) : Option (Admission × VerInfo) :=
  if !tenantIn s tenant part then none
  else
    match tokenAdmission s part tenant k with
    | some a =>
      match admittedInfo s a with
      | some v => if k.site < v.nsite then some (a, v) else none
      | none => none
    | none => none

-- Binding entries (R182).

/-- The site that a token binds. -/
def siteKeyOf (a : Admission) (site : Nat) : SiteKey := { part := a.part, tenant := a.tenant, handle := a.handle, ver := a.ver, site := site }
/-- An entry that a failed token leaves. -/
def refusedEntry : BindEntry :=
  { st := .refused, key := { part := 0, tenant := 0, handle := 0, ver := 0, site := 0 }, rank := 0, alpha := 0, ffmt := 0, fscl := false,
    aoff := 0, boff := 0, kd := 0, nd := 0 }
/-- The entry that a token which passes gives. -/
def boundEntry (a : Admission) (v : VerInfo) (site : Nat) (here : Bool) : BindEntry :=
  let x := verSite v site
  { st := if here then .resident else .missing, key := siteKeyOf a site, rank := 2 ^ v.rank, alpha := v.alpha, ffmt := v.ffmt, fscl := v.fscl,
    aoff := x.aoff, boff := x.boff, kd := x.kd, nd := x.nd, home := a.home }
/-- The largest rank bound to an accumulator rises where an issued side-path word uses the entry (R191).
DEDUCED (log entry 39). -/
def raiseRank (b rank : Nat) (c : Core) : Core :=
  let uses := (rangeFrom 0 4).filter fun a => (rangeFrom (4 * a) 4).any fun q => (smGetD c.sideEnts q []).any fun e => e.1 == b
  { c with sideRank := uses.foldl (fun m a => smPut m a (max (smGetD m a 0) rank)) c.sideRank }

/-- Write a binding entry of a core: the old one drops its pin, and held steps through it are gone. -/
def writeBind (s : State) (core b : Nat) (x : Option BindEntry) : State :=
  let s :=
    match smGet (getCore s core).bind b with
    | some o => if o.st = .refused then s else unpinVersion s (core / 32) o.key.tenant o.key.part o.key.handle o.key.ver o.home
    | none => s
  modCore s core fun c =>
    raiseRank b ((x.map (·.rank)).getD 0)
      { c with
        bind := match x with | some x => smPut c.bind b x | none => smDel c.bind b
        held := c.held.filter fun h => h.entry != b }

/-- Bind an entry of a core by the 16 bytes of a token (R182). -/
def bindEntry (s : State) (core b part tenant : Nat) (bs : List Byte) : State :=
  if bs.all (· == 0) then writeBind s core b none
  else
    let k := tokenOf bs
    match bindToken s part tenant k with
    | none => writeBind s core b (some refusedEntry)
    | some (a, v) =>
      let die := core / 32
      let key := siteKeyOf a k.site
      let here := siteHere (getDie s die) key (verLines v k.site)
      let s := writeBind (pinVersion s die a.tenant a.part a.handle a.ver a.home) core b (some (boundEntry a v k.site here))
      if here then touchSite s die key else startFill s die key (verLines v k.site)

-- The side path's factors (R190, R307).

/-- Bytes of a site's run on a die. -/
def siteBytes (d : Die) (b : BindEntry) (off n : Nat) : List Byte :=
  let lo := min b.aoff b.boff
  let ls := linesOf d b.key
  let from_ := off - lo
  let i0 := from_ / 4096
  let i1 := (from_ + n - 1) / 4096
  let bs := (rangeFrom i0 (i1 - i0 + 1)).flatMap fun i => ((ls.find? fun l => l.idx == i).map (·.data)).getD (List.replicate 4096 0)
  (bs.drop (from_ - 4096 * i0)).take n

/-- Elements `k0` to `k0 + n - 1` of a factor column of `len` elements that begins at an offset of the run: zero beyond
its end. -/
def factorCol (d : Die) (b : BindEntry) (at_ len k0 n : Nat) : List FVal :=
  let m := min n (len - k0)
  if m = 0 then List.replicate n (.fin false 0 0)
  else
    let w := factorBytes b.ffmt
    let codes := unpackRow (8 * w) m (siteBytes d b (at_ + k0 * w) (m * w))
    let vs := codes.map (elemVal b.ffmt)
    let sc := if b.fscl then (siteBytes d b (at_ + len * w) (ceilDiv len 32)).map BitVec.toNat else []
    let vs := if b.fscl then ((rangeFrom k0 m).zip vs).map fun (e : Nat × FVal) => mulV e.2 (decodeFmt .e8m0 (sc.getD (e.1 / 32) 0)) else vs
    vs ++ List.replicate (n - m) (.fin false 0 0)

/-- Fa(k, j) for `n` values of k from `k0` on. -/
def faCol (d : Die) (b : BindEntry) (k0 n j : Nat) : List FVal :=
  factorCol d b (b.aoff + j * columnBytes b.ffmt b.fscl b.kd) b.kd k0 n
/-- Poison lies in the bytes of a factor column that give `n` elements from `k0` on (R346, R347). -/
def columnBad (d : Die) (b : BindEntry) (at_ len k0 n : Nat) : Bool :=
  let lo := min b.aoff b.boff
  let m := min n (len - k0)
  let hit := fun (off n : Nat) => (granules (off - lo) n).any fun g =>
    (linesOf d b.key).any fun l => l.idx == g / 512 && l.bad.contains (g % 512)
  let w := factorBytes b.ffmt
  !(linesOf d b.key).all (·.bad.isEmpty) && (hit (at_ + k0 * w) (m * w) || (b.fscl && m != 0 && hit (at_ + len * w + k0 / 32) ((k0 + m - 1) / 32 - k0 / 32 + 1)))

/-- Poison in Fa(k, j) for `n` values of k from `k0` on and the first `q` columns. -/
def faBad (d : Die) (b : BindEntry) (k0 n q : Nat) : Bool :=
  (rangeFrom 0 q).any fun j => columnBad d b (b.aoff + j * columnBytes b.ffmt b.fscl b.kd) b.kd k0 n
/-- Poison in Fb(j, n) for some j. -/
def fbBad (d : Die) (b : BindEntry) (n : Nat) : Bool :=
  decide (n < b.nd) && columnBad d b (b.boff + n * columnBytes b.ffmt b.fscl b.rank) b.rank 0 b.rank

/-- Fb(j, n) for every j. -/
def fbCol (d : Die) (b : BindEntry) (n : Nat) : List FVal :=
  if b.nd ≤ n then List.replicate b.rank (.fin false 0 0)
  else factorCol d b (b.boff + n * columnBytes b.ffmt b.fscl b.rank) b.rank 0 b.rank

/-- Key of u(r, 0) of a row of a tile. -/
def uKey (a r : Nat) : Nat := (128 * a + r) * 64
/-- The first q values of a row's u. -/
def uRow (c : Core) (a r q : Nat) : List Nat := (rangeFrom (uKey a r) q).map fun k => (smGetD c.u k 0).toNat
/-- Write the first values of a row's u. -/
def setU (c : Core) (a r : Nat) (us : List Nat) : Core :=
  { c with u := smPutMany c.u ((rangeFrom (uKey a r) us.length).zip (us.map (BitVec.ofNat 32))) }

/-- A side-path step of one row with the dense values of A from position `kp` of the factor on, poisoned as `bad` says
(R190, R347). -/
def sideRow (s : State) (core a row : Nat) (b : BindEntry) (kp : Nat) (vals : List FVal) (bad : Bool) : State :=
  let d := getDie s (core / 32)
  let s := modCore s core fun c =>
    let (us, sat) := sideStep (uRow c a row b.rank) vals (faCol d b kp vals.length)
    let c := setU c a row us
    if sat then { c with marked := if c.marked.contains (128 * a + row) then c.marked else (128 * a + row) :: c.marked } else c
  (rangeFrom 0 b.rank).foldl (fun s j =>
    if bad || columnBad d b (b.aoff + j * columnBytes b.ffmt b.fscl b.kd) b.kd kp vals.length then setPoison s (.side core a row (j / 2)) true
    else s) s

/-- The values of a held step's row. -/
def HeldStep.vals (h : HeldStep) : List FVal := scaled (!h.scales.isEmpty) (h.arow.map (elemVal h.afmt)) h.scales

/-- Replay the held steps of a core's entries that name a site, in the order they were held (R192). -/
def replayCore (k : SiteKey) (s : State) (core : Nat) : State :=
  let c := getCore s core
  let named := fun (b : Nat) => match smGet c.bind b with | some x => x.key == k && x.st == .resident | none => false
  let go := c.held.filter fun h => named h.entry
  let s := modCore s core fun c => { c with held := c.held.filter fun h => !named h.entry }
  go.foldl (fun s h =>
    match smGet (getCore s core).bind h.entry with
    | some b => sideRow s core h.acc h.row b (h.k0 + h.kpos) h.vals h.bad
    | none => s) s

/-- The site's lines have come to a die: its entries become RESIDENT and their held steps are replayed (R318).
DEDUCED (log entry 40). -/
def landFill (s : State) (die : Nat) (k : SiteKey) (bs : List Byte) : State :=
  let n := ceilDiv bs.length 4096
  let s := modDie s die fun d =>
    { d with
      lines := (d.lines.filter fun l => l.key != k) ++ (rangeFrom 0 n).map fun i =>
        { key := k, idx := i, data := ((bs.drop (4096 * i)).take 4096 ++ List.replicate 4096 0).take 4096, used := s.cycle }
      fills := d.fills.filter fun f => f.key != k }
  let s := mapBinds s die k fun b => { b with st := .resident, fillFailed := false }
  (s.cores.filterMap fun e => if e.1 / 32 = die then some e.1 else none).foldl (replayCore k) s

/-- Rows of a core whose held group's fill has failed (R192). -/
def failCore (k : SiteKey) (c : Core) : Core :=
  let named := fun (b : Nat) => match smGet c.bind b with | some x => x.key == k && x.st != .refused | none => false
  { c with
    held := c.held.filter fun h => !named h.entry
    failed := c.failed ++ (((c.held.filter fun h => named h.entry).map fun h => 128 * h.acc + h.row).eraseDups.filter fun r => !c.failed.contains r)
    bind := c.bind.map fun b => if b.2.key == k && b.2.st == .missing then (b.1, { b.2 with fillFailed := true }) else b }

/-- A fill fails: every group bound to the site on the die fails (R318). -/
def failFill (s : State) (die : Nat) (k : SiteKey) : State :=
  let s := endFill s die k
  { s with cores := s.cores.map fun e => if e.1 / 32 == die then (e.1, failCore k e.2) else e }

/-- Find room for a site's bytes and put them on a die, or fail (R318). -/
def fillWith (s : State) (die : Nat) (k : SiteKey) (bs : List PB) : State :=
  if anyBad bs then failFill s die k
  else
    let n := ceilDiv bs.length 4096
    let have_ := (linesOf (getDie s die) k).length
    match makeRoom die k (n - have_) ((getDie s die).lines.length + 1) s with
    | some s => landFill s die k (bytesOf bs)
    | none => failFill s die k

/-- The bytes of a version's site. -/
def siteRun (s : State) (v : VRec) (site : Nat) : List PB :=
  let i := verInfo s v
  let x := verSite i site
  let (a, b) := siteSpan i.ffmt i.fscl (2 ^ i.rank) x.aoff x.boff x.kd x.nd
  runBytes s v a (b - a)

/-- The home of a site's handle: its entry's, or as a binding entry of the die or an admission knows it. -/
def siteHome (s : State) (die : Nat) (k : SiteKey) : Nat :=
  match entryOf s k.part k.handle, bindsOf s die k with
  | some e, _ => e.home
  | none, b :: _ => b.home
  | none, [] => ((s.admissions.find? fun e => e.2.part == k.part && e.2.handle == k.handle && e.2.ver == k.ver).map (·.2.home)).getD 0x1FFF

/-- A replica asks the home of a site for its bytes, once there is room for them, which it keeps (R318, R319). -/
def askHome (s : State) (die : Nat) (k : SiteKey) (n p : Nat) : State :=
  match makeRoom die k (n - (linesOf (getDie s die) k).length) ((getDie s die).lines.length + 1) s with
  | none => failFill s die k
  | some s => sendRecord (modFill s die k fun f => { f with asked := true }) k.part p k.tenant 2 (.slab s.ownPeer die k)

/-- HERBARIUM_FILL: a running fill reads its site at its homes and lands, or fails; on a replica it asks the home
(R318, R319). -/
def runHerbFill (s : State) (die : Nat) (k : SiteKey) : State :=
  match (getDie s die).fills.find? fun f => f.key == k with
  | none => s
  | some f =>
    let home := siteHome s die k
    if home ≠ 0x1FFF then
      match peerCheck s die k.part home with
      | none => failFill s die k
      | some p => if f.asked then s else askHome s die k f.lines p
    else
      match (entryOf s k.part k.handle).bind fun e => recOf e k.ver with
      | some v => fillWith s die k (siteRun s v k.site)
      | none => failFill s die k

end Sys2Proof.Machine
end

