-- ==== Sys2Proof/Machine/VecOps.lean ====
section
/-! DEFINITION. The vector unit's operands: descriptors, guards, queue operands with their waits, traps and halts,
element views, stochastic draws and destination rows (02 R30 to R35, 04 R98 to R102, 05 R117, 06 R150 to R152). -/

namespace Sys2Proof.Machine

-- Rows and elements (R10, R30, R32).

/-- A row of a block, as a number of 1,024 bits. -/
def rowOf (b : Block) (r : Nat) : Nat := natField b.toNat (1024 * r) 1024
/-- A block with a row replaced. -/
def setRow (b : Block) (r v : Nat) : Block := BitVec.ofNat 16384 (putField b.toNat (1024 * r) 1024 v)
/-- A row of a mask: 128 bits. -/
def maskRow (k : KMask) (r : Nat) : Nat := natField k.toNat (128 * r) 128
/-- A mask with a row replaced. -/
def setMaskRow (k : KMask) (r v : Nat) : KMask := BitVec.ofNat 2048 (putField k.toNat (128 * r) 128 v)

/-- The geometry of an operand: row stride, row offset, column in 2-byte units (R32). -/
structure Geo where
  stride : Nat
  row : Nat
  col : Nat
  deriving DecidableEq, Repr

/-- Row strides by their code (R32). -/
def strideOf (code : BitVec 3) : Nat :=
  match code.toNat with
  | 0 => 1
  | 1 => 2
  | 2 => 4
  | 3 => 8
  | _ => 0

/-- Register row of operand row i. -/
def Geo.rowAt (g : Geo) (i : Nat) : Nat := (g.row + i * g.stride) % 16
/-- Bit position in a row of element j of `w` bits. -/
def Geo.bitPos (g : Geo) (w j : Nat) : Nat := (16 * g.col + j * w) % 1024
/-- A whole block with zero offsets. -/
def plainGeo : Geo := { stride := 1, row := 0, col := 0 }

/-- A source operand: rows of a block, or one value for every element. -/
inductive Src where
  | rows (b : Block) (g : Geo)
  | splat (v : Nat)

/-- Element j of row i at `w` bits. -/
def Src.elem (x : Src) (w i j : Nat) : Nat :=
  match x with
  | .rows b g => natField (rowOf b (g.rowAt i)) (g.bitPos w j) w
  | .splat v => v % 2 ^ w

/-- Bits of an element of a type (R30). -/
def tyBits (ty : BitVec 3) : Nat := 8 * elemBytes ty
/-- An immediate of class 0b11 at an element type (R32). DEDUCED (log entry 34). -/
def immBits (ty : BitVec 3) (v : Nat) : Nat :=
  match ty.toNat with
  | 2 => intBits 32 (signedOf 16 v)
  | 7 => v % 65536 * 65536
  | _ => v
/-- imm21 of a VI form at an element type (R33, R155). -/
def imm21Bits (ty : BitVec 3) (imm : BitVec 21) : Nat :=
  if ty.toNat < 3 then intBits (tyBits ty) (signedOf 21 imm.toNat) else immBits ty (imm.toNat % 65536)

-- Registers (R10, R32).

def vget (c : Ctx) (v : Nat) : Block := smGetD c.v v 0
def vset (c : Ctx) (v : Nat) (b : Block) : Ctx := { c with v := smSet c.v v b 0 }
def kget (c : Ctx) (k : Nat) : KMask := smGetD c.k k 0
def kset (c : Ctx) (k : Nat) (m : KMask) : Ctx := { c with k := smSet c.k k m 0 }
/-- The rotating register of an index (R32). -/
def rotReg (c : Ctx) (i : Nat) : Nat := 32 + (i + fld c.xrrb 0 5) % 32

/-- The register and geometry of a register descriptor. -/
def descReg (c : Ctx) (d : Desc) : Option (Nat × Geo) :=
  match d with
  | .vreg i st r col => some (i.toNat, { stride := strideOf st, row := r.toNat, col := col.toNat })
  | .rot i st r col => some (rotReg c i.toNat, { stride := strideOf st, row := r.toNat, col := col.toNat })
  | _ => none
/-- The handle of a queue descriptor. -/
def descQueue (d : Desc) : Option Nat :=
  match d with
  | .queue q => some q.toNat
  | _ => none

-- Guards (R34).

/-- The rows that a guard enables, as 16 bits; a scalar guard enables all or none. -/
def guardRows (c : Ctx) (g : Guard) : Nat :=
  let w := sread c g.reg
  if g.gk then (if g.neg then 65535 - fld w g.bit.toNat 16 else fld w g.bit.toNat 16)
  else if bitAt w g.bit.toNat != g.neg then 65535 else 0

-- Queue operands (R35, R98, R100).

/-- What a word finds at a queue: it may go on, waits, traps QERR, or takes its engine's halt. -/
inductive QFate where
  | go
  | wait
  | qerr
  | halt (t : Trap)
  deriving DecidableEq, Repr

/-- Reading `need` blocks of a handle (R98, R100): a block that the engine has still to fetch again is waited for, though
the engine is halted at a later one (R99). -/
def readFate (c : Ctx) (q need : Nat) : QFate :=
  match smGet c.q q with
  | some (.data n bs) =>
    if n = 2 then .qerr
    else if need ≤ bs.length then .go
    else
      let e := engOf c n
      match e.st with
      | .idle => .qerr
      | .halted =>
        if e.cause = 0 then .qerr else if e.redoNum.isNone && e.redo.any (fun x => x.1 == q) then .wait else .halt (engTrap n e)
      | _ => .wait
  | _ => .qerr
/-- Writing one block to a handle (R98, R100). -/
def writeFate (c : Ctx) (q : Nat) : QFate :=
  match smGet c.q q with
  | some (.data n bs) =>
    if n ≠ 2 then .qerr
    else if bs.length < 4 then .go
    else
      let e := engOf c n
      if e.st = .halted ∧ e.cause ≠ 0 then .halt (engTrap n e) else .wait
  | _ => .qerr

/-- The first block of a queue, and the rest left in it. -/
def popBlock (c : Ctx) (q : Nat) : QBlock × Ctx :=
  match smGet c.q q with
  | some (.data n (b :: bs)) => (b, setBlocks c q n bs)
  | _ => ({ data := 0 }, c)
/-- Enter a block into a write queue. -/
def pushBlock (c : Ctx) (q : Nat) (b : QBlock) : Ctx :=
  match smGet c.q q with
  | some (.data n bs) => setBlocks c q n (bs ++ [{ b with loop := if loopActive c then c.loopNo else 0 }])
  | _ => c

/-- The scalar guard of a word is off (R34). -/
def wordOff (c : Ctx) (g : Guard) : Bool := !g.gk && guardRows c g == 0

/-- What a word finds at a queue, by the blocks that it needs: 0 for a queue that it writes. -/
def fateOf (c : Ctx) (x : Nat × Nat) : QFate := if x.2 = 0 then writeFate c x.1 else readFate c x.1 x.2

/-- The engine faults among fates, the lowest counter code first (R330). -/
def lowestHalt : List QFate → Option Trap
  | [] => none
  | .halt t :: fs =>
    (match lowestHalt fs with
     | some u => some (if t.src ≤ u.src then t else u)
     | none => some t)
  | _ :: fs => lowestHalt fs

/-- The queues of a word, with what it needs of each: deferred faults come first, the lowest counter code ahead, then QERR,
then the wait (R330). A word that is guarded off, be it in all its rows, raises no QERR: it takes its draws, which `off` says,
takes no block and retires (R35, R117, R206). DEDUCED (log entry 25). -/
def queueGate (h : VHead) (off : Ctx → Ctx) (qs : List (Nat × Nat)) (s : State) (k : State → Out) : Out :=
  match lowestHalt (qs.map (fateOf (me s))) with
  | some t => trapNext t s
  | none =>
    match qs.find? fun x => fateOf (me s) x == .qerr with
    | some x => if guardRows (me s) h.guard = 0 then .next (retire h.e 12 (onMe s off)) else trapNext { cause := 7, va := natW x.1 } s
    | none => if qs.any (fun x => fateOf (me s) x == .wait) then .next (waitHere (.dataQueue qs) s) else k s

/-- What the source queues of a word need: a second use of a queue needs a second block (R100). -/
def readNeeds : List Nat → List Nat → List (Nat × Nat)
  | _, [] => []
  | seen, q :: qs => (q, 1 + seen.count q) :: readNeeds (q :: seen) qs

/-- A stall on data queues is over: the word can go on, or has a trap to take (R98, R100). -/
def queuesOpen (c : Ctx) (qs : List (Nat × Nat)) : Bool :=
  qs.any (fun x => match fateOf c x with | .halt _ => true | .qerr => true | _ => false) || qs.all fun x => fateOf c x == .go

-- Poisoned operands (R347).

/-- A register's rows hold poison. -/
def vregBad (s : State) (v : Nat) (g : Geo) : Bool :=
  !s.poison.isEmpty &&
    s.poison.any fun p =>
      match p with
      | .vreg cl w r _ => cl == clusterOf s.cur && w == v && (rangeFrom 0 16).any fun i => g.rowAt i == r
      | _ => false
/-- A mask holds poison. -/
def maskBad (s : State) (k : Nat) : Bool :=
  !s.poison.isEmpty && s.poison.any fun p => match p with | .kmask cl m _ _ => cl == clusterOf s.cur && m == k | _ => false
/-- A block of a queue, counted from its head, holds poison. -/
def blockBad (s : State) (q i : Nat) : Bool :=
  match (qblocks (me s) q)[i]? with
  | some b => !b.bad.isEmpty
  | none => false
/-- A descriptor's source is poisoned, with the block at the head of its queue. -/
def descBad (s : State) (d : Desc) : Bool :=
  match d with
  | .sreg i => srcBad s i
  | .queue q => blockBad s q.toNat 0
  | .imm _ => false
  | _ =>
    match descReg (me s) d with
    | some (v, g) => vregBad s v g
    | none => false

/-- Some source of a word is poisoned: the second use of a queue reads its second block (R100, R347). -/
def srcsBad (s : State) : List Desc → Bool
  | [.queue p, .queue q] => blockBad s p.toNat 0 || blockBad s q.toNat (if p = q then 1 else 0)
  | ds => ds.any (descBad s)

/-- An 8-byte unit of a row is wholly overwritten by elements of `w` bits. -/
def unitWritten (g : Geo) (w unit : Nat) (els : List (Nat × Nat)) : Bool :=
  decide (64 ≤ w * (els.filter fun e => g.bitPos w e.1 / 64 == unit).length)
/-- The units of a register that the enabled rows' elements overwrite whole hold good data. -/
def cleanRows (s : State) (v : Nat) (g : Geo) (w mask : Nat) (f : Nat → List (Nat × Nat)) : State :=
  if s.poison.isEmpty then s
  else { s with poison := s.poison.filter fun p =>
    match p with
    | .vreg cl u r n =>
      !(cl == clusterOf s.cur && u == v &&
        (rangeFrom 0 16).any fun i => natBit mask i && g.rowAt i == r && unitWritten g w n (f i))
    | _ => true }

/-- A source operand is read in full; a queue gives up its block (R102, R150). -/
def takeSrc (ty : BitVec 3) (c : Ctx) (d : Desc) : Src × Ctx :=
  match d with
  | .queue q => let (b, c) := popBlock c q.toNat; (.rows b.data plainGeo, c)
  | .sreg i => (.splat (sread c i).toNat, c)
  | .imm v => (.splat (immBits ty v.toNat), c)
  | _ =>
    match descReg c d with
    | some (v, g) => (.rows (vget c v) g, c)
    | none => (.splat 0, c)

-- Draws (R117).

/-- The next `n` draws of a generator state. -/
def drawsGo : Nat → BitVec 32 → List Nat × BitVec 32
  | 0, v => ([], v)
  | n + 1, v =>
    let v := drawStep v
    let (ds, w) := drawsGo n v
    (v.toNat :: ds, w)
/-- A word rounds with SR (R117). -/
def usesSr (c : Ctx) (rnd : BitVec 2) : Bool := rnd == 2 || (rnd == 3 && rmCode c == 4)
/-- The rounding mode code of a vector word: 4 is SR (R30, R116). -/
def rndCode (c : Ctx) (rnd : BitVec 2) : Nat :=
  match rnd.toNat with
  | 0 => 0
  | 1 => 1
  | 2 => 4
  | _ => rmCode c
/-- The draws of a word that rounds, one for every element of its view, and the generator's new state (R117).
DEDUCED (log entry 25). -/
def wordDraws (c : Ctx) (h : VHead) : List Nat × Ctx :=
  if usesSr c h.rnd then
    let (ds, v) := drawsGo (16 * viewElems h.ty) (BitVec.ofNat 32 (fld c.xseed 0 32))
    (ds, { c with xseed := setFld c.xseed 0 32 v.toNat })
  else ([], c)

/-- The format register or the generator state that a rounding word reads is poisoned (R30, R117, R347). -/
def modeBad (s : State) (rnd : BitVec 2) : Bool :=
  !s.poison.isEmpty && ((rnd == 3 && isPoison s (.xreg s.cur 0x18)) || (usesSr (me s) rnd && isPoison s (.xreg s.cur 0x19)))

-- Results.

/-- What an element function reads: sources by row and element at their width, the destination's old element, and the
rounding mode with the draw of a position. -/
structure VIn where
  n : Nat
  a : Src
  b : Src
  d : Src
  mode : Nat → Nat → Mode

/-- Put elements of `w` bits into a row. -/
def putElems (g : Geo) (w : Nat) (row : Nat) (els : List (Nat × Nat)) : Nat :=
  els.foldl (fun row e => putField row (g.bitPos w e.1) w e.2) row

/-- Write the enabled rows of a block in ascending order (R150). -/
def writeBlockRows (g : Geo) (w mask : Nat) (f : Nat → List (Nat × Nat)) : Nat → Nat → Block → Block
  | 0, _, b => b
  | k + 1, i, b =>
    let b := if natBit mask i then setRow b (g.rowAt i) (putElems g w (rowOf b (g.rowAt i)) (f i)) else b
    writeBlockRows g w mask f k (i + 1) b

/-- A vector word with a block destination: checks in the order of R330, queues, poison, draws, then the rows that `f`
gives for enabled rows, each as (element, bits) at `w` bits (R24, R35, R150, R330). -/
def vecWord (i : Instr) (h : VHead) (rounds : Bool) (srcs : List Desc) (dst : Desc) (sty : BitVec 3) (w : Nat)
    (extraBad : State → Bool) (f : Ctx → VIn → Nat → List (Nat × Nat)) (s : State) : Out :=
  fullOnly i s fun s =>
    let c := me s
    let qs := srcs.filterMap descQueue
    let needs := readNeeds [] qs ++ (match descQueue dst with | some q => [(q, 0)] | none => [])
    let draws := fun (c : Ctx) => if rounds then wordDraws c h else ([], c)
    queueGate h (fun c => (draws c).2) needs s fun s =>
      let mask := guardRows c h.guard
      if srcBad s h.guard.reg || (mask != 0 && (srcsBad s srcs || extraBad s || (rounds && modeBad s h.rnd))) then
        trapNext { cause := 6 } s
      else
        let (a, c) := match srcs with | x :: _ => takeSrc sty c x | [] => (.splat 0, c)
        let (b, c) := match srcs with | _ :: y :: _ => takeSrc sty c y | _ => (.splat 0, c)
        let (ds, c) := draws c
        let code := rndCode c h.rnd
        let n := viewElems h.ty
        let md := fun i j => modeOf code ((ds[i * n + j]?).getD 0)
        match descReg c dst with
        | some (v, g) =>
          let vin : VIn := { n := n, a := a, b := b, d := .rows (vget c v) g, mode := md }
          let c := vset c v (writeBlockRows g w mask (f c vin) 16 0 (vget c v))
          .next (retire h.e 12 (cleanRows (onMe s fun _ => c) v g w mask (f c vin)))
        | none =>
          match descQueue dst with
          | some q =>
            if mask = 0 ∧ h.guard.gk = false then
              .next (retire h.e 12 (onMe s fun _ => pushBlock c q { data := 0, rows := 0, skipped := true }))
            else
              let (k, s) := draw s
              let base := Config.freeBlock k
              let vin : VIn := { n := n, a := a, b := b, d := .rows base plainGeo, mode := md }
              .next (retire h.e 12 (onMe s fun _ =>
                pushBlock c q { data := writeBlockRows plainGeo w mask (f c vin) 16 0 base, rows := BitVec.ofNat 16 mask }))
          | none => illopOf i s

/-- Every element of a row from the sources' elements at one width. -/
def mapRow (w : Nat) (f : Mode → Nat → Nat → Nat → Nat) (vin : VIn) (i : Nat) : List (Nat × Nat) :=
  (rangeFrom 0 vin.n).map fun j => (j, f (vin.mode i j) (vin.a.elem w i j) (vin.b.elem w i j) (vin.d.elem w i j))

/-- A V3 element-wise word of two sources (R150, R153). -/
def elem3 (i : Instr) (rounds : Bool) (x : V3) (f : Mode → Nat → Nat → Nat → Nat) (s : State) : Out :=
  vecWord i x.h rounds [x.a, x.b] x.d x.h.ty (tyBits x.h.ty) (fun _ => false) (fun _ => mapRow (tyBits x.h.ty) f) s
/-- A V3 element-wise word of one source. -/
def elem2 (i : Instr) (rounds : Bool) (x : V2) (f : Mode → Nat → Nat) (s : State) : Out :=
  vecWord i x.h rounds [x.a] x.d x.h.ty (tyBits x.h.ty) (fun _ => false) (fun _ => mapRow (tyBits x.h.ty) fun m a _ _ => f m a) s
/-- A VI element-wise word with its immediate as operand b (R155). -/
def elemI (i : Instr) (rounds : Bool) (x : VI) (f : Mode → Nat → Nat → Nat) (s : State) : Out :=
  vecWord i x.h rounds [x.a] x.d x.h.ty (tyBits x.h.ty) (fun _ => false)
    (fun _ => mapRow (tyBits x.h.ty) fun m a _ _ => f m a (imm21Bits x.h.ty x.imm % 2 ^ tyBits x.h.ty)) s

-- Element arithmetic (R151, R153, R154).

/-- The floating format of a type code, none for integers. -/
def floatTy (ty : BitVec 3) : Option FloatFmt :=
  match ty.toNat with
  | 3 => some e4m3
  | 4 => some e5m2
  | 5 => some fp16
  | 6 => some bf16
  | 7 => some fp32
  | _ => none

/-- An integer result: modulo 2^width, or clamped with saturation. -/
def intRes (w : Nat) (sat : Bool) (i : Int) : Nat := if sat then intBits w (clampInt w i) else intBits w i

/-- Arithmetic of two operands: integer or floating by the type (R151). -/
def arith2 (ty : BitVec 3) (sat : Bool) (fi : Int → Int → Int) (ff : Mode → FVal → FVal → FVal) (m : Mode) (a b : Nat) : Nat :=
  match floatTy ty with
  | some f => roundFloat f sat m (ff m (decodeFloat f a) (decodeFloat f b))
  | none => intRes (tyBits ty) sat (fi (signedOf (tyBits ty) a) (signedOf (tyBits ty) b))

def addE (ty : BitVec 3) (sat : Bool) (m : Mode) (a b : Nat) : Nat :=
  arith2 ty sat (· + ·) (fun m x y => addV (isRdn m) x y) m a b
def subE (ty : BitVec 3) (sat : Bool) (m : Mode) (a b : Nat) : Nat :=
  arith2 ty sat (· - ·) (fun m x y => addV (isRdn m) x y.negate) m a b
def mulE (ty : BitVec 3) (sat : Bool) (m : Mode) (a b : Nat) : Nat := arith2 ty sat (· * ·) (fun _ x y => mulV x y) m a b
def divE (ty : BitVec 3) (sat : Bool) (m : Mode) (a b : Nat) : Nat := arith2 ty sat (fun _ _ => 0) (fun _ x y => divV x y) m a b
/-- d ± a × b with one rounding; floating types only (R153). -/
def fmaE (ty : BitVec 3) (sat minus : Bool) (m : Mode) (a b d : Nat) : Nat :=
  match floatTy ty with
  | some f =>
    let p := mulV (decodeFloat f a) (decodeFloat f b)
    roundFloat f sat m (addV (isRdn m) (decodeFloat f d) (if minus then p.negate else p))
  | none => 0
def minE (ty : BitVec 3) (a b : Nat) : Nat := arith2 ty false min (fun _ x y => minV x y) .rne a b
def maxE (ty : BitVec 3) (a b : Nat) : Nat := arith2 ty false max (fun _ x y => maxV x y) .rne a b
/-- One operand: integer or floating by the type. -/
def arith1 (ty : BitVec 3) (sat : Bool) (fi : Int → Int) (ff : FVal → FVal) (a : Nat) : Nat :=
  match floatTy ty with
  | some f => roundFloat f sat .rne (ff (decodeFloat f a))
  | none => intRes (tyBits ty) sat (fi (signedOf (tyBits ty) a))
/-- VSHL (R154). -/
def shlE (ty : BitVec 3) (sat : Bool) (a c : Nat) : Nat :=
  let w := tyBits ty
  if c < w then intRes w sat (signedOf w a * 2 ^ c)
  else if sat then intRes w true (signedOf w a * 2 ^ w) else 0
/-- VSHR (R154). -/
def shrE (ty : BitVec 3) (a c : Nat) : Nat := if c < tyBits ty then a / 2 ^ c else 0
/-- VSRA (R154). -/
def sraE (ty : BitVec 3) (a c : Nat) : Nat :=
  let w := tyBits ty
  intBits w (signedOf w a / 2 ^ (min c w))

end Sys2Proof.Machine
end

