-- ==== Sys2Proof/Machine/Vector.lean ====
section
/-! DEFINITION. The vector words (06 R150 to R166) and the queue words QADV, QCLR and QFLUSH (04 R101). -/

namespace Sys2Proof.Machine

-- Arithmetic and logic (R153).

/-- Words whose floating results are rounded draw under SR; integer ones do not round (R117). -/
def drawsFor (ty : BitVec 3) : Bool := isFloatTy ty

def execVadd (w : V3) (s : State) : Out := elem3 (.vadd w) (drawsFor w.h.ty) w (fun m a b _ => addE w.h.ty w.sat m a b) s
def execVsub (w : V3) (s : State) : Out := elem3 (.vsub w) (drawsFor w.h.ty) w (fun m a b _ => subE w.h.ty w.sat m a b) s
def execVmul (w : V3) (s : State) : Out := elem3 (.vmul w) (drawsFor w.h.ty) w (fun m a b _ => mulE w.h.ty w.sat m a b) s

/-- VFMA and VFMS read their destination too: a queue there is ILLOP, poison in it UCE (R153, R347). -/
def vecFma (i : Instr) (minus : Bool) (w : V3) (s : State) : Out :=
  if w.d.isQueue then illopOf i s
  else
    vecWord i w.h true [w.a, w.b] w.d w.h.ty (tyBits w.h.ty) (fun s => descBad s w.d)
      (fun _ => mapRow (tyBits w.h.ty) fun m a b d => fmaE w.h.ty w.sat minus m a b d) s
def execVfma (w : V3) (s : State) : Out := vecFma (.vfma w) false w s
def execVfms (w : V3) (s : State) : Out := vecFma (.vfms w) true w s

def execVmin (w : V3) (s : State) : Out := elem3 (.vmin w) false w (fun _ a b _ => minE w.h.ty a b) s
def execVmax (w : V3) (s : State) : Out := elem3 (.vmax w) false w (fun _ a b _ => maxE w.h.ty a b) s
def execVabs (w : V2) (s : State) : Out :=
  elem2 (.vabs w) false w (fun _ a => arith1 w.h.ty w.sat (fun i => i.natAbs) FVal.absV a) s
def execVneg (w : V2) (s : State) : Out := elem2 (.vneg w) false w (fun _ a => arith1 w.h.ty w.sat (fun i => -i) FVal.negate a) s
def execVmov (w : V2) (s : State) : Out := elem2 (.vmov w) false w (fun _ a => a) s
def execVdiv (w : V3) (s : State) : Out := elem3 (.vdiv w) true w (fun m a b _ => divE w.h.ty w.sat m a b) s
def execVmulh (w : V3) (s : State) : Out :=
  elem3 (.vmulh w) false w
    (fun _ a b _ => intBits (tyBits w.h.ty) (signedOf (tyBits w.h.ty) a * signedOf (tyBits w.h.ty) b / 2 ^ tyBits w.h.ty)) s
def execVminu (w : V3) (s : State) : Out := elem3 (.vminu w) false w (fun _ a b _ => min a b) s
def execVmaxu (w : V3) (s : State) : Out := elem3 (.vmaxu w) false w (fun _ a b _ => max a b) s
def execVand (w : V3) (s : State) : Out := elem3 (.vand w) false w (fun _ a b _ => a &&& b) s
def execVor (w : V3) (s : State) : Out := elem3 (.vor w) false w (fun _ a b _ => a ||| b) s
def execVxor (w : V3) (s : State) : Out := elem3 (.vxor w) false w (fun _ a b _ => a ^^^ b) s
def execVandn (w : V3) (s : State) : Out := elem3 (.vandn w) false w (fun _ a b _ => a - (a &&& b)) s
def execVnot (w : V2) (s : State) : Out := elem2 (.vnot w) false w (fun _ a => 2 ^ tyBits w.h.ty - 1 - a) s

-- Shifts (R154).

def execVshl (w : V3) (s : State) : Out := elem3 (.vshl w) false w (fun _ a c _ => shlE w.h.ty w.sat a c) s
def execVshr (w : V3) (s : State) : Out := elem3 (.vshr w) false w (fun _ a c _ => shrE w.h.ty a c) s
def execVsra (w : V3) (s : State) : Out := elem3 (.vsra w) false w (fun _ a c _ => sraE w.h.ty a c) s

-- Immediate forms (R155).

def execVaddi (w : VI) (s : State) : Out := elemI (.vaddi w) (drawsFor w.h.ty) w (fun m a b => addE w.h.ty w.sat m a b) s
def execVmuli (w : VI) (s : State) : Out := elemI (.vmuli w) (drawsFor w.h.ty) w (fun m a b => mulE w.h.ty w.sat m a b) s
def execVmini (w : VI) (s : State) : Out := elemI (.vmini w) false w (fun _ a b => minE w.h.ty a b) s
def execVmaxi (w : VI) (s : State) : Out := elemI (.vmaxi w) false w (fun _ a b => maxE w.h.ty a b) s
def execVshli (w : VI) (s : State) : Out := elemI (.vshli w) false w (fun _ a _ => shlE w.h.ty w.sat a w.imm.toNat) s
def execVshri (w : VI) (s : State) : Out := elemI (.vshri w) false w (fun _ a _ => shrE w.h.ty a w.imm.toNat) s
def execVsrai (w : VI) (s : State) : Out := elemI (.vsrai w) false w (fun _ a _ => sraE w.h.ty a w.imm.toNat) s
def execVmovi (w : VM) (s : State) : Out :=
  vecWord (.vmovi w) w.h false [] w.d w.h.ty (tyBits w.h.ty) (fun _ => false)
    (fun _ => mapRow (tyBits w.h.ty) fun _ _ _ _ => imm21Bits w.h.ty w.imm % 2 ^ tyBits w.h.ty) s

-- Compares (R156, R157).

/-- The conditions of the vector compares. -/
inductive VCond where
  | rel (r : Rel)
  | un
  | ltu
  | leu
  deriving DecidableEq, Repr

/-- cond(x, y) of two elements of a type. -/
def VCond.holds (c : VCond) (ty : BitVec 3) (x y : Nat) : Bool :=
  match c with
  | .ltu => decide (x < y)
  | .leu => decide (x ≤ y)
  | .un =>
    (match floatTy ty with
     | some f => unordered (decodeFloat f x) (decodeFloat f y)
     | none => false)
  | .rel r =>
    match floatTy ty with
    | some f => relF r (decodeFloat f x) (decodeFloat f y)
    | none => r.holds (compare (signedOf (tyBits ty) x) (signedOf (tyBits ty) y))
/-- Neither element is a NaN. -/
def ordered (ty : BitVec 3) (x y : Nat) : Bool :=
  match floatTy ty with
  | some f => !unordered (decodeFloat f x) (decodeFloat f y)
  | none => true

/-- Rows of a 16-bit number for which a test holds. -/
def rowBits (f : Nat → Bool) : Nat := (rangeFrom 0 16).foldl (fun n i => if f i then n + 2 ^ i else n) 0

/-- The row bits kept where a row is off, and the new ones where it is on. -/
def mixRows (mask old new : Nat) : Nat := rowBits fun i => if natBit mask i then natBit new i else natBit old i

/-- Write a VC destination's enabled rows (R33, R156). -/
def putRowBits (mask : Nat) (r : SReg) (pos bits : Nat) (c : Ctx) : Ctx :=
  writeRowBits r pos (mixRows mask (fld (sread c r) pos 16) bits) c

/-- The sources of a word without a block destination: queues and poison first, then both are read (R100, R330). -/
def readSources (i : Instr) (h : VHead) (a b : Desc) (extraBad : State → Bool) (s : State) (k : Nat → Src → Src → State → Out) : Out :=
  fullOnly i s fun s =>
    queueGate h (fun c => c) (readNeeds [] ([a, b].filterMap descQueue)) s fun s =>
      let mask := guardRows (me s) h.guard
      if srcBad s h.guard.reg || (mask != 0 && (srcsBad s [a, b] || extraBad s)) then trapNext { cause := 6 } s
      else
        let (x, c) := takeSrc h.ty (me s) a
        let (y, c) := takeSrc h.ty c b
        k mask x y (onMe s fun _ => c)

/-- A VCMP word: destination A holds the condition, B the ordered opposite; B is written after A (R156). -/
def vcmpWord (i : Instr) (w : VC) (cond : VCond) (s : State) : Out :=
  readSources i w.h w.a w.b (fun s => srcBad s w.regA || srcBad s w.regB) s fun mask x y s =>
    let el := fun (src : Src) (r : Nat) => src.elem (tyBits w.h.ty) r 0
    let a := rowBits fun r => cond.holds w.h.ty (el x r) (el y r)
    let b := rowBits fun r => ordered w.h.ty (el x r) (el y r) && !cond.holds w.h.ty (el x r) (el y r)
    .next (retire w.h.e 12 (onMe s fun c => putRowBits mask w.regB w.bitBPos b (putRowBits mask w.regA w.bitA.toNat a c)))

def execVcmpEq (w : VC) (s : State) : Out := vcmpWord (.vcmpEq w) w (.rel .eq) s
def execVcmpNe (w : VC) (s : State) : Out := vcmpWord (.vcmpNe w) w (.rel .ne) s
def execVcmpLt (w : VC) (s : State) : Out := vcmpWord (.vcmpLt w) w (.rel .lt) s
def execVcmpLe (w : VC) (s : State) : Out := vcmpWord (.vcmpLe w) w (.rel .le) s
def execVcmpGt (w : VC) (s : State) : Out := vcmpWord (.vcmpGt w) w (.rel .gt) s
def execVcmpGe (w : VC) (s : State) : Out := vcmpWord (.vcmpGe w) w (.rel .ge) s
def execVcmpUn (w : VC) (s : State) : Out := vcmpWord (.vcmpUn w) w .un s
def execVcmpLtu (w : VC) (s : State) : Out := vcmpWord (.vcmpLtu w) w .ltu s
def execVcmpLeu (w : VC) (s : State) : Out := vcmpWord (.vcmpLeu w) w .leu s

/-- Write the enabled rows of a mask from their bits. -/
def writeMaskRows (mask : Nat) (f : Nat → Nat) (k : KMask) : KMask :=
  (rangeFrom 0 16).foldl (fun k i => if natBit mask i then setMaskRow k i (f i) else k) k

/-- Mask rows that are written whole hold good data. -/
def cleanMask (s : State) (k mask : Nat) : State :=
  if s.poison.isEmpty then s
  else { s with poison := s.poison.filter fun p =>
    match p with
    | .kmask cl m r _ => !(cl == clusterOf s.cur && m == k && natBit mask r)
    | _ => true }

/-- A mask row whose elements of `w` bits have all their bits as a test says (R157). -/
def maskOf (w n : Nat) (f : Nat → Bool) : Nat :=
  (rangeFrom 0 n).foldl (fun acc j => if f j then putField acc (j * (w / 8)) (w / 8) (2 ^ (w / 8) - 1) else acc) 0

/-- Write a mask register and retire. -/
def putMask (h : VHead) (k mask : Nat) (f : Nat → Nat) (s : State) : Out :=
  .next (retire h.e 12 (cleanMask (onMe s fun c => kset c k (writeMaskRows mask f (kget c k))) k mask))

/-- A VKCMP word (R157). -/
def vkcmpWord (i : Instr) (w : VK) (cond : VCond) (s : State) : Out :=
  readSources i w.h w.a w.b (fun _ => false) s fun mask x y s =>
    let b := tyBits w.h.ty
    putMask w.h w.k.toNat mask (fun r => maskOf b (viewElems w.h.ty) fun j => cond.holds w.h.ty (x.elem b r j) (y.elem b r j)) s

def execVkcmpEq (w : VK) (s : State) : Out := vkcmpWord (.vkcmpEq w) w (.rel .eq) s
def execVkcmpNe (w : VK) (s : State) : Out := vkcmpWord (.vkcmpNe w) w (.rel .ne) s
def execVkcmpLt (w : VK) (s : State) : Out := vkcmpWord (.vkcmpLt w) w (.rel .lt) s
def execVkcmpLe (w : VK) (s : State) : Out := vkcmpWord (.vkcmpLe w) w (.rel .le) s
def execVkcmpGt (w : VK) (s : State) : Out := vkcmpWord (.vkcmpGt w) w (.rel .gt) s
def execVkcmpGe (w : VK) (s : State) : Out := vkcmpWord (.vkcmpGe w) w (.rel .ge) s
def execVkcmpUn (w : VK) (s : State) : Out := vkcmpWord (.vkcmpUn w) w .un s

-- Masks and selection (R158, R159).

/-- A mask word: each enabled row of 128 bits from the sources' rows (R158). -/
def maskWord (i : Instr) (h : VHead) (d : BitVec 3) (srcs : List (BitVec 3)) (f : Nat → Nat → Nat) (s : State) : Out :=
  fullOnly i s fun s =>
    let c := me s
    let mask := guardRows c h.guard
    if srcBad s h.guard.reg || (mask != 0 && srcs.any fun k => maskBad s k.toNat) then trapNext { cause := 6 } s
    else
      let a := kget c ((srcs.headD 0).toNat)
      let b := kget c (((srcs.drop 1).headD 0).toNat)
      putMask h d.toNat mask (fun r => f (maskRow a r) (maskRow b r)) s

def execKand (w : KB) (s : State) : Out := maskWord (.kand w) w.h w.d [w.a, w.b] (fun a b => a &&& b) s
def execKor (w : KB) (s : State) : Out := maskWord (.kor w) w.h w.d [w.a, w.b] (fun a b => a ||| b) s
def execKxor (w : KB) (s : State) : Out := maskWord (.kxor w) w.h w.d [w.a, w.b] (fun a b => a ^^^ b) s
def execKandn (w : KB) (s : State) : Out := maskWord (.kandn w) w.h w.d [w.a, w.b] (fun a b => a - (a &&& b)) s
def execKnot (w : KU) (s : State) : Out := maskWord (.knot w) w.h w.d [w.a] (fun a _ => 2 ^ 128 - 1 - a) s
def execKmov (w : KU) (s : State) : Out := maskWord (.kmov w) w.h w.d [w.a] (fun a _ => a) s

/-- VSELK: the mask bit of element j is bit j × width of its row, the width in bytes (R150, R159). -/
def execVselk (k : BitVec 3) (w : V3) (s : State) : Out :=
  let b := tyBits w.h.ty
  vecWord (.vselk k w) w.h false [w.a, w.b] w.d w.h.ty b (fun s => maskBad s k.toNat)
    (fun c x r => (rangeFrom 0 x.n).map fun j =>
      (j, if natBit (maskRow (kget c k.toNat) r) (j * (b / 8)) then x.a.elem b r j else x.b.elem b r j)) s

-- Conversions (R160, R161).

/-- The format of an element type. -/
def tyFormat (ty : BitVec 3) : Fmt :=
  match floatTy ty with
  | some f => .float f
  | none => .int (tyBits ty)

/-- The factor of a VCVT's scale mode (R160). -/
def cvtExp (w : VI) : Int := if w.cvtMode = 1 then (w.cvtScale : Int) - 127 else 127 - (w.cvtScale : Int)
/-- One converted element (R160). -/
def cvtElem (w : VI) (m : Mode) (x : Nat) : Nat :=
  let dst := tyFormat w.h.ty
  let src := tyFormat w.cvtSrc
  if w.cvtMode = 0 then convert dst src w.sat m x
  else if w.cvtScale = 255 then roundTo dst w.sat m .nan
  else roundTo dst w.sat m (mulV (decodeFmt src x) (.fin false 1 (cvtExp w)))

def execVcvt (w : VI) (s : State) : Out :=
  vecWord (.vcvt w) w.h true [w.a] w.d w.cvtSrc (tyBits w.h.ty) (fun _ => false)
    (fun _ x r => (rangeFrom 0 (min (viewElems w.cvtSrc) (viewElems w.h.ty))).map fun j =>
      (j, cvtElem w (x.mode r j) (x.a.elem (tyBits w.cvtSrc) r j))) s

/-- VPACK4 writes nibbles from nibble 4 × col of the destination on (R161). -/
def execVpack4 (w : V2) (s : State) : Out :=
  vecWord (.vpack4 w) w.h true [w.a] w.d w.h.ty 4 (fun _ => false)
    (fun _ x r => (rangeFrom 0 x.n).map fun j =>
      (j, roundFloat fp4 false (x.mode r j) (decodeFmt (tyFormat w.h.ty) (x.a.elem (tyBits w.h.ty) r j)))) s
def execVunpk4 (w : V2) (s : State) : Out :=
  vecWord (.vunpk4 w) w.h true [w.a] w.d w.h.ty (tyBits w.h.ty) (fun _ => false)
    (fun _ x r => (rangeFrom 0 x.n).map fun j =>
      (j, roundTo (tyFormat w.h.ty) false (x.mode r j) (decodeFloat fp4 (x.a.elem 4 r j)))) s

-- Axis words (R162 to R165).

/-- A word that moves elements of one source: element j of row r comes from the row and element that `at_` names. -/
def moveWord (i : Instr) (h : VHead) (d a : Desc) (at_ : Nat → Nat → Nat → Nat × Nat) (s : State) : Out :=
  let b := tyBits h.ty
  vecWord i h false [a] d h.ty b (fun _ => false)
    (fun _ x r => (rangeFrom 0 x.n).map fun j => (j, x.a.elem b (at_ x.n r j).1 (at_ x.n r j).2)) s

def execVrotr (w : VI) (s : State) : Out := moveWord (.vrotr w) w.h w.d w.a (fun n r j => (r, (j + w.imm.toNat) % n)) s
def execVrotc (w : VI) (s : State) : Out := moveWord (.vrotc w) w.h w.d w.a (fun _ r j => ((r + w.imm.toNat) % 16, j)) s
def execVbcr (w : VI) (s : State) : Out := moveWord (.vbcr w) w.h w.d w.a (fun _ r _ => (r, w.imm.toNat)) s
def execVbcc (w : VI) (s : State) : Out := moveWord (.vbcc w) w.h w.d w.a (fun _ _ j => (w.imm.toNat, j)) s

/-- The exact sum of elements, a zero sum +0 (R163). -/
def sumV (vs : List FVal) : FVal :=
  match vs.foldl (addV false) (.fin false 0 0) with
  | .fin n m e => if m = 0 then .fin false 0 0 else .fin n m e
  | v => v

/-- The reductions. -/
inductive Red where
  | add | max | min
  deriving DecidableEq, Repr

/-- A reduction of elements, rounded once (R163). -/
def reduce (r : Red) (ty : BitVec 3) (sat : Bool) (m : Mode) (xs : List Nat) : Nat :=
  match r with
  | .max => xs.tail.foldl (maxE ty) (arith1 ty false (fun i => i) (fun v => v) (xs.headD 0))
  | .min => xs.tail.foldl (minE ty) (arith1 ty false (fun i => i) (fun v => v) (xs.headD 0))
  | .add =>
    match floatTy ty with
    | some f => roundFloat f sat m (sumV (xs.map (decodeFloat f)))
    | none => intRes (tyBits ty) sat ((xs.map (signedOf (tyBits ty))).foldl (· + ·) 0)

/-- Words that round: the sums of floating types. -/
def redDraws (r : Red) (ty : BitVec 3) : Bool := r == .add && isFloatTy ty

/-- A row reduction writes element 0 of each enabled row (R163). -/
def vredrWord (i : Instr) (r : Red) (w : V2) (s : State) : Out :=
  let b := tyBits w.h.ty
  vecWord i w.h (redDraws r w.h.ty) [w.a] w.d w.h.ty b (fun _ => false)
    (fun _ x row => [(0, reduce r w.h.ty w.sat (x.mode row 0) ((rangeFrom 0 x.n).map fun j => x.a.elem b row j))]) s
/-- A column reduction writes row 0 where it is enabled (R163). -/
def vredcWord (i : Instr) (r : Red) (w : V2) (s : State) : Out :=
  let b := tyBits w.h.ty
  vecWord i w.h (redDraws r w.h.ty) [w.a] w.d w.h.ty b (fun _ => false)
    (fun _ x row =>
      if row = 0 then (rangeFrom 0 x.n).map fun j =>
        (j, reduce r w.h.ty w.sat (x.mode 0 j) ((rangeFrom 0 16).map fun k => x.a.elem b k j))
      else []) s

def execVredrAdd (w : V2) (s : State) : Out := vredrWord (.vredrAdd w) .add w s
def execVredrMax (w : V2) (s : State) : Out := vredrWord (.vredrMax w) .max w s
def execVredrMin (w : V2) (s : State) : Out := vredrWord (.vredrMin w) .min w s
def execVredcAdd (w : V2) (s : State) : Out := vredcWord (.vredcAdd w) .add w s
def execVredcMax (w : V2) (s : State) : Out := vredcWord (.vredcMax w) .max w s
def execVredcMin (w : V2) (s : State) : Out := vredcWord (.vredcMin w) .min w s

def execVxpose (w : V2) (s : State) : Out :=
  let b := tyBits w.h.ty
  vecWord (.vxpose w) w.h false [w.a] w.d w.h.ty b (fun _ => false)
    (fun _ x r => (rangeFrom 0 16).map fun j => (j, x.a.elem b j r)) s
def execVshuf (w : V3) (s : State) : Out :=
  let b := tyBits w.h.ty
  vecWord (.vshuf w) w.h false [w.a, w.b] w.d w.h.ty b (fun _ => false)
    (fun _ x r => (rangeFrom 0 x.n).map fun j => (j, x.a.elem b r (x.b.elem b r j % x.n))) s

-- Special functions (R166).

/-- A special function: the exact value rounded once. -/
def specialWord (i : Instr) (w : V2) (f : FVal → FVal) (s : State) : Out :=
  elem2 i true w (fun m a =>
    match floatTy w.h.ty with
    | some ff => roundFloat ff w.sat m (f (decodeFloat ff a))
    | none => 0) s

def execVexp2 (w : V2) (s : State) : Out := specialWord (.vexp2 w) w exp2V s
def execVlog2 (w : V2) (s : State) : Out := specialWord (.vlog2 w) w log2V s
def execVrcp (w : V2) (s : State) : Out := specialWord (.vrcp w) w (divV oneV) s
def execVrsq (w : V2) (s : State) : Out := specialWord (.vrsq w) w rsqrtV s
def execVsqrt (w : V2) (s : State) : Out := specialWord (.vsqrt w) w sqrtV s
def execVsin (w : V2) (s : State) : Out := specialWord (.vsin w) w (trigV false) s
def execVcos (w : V2) (s : State) : Out := specialWord (.vcos w) w (trigV true) s
def execVtanh (w : V2) (s : State) : Out := specialWord (.vtanh w) w tanhV s
def execVsigm (w : V2) (s : State) : Out := specialWord (.vsigm w) w sigmV s
def execVgelu (w : V2) (s : State) : Out := specialWord (.vgelu w) w geluV s
def execVsilu (w : V2) (s : State) : Out := specialWord (.vsilu w) w siluV s

-- Queue words (R101).

/-- A context whose matrix word waits tries it again. -/
def wakeMatrix (s : State) (id : Nat) : State :=
  if (getCtx s id).onMatrix then raise s [.waitSatisfied id] else s

/-- Release slots of a ring to its producer; no more than are filled (R169). DEDUCED (log entry 35). -/
def ringRelease (c : Ctx) (q n : Nat) : Ctx :=
  match smGet c.q q with
  | some (.ring slots p k f) => { c with q := smPut c.q q (.ring slots p ((k + min n f) % slots.length) (f - min n f)) }
  | _ => c

/-- QADV's count, bits [15:0] of an s register or an immediate. -/
def advCount (c : Ctx) (d : Desc) : Nat :=
  match d with
  | .imm v => v.toNat
  | .sreg i => fld (sread c i) 0 16
  | _ => 0

/-- One block of a QADV. -/
def advOne (c : Ctx) (q eng : Nat) : Ctx :=
  if eng = 2 then pushBlock c q { data := 0, rows := 0, skipped := true } else (popBlock c q).2

/-- Move up to `left` blocks while the queue lets them go: what is left, what the next one meets, and the context. -/
def advGo (q eng : Nat) : Nat → Ctx → Nat × QFate × Ctx
  | 0, c => (0, .go, c)
  | n + 1, c =>
    match (if eng = 2 then writeFate c q else readFate c q 1) with
    | .go => advGo q eng n (advOne c q eng)
    | x => (n + 1, x, c)

/-- QADV on a data queue moves its blocks one at a time; what is left stays with the word until another word executes, and
across a handler that takes it out of its wait (R101). DEDUCED (log entry 83). -/
def advData (e : Bool) (q eng count : Nat) (s : State) : Out :=
  let c := me s
  let (left, fate, c) := advGo q eng ((c.qadvLeft.map (·.2)).getD count) c
  let keep := onMe s fun _ => { c with qadvLeft := if left = 0 then none else some (c.pc, left) }
  match fate with
  | .go => .next (retire e 12 keep)
  | .wait => .next (waitHere (.dataQueue [(q, if eng = 2 then 0 else 1)]) keep)
  | .qerr => trapNext { cause := 7, va := natW q } keep
  | .halt t => trapNext t keep

/-- QADV: its guard has no effect (R101). -/
def execQadv (w : VQ) (d : Desc) (s : State) : Out :=
  fullOnly (.qadv w d) s fun s =>
    if descBad s d then trapNext { cause := 6 } s
    else
      let q := w.q.toNat
      let n := advCount (me s) d
      match smGet (me s).q q with
      | none => trapNext { cause := 7, va := natW q } s
      | some (.ring _ _ _ _) => .next (retire w.h.e 12 (wakeMatrix (onMe s fun c => ringRelease c q n) s.cur))
      | some (.data eng _) => if n = 0 then .next (retire w.h.e 12 s) else advData w.h.e q eng n s

/-- Stop a read engine and discard its delivered blocks; a halt made so carries no fault (R97, R98, R101). -/
def clearQueue (n : Nat) (c : Ctx) : Ctx :=
  let c := dropHalt (rewind c n) n
  setEng c n { engOf c n with st := .halted, cause := 0, va := 0, haltNum := none, awaits := none }

/-- The whole word's guard (R34), with its poison (R347). -/
def queueWordGuard (h : VHead) (s : State) (k : State → Out) : Out :=
  if srcBad s h.guard.reg then trapNext { cause := 6 } s
  else if guardRows (me s) h.guard = 0 then .next (retire h.e 12 s)
  else k s

def execQclr (w : VQ) (s : State) : Out :=
  fullOnly (.qclr w) s fun s =>
    queueWordGuard w.h s fun s =>
      match smGet (me s).q w.q.toNat with
      | some (.data n _) =>
        if n = 2 then trapNext { cause := 7, va := natW w.q.toNat } s
        else .next (retire w.h.e 12 (onMe s (clearQueue n)))
      | _ => trapNext { cause := 7, va := natW w.q.toNat } s

/-- The halt of the write engine that a QFLUSH of its queue meets (R98). -/
def flushHalt (c : Ctx) (q : Nat) : Option Trap :=
  match smGet c.q q with
  | some (.data 2 (_ :: _)) => if (engOf c 2).st = .halted then some (engTrap 2 (engOf c 2)) else none
  | _ => none

/-- QFLUSH waits until every entered block has been performed; a halt of the engine is delivered here, even where the word
is guarded off (R98, R101, R330). -/
def execQflush (w : VQ) (s : State) : Out :=
  fullOnly (.qflush w) s fun s =>
    let q := w.q.toNat
    match flushHalt (me s) q with
    | some t => trapNext t s
    | none =>
      queueWordGuard w.h s fun s =>
        match smGet (me s).q q with
        | some (.data n bs) =>
          if n ≠ 2 then trapNext { cause := 7, va := natW q } s
          else if bs.isEmpty then .next (retire w.h.e 12 s)
          else .next (stallHere (.flush q) s)
        | _ => trapNext { cause := 7, va := natW q } s

end Sys2Proof.Machine
end

