-- ==== Sys2Proof/Machine/Tile.lean ====
section
/-! DEFINITION. Matrix words of a stream: their slot counts, places, checks and issue, and the rings' claim and release
(07 R169 to R176, R187, R191, R193 to R195, 02 R34 to R39). -/

namespace Sys2Proof.Machine

/-- Opcodes of the matrix words (R173). -/
inductive MxKind where
  | tmma | tmmas | tzero | tacc | tepi | tbind | txpose | tsmld | tstage | tqred
  deriving DecidableEq, Repr

/-- The opcode of a kind. -/
def MxKind.code : MxKind → Nat
  | .tmma => 0
  | .tmmas => 1
  | .tzero => 2
  | .tacc => 3
  | .tepi => 4
  | .tbind => 5
  | .txpose => 6
  | .tsmld => 7
  | .tstage => 8
  | .tqred => 9

/-- A word's kind with its fields and the format entry that it has read. -/
structure MxWord where
  kind : MxKind
  w : TileW
  f : Option TFmt
  deriving DecidableEq, Repr

/-- The kind of an opcode. -/
def kindOf (op : Nat) : MxKind :=
  match op with
  | 0 => .tmma
  | 1 => .tmmas
  | 2 => .tzero
  | 3 => .tacc
  | 4 => .tepi
  | 5 => .tbind
  | 6 => .txpose
  | 7 => .tsmld
  | 8 => .tstage
  | _ => .tqred

/-- The checked format of an entry for a word (R128). -/
def wordFmt (w : TileW) (x : Word) : Option TFmt := tileFmt x.toNat w.rnd.toNat w.sat w.sparse w.side
/-- The word of an operation in flight. -/
def mxWord (o : MxOp) : MxWord := { kind := kindOf o.op, w := o.w, f := wordFmt o.w o.fte }

-- Counts (R177, R179, R181, R183 to R185).

/-- A format that a word without one is never asked for. -/
def noFormat : TFmt :=
  { afmt := 0, bfmt := 0, ascl := false, bscl := false, int := false, ofmt := 0, rnd := 0, sat := false, ffmt := 0, fscl := false,
    kept := 1, sparse := false }
/-- The format of a word. -/
def MxWord.fmt (x : MxWord) : TFmt := x.f.getD noFormat
/-- The word's level, M, N and K. -/
def MxWord.level (x : MxWord) : Nat := x.w.level.toNat
def MxWord.m (x : MxWord) : Nat := x.w.m.toNat
def MxWord.n (x : MxWord) : Nat := x.w.n.toNat
def MxWord.k (x : MxWord) : Nat := x.w.k.toNat
/-- TMMA or TMMAS. -/
def MxWord.product (x : MxWord) : Bool := x.kind == .tmma || x.kind == .tmmas
/-- Column blocks (R193). -/
def MxWord.blocks (x : MxWord) : Nat := if x.level = 2 then ceilDiv x.n 128 else 1
/-- Slots of one block of TEPI output. -/
def MxWord.outPer (x : MxWord) : Nat := ceilDiv ((if x.level = 2 then 128 else x.n) * fmtBits x.fmt.ofmt) 2048
/-- K steps of a product. -/
def MxWord.kSteps (x : MxWord) : Nat := x.fmt.steps x.k
/-- Steps of the word at the array: K steps, or one for each slot of TACC and TEPI. -/
def MxWord.steps (x : MxWord) : Nat :=
  match x.kind with
  | .tmma => x.kSteps
  | .tmmas => x.kSteps
  | .tacc => ceilDiv x.n 64
  | .tepi => x.blocks * x.outPer + bitNat x.w.ovf
  | _ => 1

/-- Slots of A, B and scales that a step of a product takes. -/
def MxWord.aCount (x : MxWord) : Nat := if x.kind = .tmmas then 2 else 1
def MxWord.bCount (x : MxWord) (st : Nat) : Nat := if x.fmt.vq && st % 4 != 0 then 0 else x.blocks
def MxWord.sCount (x : MxWord) : Nat := bitNat (x.fmt.ascl || x.fmt.bscl)
/-- B slots that the first `st` steps take. -/
def MxWord.bTaken (x : MxWord) (st : Nat) : Nat := x.blocks * (if x.fmt.vq then ceilDiv st 4 else st)

/-- A value where a word's field names a ring. -/
def onRing (r : BitVec 4) (q n : Nat) : Nat := if r.toNat = q then n else 0

/-- Slots of a ring that the first `st` steps of a word consume. -/
def MxWord.taken (x : MxWord) (q st : Nat) : Nat :=
  match x.kind with
  | .tmma => onRing x.w.aRing q (st * x.aCount) + onRing x.w.bRing q (x.bTaken st) + onRing x.w.scl q (st * x.sCount)
  | .tmmas => onRing x.w.aRing q (st * x.aCount) + onRing x.w.bRing q (x.bTaken st) + onRing x.w.scl q (st * x.sCount)
  | .tacc => onRing x.w.aRing q st
  | .tbind => onRing x.w.aRing q st
  | .txpose => onRing x.w.aRing q st
  | .tsmld => onRing x.w.aRing q st
  | _ => 0

/-- The slot of block `j` of B at a step, counted in the order in which the word reads its ring. -/
def MxWord.bIndex (x : MxWord) (st j : Nat) : Nat :=
  let t := if x.fmt.vq then st / 4 * 4 else st
  x.taken x.w.bRing.toNat t + onRing x.w.aRing x.w.bRing.toNat x.aCount + j
/-- The slot of A's half `h` at a step. -/
def MxWord.aIndex (x : MxWord) (st h : Nat) : Nat := x.taken x.w.aRing.toNat st + h
/-- The slot of the scales at a step. -/
def MxWord.sIndex (x : MxWord) (st : Nat) : Nat :=
  let q := x.w.scl.toNat
  x.taken q st + onRing x.w.aRing q x.aCount + onRing x.w.bRing q (x.bCount st)

/-- Slots of a ring that the word has released after `st` steps: none in hold mode, and in auto mode every one before
a B slot of VQ2 that a later step still uses (R169, R177). -/
def MxWord.released (x : MxWord) (q st : Nat) : Nat :=
  if x.w.hold != 0 then 0
  else if x.product && x.fmt.vq && x.w.bRing.toNat == q && st % 4 != 0 && decide (st < x.kSteps) then
    min (x.taken q st) (x.bIndex st 0)
  else x.taken q st

/-- The rings that a word consumes. -/
def MxWord.reads (x : MxWord) : List Nat :=
  match x.kind with
  | .tmma => ([x.w.aRing.toNat, x.w.bRing.toNat] ++ (if x.sCount = 0 then [] else [x.w.scl.toNat])).eraseDups
  | .tmmas => ([x.w.aRing.toNat, x.w.bRing.toNat] ++ (if x.sCount = 0 then [] else [x.w.scl.toNat])).eraseDups
  | .tacc => [x.w.aRing.toNat]
  | .tbind => [x.w.aRing.toNat]
  | .txpose => [x.w.aRing.toNat]
  | .tsmld => [x.w.aRing.toNat]
  | .tstage => if natBit x.w.w5.toNat 12 then [x.w.aRing.toNat] else []
  | _ => []
/-- The ring that a word produces into. -/
def MxWord.writes (x : MxWord) : List Nat :=
  match x.kind with
  | .tepi => [x.w.out.toNat]
  | .txpose => [x.w.out.toNat]
  | .tstage => if natBit x.w.w5.toNat 12 then [] else [x.w.aRing.toNat]
  | _ => []
/-- Slots that the whole word consumes from a ring. -/
def MxWord.total (x : MxWord) (q : Nat) : Nat := if x.kind = .tstage then x.n else x.taken q x.steps
/-- Slots of a ring that must be filled from its head on for a step. -/
def MxWord.need (x : MxWord) (q st : Nat) : Nat := x.taken q (st + 1) - x.released q st
/-- Slots that a word still produces before its step `st`. -/
def MxWord.makes (x : MxWord) (q st : Nat) : Nat :=
  match x.kind with
  | .tepi => onRing x.w.out q (x.steps - st)
  | .txpose => onRing x.w.out q (1 - st)
  | _ => 0

-- Rings (R169).

/-- A ring's slots, produce index, consume index and filled count. -/
def ringOf (c : Ctx) (q : Nat) : Option (List Nat × Nat × Nat × Nat) :=
  match smGet c.q q with
  | some (.ring slots p k f) => some (slots, p, k, f)
  | _ => none
/-- The slot `i` places after a ring's head. -/
def ringSlot (c : Ctx) (q i : Nat) : Nat :=
  match ringOf c q with
  | some (slots, _, k, _) => slots.getD ((k + i) % slots.length) 0
  | none => 0
/-- A ring's filled count. -/
def ringFilled (c : Ctx) (q : Nat) : Nat := ((ringOf c q).map fun r => r.2.2.2).getD 0
/-- A ring's free slots. -/
def ringFree (c : Ctx) (q : Nat) : Nat := ((ringOf c q).map fun r => r.1.length - r.2.2.2).getD 0
/-- A complete slot enters a ring. -/
def ringEnter (c : Ctx) (q : Nat) : Ctx :=
  match ringOf c q with
  | some (slots, p, k, f) => { c with q := smPut c.q q (.ring slots ((p + 1) % slots.length) k (f + 1)) }
  | none => c

/-- Slots of a ring that words and TSTAGEs in flight have still to consume. -/
def ringOwed (c : Ctx) (q : Nat) : Nat :=
  (c.mx.map fun o => let x := mxWord o; if x.w.hold = 0 then x.total q - x.released q o.step else 0).sum +
    (c.copies.map fun o =>
      match o.kind with
      | .stage w _ _ _ => if w.aRing.toNat = q ∧ natBit w.w5.toNat 12 = true then w.n.toNat - o.pos else 0
      | _ => 0).sum
/-- Slots that words and TSTAGEs in flight have still to produce into a ring. -/
def ringMade (c : Ctx) (q : Nat) : Nat :=
  (c.mx.map fun o => (mxWord o).makes q o.step).sum +
    (c.copies.map fun o =>
      match o.kind with
      | .stage w _ _ _ => if w.aRing.toNat = q ∧ natBit w.w5.toNat 12 = false then w.n.toNat - o.pos else 0
      | _ => 0).sum

/-- The filled slots that a word needs of a ring before it issues: all it reads in hold mode, else its first (R169, R176). -/
def firstNeed (x : MxWord) (q : Nat) : Nat :=
  if x.w.hold != 0 then max x.w.hold.toNat (x.total q) else if x.kind = .tstage then 1 else x.need q 0
/-- A ring holds slots that no older word has still to read. -/
def slotsThere (c : Ctx) (q n : Nat) : Bool := decide (n ≤ ringFilled c q - ringOwed c q)
/-- The first slots that a word reads from a ring are available (R169, R176). -/
def readReady (c : Ctx) (x : MxWord) (q : Nat) : Bool := slotsThere c q (firstNeed x q)
/-- A slot is free for the word's first output. -/
def writeReady (c : Ctx) (q : Nat) : Bool := decide (ringMade c q < ringFree c q)

-- Units (R193, R194).

/-- A part of a word on one core: its accumulator (and slot) rows and its columns. -/
structure Panel where
  core : Nat
  row0 : Nat
  rows : Nat
  col0 : Nat
  cols : Nat
  deriving DecidableEq, Repr

/-- First row of a word of a context: its cluster's band at level 0 (R177). -/
def firstRow (id : Nat) (x : MxWord) : Nat := if x.level = 0 then 32 * (clusterOf id % 4) else 0

/-- The parts of a word on its cores. DEDUCED (log entry 37). -/
def panels (id : Nat) (x : MxWord) (cores : List Nat) : List Panel :=
  if x.level = 2 then
    ((rangeFrom 0 x.blocks).zip cores).map fun e =>
      { core := e.2, row0 := 0, rows := x.m, col0 := 128 * e.1, cols := min 128 (x.n - 128 * e.1) }
  else [{ core := cores.headD 0, row0 := firstRow id x, rows := x.m, col0 := 0, cols := x.n }]

/-- The lowest logical name of a kind that is mapped to a physical unit of a die (R38). -/
def logicalOf (s : State) (die part : Nat) (k : PlaceKind) (phys : Nat) : Option Nat :=
  (rangeFrom 0 (placeCount k)).find? fun n => physical s die part k n == some phys

/-- The lowest band of a logical core whose logical cluster is unmapped (R194). -/
def badBand (s : State) (die part lc m : Nat) : Option Nat :=
  (rangeFrom 0 (ceilDiv m 32)).find? fun b => (physical s die part .cluster (4 * lc + b)).isNone

/-- Words that are cut into children (R193). -/
def MxWord.cut (x : MxWord) : Bool :=
  match x.kind with
  | .tmma => true
  | .tmmas => true
  | .tzero => true
  | .tacc => true
  | .tepi => true
  | _ => false

/-- TILEF's address for the word's own place (R203). -/
def ownPlace : Nat := 0xFFFF

/-- The place of a level 0 word: its core. -/
def place0 (s : State) (id : Nat) (x : MxWord) : Except Nat (List Nat) :=
  let die := dieOf id
  let part := partOf s id
  if x.w.place = 0xFFF then .ok [coreOf id]
  else
    match logicalOf s die part .core (coreOf id % 32) with
    | none => .error ownPlace
    | some lc =>
      match physical s die part .cluster (4 * lc + x.w.place.toNat) with
      | none => .error ownPlace
      | some p => .ok [32 * die + p / 4]

/-- The logical and physical core of a level 1 word, its logical number only where it is needed. -/
def core1 (s : State) (id : Nat) (x : MxWord) : Except Nat (Option Nat × Nat) :=
  let die := dieOf id
  let part := partOf s id
  let own := coreOf id % 32
  if x.w.place = 0xFFF then
    if x.cut then
      match logicalOf s die part .core own with
      | none => .error ownPlace
      | some lc => .ok (some lc, own)
    else .ok (none, own)
  else
    match logicalOf s die part .quad (own / 4) with
    | none => .error ownPlace
    | some lq =>
      match physical s die part .core (4 * lq + x.w.place.toNat) with
      | none => .error ownPlace
      | some p => .ok (some (4 * lq + x.w.place.toNat), p)

/-- The place of a level 1 word and its children. -/
def place1 (s : State) (id : Nat) (x : MxWord) : Except Nat (List Nat) :=
  match core1 s id x with
  | .error v => .error v
  | .ok (lc, p) =>
    if x.cut then
      match lc.bind fun lc => badBand s (dieOf id) (partOf s id) lc x.m with
      | some b => .error b
      | none => .ok [32 * dieOf id + p]
    else .ok [32 * dieOf id + p]

/-- The physical cores of blocks 0 to n - 1 of a logical quad, or the lowest that cannot be placed. -/
def placeBlocks (s : State) (die part lq m : Nat) : Nat → Except Nat (List Nat)
  | 0 => .ok []
  | n + 1 =>
    match placeBlocks s die part lq m n with
    | .error v => .error v
    | .ok l =>
      match physical s die part .core (4 * lq + n) with
      | none => .error n
      | some p => if (badBand s die part (4 * lq + n) m).isSome then .error n else .ok (l ++ [32 * die + p])

/-- The place of a level 2 word and its children. TQRED's quad is the physical one. DESIGN CHOICE (log entry 86). -/
def place2 (s : State) (id : Nat) (x : MxWord) : Except Nat (List Nat) :=
  let die := dieOf id
  let part := partOf s id
  let q := quadOf id % 8
  if x.kind = .tqred then .ok (rangeFrom (4 * quadOf id) 4)
  else if x.w.place = 0xFFF then
    match logicalOf s die part .quad q with
    | none => .error ownPlace
    | some lq => placeBlocks s die part lq x.m x.blocks
  else
    match physical s die part .quad x.w.place.toNat with
    | none => .error ownPlace
    | some _ => placeBlocks s die part x.w.place.toNat x.m x.blocks

/-- The physical cores that a word runs on, or the address of its TILEF (R38, R194). -/
def placeWord (s : State) (id : Nat) (x : MxWord) : Except Nat (List Nat) :=
  match x.level with
  | 0 => place0 s id x
  | 1 => place1 s id x
  | _ => place2 s id x

-- Checks at issue.

/-- Whether a word reads the format table in a stream (R173). -/
def MxKind.needsFmt : MxKind → Bool
  | .tmma => true
  | .tmmas => true
  | .tacc => true
  | .tepi => true
  | .txpose => true
  | .tqred => true
  | _ => false

/-- The number of a word's format entry (R37). -/
def fmtIndex (c : Ctx) (w : TileW) : Nat := w.fbase.toNat + (if w.fmode = 1 then (lget c 4 w.floop.toNat).toNat else 0)

/-- The format entry of a word by R37 and R128, whatever its guard: none where the index or the entry is refused. -/
def formatOf (c : Ctx) (k : MxKind) (w : TileW) : Option (Word × Option TFmt) :=
  if !k.needsFmt then some (0, none)
  else
    let i := fmtIndex c w
    if 63 < i then none
    else
      let x := smGetD c.xfte i 0
      match wordFmt w x with
      | none => none
      | some f => some (x, some f)

/-- A handle that the word names as a ring and that its counts do not fit (R169, R175). DEDUCED (log entry 38). -/
def badRing (c : Ctx) (x : MxWord) : Option Nat :=
  (x.reads ++ x.writes).find? fun q =>
    match ringOf c q with
    | none => true
    | some (slots, _, _, _) =>
      x.reads.contains q && x.w.hold != 0 && decide (slots.length < max x.w.hold.toNat (x.total q))

/-- The rings that a word reads, with the slots it needs first. -/
def firstNeeds (x : MxWord) : List (Nat × Nat) := x.reads.map fun q => (q, firstNeed x q)
/-- The rings that a word waits on can serve it. -/
def ringsReady (c : Ctx) (reads : List (Nat × Nat)) (writes : List Nat) : Bool :=
  reads.all (fun x => slotsThere c x.1 x.2) && writes.all (writeReady c)
/-- A halted TSTAGE that a word waits on, by what it needs of its rings; its halt is not yet delivered at this word (R186). -/
def stageHalted (s : State) (id : Nat) (reads : List (Nat × Nat)) (writes : List Nat) : Option (Nat × Halt) :=
  let c := getCtx s id
  lowestFault (c.copies.filterMap fun o =>
    match o.kind with
    | .stage w _ _ _ =>
      let q := w.aRing.toNat
      let waits := if natBit w.w5.toNat 12 then writes.contains q && !writeReady c q else reads.any fun x => x.1 == q && !slotsThere c q x.2
      if waits then (haltDue s id o.halt).map fun h => (o.num, h) else none
    | _ => none)
/-- A halted TSTAGE that the word would wait on (R186). -/
def stageHaltOn (s : State) (id : Nat) (x : MxWord) : Option (Nat × Halt) := stageHalted s id (firstNeeds x) x.writes

/-- Words that touch accumulator quarters (R172). -/
def MxKind.touches : MxKind → Bool
  | .tmma => true
  | .tmmas => true
  | .tzero => true
  | .tacc => true
  | .tepi => true
  | .tqred => true
  | _ => false

/-- The accumulator's number. -/
def MxWord.acc (x : MxWord) : Nat := x.w.acc.toNat
/-- Columns that a TQRED adds: level 2 allows N up to 512, an accumulator has 128. DESIGN CHOICE (log entry 85). -/
def MxWord.qredCols (x : MxWord) : Nat := min x.n 128
/-- The quarters that a word touches on each of its cores. -/
def quartersOf (id : Nat) (x : MxWord) : List Nat :=
  if !x.kind.touches then [] else if x.level = 0 then [4 * x.acc + clusterOf id % 4] else rangeFrom (4 * x.acc) 4
/-- The context holds a claimed operand slot (R172). -/
def holdsSlot (s : State) (id : Nat) : Bool := (getCore s (coreOf id)).claims.any fun e => e.2 == id
/-- A quarter that the word touches belongs to another context. -/
def foreign (s : State) (id : Nat) (x : MxWord) (cores : List Nat) : Bool :=
  cores.any fun k => (quartersOf id x).any fun q =>
    match smGet (getCore s k).owner q with
    | some o => o != id
    | none => false

/-- The binding entries of a word: a side-path word's by row group, a TBIND's own (R182, R190). -/
def entriesOf (x : MxWord) : List Nat :=
  if x.kind = .tbind then rangeFrom x.w.btab.toNat x.m
  else if x.w.side then rangeFrom x.w.btab.toNat (ceilDiv x.m x.w.groupRows)
  else []
/-- The largest rank bound to a row of the word on a core (R191). -/
def rankOn (s : State) (core : Nat) (x : MxWord) : Nat :=
  ((entriesOf x).filterMap fun b => (smGet (getCore s core).bind b).map fun (e : BindEntry) => e.rank).foldl max 0
/-- The u area of a core would exceed 32 KiB (R191). -/
def uFull (s : State) (core : Nat) (x : MxWord) : Bool :=
  let c := getCore s core
  let other := ((rangeFrom 0 4).filter (· != x.acc)).map fun a => smGetD c.sideRank a 0
  decide (32768 < 512 * (other.sum + max (smGetD c.sideRank x.acc 0) (rankOn s core x)))

/-- Free MiB of a partition's staging share on a die (R195). -/
def stagingFree (s : State) (part die : Nat) : Nat :=
  ((((getPart s part).sram[die]?).getD []).getD 2 0) - smGetD (getDie s die).stageUsed part 0
/-- A quad-level word needs 1 MiB of the die's staging share, unless its quad's L1 is fused. -/
def needsStaging (s : State) (id : Nat) (x : MxWord) : Bool := x.level == 2 && !fusedQuad s (quadOf id)
/-- Vitrine mode shuts a quad-level word out of cores that do not run its world (R296). -/
def vitrineShut (s : State) (id : Nat) (x : MxWord) : Bool :=
  x.level == 2 && !(rangeFrom (4 * quadOf id) 4).all fun k => coreAdmits s k (worldOf s (getCtx s id).tenant.toNat)

/-- The SLOTX checks of an enabled word (R172, R191, R195, R296). -/
def slotRefused (s : State) (id : Nat) (x : MxWord) (cores : List Nat) : Bool :=
  !holdsSlot s id || foreign s id x cores || (x.product && x.w.side && cores.any fun k => uFull s k x) ||
    (needsStaging s id x && stagingFree s (partOf s id) (dieOf id) == 0) || vitrineShut s id x

/-- Bytes of metadata of a column in a step (R178). -/
def metaBytes (f : TFmt) : Nat := f.kept / 4
/-- Metadata slots that a TMMAS reads, in order. -/
def metaSlots (x : MxWord) : List Nat :=
  (rangeFrom x.w.slot.toNat (ceilDiv (x.kSteps * x.n * metaBytes x.fmt) 2048)).map (· % 16)
/-- The poisoned metadata slot that a TMMAS would read, as XTRAPVA names it (R178). -/
def metaRefused (s : State) (x : MxWord) (core : Nat) : Option Nat :=
  if x.kind = .tmmas then
    (metaSlots x).findSome? fun n => (smGet (getCore s core).metaBad n).map fun g => 4096 * n + g
  else none
/-- The core whose side memory a TMMAS reads: its own, or the issuer's at level 2 (R178). -/
def metaCore (id : Nat) (x : MxWord) (cores : List Nat) : Nat := if x.level = 2 then coreOf id else cores.headD 0

/-- ILLOP of an enabled word whose K or metadata does not fit, or whose elements TXPOSE does not move (R178, R183, R193). -/
def sizeRefused (x : MxWord) : Bool :=
  (x.kind == .txpose && !([8, 16, 32].contains (fmtBits x.fmt.afmt))) || (x.product && x.fmt.vq && x.k % 8 != 0) || (x.kind == .tmmas && decide (32768 < x.kSteps * x.n * metaBytes x.fmt))

-- Poison of what a word reads at once (R347).

/-- Some of `n` bytes from an offset of a row of a slot are poisoned. -/
def slotBad (s : State) (core slot r off n : Nat) : Bool :=
  !s.poison.isEmpty && (granules off n).any fun g => isPoison s (.slot core slot r g)
/-- Some of the first `n` bytes of a row of a range are poisoned. -/
def rowsBad (s : State) (core slot r rows n : Nat) : Bool := (rangeFrom r rows).any fun r => slotBad s core slot r 0 n
/-- Rows of the scale slot that hold a step's scales. -/
def scaleRows (x : MxWord) (st : Nat) : Nat := ceilDiv (x.m * x.fmt.na x.k st + x.n * x.fmt.nb x.k st) 256
/-- An accumulator element that the word reads is poisoned. -/
def accBad (s : State) (a : Nat) (p : Panel) : Bool :=
  s.poison.any fun l =>
    match l with
    | .acc k t r n => k == p.core && t == a && decide (p.row0 ≤ r ∧ r < p.row0 + p.rows ∧ n < p.cols)
    | _ => false
/-- The u of a row that a TEPI uses is poisoned. -/
def sideBad (s : State) (x : MxWord) (p : Panel) (i : Nat) : Bool :=
  !s.poison.isEmpty &&
    match smGet (getCore s p.core).bind (x.w.btab.toNat + i / x.w.groupRows) with
    | some b => (rangeFrom 0 (ceilDiv b.rank 2)).any fun g => isPoison s (.side p.core x.acc (p.row0 + i) g)
    | none => false

/-- Byte address of metadata (R178). -/
def metaAt (slot st cols n mb b : Nat) : Nat := (2048 * slot + (st * cols + n) * mb + b) % 32768

/-- A part of a product's step whose inputs are poisoned: rows by A, columns by B (R347). -/
structure BadIn where
  row : Nat → Bool
  col : Nat → Bool

/-- Scale bytes that lie end to end over a slot's rows. -/
def scalesBad (s : State) (core slot : Nat) : Nat → Nat → Nat → Bool
  | 0, _, _ => false
  | f + 1, o, n => decide (0 < n) && (slotBad s core slot (o / 256) (o % 256) (min n (256 - o % 256)) ||
      scalesBad s core slot f (o + min n (256 - o % 256)) (n - (256 - o % 256)))

/-- The poison of a step's inputs, its slots by ring and index, and its metadata in a core's memory, laid out for `cols`
columns from `base` on (R177, R178, R347). -/
def stepBad (s : State) (id : Nat) (x : MxWord) (slot : Nat → Nat → Nat) (core cols base st : Nat) (p : Panel) : BadIn :=
  if s.poison.isEmpty then { row := fun _ => false, col := fun _ => false }
  else
    let own := coreOf id
    let f := x.fmt
    let cnt := f.count x.k st
    let n := min cnt f.kept
    let ab := fmtBits f.afmt
    let na := f.na x.k st
    let nb := f.nb x.k st
    let scBad := fun (o n : Nat) => x.sCount != 0 && scalesBad s own (slot x.w.scl.toNat (x.sIndex st)) 128 o n
    let kept := f.stored x.k st
    { row := fun i =>
        slotBad s own (slot x.w.aRing.toNat (x.aIndex st 0)) (firstRow id x + i) 0 (ceilDiv (n * ab) 8) ||
          (x.kind == .tmmas && slotBad s own (slot x.w.aRing.toNat (x.aIndex st 1)) (firstRow id x + i) 0 (ceilDiv ((cnt - n) * ab) 8)) ||
          scBad (i * na) na
      col := fun j =>
        slotBad s own (slot x.w.bRing.toNat (x.bIndex st (p.col0 / 128))) j (if f.vq then 64 * (st % 4) else 0)
            (ceilDiv (storedBits f.bfmt kept) 8) ||
          scBad (x.m * na + (p.col0 + j) * nb) nb ||
          (x.kind == .tmmas && (rangeFrom 0 (ceilDiv kept 4)).any fun b =>
            isPoison s (.smeta core (metaAt x.w.slot.toNat st cols (base + j) (metaBytes f) b / 8))) }

/-- Slots of the word's rings that are there when it issues: those that earlier words have still to consume come first. -/
def slotHere (c : Ctx) (q i : Nat) : Bool := decide (ringOwed c q + i < ringFilled c q)
def slotThen (c : Ctx) (q i : Nat) : Nat := ringSlot c q (ringOwed c q + i)

/-- A word reads poison when it issues: in the slots that are there, the accumulators, the side path and the modes. What
its later slots bring travels into its results. DEDUCED (log entry 97). -/
def wordBad (s : State) (id : Nat) (x : MxWord) (cores : List Nat) : Bool :=
  if s.poison.isEmpty then false
  else
    let c := getCtx s id
    let own := coreOf id
    let r0 := firstRow id x
    let q := x.w.aRing.toNat
    let ps := panels id x cores
    let first := slotThen c q 0
    let here := fun (st : Nat) => x.reads.all fun r => decide (ringOwed c r + x.need r st ≤ ringFilled c r)
    let mcore := fun (p : Panel) => if x.level = 2 then (own, x.n, p.col0) else (p.core, p.cols, 0)
    (x.kind.needsFmt &&
      ((x.w.fmode == 1 && loopBad s id 4 [x.w.floop.toNat]) ||
        isPoison s (.xreg id (0x40 + fmtIndex c x.w)) || (x.fmt.rnd == 4 && isPoison s (.xreg id 0x19)))) ||
    match x.kind with
    | .tzero => false
    | .tstage => loopBad s id 3 [natField x.w.w5.toNat 4 4]
    | .tacc =>
      ((rangeFrom 0 x.steps).any fun t => slotHere c q t && rowsBad s own (slotThen c q t) r0 x.m (4 * min 64 (x.n - 64 * t))) ||
        (!natBit x.w.w5.toNat 0 && ps.any (accBad s x.acc))
    | .tepi => ps.any (accBad s x.acc) || (x.w.side && ps.any fun p => (rangeFrom 0 p.rows).any (sideBad s x p))
    | .tqred => ((rangeFrom (4 * quadOf id) 4).map fun k => ({ core := k, row0 := 0, rows := x.m, col0 := 0, cols := x.qredCols } : Panel)).any (accBad s x.acc)
    | .tbind => rowsBad s own first 0 x.m 16
    | .tsmld => rowsBad s own first 0 x.m 256
    | .txpose => rowsBad s own first r0 x.m (ceilDiv (x.n * fmtBits x.fmt.afmt) 8)
    | _ =>
      ps.any (accBad s x.acc) ||
        ((rangeFrom 0 x.kSteps).any fun st => here st && ps.any fun p =>
          let b := stepBad s id x (slotThen c) (mcore p).1 (mcore p).2.1 (mcore p).2.2 st p
          (rangeFrom 0 p.rows).any b.row || (rangeFrom 0 p.cols).any b.col)

-- Issue (R172, R175, R176).

/-- A context takes quarters of a core. -/
def takeQuarters (id : Nat) (qs : List Nat) (s : State) (core : Nat) : State :=
  modCore s core fun c => { c with owner := qs.foldl (fun m q => smPut m q id) c.owner }

/-- The sites of a word's MISSING entries begin to be filled, and its entries' lines are used (R317, R318). -/
def useEntries (x : MxWord) (s : State) (core : Nat) : State :=
  let bs := (entriesOf x).filterMap fun b => smGet (getCore s core).bind b
  bs.foldl (fun s b =>
    if b.st = .missing ∧ b.fillFailed = false then startFill s (core / 32) b.key b.lines
    else if b.st = .resident then touchSite s (core / 32) b.key
    else s) s

/-- The entries of a side-path word pin their lines until a TEPI has consumed them (R317). -/
def pinEntries (x : MxWord) (qs : List Nat) (s : State) (core : Nat) : State :=
  modCore s core fun c =>
    { c with sideEnts := qs.foldl (fun m q => smPut m q (smGetD m q [] ++ (entriesOf x).map fun b => (b, s.nextId))) c.sideEnts }

/-- Rank bookkeeping at issue: TMMA raises it, TZERO and TEPI begin anew (R191). DEDUCED (log entry 39). -/
def rankAtIssue (x : MxWord) (s : State) (core : Nat) : State :=
  let r := rankOn s core x
  modCore s core fun c =>
    if x.product then (if x.w.side then { c with sideRank := smPut c.sideRank x.acc (max (smGetD c.sideRank x.acc 0) r) } else c)
    else if x.kind = .tzero ∨ x.kind = .tepi then { c with sideRank := smDel c.sideRank x.acc }
    else c

/-- What an enabled word takes when it issues. -/
def takeUnits (id : Nat) (x : MxWord) (cores : List Nat) (s : State) : State :=
  let qs := quartersOf id x
  let s := cores.foldl (takeQuarters id qs) s
  let s := cores.foldl (rankAtIssue x) s
  let s := if x.w.side then cores.foldl (pinEntries x qs) (cores.foldl (useEntries x) s) else s
  if needsStaging s id x then
    modDie s (dieOf id) fun d => { d with stageUsed := smSet d.stageUsed (partOf s id) (smGetD d.stageUsed (partOf s id) 0 + 1) 0 }
  else s

/-- Register number of the tile key: XSEED [63:32] (R118). -/
def tileKey (c : Ctx) : Nat := fld c.xseed 32 32

/-- The word enters the array's order. -/
def enterArray (id : Nat) (x : MxWord) (fte : Word) (off : Bool) (cores : List Nat) (s : State) : State :=
  let c := getCtx s id
  let (n, c) := tcTake c 5
  let o : MxOp := { num := n, op := x.kind.code, w := x.w, fte := fte, guardOff := off, key := tileKey c, tenant := c.tenant.toNat,
                    cores := cores, stamp := s.nextId }
  setCtx { s with nextId := s.nextId + 1 } id { c with mx := c.mx ++ [o] }

/-- A TSTAGE enters the copy engine; its pitch is read once, and a fill is ordered after older accesses (R185). -/
def enterStage (id : Nat) (x : MxWord) (off : Bool) (s : State) : State :=
  let s := if off then s else release s id 1 none
  let c := getCtx s id
  let (n, c) := tcTake c 4
  let o : CopyOp := { num := n, kind := .stage x.w (lget c 3 (natField x.w.w5.toNat 4 4)) off s.nextId, view := viewOf c, tagged := false,
                      tenant := c.tenant.toNat }
  setCtx { s with nextId := s.nextId + 1 } id { c with copies := c.copies ++ [o] }

/-- TSTAGEs of a context in flight. -/
def stagesOf (c : Ctx) : Nat := countIf (fun (o : CopyOp) => match o.kind with | .stage _ _ _ _ => true | _ => false) c.copies

/-- A word issues once its first slots are there and fewer than eight words are in flight (R176). -/
def issueWord (id : Nat) (x : MxWord) (fte : Word) (off : Bool) (cores : List Nat) (s : State) : Out :=
  let c := getCtx s id
  if decide (8 ≤ c.mx.length + stagesOf c) || !ringsReady c (firstNeeds x) x.writes then
    .next (waitHere (.matrix (if x.level = 2 then (cores.map (· / 4)).eraseDups else []) (firstNeeds x) x.writes) s)
  else if !off && wordBad s id x cores then trapNext { cause := 6 } s
  else
    let s := if off then s else takeUnits id x cores s
    let s := if x.kind = .tstage then enterStage id x off s else enterArray id x fte off cores s
    .next (retire x.w.e 24 s)

/-- An enabled word's own checks, then its issue. -/
def enabledWord (i : Instr) (id : Nat) (x : MxWord) (fte : Word) (s : State) : Out :=
  if sizeRefused x then illopOf i s
  else
    match placeWord s id x with
    | .error v => trapNext { cause := 15, va := natW v } s
    | .ok cores =>
      if slotRefused s id x cores then trapNext { cause := 8, va := natW x.acc } s
      else
        match metaRefused s x (metaCore id x cores) with
        | some v => trapNext { cause := 9, va := natW v } s
        | none => issueWord id x fte false cores s

/-- A word's own checks in the order of R35 and R175: its guard, and the counts of its rings, whatever the guard; an
enabled word's others then. -/
def checkedWord (i : Instr) (id : Nat) (x : MxWord) (fte : Word) (s : State) : Out :=
  if srcBad s x.w.guard.reg then trapNext { cause := 6 } s
  else
    match badRing (me s) x with
    | some q => trapNext { cause := 7, va := natW q } s
    | none => if guardRows (me s) x.w.guard = 0 then issueWord id x fte true [coreOf id] s else enabledWord i id x fte s

/-- A matrix word of a stream: its format fixes the slots that it waits on; a deferred fault goes before its other checks
(R330). DEDUCED (log entry 88). -/
def tileWord (i : Instr) (k : MxKind) (w : TileW) (s : State) : Out :=
  fullOnly i s fun s =>
    let id := s.cur
    let s := restartTold s id
    match formatOf (me s) k w with
    | none => illopOf i s
    | some (fte, f) =>
      let x : MxWord := { kind := k, w := w, f := f }
      match stageHaltOn s id x with
      | some (n, h) =>
        trapNext { cause := h.cause, src := 5, w := h.write, va := h.va } (setHalt s id n (some { h with told := toldHere s id }))
      | none => checkedWord i id x fte s

def execTmma (w : TileW) (s : State) : Out := tileWord (.tmma w) .tmma w s
def execTmmas (w : TileW) (s : State) : Out := tileWord (.tmmas w) .tmmas w s
def execTzero (w : TileW) (s : State) : Out := tileWord (.tzero w) .tzero w s
def execTacc (w : TileW) (s : State) : Out := tileWord (.tacc w) .tacc w s
def execTepi (w : TileW) (s : State) : Out := tileWord (.tepi w) .tepi w s
def execTbind (w : TileW) (s : State) : Out := tileWord (.tbind w) .tbind w s
def execTxpose (w : TileW) (s : State) : Out := tileWord (.txpose w) .txpose w s
def execTsmld (w : TileW) (s : State) : Out := tileWord (.tsmld w) .tsmld w s
def execTstage (w : TileW) (s : State) : Out := tileWord (.tstage w) .tstage w s
def execTqred (w : TileW) (s : State) : Out := tileWord (.tqred w) .tqred w s

-- Rings are claimed and released (R170 to R172).

/-- The claimable slots of a core that are free, lowest first. -/
def freeSlots (c : Core) : List Nat := (rangeFrom 0 28).filter fun n => (smGet c.claims n).isNone

/-- OCLAIM (R170). -/
def execOclaim (e : Bool) (d a : SReg) (q : BitVec 4) (s : State) : Out :=
  fullOnly (.oclaim e d a q) s fun s =>
    withSrc [a] s fun s =>
      let id := s.cur
      let n := fld (rs s a) 0 6
      if n = 0 ∨ 28 < n ∨ (smGet (me s).q q.toNat).isSome = true then trapNext { cause := 7, va := natW q.toNat } s
      else
        let free := freeSlots (getCore s (coreOf id))
        if free.length < n then result e d 0 s
        else
          let take := free.take n
          let s := modCore s (coreOf id) fun c => { c with claims := take.foldl (fun m x => smPut m x id) c.claims }
          let s := onMe s fun c => { c with q := smPut c.q q.toNat (.ring take 0 0 0) }
          result e d (natW ((take.map fun x => 2 ^ x).sum)) s

/-- Slots of a core become free and zero (R168). -/
def freeSlotsOf (slots : List Nat) (core : Nat) (s : State) : State :=
  let s := modCore s core fun c =>
    { c with claims := slots.foldl smDel c.claims, slots := c.slots.filter fun e => !slots.contains (e.1 / 128) }
  if s.poison.isEmpty then s
  else { s with poison := s.poison.filter fun p => match p with | .slot k n _ _ => !(k == core && slots.contains n) | _ => true }

/-- What a core's quarters keep of the side path goes when their context gives them up (R172, R190, R191): held steps, failed
marks, pins and ranks; the sums u, their marks and n0 stay as the next owner finds them. DESIGN CHOICE (log entry 110). -/
def dropQuarters (id : Nat) (c : Core) : Core :=
  let gone := fun (q : Nat) => smGet c.owner q == some id
  let owner := c.owner.filter fun q => q.2 != id
  { c with
    sideEnts := c.sideEnts.filter fun x => !gone x.1
    held := c.held.filter fun h => !gone (4 * h.acc + h.row / 32)
    failed := c.failed.filter fun k => !gone (k / 32)
    sideRank := c.sideRank.filter fun x => owner.any fun q => q.1 / 4 == x.1
    owner := owner }

/-- A context that holds no claimed slot owns no quarter (R172). -/
def endOwnership (id : Nat) (s : State) : State :=
  if holdsSlot s id then s
  else { s with cores := s.cores.map fun e => if e.2.owner.any (fun q => q.2 == id) then (e.1, dropQuarters id e.2) else e }

/-- Unbind a ring of a context and return its slots. -/
def releaseRing (id q : Nat) (s : State) : State :=
  match ringOf (getCtx s id) q with
  | none => s
  | some (slots, _, _, _) =>
    endOwnership id (freeSlotsOf slots (coreOf id) (modCtx s id fun c => { c with q := smDel c.q q }))

/-- A word or TSTAGE in flight uses a ring (R171). -/
def ringUsed (c : Ctx) (q : Nat) : Bool :=
  c.mx.any (fun o => let x := mxWord o; (x.reads ++ x.writes).contains q) ||
    c.copies.any fun o => match o.kind with | .stage w _ _ _ => w.aRing.toNat == q | _ => false

/-- ORELEASE (R171). DEDUCED (log entry 42). -/
def execOrelease (e : Bool) (q : BitVec 4) (s : State) : Out :=
  fullOnly (.orelease e q) s fun s =>
    match ringOf (me s) q.toNat with
    | none => trapNext { cause := 7, va := natW q.toNat } s
    | some _ =>
      if ringUsed (me s) q.toNat then .next (stallHere (.ring q.toNat) s)
      else .next (retire e 4 (releaseRing s.cur q.toNat s))

end Sys2Proof.Machine
end

