-- ==== Sys2Proof/Machine/TileStep.lean ====
section
/-! DEFINITION. The matrix array's steps: the order of words, the product with its side path, TZERO, TACC, TEPI, TBIND,
TXPOSE, TSMLD and TQRED (07 R175 to R184, R187, R188, R190 to R192, R196). -/

namespace Sys2Proof.Machine

-- Order (R188).

/-- The matrix words in flight with their contexts. -/
def inFlight (s : State) : List (Nat × MxOp) := s.ctxs.flatMap fun (e : Nat × Ctx) => e.2.mx.map fun o => (e.1, o)

/-- Two parts lie on one core and share accumulator rows. -/
def rowsShare (p q : Panel) : Bool := p.core == q.core && decide (p.row0 < q.row0 + q.rows ∧ q.row0 < p.row0 + p.rows)

/-- Metadata slots that a word reads or writes, with their cores (R178, R184). -/
def metaUse (id : Nat) (x : MxWord) (cores : List Nat) : List (Nat × Nat) :=
  match x.kind with
  | .tmmas => (metaCore id x cores :: cores).flatMap fun k => (metaSlots x).map fun n => (k, n)
  | .tsmld => ((rangeFrom x.w.slot.toNat (x.m / 8)).map (· % 16)).map fun n => (cores.headD 0, n)
  | _ => []

/-- A word waits for an earlier one (R188). A guarded-off word has only its rings. -/
def shares (id : Nat) (o : MxOp) (id' : Nat) (o' : MxOp) : Bool :=
  let x := mxWord o
  let y := mxWord o'
  (id == id' && (x.reads ++ x.writes).any fun q => (y.reads ++ y.writes).contains q) ||
    (!o.guardOff && !o'.guardOff && o.cores.any (fun k => o'.cores.contains k) &&
      (x.kind == .tqred || y.kind == .tqred ||
        (x.kind.touches && y.kind.touches && x.acc == y.acc && (panels id x o.cores).any fun p => (panels id' y o'.cores).any (rowsShare p)) ||
        (entriesOf x).any fun b => (entriesOf y).contains b)) ||
    (!o.guardOff && !o'.guardOff && (metaUse id x o.cores).any fun m => (metaUse id' y o'.cores).contains m)

/-- An earlier TSTAGE moves slots of the same rings in the same role. -/
def stageBefore (c : Ctx) (o : MxOp) : Bool :=
  let x := mxWord o
  c.copies.any fun k =>
    match k.kind with
    | .stage w _ _ stamp =>
      decide (stamp < o.stamp) && (if natBit w.w5.toNat 12 then x.reads.contains w.aRing.toNat else x.writes.contains w.aRing.toNat)
    | _ => false

/-- No earlier word holds a word back (R188), and no word of its context that had stopped for a save (R205). -/
def inOrder (s : State) (id : Nat) (o : MxOp) : Bool :=
  !stageBefore (getCtx s id) o && !(inFlight s).any fun e =>
    decide (e.2.stamp < o.stamp) && ((e.1 == id && e.2.restored) || shares id o e.1 e.2)

-- Hold area (R191, R192).

/-- Bytes of a held step's row. -/
def heldBytes (h : HeldStep) : Nat := if 2048 < h.klen * fmtBits h.afmt then 512 else 256
/-- A row of the word on a core is neither failed nor ready: its entry is MISSING. -/
def rowHeld (c : Core) (x : MxWord) (p : Panel) (i : Nat) : Bool :=
  !c.failed.contains (128 * x.acc + p.row0 + i) &&
    match smGet c.bind (x.w.btab.toNat + i / x.w.groupRows) with
    | some b => b.st == .missing && !b.fillFailed
    | none => false
/-- Room in a core's hold area for the next step of a side-path product. -/
def holdRoom (s : State) (x : MxWord) (p : Panel) : Bool :=
  let c := getCore s p.core
  let n := countIf (rowHeld c x p) (rangeFrom 0 p.rows)
  decide (n = 0) || decide ((c.held.map heldBytes).sum + n * 256 * x.aCount ≤ 32768)

/-- Rows of group `g` of a part. -/
def groupOf (x : MxWord) (p : Panel) (g : Nat) : List Nat := (rangeFrom 0 p.rows).filter fun i => i / x.w.groupRows == g
/-- The bit of a part's group in a TEPI's masks. -/
def groupAt (p : Panel) (g : Nat) : Nat := p.col0 / 128 * 128 + g
/-- Groups of a part that a TEPI has still to correct or to see fail (R192). -/
def groupsLeft (o : MxOp) (x : MxWord) (p : Panel) : List Nat :=
  (rangeFrom 0 (ceilDiv p.rows x.w.groupRows)).filter fun g => !natBit o.fixed (groupAt p g)
/-- Those of them that are not held. -/
def groupsNow (s : State) (o : MxOp) (x : MxWord) (p : Panel) : List Nat :=
  (groupsLeft o x p).filter fun g => !(groupOf x p g).any (rowHeld (getCore s p.core) x p)
/-- A TEPI of the side path with groups left. -/
def tepiOpen (id : Nat) (o : MxOp) (x : MxWord) : Bool :=
  x.kind == .tepi && x.w.side && o.step == 0 && (panels id x o.cores).any fun p => !(groupsLeft o x p).isEmpty

/-- The ring slots of a word's next step are available (R176, R177). -/
def slotsReady (s : State) (id : Nat) (o : MxOp) : Bool :=
  let x := mxWord o
  let c := getCtx s id
  x.reads.all (fun q => decide (x.need q o.step ≤ ringFilled c q)) &&
    x.writes.all (fun q => decide (1 ≤ ringFree c q) || (x.kind == .txpose && x.reads.contains q))

/-- A word's next step can run: a product's held rows find room, and a TEPI has a group that is not held (R192). -/
def stepReady (s : State) (id : Nat) (o : MxOp) : Bool :=
  let x := mxWord o
  inOrder s id o && slotsReady s id o &&
    (o.guardOff || !x.w.side ||
      (if x.product then (panels id x o.cores).all (holdRoom s x)
       else !tepiOpen id o x || (panels id x o.cores).any fun p => !(groupsNow s o x p).isEmpty))

-- Slots.

/-- Bytes of a row of a slot. -/
def slotBytes (c : Core) (slot r : Nat) : List Byte := leBytes 256 (smGetD c.slots (128 * slot + r) 0).toNat
/-- A row's bytes as stored, the bytes beyond them zero. -/
def slotRow (bs : List Byte) : SlotRow := BitVec.ofNat 2048 (leNat (bs.take 256))
/-- Write a whole slot: row r from `row r`; `bad` lists its poisoned units by row. -/
def writeSlot (s : State) (core slot : Nat) (row : Nat → List Byte) (bad : List (Nat × Nat)) : State :=
  let s := modCore s core fun c =>
    { c with slots := smPutMany c.slots ((rangeFrom 0 128).map fun r => (128 * slot + r, slotRow (row r))) }
  let s := if s.poison.isEmpty then s
           else { s with poison := s.poison.filter fun p => match p with | .slot k n _ _ => !(k == core && n == slot) | _ => true }
  bad.foldl (fun s e => setPoison s (.slot core slot e.1 e.2) true) s
/-- A complete slot enters a ring of a context. -/
def produce (id q : Nat) (row : Nat → List Byte) (bad : List (Nat × Nat)) (s : State) : State :=
  match ringOf (getCtx s id) q with
  | some (slots, p, _, _) => modCtx (writeSlot s (coreOf id) (slots.getD p 0) row bad) id fun c => ringEnter c q
  | none => s
/-- A slot of zero bytes enters a ring. -/
def produceZero (id q : Nat) (s : State) : State := produce id q (fun _ => []) [] s

/-- The slot that a word reads at an index of a ring, before its step `st`. -/
def readSlot (c : Ctx) (x : MxWord) (q st i : Nat) : Nat := ringSlot c q (i - x.released q st)

-- Accumulators.

/-- Key of an element of a tile. -/
def accKey (a r n : Nat) : Nat := (128 * a + r) * 128 + n
/-- The first n elements of a row with their o bits. -/
def accRow (c : Core) (a r n : Nat) : List (Nat × Bool) :=
  let k := accKey a r 0
  let row := c.acc.filter fun e => decide (k ≤ e.1 ∧ e.1 < k + n)
  (rangeFrom k n).map fun i => let e := smGetD row i (0, false); (e.1.toNat, e.2)
/-- Write elements of a row from a column on. -/
def setAccRow (c : Core) (a r n0 : Nat) (vs : List (Nat × Bool)) : Core :=
  { c with acc := smPutMany c.acc ((rangeFrom (accKey a r n0) vs.length).zip (vs.map fun v => (BitVec.ofNat 32 v.1, v.2))) }
/-- Mark an element's poison. -/
def accPoison (s : State) (core a r n : Nat) (b : Bool) : State := if s.poison.isEmpty && !b then s else setPoison s (.acc core a r n) b

-- The product (R122, R177, R178).

/-- Element codes of row `i` of A in a step, dense. -/
def aCodes (s : State) (id : Nat) (x : MxWord) (st i : Nat) : List Nat :=
  let c := getCtx s id
  let k := getCore s (coreOf id)
  let q := x.w.aRing.toNat
  let f := x.fmt
  let row := firstRow id x + i
  let cnt := f.count x.k st
  let n := min cnt f.kept
  unpackRow (fmtBits f.afmt) n (slotBytes k (readSlot c x q st (x.aIndex st 0)) row) ++
    (if x.kind = .tmmas then unpackRow (fmtBits f.afmt) (cnt - n) (slotBytes k (readSlot c x q st (x.aIndex st 1)) row) else [])

/-- The scales of a step, end to end (R113). -/
def stepScales (s : State) (id : Nat) (x : MxWord) (st : Nat) : List Nat :=
  if x.sCount = 0 then []
  else
    let c := getCtx s id
    let q := x.w.scl.toNat
    let n := readSlot c x q st (x.sIndex st)
    ((rangeFrom 0 (scaleRows x st)).flatMap fun r => slotBytes (getCore s (coreOf id)) n r).map BitVec.toNat
/-- The scales of a row of A. -/
def aScales (x : MxWord) (st : Nat) (sc : List Nat) (i : Nat) : List Nat := (sc.drop (i * x.fmt.na x.k st)).take (x.fmt.na x.k st)
/-- The scales of a column of B. -/
def bScales (x : MxWord) (st : Nat) (sc : List Nat) (n : Nat) : List Nat :=
  (sc.drop (x.m * x.fmt.na x.k st + n * x.fmt.nb x.k st)).take (x.fmt.nb x.k st)

/-- The nibbles of a column's groups in a step. -/
def nibbles (c : Core) (x : MxWord) (st cols n : Nat) : List Nat :=
  let f := x.fmt
  (rangeFrom 0 (f.stored x.k st / 2)).map fun g =>
    let b := (smGetD c.smeta (metaAt x.w.slot.toNat st cols n (metaBytes f) (g / 2)) 0).toNat
    if g % 2 = 0 then b % 16 else b / 16

/-- A column of B in a step: its kept values and, under sparsity, their dense positions in the step. -/
structure BCol where
  vals : List FVal
  pos : List Nat
  deriving DecidableEq, Repr

/-- Columns of B of a part in a step. -/
def bCols (s : State) (id : Nat) (x : MxWord) (st : Nat) (sc : List Nat) (p : Panel) : List BCol :=
  let c := getCtx s id
  let f := x.fmt
  let n := readSlot c x x.w.bRing.toNat st (x.bIndex st (p.col0 / 128))
  (rangeFrom 0 p.cols).map fun i =>
    let bs := slotBytes (getCore s (coreOf id)) n i
    { vals := bVals f (f.stored x.k st) (if f.vq then bs.drop (64 * (st % 4)) else bs) (bScales x st sc (p.col0 + i)),
      pos := if f.sparse then keptPos (nibbles (getCore s p.core) x st p.cols i) else [] }

/-- A step's exact sum for a column; under sparsity the dense positions without a kept element add nothing.
DEDUCED (log entry 87). -/
def colSum (sparse : Bool) (a : List FVal) (b : BCol) : FVal :=
  dotV (if sparse then b.pos.map fun i => a.getD i (.fin false 0 0) else a) b.vals
/-- One step of a row: its elements after it. -/
def rowStep (f : TFmt) (a : List FVal) (cols : List BCol) (old : List (Nat × Bool)) : List (Nat × Bool) :=
  (old.zip cols).map fun (e : (Nat × Bool) × BCol) =>
    let (c, o) := accStep f.int e.1.1 (colSum f.sparse a e.2)
    (c, e.1.2 || o)

/-- A row that a side-path step finds failed stays so (R192). -/
def markFailed (s : State) (core a r : Nat) : State :=
  modCore s core fun c => if c.failed.contains (128 * a + r) then c else { c with failed := (128 * a + r) :: c.failed }

/-- The side path of one row in a step (R190, R192). -/
def sideStepRow (s : State) (x : MxWord) (p : Panel) (st i : Nat) (codes sc : List Nat) (bad : Bool) : State :=
  let a := x.acc
  let r := p.row0 + i
  let e := x.w.btab.toNat + i / x.w.groupRows
  match smGet (getCore s p.core).bind e with
  | none => s
  | some b =>
    if (getCore s p.core).failed.contains (128 * a + r) then s
    else
      match b.st with
      | .refused => markFailed s p.core a r
      | .missing =>
        if b.fillFailed then markFailed s p.core a r
        else
          modCore s p.core fun c =>
            { c with held := c.held ++ [{ acc := a, row := r, entry := e, k0 := natField x.w.w5.toNat 0 16, kpos := st * x.fmt.kstep,
                                          klen := codes.length, arow := codes, scales := sc, afmt := x.fmt.afmt, bad := bad }] }
      | .resident => sideRow s p.core a r b (natField x.w.w5.toNat 0 16 + st * x.fmt.kstep) (aVals x.fmt codes sc) bad

/-- One row of a part in a product's step. -/
def productRow (id : Nat) (x : MxWord) (st : Nat) (sc : List Nat) (cols : List BCol) (bad : BadIn) (p : Panel) (s : State) (i : Nat) : State :=
  let codes := aCodes s id x st i
  let asc := aScales x st sc i
  let a := aVals x.fmt codes asc
  let r := p.row0 + i
  let s := modCore s p.core fun c => setAccRow c x.acc r 0 (rowStep x.fmt a cols (accRow c x.acc r p.cols))
  let s := if s.poison.isEmpty then s
           else (rangeFrom 0 p.cols).foldl (fun s n => if bad.row i || bad.col n then accPoison s p.core x.acc r n true else s) s
  if x.w.side then sideStepRow s x p st i codes asc (bad.row i) else s

/-- Side-path words record their n0 for a TEPI (R190). -/
def recordN0 (id : Nat) (x : MxWord) (s : State) (p : Panel) : State :=
  if x.w.side then
    modCore s p.core fun c =>
      { c with sideN0 := (quartersOf id x).foldl (fun m q =>
          (rangeFrom (32 * q) 32).foldl (fun m r => smPut m r (natField x.w.w5.toNat 16 16 + p.col0)) m) c.sideN0 }
  else s

/-- A part's rows in a step of a product. -/
def productPanel (id : Nat) (x : MxWord) (st : Nat) (sc : List Nat) (s : State) (p : Panel) : State :=
  let cols := bCols s id x st sc p
  let bad := stepBad s id x (fun q i => readSlot (getCtx s id) x q st i) p.core p.cols 0 st p
  let s := if st = 0 then recordN0 id x s p else s
  (rangeFrom 0 p.rows).foldl (productRow id x st sc cols bad p) s

/-- The poison of a column block of metadata goes with it. -/
def spreadBad (own core slot mb steps cols n base : Nat) (was : List PLoc) (s : State) : State :=
  if was.isEmpty then s
  else
    (rangeFrom 0 steps).foldl (fun s st =>
      (rangeFrom 0 cols).foldl (fun s j =>
        (rangeFrom 0 (mb / 8)).foldl (fun s g =>
          setPoison s (.smeta core (metaAt slot st cols j mb (8 * g) / 8)) (was.contains (.smeta own (metaAt slot st n (base + j) mb (8 * g) / 8)))) s) s) s

/-- At level 2 each child core receives its column block of the metadata (R178). DEDUCED (log entry 41). -/
def spreadMeta (id : Nat) (x : MxWord) (cores : List Nat) (s : State) : State :=
  if x.kind = .tmmas ∧ x.level = 2 then
    let src := (getCore s (coreOf id)).smeta
    let was := s.poison
    let mb := metaBytes x.fmt
    let slot := x.w.slot.toNat
    (panels id x cores).foldl (fun s p =>
      spreadBad (coreOf id) p.core slot mb x.kSteps p.cols x.n p.col0 was <| modCore s p.core fun c =>
        { c with smeta := (rangeFrom 0 x.kSteps).foldl (fun m st =>
            (rangeFrom 0 p.cols).foldl (fun m n =>
              (rangeFrom 0 mb).foldl (fun m b =>
                smSet m (metaAt slot st p.cols n mb b) (smGetD src (metaAt slot st x.n (p.col0 + n) mb b) 0) 0) m) m) c.smeta }) s
  else s

/-- A K step of a product on every part. -/
def productStep (id : Nat) (o : MxOp) (x : MxWord) (s : State) : State :=
  let s := if o.step = 0 then spreadMeta id x o.cores s else s
  (panels id x o.cores).foldl (productPanel id x o.step (stepScales s id x o.step)) s

-- TZERO and TACC (R179).

/-- Forget the side-path state of rows: u, marks, held and failed steps, and n0 (R179). -/
def clearSide (a row0 rows : Nat) (c : Core) : Core :=
  let mine := fun (k : Nat) => decide (128 * a + row0 ≤ k ∧ k < 128 * a + row0 + rows)
  { c with
    u := c.u.filter fun e => !mine (e.1 / 64)
    marked := c.marked.filter fun k => !mine k
    failed := c.failed.filter fun k => !mine k
    sideN0 := c.sideN0.filter fun e => !mine e.1
    held := c.held.filter fun h => !(h.acc == a && decide (row0 ≤ h.row ∧ h.row < row0 + rows)) }
/-- Side-path poison of rows goes with their state. -/
def clearSidePoison (s : State) (core a row0 rows : Nat) : State :=
  if s.poison.isEmpty then s
  else { s with poison := s.poison.filter fun l =>
    match l with | .side k t r _ => !(k == core && t == a && decide (row0 ≤ r ∧ r < row0 + rows)) | _ => true }
/-- Elements of rows are written: their poison goes. -/
def clearAccPoison (s : State) (core a row0 rows col0 cols : Nat) : State :=
  if s.poison.isEmpty then s
  else { s with poison := s.poison.filter fun l =>
    match l with
    | .acc k t r n => !(k == core && t == a && decide (row0 ≤ r ∧ r < row0 + rows ∧ col0 ≤ n ∧ n < col0 + cols))
    | _ => true }

/-- The quarters of a part's rows. -/
def panelQuarters (a : Nat) (p : Panel) : List Nat := (rangeFrom (p.row0 / 32) (ceilDiv p.rows 32)).map fun q => 4 * a + q
/-- The entries of words up to one no longer pin their lines (R317). -/
def dropEnts (qs : List Nat) (stamp : Nat) (c : Core) : Core :=
  { c with sideEnts := qs.foldl (fun m q =>
      let l := (smGetD m q []).filter fun e => decide (stamp < e.2)
      if l.isEmpty then smDel m q else smPut m q l) c.sideEnts }

/-- TZERO on a part. -/
def zeroPanel (x : MxWord) (stamp : Nat) (s : State) (p : Panel) : State :=
  let a := x.acc
  let s := modCore s p.core fun c =>
    let c := { c with
      acc := c.acc.filter fun e => !decide (accKey a p.row0 0 ≤ e.1 ∧ e.1 < accKey a (p.row0 + p.rows) 0 ∧ e.1 % 128 < p.cols) }
    dropEnts ((panelQuarters a p).filter fun q => decide (32 * (q % 4) + 32 ≤ p.row0 + p.rows)) stamp (clearSide a p.row0 p.rows c)
  clearSidePoison (clearAccPoison s p.core a p.row0 p.rows 0 p.cols) p.core a p.row0 p.rows

/-- One element of a TACC. -/
def taccElem (x : MxWord) (old : Nat × Bool) (v : Nat) : Nat × Bool :=
  if natBit x.w.w5.toNat 0 then (v, false)
  else
    let (c, o) := accStep x.fmt.int old.1 (accVal x.fmt.int v)
    (c, old.2 || o)

/-- The columns of TACC's slot `t` that a part holds. -/
def taccRow (id : Nat) (x : MxWord) (t slot : Nat) (p : Panel) (s : State) (i : Nat) : State :=
  let c0 := 64 * t - p.col0
  let n := min 64 (p.cols - c0)
  let load := natBit x.w.w5.toNat 0
  let vs := (unpackRow 32 n (slotBytes (getCore s (coreOf id)) slot (firstRow id x + i)))
  let r := p.row0 + i
  let s := modCore s p.core fun c =>
    setAccRow c x.acc r c0 (((accRow c x.acc r p.cols).drop c0).zip vs |>.map fun (e : (Nat × Bool) × Nat) => taccElem x e.1 e.2)
  let s := if load then clearAccPoison s p.core x.acc r 1 c0 n else s
  if s.poison.isEmpty then s
  else (rangeFrom 0 n).foldl (fun s k => if slotBad s (coreOf id) slot (firstRow id x + i) (4 * k) 4 then accPoison s p.core x.acc r (c0 + k) true else s) s

/-- A slot of a TACC. -/
def taccStep (id : Nat) (o : MxOp) (x : MxWord) (s : State) : State :=
  let t := o.step
  let slot := readSlot (getCtx s id) x x.w.aRing.toNat t t
  (panels id x o.cores).foldl (fun s p =>
    if decide (p.col0 ≤ 64 * t ∧ 64 * t < p.col0 + p.cols) then (rangeFrom 0 p.rows).foldl (taccRow id x t slot p) s else s) s

-- TEPI (R126, R181, R190, R192).

/-- A row's group has failed. -/
def rowFailed (c : Core) (x : MxWord) (p : Panel) (i : Nat) : Bool :=
  x.w.side &&
    (c.failed.contains (128 * x.acc + p.row0 + i) ||
      match smGet c.bind (x.w.btab.toNat + i / x.w.groupRows) with
      | some b => b.st == .refused || b.fillFailed
      | none => false)

/-- The side-path sums of a row are used up (R190). -/
def clearRow (s : State) (core a r : Nat) : State :=
  clearSidePoison (modCore s core fun c =>
    { c with u := c.u.filter fun e => e.1 / 64 != 128 * a + r, marked := c.marked.filter (· ≠ 128 * a + r) }) core a r 1

/-- Correct one row that is ready: a row with no bound entry is left alone (R190). -/
def correctRow (x : MxWord) (p : Panel) (n0 : Nat) (s : State) (i : Nat) : State :=
  let c := getCore s p.core
  let r := p.row0 + i
  match smGet c.bind (x.w.btab.toNat + i / x.w.groupRows) with
  | none => s
  | some b =>
    if rowFailed c x p i then s
    else
      let d := getDie s (p.core / 32)
      let us := uRow c x.acc r b.rank
      let mark := c.marked.contains (128 * x.acc + r)
      let row := ((accRow c x.acc r p.cols).zip (rangeFrom 0 p.cols)).map fun (e : (Nat × Bool) × Nat) =>
        let (v, o) := accStep x.fmt.int e.1.1 (sideCorr b.alpha.toNat us (fbCol d b (n0 + e.2)))
        (v, e.1.2 || o || mark)
      let bad := sideBad s x p i
      let s := clearRow (modCore s p.core fun c => setAccRow c x.acc r 0 row) p.core x.acc r
      if bad || (linesOf d b.key).any (!·.bad.isEmpty) then
        (rangeFrom 0 p.cols).foldl (fun s n => if bad || fbBad d b (n0 + n) then accPoison s p.core x.acc r n true else s) s
      else s

/-- One group of a part that is not held: its rows are corrected, or it has failed (R192). -/
def settleGroup (x : MxWord) (p : Panel) (e : State × MxOp) (g : Nat) : State × MxOp :=
  let n0 := (getCore e.1 p.core).sideN0
  let rows := groupOf x p g
  let bit := 2 ^ groupAt p g
  ( rows.foldl (fun s i => correctRow x p (smGetD n0 (128 * x.acc + p.row0 + i) 0) s i) e.1,
    { e.2 with fixed := e.2.fixed ||| bit
               failed := if rows.any (rowFailed (getCore e.1 p.core) x p) then e.2.failed ||| bit else e.2.failed } )

/-- The groups of a part that are not held (R192). -/
def settlePanel (x : MxWord) (e : State × MxOp) (p : Panel) : State × MxOp :=
  (groupsNow e.1 e.2 x p).foldl (settleGroup x p) e

/-- A failed row of an output, by the mask that the corrections left. -/
def outFailed (x : MxWord) (mask : Nat) (p : Panel) (i : Nat) : Bool := natBit mask (p.col0 / 128 * 128 + i / x.w.groupRows)

/-- Output elements of a row of a part, from a column on. -/
def outElems (s : State) (o : MxOp) (x : MxWord) (p : Panel) (i c0 n : Nat) : List (OutElem × Bool) :=
  let f := x.fmt
  let row := ((accRow (getCore s p.core) x.acc (p.row0 + i) p.cols).drop c0).take n
  ((rangeFrom c0 n).zip row).map fun (e : Nat × (Nat × Bool)) =>
    (epiElem f x.w.epi.toNat (epiScale x.w.w5.toNat) (if f.rnd = 4 then tileDraw o.key i (p.col0 + e.1) else 0) e.2.1, e.2.2)

/-- Bytes of a row of an output slot. -/
def outRow (s : State) (o : MxOp) (x : MxWord) (p : Panel) (t i : Nat) : List Byte :=
  let b := fmtBits x.fmt.ofmt
  let per := 2048 / b
  if outFailed x o.failed p i then []
  else packRow b ((outElems s o x p i (t * per) (min per (p.cols - t * per))).map fun e => e.1.bits)

/-- The poisoned units of an output slot, with their rows: those with a poisoned element. -/
def outBad (s : State) (o : MxOp) (x : MxWord) (p : Panel) (t : Nat) : List (Nat × Nat) :=
  if s.poison.isEmpty then []
  else
    let b := fmtBits x.fmt.ofmt
    (rangeFrom 0 p.rows).flatMap fun i =>
      if outFailed x o.failed p i then []
      else
        ((rangeFrom 0 32).filter fun g => (rangeFrom (t * (2048 / b) + g * (64 / b)) (64 / b)).any fun n =>
          decide (n < p.cols) && isPoison s (.acc p.core x.acc (p.row0 + i) n)).map fun g => (p.row0 + i, g)

/-- The sums of a part's trailer: out-of-range elements and NaNs (R125, R126). -/
def outSums (s : State) (o : MxOp) (x : MxWord) (p : Panel) : Nat × Nat :=
  (rangeFrom 0 p.rows).foldl (fun n i =>
    if outFailed x o.failed p i then n
    else
      let es := outElems s o x p i 0 p.cols
      (n.1 + countIf (fun (e : OutElem × Bool) => e.1.oor || e.2) es, n.2 + countIf (fun (e : OutElem × Bool) => e.1.nan) es)) (0, 0)

/-- The trailer's GROUPS field from a TEPI's failed groups. -/
def groupsField (x : MxWord) (mask : Nat) : Nat :=
  ((rangeFrom 0 128).filter fun g => (rangeFrom 0 x.blocks).any fun j => natBit mask (128 * j + g)).foldl (fun n g => n + groupBit g) 0

/-- The trailer of a TEPI. -/
def trailerOf (s : State) (id : Nat) (o : MxOp) (x : MxWord) : List Byte :=
  let t := ((panels id x o.cores).map (outSums s o x)).foldl (fun (n : Nat × Nat) e => (n.1 + e.1, n.2 + e.2)) (0, 0)
  trailerBytes t.1 t.2 x.m x.n x.fmt.ofmt (groupsField x o.failed)

/-- Write the next slot of a TEPI. -/
def tepiSlot (id : Nat) (o : MxOp) (x : MxWord) (s : State) : State :=
  let t := o.step
  let q := x.w.out.toNat
  if x.blocks * x.outPer ≤ t then
    let tr := trailerOf s id o x
    produce id q (fun r => if r = 0 then tr else []) [] s
  else
    match (panels id x o.cores)[t / x.outPer]? with
    | none => produceZero id q s
    | some p =>
      let mine := fun (r : Nat) => decide (p.row0 ≤ r ∧ r < p.row0 + p.rows)
      produce id q (fun r => if mine r then outRow s o x p (t % x.outPer) (r - p.row0) else [])
        (outBad s o x p (t % x.outPer)) s

/-- Change a word in flight. -/
def setMx (s : State) (id : Nat) (o : MxOp) : State :=
  modCtx s id fun c => { c with mx := c.mx.map fun x => if x.num = o.num then o else x }

/-- A step of a TEPI: the groups that are not held are corrected first, and once every group is, or has failed, its slots
are produced, each when every row that it holds has been written (R181, R192). -/
def tepiStep (id : Nat) (o : MxOp) (x : MxWord) (s : State) : State :=
  if tepiOpen id o x then
    let (s, o) := (panels id x o.cores).foldl (settlePanel x) (s, o)
    let s := setMx s id o
    if tepiOpen id o x then s else tepiSlot id o x s
  else tepiSlot id o x s

-- TBIND, TXPOSE, TSMLD, TQRED (R182 to R184, R187).

/-- TBIND. -/
def tbindStep (id : Nat) (o : MxOp) (x : MxWord) (s : State) : State :=
  let slot := readSlot (getCtx s id) x x.w.aRing.toNat 0 0
  (rangeFrom 0 x.m).foldl (fun s r =>
    bindEntry s (o.cores.headD 0) (x.w.btab.toNat + r) (partOf s id) o.tenant ((slotBytes (getCore s (coreOf id)) slot r).take 16)) s

/-- TXPOSE. -/
def txposeStep (id : Nat) (x : MxWord) (s : State) : State :=
  let slot := readSlot (getCtx s id) x x.w.aRing.toNat 0 0
  let b := fmtBits x.fmt.afmt
  let r0 := firstRow id x
  let rows := (rangeFrom 0 x.m).map fun i => unpackRow b x.n (slotBytes (getCore s (coreOf id)) slot (r0 + i))
  let bad := if s.poison.isEmpty then [] else (rangeFrom 0 x.n).flatMap fun r =>
    ((rangeFrom 0 32).filter fun g => (rangeFrom (g * (64 / b)) (64 / b)).any fun i =>
      decide (i < x.m) && slotBad s (coreOf id) slot (r0 + i) (r * b / 8) (b / 8)).map fun g => (r0 + r, g)
  let s := if x.w.hold = 0 then modCtx s id fun c => ringRelease c x.w.aRing.toNat 1 else s
  produce id x.w.out.toNat
    (fun r => if decide (r0 ≤ r ∧ r < r0 + x.n) then packRow b (rows.map fun (l : List Nat) => l.getD (r - r0) 0) else [])
    bad s

/-- The first bad group of a metadata slot: a nibble with i0 ≥ i1 (R184). -/
def badGroup (bs : List Byte) : Option Nat :=
  (bs.flatMap fun (b : Byte) => [b.toNat % 16, b.toNat / 16]).findIdx? fun x => decide (x / 4 ≤ x % 4)

/-- TSMLD. -/
def tsmldStep (id : Nat) (o : MxOp) (x : MxWord) (s : State) : State :=
  let slot := readSlot (getCtx s id) x x.w.aRing.toNat 0 0
  let core := o.cores.headD 0
  (rangeFrom 0 (x.m / 8)).foldl (fun s t =>
    let n := (x.w.slot.toNat + t) % 16
    let bs := (rangeFrom (8 * t) 8).flatMap fun r => slotBytes (getCore s (coreOf id)) slot r
    let s := modCore s core fun c =>
      { c with
        smeta := memSetCells c.smeta (2048 * n) bs
        metaBad := match badGroup bs with | some g => smPut c.metaBad n g | none => smDel c.metaBad n
        metaOwner := smPut c.metaOwner n id }
    if s.poison.isEmpty then s
    else (rangeFrom 0 256).foldl (fun s g =>
      setPoison s (.smeta core (256 * n + g)) (isPoison s (.slot (coreOf id) slot (8 * t + g / 32) (g % 32)))) s) s

/-- TQRED: the quad's four partial tiles are added into the issuing core's (R187). -/
def tqredStep (id : Nat) (x : MxWord) (s : State) : State :=
  let cs := (rangeFrom (4 * quadOf id) 4).map (getCore s)
  let own := coreOf id
  let bad := s.poison.filterMap fun l => match l with | .acc k t r n => if t = x.acc ∧ k / 4 = quadOf id then some (r, n) else none | _ => none
  (rangeFrom 0 x.m).foldl (fun s r =>
    let rows := cs.map fun c => accRow c x.acc r x.qredCols
    let new := (rangeFrom 0 x.qredCols).map fun n =>
      let es := rows.map fun (l : List (Nat × Bool)) => l.getD n (0, false)
      let (v, o) := quadSum x.fmt.int (es.map (·.1))
      (v, o || es.any (·.2))
    let s := modCore s own fun c => setAccRow c x.acc r 0 new
    (bad.filter fun e => e.1 == r && decide (e.2 < x.qredCols)).foldl (fun s e => accPoison s own x.acc e.1 e.2 true) s) s

-- K_STEP (R175 to R177).

/-- What a step does besides its rings. -/
def mxEffect (id : Nat) (o : MxOp) (x : MxWord) (s : State) : State :=
  match x.kind with
  | .tmma => productStep id o x s
  | .tmmas => productStep id o x s
  | .tzero => (panels id x o.cores).foldl (zeroPanel x o.stamp) s
  | .tacc => taccStep id o x s
  | .tepi => tepiStep id o x s
  | .tbind => tbindStep id o x s
  | .txpose => txposeStep id x s
  | .tsmld => tsmldStep id o x s
  | .tqred => tqredStep id x s
  | .tstage => s

/-- A guarded-off step enters zero slots into its output ring (R175). -/
def mxSkip (id : Nat) (x : MxWord) (s : State) : State :=
  let s := if x.kind = .txpose ∧ x.w.hold = 0 then modCtx s id fun c => ringRelease c x.w.aRing.toNat 1 else s
  x.writes.foldl (fun s q => produceZero id q s) s

/-- The slots that a step uses for the last time are released (R169). TXPOSE has released its own before it produced. -/
def stepRelease (id : Nat) (x : MxWord) (st : Nat) (s : State) : State :=
  if x.kind = .txpose then s
  else modCtx s id fun c => x.reads.foldl (fun c q => ringRelease c q (x.released q (st + 1) - x.released q st)) c

/-- A TEPI has completed: the side-path words that it consumes no longer pin their lines (R317). -/
def releaseEnts (id : Nat) (o : MxOp) (x : MxWord) (s : State) : State :=
  if x.kind = .tepi ∧ x.w.side = true then
    (panels id x o.cores).foldl (fun s p => modCore s p.core (dropEnts (panelQuarters x.acc p) o.stamp)) s
  else s

/-- A word has run its last step: its number completes and its staging is free. -/
def finishMx (id : Nat) (o : MxOp) (x : MxWord) (s : State) : State :=
  let s := if o.guardOff then s else releaseEnts id o x s
  let s := modCtx s id fun c => tcFinish { c with mx := c.mx.filter fun y => y.num != o.num } 5 o.num
  if !o.guardOff && needsStaging s id x then
    modDie s (dieOf id) fun d => { d with stageUsed := smSet d.stageUsed (partOf s id) (smGetD d.stageUsed (partOf s id) 0 - 1) 0 }
  else s

/-- The contexts of a core whose matrix words wait try again. -/
def wakeCore (core : Nat) (s : State) : State :=
  raise s (((s.ctxs.filter fun e => coreOf e.1 == core && e.2.onMatrix).map (·.1)).map Event.waitSatisfied)

/-- A step has taken effect: the word goes on to its next, unless its TEPI waits for held groups. -/
def afterStep (id : Nat) (x : MxWord) (o : MxOp) (s : State) : State :=
  if !o.guardOff && tepiOpen id o x then s
  else if x.steps ≤ o.step + 1 then finishMx id o x s
  else setMx s id { o with step := o.step + 1 }

/-- Run a word's next step. -/
def runStep (id : Nat) (o : MxOp) (s : State) : State :=
  let x := mxWord o
  let s := if o.guardOff then mxSkip id x s else mxEffect id o x s
  let s := stepRelease id x o.step s
  let s :=
    match (getCtx s id).mx.find? (fun y => y.num == o.num) with
    | some o => afterStep id x o s
    | none => s
  wakeCore (coreOf id) s

/-- K_STEP: a word in flight performs one step once it can (R177, R188). -/
def execKStep (ctx num : Nat) (s : State) : Out :=
  match (getCtx s ctx).mx.find? (fun o => o.num == num) with
  | none => .next s
  | some o => .next (if stepReady s ctx o then runStep ctx o s else s)

end Sys2Proof.Machine
end

