-- ==== Sys2Proof/Machine/Stage.lean ====
section
/-! DEFINITION. The copy engine's steps: a slot of a TSTAGE, a line of a copy, a granule's fill (07 R185, R186, 10 R246 to
R248, 13 R293). -/

namespace Sys2Proof.Machine

/-- Fields of TSTAGE's W5 (R185). -/
def stageBr (w : TileW) : Nat := natField w.w5.toNat 0 4
def stageStep (w : TileW) : Nat := natField w.w5.toNat 8 4
def stageDrains (w : TileW) : Bool := natBit w.w5.toNat 12
def stageLocal (w : TileW) : Bool := natBit w.w5.toNat 13

/-- Two TSTAGEs share a ring, or a loop register that one of them steps. -/
def stagesShare (w v : TileW) : Bool :=
  w.aRing == v.aRing || stageBr w == stageBr v || stageBr w == stageStep v || stageStep w == stageBr v

/-- An earlier TSTAGE or matrix word of the context goes first on a TSTAGE's ring (R169, R188). -/
def stageHeld (c : Ctx) (o : CopyOp) (w : TileW) (stamp : Nat) : Bool :=
  c.copies.any (fun k => match k.kind with | .stage v _ _ _ => decide (k.num < o.num) && stagesShare w v | _ => false) ||
    c.mx.any fun k => decide (k.stamp < stamp) &&
      (if stageDrains w then (mxWord k).reads.contains w.aRing.toNat else (mxWord k).writes.contains w.aRing.toNat)

/-- A TSTAGE can move its next slot. -/
def stageReady (s : State) (id : Nat) (o : CopyOp) (w : TileW) (stamp : Nat) : Bool :=
  let c := getCtx s id
  let q := w.aRing.toNat
  c.run != .saving && o.halt.isNone && !stageHeld c o w stamp &&
    (if stageDrains w then decide (1 ≤ ringFilled c q) else decide (1 ≤ ringFree c q))

/-- Address of row `r` of the slot. -/
def stageAddr (c : Ctx) (w : TileW) (pitch : Word) (r : Nat) : Word :=
  copyAddr (stageLocal w) (lget c 3 (stageBr w) + natW (r - w.row0) * pitch)

/-- What a slot's memory accesses come to. -/
inductive SlotRes where
  | ok (rows : List (List PB)) (s : State)
  | halt (h : Halt) (s : State)
  | wait (s : State)

/-- Read rows `r` on for a fill. -/
def fillRows (ag : Agent) (c : Ctx) (w : TileW) (pitch : Word) : Nat → Nat → List (List PB) → State → SlotRes
  | 0, _, acc, s => .ok acc s
  | n + 1, r, acc, s =>
    let va := stageAddr c w pitch r
    match rangeRead ag .cr w.k.toNat s va w.k.toNat [] with
    | .ok bs s => fillRows ag c w pitch n (r + 1) (acc ++ [bs]) s
    | .fault cause va s => .halt { cause := cause, va := va, write := false } s
    | .wait s => .wait s

/-- Cut a row at the boundaries of 512-byte blocks. -/
def cutBlocks : Nat → Word → List PB → List (Word × List PB)
  | 0, _, _ => []
  | f + 1, va, bs =>
    if bs.isEmpty then []
    else
      let k := min bs.length (512 - va.toNat % 512)
      (va, bs.take k) :: cutBlocks f (va + natW k) (bs.drop k)

/-- The block of an address. -/
def sealBlockOf (va : Word) : Nat := va.toNat / 512

/-- Put pieces of a block over its bytes. -/
def patchBlock (old : List Byte) (ps : List (Word × List PB)) : List Byte :=
  ps.foldl (fun b p => let o := p.1.toNat % 512; b.take o ++ bytesOf p.2 ++ b.drop (o + p.2.length)) old

/-- Write the pieces of one sealed block by one merge (R293). -/
def drainSealed (ag : Agent) (ps : List (Word × List PB)) (va : Word) (s : State) : SlotRes :=
  match xlate s ag .cw true va with
  | .page lo hi pa inPage =>
    if !grants lo .cw true then .halt { cause := 4, va := va, write := true } s
    else if ps.any fun p => anyBad p.2 then .halt { cause := 6, va := va, write := true } s
    else
      match sealedRead s ag.part 0 ag.tenant hi pa inPage with
      | .error c => .halt { cause := c, va := va, write := true } s
      | .ok old =>
        if anyBad old then .halt { cause := 6, va := va, write := true } s
        else
          let base := pa / 512 * 512
          match sealedWrite s ag hi base (inPage / 512 * 512) (patchBlock (bytesOf old) ps) with
          | (.error c, s) => .halt { cause := c, va := va, write := true } s
          | (.ok _, s) => .ok [] s
  | .bad c => .halt { cause := c, va := va, write := true } s
  | .scratch _ => .halt { cause := 4, va := va, write := true } s

/-- Write the pieces of a drained slot, each sealed block once. -/
def drainPieces (ag : Agent) (all : List (Word × List PB)) : List Nat → List (Word × List PB) → State → SlotRes
  | _, [], s => .ok [] s
  | done, (va, bs) :: rest, s =>
    if done.contains (sealBlockOf va) then drainPieces ag all done rest s
    else if sealedAt s ag va then
      match drainSealed ag (all.filter fun p => sealBlockOf p.1 == sealBlockOf va) va s with
      | .ok _ s => drainPieces ag all (sealBlockOf va :: done) rest s
      | x => x
    else
      match rangeWrite ag .cw bs.length s va bs with
      | .ok _ s => drainPieces ag all done rest s
      | .fault cause va s => .halt { cause := cause, va := va, write := true } s
      | .wait s => .wait s

/-- The rows of a slot that a drain writes, with their poison. -/
def drainRows (s : State) (id : Nat) (w : TileW) (pitch : Word) (slot : Nat) : List (Word × List PB) :=
  let c := getCtx s id
  (rangeFrom w.row0 w.m.toNat).flatMap fun r =>
    cutBlocks (w.k.toNat + 1) (stageAddr c w pitch r) (((rangeFrom 0 w.k.toNat).zip (slotBytes (getCore s (coreOf id)) slot r)).map fun e => (e.2, slotBad s (coreOf id) slot r e.1 1))

/-- The base register steps (R185). -/
def stepBase (w : TileW) (c : Ctx) : Ctx := lput c 3 (stageBr w) (lget c 3 (stageBr w) + lget c 3 (stageStep w))
/-- Blocks that the rows of the next `n` slots lie in. -/
def slotBlocks (w : TileW) (pitch : Word) : Nat → Ctx → List Nat
  | 0, _ => []
  | n + 1, c =>
    ((rangeFrom w.row0 w.m.toNat).flatMap fun r =>
      let va := stageAddr c w pitch r
      rangeFrom (sealBlockOf va) (sealBlockOf (va + natW (w.k.toNat - 1)) - sealBlockOf va + 1)) ++ slotBlocks w pitch n (stepBase w c)
/-- A sealed piece waits for a later slot of the command that writes its block: each block is written by one merge, once
per command (R293). DEDUCED (log entry 38). -/
def pieceWaits (s : State) (ag : Agent) (later : List Nat) (p : Word × List PB) : Bool :=
  later.contains (sealBlockOf p.1) && sealedAt s ag p.1

/-- A TSTAGE's slot is done: the base register steps, and after the last slot its number completes. -/
def stageNext (id : Nat) (o : CopyOp) (w : TileW) (s : State) : State :=
  let s := modCtx s id (stepBase w)
  let s := if w.n.toNat ≤ o.pos + 1 then endCopy s id o.num else setCopy s id { o with pos := o.pos + 1 }
  wakeCore (coreOf id) s

/-- A TSTAGE halts at its slot (R186). -/
def haltStage (id : Nat) (o : CopyOp) (h : Halt) (s : State) : State :=
  wakeCore (coreOf id) (setCopy s id { o with halt := some h })

/-- Poisoned 8-byte units of rows from one on. -/
def badParts (r0 : Nat) (rows : List (List PB)) : List (Nat × Nat) :=
  ((rangeFrom r0 rows.length).zip rows).flatMap fun e =>
    if anyBad e.2 then ((rangeFrom 0 32).filter fun g => anyBad ((e.2.drop (8 * g)).take 8)).map fun g => (e.1, g) else []

/-- Fill the next slot. -/
def fillSlot (id : Nat) (o : CopyOp) (w : TileW) (pitch : Word) (off : Bool) (s : State) : State :=
  let q := w.aRing.toNat
  if off then stageNext id o w (produceZero id q s)
  else
    match fillRows (copyAgent s id o) (getCtx s id) w pitch w.m.toNat w.row0 [] s with
    | .ok rows s =>
      let row := fun (r : Nat) => if r < w.row0 then [] else rows.getD (r - w.row0) []
      stageNext id o w (produce id q (fun r => bytesOf (row r)) (badParts w.row0 rows) s)
    | .halt h s => haltStage id o h s
    | .wait s1 => { s with agenda := s1.agenda }

/-- Drain the next slot. -/
def drainSlot (id : Nat) (o : CopyOp) (w : TileW) (pitch : Word) (off : Bool) (s : State) : State :=
  let q := w.aRing.toNat
  let done := fun (o : CopyOp) (s : State) => stageNext id o w (modCtx s id fun c => ringRelease c q 1)
  if off then done o s
  else
    let ag := copyAgent s id o
    let all := o.kept ++ drainRows s id w pitch (ringSlot (getCtx s id) q 0)
    let later := slotBlocks w pitch (w.n.toNat - o.pos - 1) (stepBase w (getCtx s id))
    let ps := all.filter fun p => !pieceWaits s ag later p
    match drainPieces ag ps [] ps s with
    | .ok _ s1 => done { o with kept := all.filter (pieceWaits s ag later) } s1
    | .halt h s => haltStage id o h s
    | .wait s1 => { s with agenda := s1.agenda }

/-- Move a TSTAGE's next slot, if it can. -/
def stageStepOf (s : State) (id : Nat) (o : CopyOp) (w : TileW) (pitch : Word) (off : Bool) (stamp : Nat) : State :=
  if stageReady s id o w stamp then (if stageDrains w then drainSlot id o w pitch off s else fillSlot id o w pitch off s) else s

/-- The copy operation of a context by its number. -/
def copyOf (s : State) (id num : Nat) : Option CopyOp := (getCtx s id).copies.find? fun o => o.num == num

/-- TSTAGE_SLOT (R185). -/
def execTstageSlot (ctx num : Nat) (s : State) : Out :=
  match copyOf s ctx num with
  | some o =>
    match o.kind with
    | .stage w pitch off stamp => .next (stageStepOf s ctx o w pitch off stamp)
    | _ => .next s
  | none => .next s

/-- COPY_LINE: a copy moves its next line unless it has halted or its context is being saved (R68, R246, R247). -/
def execCopyLine (ctx num : Nat) (s : State) : Out :=
  match copyOf s ctx num with
  | some o =>
    if o.halt.isSome || (getCtx s ctx).run == .saving then .next s
    else
      match o.kind with
      | .move src dst sl dl len trips ss ds l => .next (moveLine s ctx o (copyAddr sl src) (copyAddr dl dst) len trips ss ds l)
      | .fill r g => .next (runFill s ctx o r g)
      | .writeBack r unmap left => .next (writeBackLine s ctx o r unmap left)
      | .stage _ _ _ _ => .next s
  | none => .next s

end Sys2Proof.Machine
end

