-- ==== Sys2Proof/Machine/Record.lean ====
section
/-! DEFINITION. Tile-task records: their fields and checks, TTASK, and the queues of the tile schedulers (03 R74, R75,
07 R193, R197 to R200, R205, R365, R381). -/

namespace Sys2Proof.Machine

-- Fields of a record (R197).

/-- W0 to W5 as one number. -/
def recUnits (bs : List Byte) : Nat := fieldAt bs 0 24
/-- The fields of a record's word. -/
def recTile (bs : List Byte) : TileW := decTile (recUnits bs)
/-- The record's opcode. -/
def recOp (bs : List Byte) : Nat := natField (recUnits bs) 20 8
/-- ADDRA, ADDRB, ADDRC, ADDRS, HSET and BTAB are numbers 0 to 5. -/
def recAddr (bs : List Byte) (i : Nat) : Nat := fieldAt bs (24 + 8 * i) 8
/-- PITCHA, PITCHB and PITCHC are numbers 0 to 2. -/
def recPitch (bs : List Byte) (i : Nat) : Nat := fieldAt bs (116 + 4 * i) 4
/-- Wait selector i and its value. -/
def recSel (bs : List Byte) (i : Nat) : Nat := fieldAt bs (72 + 4 * i) 4
def recVal (bs : List Byte) (i : Nat) : Nat := fieldAt bs (80 + 8 * i) 8
def recDone (bs : List Byte) : Nat := fieldAt bs 96 8
def recFault (bs : List Byte) : Nat := fieldAt bs 104 8
def recTenant (bs : List Byte) : Nat := fieldAt bs 112 2 % 4096
def recScale (bs : List Byte) : Nat := fieldAt bs 114 1

/-- Reserved fields, the level, FAULT and CDONE of a record (R5, R36, R39, R197, R199). DEDUCED (log entry 43). -/
def recShape (bs : List Byte) : Bool :=
  let us := recUnits bs
  natField us 28 4 == 12 && natField us 6 14 == 0 && natField us 0 3 == 0 && natField us 156 4 == 0 &&
    decide ((recTile bs).level.toNat ≤ 5) && fieldAt bs 115 1 == 0 && natField (fieldAt bs 112 2) 12 4 == 0 &&
    natField (recSel bs 0) 12 19 == 0 && natField (recSel bs 1) 12 19 == 0 &&
    recFault bs != 0 && recFault bs % 64 == 0 && recDone bs % 8 == 0

/-- The output handle and queue wait are reserved in a record (R198); the coded fields follow R37, R38 and R193. -/
def recCommon (w : TileW) : Bool :=
  tileCommon w && mOk w && nOk w && w.out == 0 && w.hold == 0 && decide (w.epi.toNat ≤ 5)
/-- Fields that an opcode without a B operand does not use (R173). -/
def noB (w : TileW) : Bool := w.bRing == 0 && w.scl == 0 && w.slot == 0

/-- Binding entries of a core child fit the table. -/
def recSide (w : TileW) : Bool :=
  if w.side then w.ovf && decide (w.btab.toNat + ceilDiv (min w.m.toNat 128) w.groupRows ≤ 128) else w.btab == 0 && w.w5 == 0

/-- The word of a record of an opcode (R173, R198, R199). -/
def recWord (op : Nat) (w : TileW) : Bool :=
  recCommon w &&
    match op with
    | 0 => kOk w && !w.sparse && recSide w && w.slot == 0
    | 1 => kOk w && w.k.toNat % 4 == 0 && w.sparse && recSide w
    | 2 => noB w && w.aRing == 0 && w.group == 0 && !w.side && !w.sparse && w.k == 0 && noEpi w && w.btab == 0 && w.w5 == 0
    | 3 => noB w && w.group == 0 && !w.side && !w.sparse && w.k == 0 && noEpi w && w.btab == 0 && w.w5 == 0
    | 4 => noB w && w.aRing == 0 && !w.side && !w.sparse && w.k == 0 && w.btab == 0
    | _ => false

/-- Stored elements of a column of B over the whole K. -/
def storedK (f : TFmt) (k : Nat) : Nat := if f.sparse then k / 2 else k

/-- The tiles that an opcode uses: which address, and the bits of a row. -/
def recTiles (op : Nat) (w : TileW) (f : TFmt) : List (Nat × Nat) :=
  let k := w.k.toNat
  let n := w.n.toNat
  match op with
  | 2 => [(2, n * fmtBits f.ofmt)]
  | 3 => [(0, 32 * n), (2, 32 * n)]
  | 4 => [(0, 32 * n), (2, n * fmtBits f.ofmt)]
  | _ => [(0, k * fmtBits f.afmt), (1, storedBits f.bfmt (storedK f k)), (2, n * fmtBits f.ofmt)]

/-- The alignment rules of R199. -/
def recAligned (op : Nat) (w : TileW) (f : TFmt) (bs : List Byte) : Bool :=
  (recTiles op w f).all (fun t =>
    decide (recAddr bs t.1 % 64 = 0 ∧ recPitch bs t.1 % 64 = 0 ∧ ceilDiv t.2 8 ≤ recPitch bs t.1)) &&
    (decide (1 < op) || ((!(f.ascl || f.bscl) || recAddr bs 3 % 64 == 0) &&
      (!w.side || decide (recAddr bs 4 % 64 = 0 ∧ recAddr bs 5 % 64 = 0)) && (!f.vq || w.k.toNat % 8 == 0)))

/-- The format entry that TTASK reads: the issuing context's table for a full context, the full context's for a light
one; none for an index above 63 (R37, R199). -/
def recEntry (s : State) (id : Nat) (w : TileW) : Option Word :=
  let c := getCtx s (fullOf id)
  let i := w.fbase.toNat + (if w.fmode = 1 then (lget c 4 w.floop.toNat).toNat else 0)
  if 63 < i then none else some (smGetD c.xfte i 0)

/-- The physical full context, counter and value that a used wait selector awaits; none where it is unmapped (R197). -/
def recWait (s : State) (id : Nat) (sel v : Nat) : Option (List (Nat × Nat × Nat)) :=
  if !natBit sel 31 then some []
  else
    match physical s (dieOf id) (partOf s id) .die (natField sel 10 2) with
    | none => none
    | some d =>
      match physical s d (partOf s id) .cluster (natField sel 3 7) with
      | none => none
      | some c => some [(8 * (128 * d + c), natField sel 0 3, v)]
/-- The waits of a record. -/
def recWaits (s : State) (id : Nat) (bs : List Byte) : Option (List (Nat × Nat × Nat)) :=
  match recWait s id (recSel bs 0) (recVal bs 0), recWait s id (recSel bs 1) (recVal bs 1) with
  | some a, some b => some (a ++ b)
  | _, _ => none

/-- The task's own unit, logical and physical on its die (R38). At cluster level no child needs the logical number. -/
def recPlace (s : State) (id : Nat) (w : TileW) : Option (Nat × Nat) :=
  let die := dieOf id
  let part := partOf s id
  let pl := w.place.toNat
  let lookup := fun (k : PlaceKind) (n : Nat) => (physical s die part k n).map fun p => (n, p)
  let own := fun (k : PlaceKind) (p : Nat) => (logicalOf s die part k p).map fun n => (n, p)
  let core := coreOf id % 32
  match w.level.toNat with
  | 0 => if w.place = 0xFFF then some (0, clusterOf id % 128)
         else (logicalOf s die part .core core).bind fun lc => lookup .cluster (4 * lc + pl)
  | 1 => if w.place = 0xFFF then own .core core
         else (logicalOf s die part .quad (core / 4)).bind fun lq => lookup .core (4 * lq + pl)
  | 2 => if w.place = 0xFFF then own .quad (core / 4) else lookup .quad pl
  | 3 => if w.place = 0xFFF then own .die die else lookup .die pl
  | _ => some (0, 0)

/-- The issuer's unit of a level (R74). -/
def queueUnit (s : State) (id level : Nat) : UnitId :=
  { level := level, part := partOf s id
    n := match level with | 0 => clusterOf id | 1 => coreOf id | 2 => quadOf id | 3 => dieOf id | _ => 0 }

/-- Records of a queue that no sequencer has taken yet. -/
def queuedAt (s : State) (u : UnitId) : List Task := s.tasks.filter fun t => t.unit == u && t.st == .queued

/-- The number that orders the tasks of a queue, as last given. -/
def seqOf (s : State) (u : UnitId) : Nat := ((s.taskSeq.find? fun e => e.1 == u).map (·.2)).getD 0

/-- Where a fault area lies. -/
inductive AreaPlace where
  | scratch (core off : Nat)
  | mem (pa : Nat)
  /-- Memory that no page leads to now: the address that the record names. -/
  | page (part tenant va : Nat)
  deriving DecidableEq, Repr

/-- The place of a fault area that a context of a core names (R210, R285). -/
def areaPlace (s : State) (core part tenant va : Nat) : AreaPlace :=
  if inWindow (natW va) then .scratch core (va % 2 ^ 22)
  else match sysRoute s part tenant .ls true (natW va) with | .ok pa => .mem pa | .error _ => .page part tenant va
/-- The place of a task's fault area. -/
def taskArea (s : State) (t : Task) : AreaPlace := areaPlace s (coreOf t.ctx) t.unit.part t.itenant (taskFault t)

/-- A TRESUME that is queued or running names an area (R365). -/
def areaTaken (s : State) (area : AreaPlace) : Bool := s.tasks.any fun t => t.resume && t.st != .faulted && taskArea s t == area
/-- The faulted task of the area that a TRESUME names: the area's NUM is its number (R202). -/
def areaFault (s : State) (t : Task) : Option Task :=
  s.tasks.find? fun x => x.st == .faulted && x.num == t.num && taskArea s x == taskArea s t

/-- Bytes with ORIGOP and ORIGW5 in the places of the opcode and W5. -/
def restoreWord (bs : List Byte) (op w5 : Nat) : List Byte :=
  leBytes 24 (putField (putField (recUnits bs) 20 8 op) 160 32 w5) ++ bs.drop 24

/-- The launch whose placement map and FUSE a task follows. -/
def taskLaunch (s : State) (id : Nat) : Option Nat := ((getCtx s id).member.orElse fun _ => (getCtx s (fullOf id)).member).map (·.lid)

/-- A record that has passed every check, as a task that is not queued yet (R199): the record's bytes with the opcode and
W5 that it runs, and for a TRESUME the number of its fault area. A package that knows of no other is attached to no
fabric (R3). DEDUCED (log entry 89). -/
def recTask (s : State) (id addr : Nat) (bs : List Byte) (resume : Option Nat) (w5 : Nat) : Option Task :=
  let w := recTile bs
  let op := recOp bs
  match recEntry s id w, recWaits s id bs with
  | some x, some waits =>
    match wordFmt w x with
    | none => none
    | some f =>
      if recWord op w && recAligned op w f bs && tenantIn s (recTenant bs) (partOf s id) then
        let c := getCtx s id
        some { id := s.nextId + 1, unit := queueUnit s id w.level.toNat, seq := 0, prio := fld c.xprio 0 7, bytes := bs, addr := addr, ctx := id,
               num := resume.getD 0, tenant := recTenant bs, view := viewOf c, fte := x, key := tileKey c,
               lid := taskLaunch s id, owner := c.uid, full := (getCtx s (fullOf id)).uid, itenant := c.tenant.toNat, inst := instOf c,
               fuse := fusedQuad s (quadOf id), place := recPlace s id w, waits := waits, resume := resume.isSome,
               mapAt := if resume.isSome then w5 else 0, solo := s.populated.isEmpty }
      else none
  | _, _ => none

/-- Queue a task: it takes the next number of its cluster's tc.mx, and a TRESUME takes up its fault area with the key of
its draws, so that its children give the bits of the first time (R74, R200, R204, R365). DEDUCED (log entry 47). -/
def queueTask (t : Task) (s : State) : Nat × State :=
  let n := seqOf s t.unit + 1
  let s := { s with nextId := s.nextId + 1, taskSeq := (t.unit, n) :: s.taskSeq.filter fun e => e.1 != t.unit }
  if t.resume then
    match areaFault s t with
    | some o => (n, { s with tasks := (s.tasks.filter fun x => x.id != o.id) ++ [{ t with seq := n, owner := o.owner, full := o.full, key := o.key }] })
    | none => (n, { s with tasks := s.tasks ++ [{ t with seq := n }] })
  else
    let (num, c) := tcTake (getCtx s (fullOf t.ctx)) 5
    let s := setCtx s (fullOf t.ctx) c
    (n, { s with tasks := s.tasks ++ [{ t with seq := n, num := num }] })

/-- Status 2: REFUSED. -/
def refuseTask (e : Bool) (d : SReg) (s : State) : Out := result e d 2 s

/-- The rest of TTASK: FULL, or the sequence number (R74). -/
def admitTask (e : Bool) (d : SReg) (t : Option Task) (s : State) : Out :=
  match t with
  | none => refuseTask e d s
  | some t =>
    if 256 ≤ (queuedAt s t.unit).length then result e d 1 s
    else
      let (n, s) := queueTask t s
      result e d (natW (n % 2 ^ 48 * 2 ^ 16)) s

/-- A TRESUME reads the header of its fault area as a scalar load (R199, R204). -/
def admitResume (e : Bool) (d : SReg) (addr : Nat) (bs : List Byte) (s : State) : Out :=
  loadLines 1 (natW (recFault bs)) [] s fun h s =>
    let w5 := (recTile bs).w5.toNat
    if fieldAt h 48 1 != 1 || w5 % 8 != 0 || areaTaken s (areaPlace s (coreOf s.cur) (partOf s s.cur) (me s).tenant.toNat (recFault bs)) || decide (4 < fieldAt h 3 1) then refuseTask e d s
    else admitTask e d (recTask s s.cur addr (restoreWord bs (fieldAt h 3 1) (fieldAt h 4 4)) (some (fieldAt h 32 8)) w5) s

/-- TTASK (R74, R199, R381). -/
def execTtask (e : Bool) (d a : SReg) (s : State) : Out :=
  withSrc [a] s fun s =>
    let va := alignDown (rs s a) 128
    loadLines 2 va [] s fun bs s =>
      let level := (recTile bs).level.toNat
      if 5 < level then refuseTask e d s
      else if fabricPending (me s) level then .next (stallHere (.counter 6 (tcOf (me s) 6).issued) s)
      else
        let s := release s s.cur level none
        if !recShape bs then refuseTask e d s
        else
          storeCheckedAll 6 (natW (recFault bs)) s fun s =>
            storeCheckedAll (if recDone bs = 0 then 0 else 1) (natW (recDone bs)) s fun s =>
              if recOp bs = 0x0A then admitResume e d va.toNat bs s
              else admitTask e d (recTask s s.cur va.toNat bs none 0) s

end Sys2Proof.Machine
end

