-- ==== Sys2Proof/Machine/TileTask.lean ====
section
/-! DEFINITION. Tile tasks at work: the tile schedulers, the children of every level, their staging and results, faults on
the way up, TRESUME and completion (03 R75, 07 R193 to R205, 19 R363, R365). -/

namespace Sys2Proof.Machine

-- Staging reads (R195, R363).

/-- What a child waits for: nothing of its own, a Herbarium fill on a die, or the first-touch fill of a granule of a map
region of the issuer's core (R211, R318). -/
inductive Need where
  | nothing
  | site (die : Nat) (k : SiteKey) (lines : Nat)
  | granule (region g : Nat)

/-- Why a child cannot go on: its fault, or what it waits for. -/
inductive Stop where
  | fault (f : ChildFault)
  | wait (k : Need)

/-- A fault of the band that is being staged (R363). -/
def stageFault (cause opnd addr : Nat) : Stop := .fault { flv := 0, cause := cause, opnd := opnd, addr := addr, path := [] }

/-- The core of a task's own sequencer, where a cluster or a core runs the task. -/
def taskCore (t : Task) : Option Nat :=
  match t.unit.level, t.place with
  | 0, some p => some (32 * dieOf t.ctx + p.2 / 4)
  | 1, some p => some (32 * dieOf t.ctx + p.2)
  | _, _ => none
/-- A task's sequencer works through the L1 of the issuing core: its cluster's, its core's or its fused quad's (R207). -/
def taskNear (s : State) (t : Task) : Bool :=
  match taskCore t with
  | some k => l1Unit s k == l1Unit s (coreOf t.ctx)
  | none => t.unit.level == 2 && fusedQuad s (quadOf t.ctx) && (t.place.map (·.2)) == some (quadOf t.ctx % 8)
/-- Die of a task's own unit. -/
def taskDie (t : Task) : Nat := if t.unit.level = 3 then (t.place.map (·.2)).getD 0 else dieOf t.ctx
/-- The agent of a task's reads: the issuer's core under the issuer's view (R195). -/
def taskAgent (t : Task) : Agent := { ctx := t.ctx, part := t.unit.part, tenant := t.tenant, view := t.view }
/-- A task reads a line through the issuing core's L1: its sequencer works through it, and the page's point is P-L1 (R207). -/
def nearRead (s : State) (t : Task) (lo : Word) (line : Nat) : Bool := taskNear s t && pagePoint lo (64 * line) == 0
/-- Bytes of a line as a task reads them: as the issuing core reads them where its sequencer works through that core's L1, else
at the home (R207, R219, R221). DEDUCED (log entry 44). -/
def taskLine (s : State) (t : Task) (lo : Word) (line off n : Nat) : List PB :=
  if taskNear s t then peekLine s (taskAgent t) (pagePoint lo (64 * line)) line off n
  else visibleHome s t.unit.part t.view line off n

/-- Read bytes with a permission of a tenant; the first byte that cannot be read is the fault's. The scratchpad window is the
issuing core's (R210). -/
def stageGo (s : State) (t : Task) (u : Use) (tn opnd : Nat) : Nat → Nat → Nat → List Byte → Except Stop (List Byte)
  | 0, _, _, acc => .ok acc
  | f + 1, va, n, acc =>
    if n = 0 then .ok acc
    else
      let k := segLen (natW va) n
      let go := fun (bs : List PB) =>
        if anyBad bs then .error (stageFault 6 opnd (va + bs.findIdx (·.2)))
        else stageGo s t u tn opnd f (va + k) (n - k) (acc ++ bytesOf bs)
      if inWindow (natW va) then
        match unfilled (getCore s (coreOf t.ctx)) (va % 2 ^ 22) k with
        | some (r, g) => .error (.wait (.granule r g))
        | none => go (scratchRead s (coreOf t.ctx) (va % 2 ^ 22) k)
      else
        match sysPage s t.unit.part tn u false (natW va) with
        | .error c => .error (stageFault c opnd va)
        | .ok (lo, pa) =>
          if delayed s t.unit.part (pa / 64) then .error (.wait .nothing)
          else go (taskLine s t lo (pa / 64) (pa % 64) k)
/-- Read `n` bytes of an operand. -/
def stageRead (s : State) (t : Task) (opnd va n : Nat) : Except Stop (List Byte) := stageGo s t .ms t.tenant opnd n va n []
/-- Read `n` bytes as the issuer's scalar accesses do. -/
def issuerRead (s : State) (t : Task) (va n : Nat) : Except Stop (List Byte) := stageGo s t .ls t.itenant 0xFF n va n []
/-- A range has been read at the homes: the issuing core keeps no older copy of its lines, so that none of its own reads goes back
in the order of a byte's writes (R219). `f` bounds the segments. -/
def noteRange (t : Task) : Nat → Nat → Nat → State → State
  | 0, _, _, s => s
  | f + 1, va, n, s =>
    if n = 0 ∨ inWindow (natW va) = true then s
    else
      let k := segLen (natW va) n
      noteRange t f (va + k) (n - k)
        (match sysPage s t.unit.part t.tenant .ms false (natW va) with
         | .ok (lo, pa) => if nearRead s t lo (pa / 64) then s else dropNearCopies s (coreOf t.ctx) (pa / 64)
         | .error _ => s)
/-- Ranges have been read. -/
def noteReads (t : Task) (rs : List (Nat × Nat)) (s : State) : State :=
  if (l1Arrays s (coreOf t.ctx)).all (fun k => (getCore s k).l1.isEmpty) && (getDie s (dieOf t.ctx)).visitors.isEmpty then s
  else rs.foldl (fun s r => noteRange t r.2 r.1 r.2 s) s
/-- Read ranges one after another. DEDUCED (log entry 44). -/
def stageAll (s : State) (t : Task) (opnd : Nat) : List (Nat × Nat) → Except Stop (List (List Byte))
  | [] => .ok []
  | (va, n) :: rest =>
    match stageRead s t opnd va n with
    | .error e => .error e
    | .ok bs =>
      match stageAll s t opnd rest with
      | .error e => .error e
      | .ok l => .ok (bs :: l)

-- A task's record.

def taskTile (t : Task) : TileW := recTile t.bytes
def taskOp (t : Task) : Nat := recOp t.bytes
def taskFmt (t : Task) : TFmt := (wordFmt (taskTile t) t.fte).getD noFormat
def taskM (t : Task) : Nat := (taskTile t).m.toNat
def taskN (t : Task) : Nat := (taskTile t).n.toNat
def taskK (t : Task) : Nat := (taskTile t).k.toNat
/-- Address of row `i` of a tile. -/
def tileRow (t : Task) (i r : Nat) : Nat := recAddr t.bytes i + r * recPitch t.bytes i

/-- Where the scales of a step begin in the scale blocks, which lie end to end (R113, R197). -/
def scaleAt (t : Task) (st : Nat) : Nat :=
  recAddr t.bytes 3 + ((rangeFrom 0 st).map fun i => taskM t * (taskFmt t).na (taskK t) i + taskN t * (taskFmt t).nb (taskK t) i).sum
/-- Where the metadata of TMMAS begins (R197). -/
def metaBase (t : Task) : Nat := roundUp (recAddr t.bytes 1 + taskN t * recPitch t.bytes 1) 64

/-- The nibbles of a column's groups in a step (R178, R197). -/
def stepNibs (f : TFmt) (k st : Nat) (bs : List Byte) : List Nat :=
  (rangeFrom (st * f.kept / 2) (f.stored k st / 2)).map fun g =>
    let b := (bs.getD (g / 2) 0).toNat
    if g % 2 = 0 then b % 16 else b / 16

/-- A column of B in a step, from the column's bytes, metadata and the step's scales. -/
def taskCol (f : TFmt) (k st : Nat) (raw mt : List Byte) (sc : List Nat) : BCol :=
  { vals := bVals f (f.stored k st) (raw.drop (storedBits f.bfmt (st * f.kept) / 8)) sc
    pos := if f.sparse then keptPos (stepNibs f k st mt) else [] }

/-- The ranges of a child's columns of B, of their metadata and of their scales (R197). -/
def colRanges (t : Task) (n0 n : Nat) : List (Nat × Nat) :=
  let f := taskFmt t
  (rangeFrom n0 n).map fun c => (tileRow t 1 c, ceilDiv (storedBits f.bfmt (storedK f (taskK t))) 8)
def metaRanges (t : Task) (n0 n : Nat) : List (Nat × Nat) :=
  let mb := ceilDiv (taskK t) 8
  if (taskFmt t).sparse then (rangeFrom n0 n).map fun c => (metaBase t + c * mb, mb) else []
def bScaleRanges (t : Task) (n0 n : Nat) : List (Nat × Nat) :=
  let f := taskFmt t
  let k := taskK t
  if f.bscl then (rangeFrom 0 (f.steps k)).map fun st => (scaleAt t st + taskM t * f.na k st + n0 * f.nb k st, n * f.nb k st) else []
/-- The ranges of a band's rows of A and of their scales (R197). -/
def rowRanges (t : Task) (m0 m : Nat) : List (Nat × Nat) :=
  (rangeFrom m0 m).map fun r => (tileRow t 0 r, ceilDiv (taskK t * fmtBits (taskFmt t).afmt) 8)
def aScaleRanges (t : Task) (m0 m : Nat) : List (Nat × Nat) :=
  let f := taskFmt t
  let k := taskK t
  if f.ascl then (rangeFrom 0 (f.steps k)).map fun st => (scaleAt t st + m0 * f.na k st, m * f.na k st) else []
/-- The ranges of accumulation-format rows of a tile. -/
def accRanges (t : Task) (tile m0 m n0 n : Nat) : List (Nat × Nat) := (rangeFrom m0 m).map fun r => (tileRow t tile r + 4 * n0, 4 * n)

/-- The columns of B of a child in each step, read by ascending column, then the metadata, then the scales (R363). -/
def taskCols (s : State) (t : Task) (n0 n : Nat) : Except Stop (List (List BCol)) :=
  let f := taskFmt t
  let k := taskK t
  match stageAll s t 1 (colRanges t n0 n) with
  | .error e => .error e
  | .ok raw =>
    match stageAll s t 4 (metaRanges t n0 n) with
    | .error e => .error e
    | .ok mts =>
      match stageAll s t 3 (bScaleRanges t n0 n) with
      | .error e => .error e
      | .ok scs =>
        .ok ((rangeFrom 0 (f.steps k)).map fun st => ((rangeFrom 0 n).zip raw).map fun (e : Nat × List Byte) =>
          taskCol f k st e.2 (mts.getD e.1 []) ((((scs.getD st []).drop (e.1 * f.nb k st)).take (f.nb k st)).map BitVec.toNat))

/-- A row of A: its codes, and its scales in each step. -/
structure ARow where
  codes : List Nat
  scales : List (List Nat)
  deriving DecidableEq, Repr

/-- The rows of A of a band, by ascending row, then their scales. -/
def taskRows (s : State) (t : Task) (m0 m : Nat) : Except Stop (List ARow) :=
  let f := taskFmt t
  let k := taskK t
  let steps := rangeFrom 0 (f.steps k)
  match stageAll s t 0 (rowRanges t m0 m) with
  | .error e => .error e
  | .ok raw =>
    match stageAll s t 3 (aScaleRanges t m0 m) with
    | .error e => .error e
    | .ok scs =>
      .ok (((rangeFrom 0 m).zip raw).map fun (e : Nat × List Byte) =>
        { codes := unpackRow (fmtBits f.afmt) k e.2
          scales := steps.map fun st => ((((scs.getD st []).drop (e.1 * f.na k st)).take (f.na k st)).map BitVec.toNat) })

/-- Values of a row of A in a step. -/
def stepVals (f : TFmt) (k st : Nat) (r : ARow) : List FVal :=
  aVals f ((r.codes.drop (st * f.kstep)).take (f.count k st)) (r.scales.getD st [])

/-- TZERO and the steps of R177 on one row (R198). -/
def runRow (f : TFmt) (k n : Nat) (cols : List (List BCol)) (r : ARow) : List (Nat × Bool) :=
  ((rangeFrom 0 cols.length).zip cols).foldl (fun old (e : Nat × List BCol) => rowStep f (stepVals f k e.1 r) e.2 old)
    (List.replicate n (0, false))

/-- The side path of one row over every step: u, and whether one of its values saturated (R190). -/
def runSide (f : TFmt) (k k0 : Nat) (d : Die) (b : BindEntry) (r : ARow) : List Nat × Bool :=
  (rangeFrom 0 (f.steps k)).foldl (fun (u : List Nat × Bool) st =>
    let vs := stepVals f k st r
    let (us, sat) := sideStep u.1 vs (faCol d b (k0 + st * f.kstep) vs.length)
    (us, u.2 || sat)) (List.replicate b.rank 0, false)

/-- A row with its correction (R190). -/
def corrected (f : TFmt) (d : Die) (b : BindEntry) (n0 : Nat) (u : List Nat × Bool) (row : List (Nat × Bool)) : List (Nat × Bool) :=
  ((rangeFrom 0 row.length).zip row).map fun (e : Nat × (Nat × Bool)) =>
    let (v, o) := accStep f.int e.2.1 (sideCorr b.alpha.toNat u.1 (fbCol d b (n0 + e.1)))
    (v, e.2.2 || o || u.2)

-- Output rows (R125, R126, R181, R198).

/-- A row of a band's output: what its accumulator row holds (nothing where the opcode leaves it), its bytes, and its
part of the sums. -/
structure TaskRow where
  acc : List (Nat × Bool)
  bytes : List Byte
  sums : Sums := {}
  deriving DecidableEq, Repr

/-- A row through the epilogue; draws go by the record's coordinates (R118, R194). -/
def epiRow (t : Task) (m n0 : Nat) (scale : FVal) (row : List (Nat × Bool)) : TaskRow :=
  let f := taskFmt t
  let es := ((rangeFrom n0 row.length).zip row).map fun (e : Nat × (Nat × Bool)) =>
    (epiElem f (taskTile t).epi.toNat scale (if f.rnd = 4 then tileDraw t.key m e.1 else 0) e.2.1, e.2.2)
  { acc := row, bytes := packRow (fmtBits f.ofmt) (es.map (·.1.bits))
    sums := { ovf := countIf (fun (e : OutElem × Bool) => e.1.oor || e.2) es, nans := countIf (fun (e : OutElem × Bool) => e.1.nan) es } }

/-- A row of a failed group: zero bytes, left out of the sums (R192). -/
def failedRow (t : Task) (m n : Nat) (row : List (Nat × Bool)) : TaskRow :=
  { acc := row, bytes := List.replicate (ceilDiv (n * fmtBits (taskFmt t).ofmt) 8) 0
    sums := { groups := groupBit (m / (taskTile t).groupRows) } }

/-- The entry of a record's row on a core, whose child begins at row `mc`. -/
def rowEntry (s : State) (core : Nat) (t : Task) (mc m : Nat) : Option BindEntry :=
  if (taskTile t).side then smGet (getCore s core).bind ((taskTile t).btab.toNat + (m - mc) / (taskTile t).groupRows) else none

/-- A row of a TMMA or TMMAS. -/
def productRowOf (s : State) (core : Nat) (t : Task) (mc m n0 n : Nat) (cols : List (List BCol)) (r : ARow) : TaskRow :=
  let f := taskFmt t
  let k := taskK t
  let row := runRow f k n cols r
  let scale := decodeFmt .e8m0 (recScale t.bytes)
  match rowEntry s core t mc m with
  | none => epiRow t m n0 scale row
  | some b =>
    if b.st = .refused ∨ b.fillFailed = true then failedRow t m n row
    else
      let d := getDie s (core / 32)
      let w5 := (taskTile t).w5.toNat
      epiRow t m n0 scale
        (corrected f d b (natField w5 16 16 + n0) (runSide f k (natField w5 0 16) d b r) row)

/-- The child would use a poisoned factor in its rows (R347). -/
def factorsBad (s : State) (core : Nat) (t : Task) (mc m0 m n0 n : Nat) : Bool :=
  let w5 := (taskTile t).w5.toNat
  (rangeFrom m0 m).any fun r =>
    match rowEntry s core t mc r with
    | some b =>
      b.st == .resident &&
        let d := getDie s (core / 32)
        faBad d b (natField w5 0 16) (taskK t) b.rank || (rangeFrom (natField w5 16 16 + n0) n).any (fbBad d b)
    | none => false

/-- Accumulation-format elements of rows of a tile. -/
def accRows (s : State) (t : Task) (opnd tile m0 m n0 n : Nat) : Except Stop (List (List Nat)) :=
  match stageAll s t opnd (accRanges t tile m0 m n0 n) with
  | .error e => .error e
  | .ok raw => .ok (raw.map (unpackRow 32 n))

/-- A row of a TACC: C + A, one step of R122. -/
def taccRowOf (int : Bool) (c a : List Nat) : TaskRow :=
  let row := (c.zip a).map fun (e : Nat × Nat) => accStep int e.1 (accVal int e.2)
  { acc := row, bytes := packRow 32 (row.map (·.1)) }

/-- The ranges that a band's staging reads; B is staged with the first band of its core (R363). -/
def bandReads (t : Task) (first : Bool) (m0 m n0 n : Nat) : List (Nat × Nat) :=
  match taskOp t with
  | 2 => []
  | 3 => accRanges t 0 m0 m n0 n ++ accRanges t 2 m0 m n0 n
  | 4 => accRanges t 0 m0 m n0 n
  | _ =>
    (if first then colRanges t n0 n ++ metaRanges t n0 n ++ bScaleRanges t n0 n else []) ++ rowRanges t m0 m ++ aScaleRanges t m0 m

/-- The rows of a band; B was staged in the state `b`, with the first band of its core, and is used in place (R363). Poisoned factors are no operand of the record: their fault names none. DEDUCED (log entry 44). -/
def bandRows (s b : State) (core : Nat) (t : Task) (mc m0 m n0 n : Nat) : Except Stop (List TaskRow) :=
  let f := taskFmt t
  match taskOp t with
  | 2 => .ok (List.replicate m { acc := [], bytes := List.replicate (ceilDiv (n * fmtBits f.ofmt) 8) 0 })
  | 3 =>
    match accRows s t 0 0 m0 m n0 n with
    | .error e => .error e
    | .ok a =>
      match accRows s t 2 2 m0 m n0 n with
      | .error e => .error e
      | .ok c => .ok ((c.zip a).map fun (e : List Nat × List Nat) => taccRowOf f.int e.1 e.2)
  | 4 =>
    match accRows s t 0 0 m0 m n0 n with
    | .error e => .error e
    | .ok a => .ok (((rangeFrom m0 m).zip a).map fun (e : Nat × List Nat) =>
        epiRow t e.1 n0 (epiScale (taskTile t).w5.toNat) (e.2.map fun x => (x, false)))
  | _ =>
    match taskCols b t n0 n with
    | .error e => .error e
    | .ok cols =>
      match taskRows s t m0 m with
      | .error e => .error e
      | .ok rs =>
        if factorsBad s core t mc m0 m n0 n then .error (stageFault 6 0xFF 0)
        else .ok (((rangeFrom m0 m).zip rs).map fun (e : Nat × ARow) => productRowOf s core t mc e.1 n0 n cols e.2)

-- Output writes (R198, R200).

/-- Change the full context whose tc.mx counts a task, live or saved (R200). -/
def onFull (s : State) (t : Task) (f : Ctx → Ctx) : State :=
  let mine := fun (c : Ctx) => t.full != 0 && c.uid == t.full
  if t.uncounted then s
  else
  match s.ctxs.find? (fun e => mine e.2) with
  | some e => setCtx s e.1 (f e.2)
  | none =>
    modCtx { s with saved := s.saved.map fun e => if mine e.2.ctx then (e.1, { e.2 with ctx := f e.2.ctx }) else e } (fullOf t.ctx) f

/-- A run of bytes that a tile may write: in the issuing core's scratchpad, or at a physical address. -/
structure Run where
  scratch : Bool
  addr : Nat
  len : Nat
  deriving DecidableEq, Repr

/-- The runs of a range that a tenant may write with a permission, or the first fault. -/
def outRuns (s : State) (t : Task) (u : Use) (tn : Nat) : Nat → Nat → Nat → List Run → Except (Nat × Nat) (List Run)
  | 0, _, _, acc => .ok acc
  | f + 1, va, n, acc =>
    if n = 0 then .ok acc
    else
      let k := segLen (natW va) n
      if inWindow (natW va) then outRuns s t u tn f (va + k) (n - k) (acc ++ [{ scratch := true, addr := va % 2 ^ 22, len := k }])
      else
        match sysRoute s t.unit.part tn u true (natW va) with
        | .error c => .error (c, va)
        | .ok pa => outRuns s t u tn f (va + k) (n - k) (acc ++ [{ scratch := false, addr := pa, len := k }])

/-- The sequencer that writes: the core that it works through the L1 of, none for one above the cores or on another package, and
its die (R207, R208). -/
structure Writer where
  core : Option Nat
  die : Nat
  deriving DecidableEq, Repr

/-- The sequencer of a task's own level: it writes the trailer, the fault area and the completion word. -/
def ownWriter (s : State) (t : Task) : Writer :=
  match taskCore t with
  | some k => { core := some k, die := k / 32 }
  | none => if taskNear s t then { core := some (coreOf t.ctx), die := dieOf t.ctx } else { core := none, die := taskDie t }
/-- The sequencer of a core child; one on another package writes past every core and die of this one. -/
def childWriter (away : Bool) (core : Nat) : Writer := if away then { core := none, die := 4 } else { core := some core, die := core / 32 }

/-- The stores of a writer's core and of the issuing core to a line reach the home before a task's write of it (R208). -/
def drainFor (w : Writer) (t : Task) (line : Nat) (s : State) : State :=
  (coreOf t.ctx :: w.core.toList).foldl (fun s k => drainLine s (l1Unit s k) line) s
/-- Write a run of one line at its home. The copies of the writer's L1 and die follow it as it passes (R208, R220), and its core
signs the line (R231), as the issuing core does, whose releases cover the task's writes after a TLWAIT (R220). -/
def putLine (w : Writer) (t : Task) (line off : Nat) (bs : List PB) (s : State) : State :=
  let s := drainFor w t line s
  let s := match w.core with | some k => signLine (portRequest s k t.tenant bs.length) k line | none => s
  let s := onFull (signLine s (coreOf t.ctx) line) t fun c => { c with engSig := c.engSig ||| sigBit line }
  let s := homeWrite s w.die t.unit.part line off bs false
  match w.core with
  | some k => onL1 s k line (patchCopies s t.unit.part line off bs false)
  | none => s
/-- Write runs. -/
def putRuns (w : Writer) (t : Task) : List Run → List PB → State → State
  | [], _, s => s
  | r :: rest, bs, s =>
    let part := bs.take r.len
    putRuns w t rest (bs.drop r.len)
      (if r.scratch then
        scratchWrite (modCore s (coreOf t.ctx) fun c => markDirty c r.addr r.len) (coreOf t.ctx) r.addr part
       else putLine w t (r.addr / 64) (r.addr % 64) part s)

/-- Write output bytes, whole or not at all. -/
def outPut (w : Writer) (t : Task) (va : Nat) (bs : List Byte) (s : State) : Except (Nat × Nat) State :=
  match outRuns s t .ms t.tenant bs.length va bs.length [] with
  | .error e => .error e
  | .ok rs => .ok (putRuns w t rs (clean bs) s)

/-- What a unit's children have come to: their sums, the children that completed, and the fault of the lowest. -/
structure Got where
  s : State
  sums : Sums := {}
  done : List Nat := []
  flt : Option ChildFault := none

/-- A unit has done what it can, or waits with nothing done. -/
inductive KidRes where
  | got (g : Got)
  | wait (k : Need)

def Sums.add (a b : Sums) : Sums := { ovf := a.ovf + b.ovf, nans := a.nans + b.nans, groups := a.groups ||| b.groups }

/-- Write the rows of a band; a fault stops at its row (R198). -/
def putRows (w : Writer) (t : Task) (n0 : Nat) : Nat → List TaskRow → Got → Got
  | _, [], g => g
  | m, r :: rs, g =>
    match outPut w t (tileRow t 2 m + n0 * (if taskOp t = 3 then 32 else fmtBits (taskFmt t).ofmt) / 8) r.bytes g.s with
    | .error (c, va) => { g with sums := {}, flt := some { flv := 0, cause := c, opnd := 2, addr := va, path := [] } }
    | .ok s => putRows w t n0 (m + 1) rs { g with s := s, sums := g.sums.add r.sums }

/-- The side path of a product's rows on a child's core: its TZERO clears it (R179), its words record their n0 and the rows of a
group that has failed stay failed (R190, R192); its TEPI has used up the sums of the others. -/
def keepSide (t : Task) (core r0 n0 : Nat) (rs : List TaskRow) (s : State) : State :=
  if 1 < taskOp t then s
  else
    let a := (taskTile t).acc.toNat
    let rows := (rangeFrom (128 * a + r0) rs.length).zip rs
    modCore (clearSidePoison s core a r0 rs.length) core fun c =>
      let c := clearSide a r0 rs.length c
      if (taskTile t).side then
        { c with sideN0 := rows.foldl (fun m e => smPut m e.1 (natField (taskTile t).w5.toNat 16 16 + n0)) c.sideN0
                 failed := (rows.filter fun e => e.2.sums.groups != 0).map (·.1) ++ c.failed }
      else c
/-- The accumulator rows of a band: a TMMA or TMMAS leaves its tile there, and so do, by the model's choice, a TACC and a TEPI,
which compute it. DESIGN CHOICE (log entry 100). -/
def keepRows (t : Task) (core r0 n0 : Nat) (rs : List TaskRow) (s : State) : State :=
  let a := (taskTile t).acc.toNat
  ((rangeFrom r0 rs.length).zip rs).foldl (fun s (e : Nat × TaskRow) =>
    if e.2.acc.isEmpty then s
    else
      clearAccPoison (modCore s core fun c => setAccRow c a e.1 0 e.2.acc) core a e.1 1 0 e.2.acc.length) (keepSide t core r0 n0 rs s)

/-- The ranges that a band writes: its rows, and the trailer that may follow the tile. -/
def outRanges (t : Task) (m0 m n0 n : Nat) : List (Nat × Nat) :=
  let w := if taskOp t = 3 then 32 else fmtBits (taskFmt t).ofmt
  (rangeFrom m0 m).map (fun i => (tileRow t 2 i + n0 * w / 8, ceilDiv (n * w) 8)) ++ [(roundUp (tileRow t 2 (taskM t)) 64, 64)]
/-- A granule of the issuing core's scratchpad that is to be filled before a band writes there (R211). -/
def outNeed (s : State) (t : Task) (m0 m n0 n : Nat) : Option Need :=
  (outRanges t m0 m n0 n).findSome? fun r =>
    if inWindow (natW r.1) then (unfilled (getCore s (coreOf t.ctx)) (r.1 % 2 ^ 22) r.2).map fun e => .granule e.1 e.2 else none

/-- A band's staging passes the port of the core that it is for (R195, R297). DEDUCED (log entry 96). -/
def chargeBand (t : Task) (core : Nat) (rs : List (Nat × Nat)) (s : State) : State :=
  portStream s core t.tenant (rs.map (·.2)).sum

/-- A band on rows of a core, B staged in the state `b`, with this band where it is the core's first; `away` is a child on another
package, whose core is not in this state. -/
def bandRun (away : Bool) (t : Task) (core r0 mc m0 m n0 n : Nat) (b : State) (first : Bool) (s : State) : KidRes :=
  match outNeed s t m0 m n0 n, bandRows s b core t mc m0 m n0 n with
  | _, .error (.fault f) => .got { s := s, flt := some f }
  | _, .error (.wait k) => .wait k
  | some k, .ok _ => .wait k
  | none, .ok rs =>
    let reads := bandReads t first m0 m n0 n
    .got (putRows (childWriter away core) t n0 m0 rs
      { s := if away then s else keepRows t core r0 n0 rs (chargeBand t core reads (noteReads t reads s)) })

-- Binding (R198).

/-- A quad-level stream word waits for a quad (R194). -/
def quadAwaited (s : State) (quad : Nat) : Bool :=
  s.ctxs.any fun e => match e.2.wait with | some (.matrix qs _ _) => qs.contains quad | _ => false
/-- A core accepts a child (R194, R296). -/
def coreFree (s : State) (t : Task) (core : Nat) : Bool :=
  let c := getCore s core
  c.claims.isEmpty && c.owner.isEmpty && coreAdmits s core (worldOf s t.tenant) && !quadAwaited s (core / 4)

/-- The 16 bytes that bind each row group of a child from row `mc` on. -/
def groupTokens (s : State) (t : Task) (mc m : Nat) : Except Stop (List (List Byte)) :=
  let g := (taskTile t).groupRows
  match stageRead s t 5 (recAddr t.bytes 5 + mc / g) (ceilDiv m g) with
  | .error e => .error e
  | .ok map =>
    match stageAll s t 5 (map.map fun b => (recAddr t.bytes 4 + 16 * b.toNat, if b = 0xFF then 0 else 16)) with
    | .error e => .error e
    | .ok l => .ok l

/-- Mark an entry's fill as failed. -/
def entryFailed (s : State) (core b : Nat) : State :=
  modCore s core fun c => { c with bind := c.bind.map fun e => if e.1 = b then (e.1, { e.2 with fillFailed := true }) else e }

/-- Settle the site of an entry that a child needs: a MISSING one is filled here, or asked of its home and waited for. -/
def settleEntry (t : Task) (core : Nat) (before : List Fill) (s : State) (b : Nat) : Except Stop State :=
  match smGet (getCore s core).bind b with
  | none => .ok s
  | some x =>
    if x.st != .missing || x.fillFailed then .ok s
    else
      let die := core / 32
      if siteHome s die x.key = 0x1FFF then .ok (runHerbFill (startFill s die x.key x.lines) die x.key)
      else if t.asked.contains x.key && !before.any (·.key == x.key) then .ok (entryFailed (endFill s die x.key) core b)
      else .error (.wait (.site die x.key x.lines))

/-- Bind the entries of a core child and bring their sites in. -/
def bindChild (t : Task) (core mc m : Nat) (s : State) : Except Stop State :=
  if !(taskTile t).side then .ok s
  else
    match groupTokens s t mc m with
    | .error e => .error e
    | .ok toks =>
      let before := (getDie s (core / 32)).fills
      let base := (taskTile t).btab.toNat
      let es := rangeFrom base toks.length
      let s := (es.zip toks).foldl (fun s (e : Nat × List Byte) => bindEntry s core e.1 t.unit.part t.tenant e.2) s
      let q := 4 * (taskTile t).acc.toNat
      let s := modCore s core fun c => { c with sideEnts := smPut c.sideEnts q (es.map fun b => (b, 0)) }
      es.foldl (fun r b => match r with | .ok s => settleEntry t core before s b | .error e => .error e) (.ok s)

/-- The child's entries no longer pin their lines. -/
def unpinChild (t : Task) (core : Nat) (s : State) : State :=
  if (taskTile t).side then modCore s core fun c => { c with sideEnts := smDel c.sideEnts (4 * (taskTile t).acc.toNat) } else s

-- Units (R193, R194, R201).

/-- Run the children of one pass in ascending order: each that faults leaves the others to complete (R201). -/
def runPass (f : Nat → Nat → State → KidRes) : List (Nat × Nat) → Got → KidRes
  | [], g => .got g
  | (c, p) :: cs, g =>
    match f c p g.s with
    | .wait k => .wait k
    | .got r =>
      match r.flt with
      | none => runPass f cs { s := r.s, sums := g.sums.add r.sums, done := g.done ++ [c], flt := g.flt }
      | some x =>
        runPass f cs { g with s := r.s, flt := (match g.flt with | some y => some y | none => some { x with path := c :: x.path }) }

/-- Run passes until one has a fault. -/
def runPasses (f : Nat → Nat → State → KidRes) : List (List (Nat × Nat)) → Got → KidRes
  | [], g => .got g
  | p :: ps, g =>
    if g.flt.isSome then .got g
    else
      match runPass f p g with
      | .wait k => .wait k
      | .got g => runPasses f ps g

/-- A fault of a parent that cannot place a child (R201). -/
def placeFault (level index : Nat) : ChildFault := { flv := level, cause := 0x3F, opnd := 0xFF, addr := index, path := [] }
/-- A fault for want of staging memory (R195). -/
def staleFault (level : Nat) : ChildFault := { flv := level, cause := 8, opnd := 6, addr := 0, path := [] }
/-- A unit that ends with a fault of its own. -/
def unitFault (f : ChildFault) (s : State) : KidRes := .got { s := s, flt := some f }

/-- Children of a direction that a map has not marked. -/
def kidsLeft (n : Nat) (skip : List Nat) : List Nat := (rangeFrom 0 n).filter fun c => !skip.contains c

/-- Run with the entries of a core child bound; a fault of the binding is its first band's. -/
def withBinding (away : Bool) (t : Task) (core mc m : Nat) (pre : List Nat) (s : State) (k : State → KidRes) : KidRes :=
  if away then k s
  else
    match bindChild t core mc m s with
    | .error (.wait w) => .wait w
    | .error (.fault f) => unitFault { f with path := pre } s
    | .ok s =>
      match k s with
      | .wait w => .wait w
      | .got g => .got { g with s := unpinChild t core g.s }

/-- A core child: its bands one after another (R363). -/
def coreChild (away : Bool) (t : Task) (die pc lc m0 m n0 n : Nat) (skip : List Nat) (s : State) : KidRes :=
  let bands := kidsLeft (ceilDiv m 32) skip
  match (if away then none else bands.find? fun b => (physical s die t.unit.part .cluster (4 * lc + b)).isNone) with
  | some b => unitFault (placeFault 1 b) s
  | none =>
    let core := 32 * die + pc
    if !away && !coreFree s t core then .wait .nothing
    else
      withBinding away t core m0 m [bands.headD 0] s fun s =>
        runPasses (fun b _ s1 => bandRun away t core (32 * b) m0 (m0 + 32 * b) (min 32 (m - 32 * b)) n0 n s (b == bands.headD 0) s1)
          (bands.map fun b => [(b, 0)]) { s := s }

/-- A quad child: its blocks at once. -/
def quadChild (away : Bool) (t : Task) (die lq m0 m n0 n : Nat) (skip : List Nat) (s : State) : KidRes :=
  let ks := (kidsLeft (ceilDiv n 128) skip).map fun j => (j, if away then some 0 else physical s die t.unit.part .core (4 * lq + j))
  match ks.find? fun (k : Nat × Option Nat) => k.2.isNone with
  | some k => unitFault (placeFault 2 k.1) s
  | none =>
    runPasses (fun j p s => coreChild away t die p (4 * lq + j) m0 m (n0 + 128 * j) (min 128 (n - 128 * j)) [] s)
      [ks.map fun (k : Nat × Option Nat) => (k.1, k.2.getD 0)] { s := s }

/-- Cut a list into pieces of `w`. -/
def pieces {α : Type} (w : Nat) : Nat → List α → List (List α)
  | 0, _ => []
  | f + 1, l => if l.isEmpty then [] else l.take w :: pieces w f (l.drop w)

/-- Logical quads of a die that are mapped. -/
def mappedQuads (s : State) (die part : Nat) : List Nat := (rangeFrom 0 8).filter fun q => (physical s die part .quad q).isSome
/-- A partition's staging share on a die in MiB. -/
def stagingShare (s : State) (part die : Nat) : Nat := (((getPart s part).sram[die]?).getD []).getD 2 0
/-- MiB of the share that a quad child takes (R195). -/
def quadStage (t : Task) : Nat := bitNat (!t.fuse)

/-- Row block and column block of a child. -/
def cellOf (n cb c : Nat) : Nat × Nat := (c / ceilDiv n cb, c % ceilDiv n cb)

/-- A quad child of a die-level parent by its index. -/
def dieKid (away : Bool) (t : Task) (die m0 m n0 n c lq : Nat) (s : State) : KidRes :=
  let (i, j) := cellOf n 512 c
  quadChild away t die lq (m0 + 128 * i) (min 128 (m - 128 * i)) (n0 + 512 * j) (min 512 (n - 512 * j)) [] s

/-- A child that a running die-level task has issued stands on a physical quad of a die. -/
def quadTaken (s : State) (t : Task) (die quad : Nat) : Bool :=
  s.tasks.any fun x => x.st == .running && x.id != t.id && x.unit.level == 3 && taskDie x == die &&
    x.pass.any fun p => physical s die x.unit.part .quad p.2 == some quad && !x.done.contains p.1 && !x.flt.any fun f => f.1 == p.1
/-- A logical quad that is free for a die child (R194). -/
def quadIdle (s : State) (t : Task) (die lq : Nat) : Bool :=
  (match physical s die t.unit.part .quad lq with | some q => !quadTaken s t die q | none => false) &&
    (rangeFrom 0 4).all fun j =>
      match physical s die t.unit.part .core (4 * lq + j) with
      | some p => coreFree s t (32 * die + p)
      | none => true

/-- A die child of a package-level parent: its children in ascending order, each on the lowest free quad. -/
def dieChild (away : Bool) (t : Task) (die m0 m n0 n : Nat) (s : State) : KidRes :=
  let part := t.unit.part
  let kids := rangeFrom 0 (ceilDiv m 128 * ceilDiv n 512)
  let mapped := if away then rangeFrom 0 8 else mappedQuads s die part
  let quads := if away then mapped else mapped.filter (quadIdle s t die)
  if !away && decide (stagingShare s part die < 4 + quadStage t) then unitFault (staleFault 3) s
  else if mapped.isEmpty then unitFault (placeFault 3 0) s
  else if quads.isEmpty || (!away && decide (stagingFree s part die < 4 + quadStage t)) then .wait .nothing
  else
    let w := if away || t.fuse then quads.length else min quads.length (stagingFree s part die - 4)
    runPasses (dieKid away t die m0 m n0 n) ((pieces w kids.length kids).map fun p => p.zip quads) { s := s }

/-- Physical dies that some logical die names. -/
def mappedDies (s : State) (t : Task) : List Nat :=
  (rangeFrom 0 4).filter fun d => (logicalOf s (dieOf t.ctx) t.unit.part .die d).isSome

/-- 64 KiB units of a B slice on a die (R194). -/
def sliceWeight (s : State) (t : Task) (n0 n die : Nat) : Nat :=
  if 1 < taskOp t then 0
  else
    let lo := tileRow t 1 n0 / 65536
    let hi := (tileRow t 1 (n0 + n) + 65535) / 65536
    unitsOn s t.unit.part t.tenant die (hi - lo) (natW (65536 * lo))
/-- The die of a slice: the most units, ties to the lower die. -/
def sliceDie (s : State) (t : Task) (n0 n : Nat) (dies : List Nat) : Nat :=
  (dies.foldl (fun l d => insertDie (sliceWeight s t n0 n) d l) []).headD 0

/-- Passes in which each unit has one child. -/
def turns (ks : List (Nat × Nat)) : List (List (Nat × Nat)) :=
  let ranked := (rangeFrom 0 ks.length).zip ks |>.map fun (e : Nat × (Nat × Nat)) => (countIf (fun (k : Nat × Nat) => k.2 == e.2.2) (ks.take e.1), e.2)
  (rangeFrom 0 ks.length).map fun r => (ranked.filter fun (e : Nat × (Nat × Nat)) => e.1 == r).map (·.2)

/-- A die child of a package-level parent by its slice. -/
def packKid (away : Bool) (t : Task) (m0 m n0 n j die : Nat) (s : State) : KidRes :=
  dieChild away t die m0 m (n0 + 512 * j) (min 512 (n - 512 * j)) s

/-- A package child of a pod-level parent. -/
def packChild (away : Bool) (t : Task) (m0 m n0 n : Nat) (s : State) : KidRes :=
  let dies := if away then [0] else mappedDies s t
  if dies.isEmpty then unitFault (placeFault 4 0) s
  else
    let ks := (rangeFrom 0 (ceilDiv n 512)).map fun j => (j, sliceDie s t (n0 + 512 * j) (min 512 (n - 512 * j)) dies)
    runPasses (packKid away t m0 m n0 n) (if away then [ks] else turns ks) { s := s }

/-- Rows of values that no rule gives: a side-path child of another package, whose Herbarium is its own. -/
def freeRows (t : Task) (d m0 n0 n : Nat) : Nat → Got → Got
  | 0, g => g
  | k + 1, g =>
    let g := freeRows t d m0 n0 n k g
    let bs := (rangeFrom 0 (ceilDiv (n * fmtBits (taskFmt t).ofmt) 8)).map fun i => Config.freeByte d (65536 * k + i)
    match g.flt, outPut (childWriter true 0) t (tileRow t 2 (m0 + k) + n0 * fmtBits (taskFmt t).ofmt / 8) bs g.s with
    | none, .ok s => { g with s := s }
    | none, .error (c, va) => { g with flt := some { flv := 0, cause := c, opnd := 2, addr := va, path := [] } }
    | some _, _ => g

/-- A package child on another package: every bit of its result is fixed by R122, but for its side path.
DEDUCED (log entry 46). -/
def awayChild (t : Task) (m0 m n0 n : Nat) (s : State) : KidRes :=
  if (taskTile t).side then
    let d := s.fresh
    .got (freeRows t d m0 n0 n m
      { s := { s with fresh := d + 2 }
        sums := { ovf := fld (Config.freeWord d) 0 32, nans := fld (Config.freeWord d) 32 32, groups := (Config.freeWord (d + 1)).toNat } })
  else packChild true t m0 m n0 n s

-- A task's direct children.

/-- Direct children in all (R193, R202); a package of its own has one package child (R3). -/
def kidCount (t : Task) : Nat :=
  let m := taskM t
  let n := taskN t
  match t.unit.level with
  | 0 => 0
  | 1 => ceilDiv m 32
  | 2 => ceilDiv n 128
  | 3 => ceilDiv m 128 * ceilDiv n 512
  | 4 => ceilDiv n 512
  | _ => if t.solo then 1 else ceilDiv m 1024 * ceilDiv n 2048

/-- The logical peers of a launch's placement map (R64). -/
def mapPeers (s : State) (part tenant map : Nat) : List Nat :=
  if map = 0 then []
  else
    match sysLoad s part tenant .ls (natW map) 64 with
    | .error _ => []
    | .ok h =>
      let n := min (fieldAt h 2 2) 4096
      match sysLoad s part tenant .ls (natW (fieldAt h 8 8)) (2 * n) with
      | .error _ => []
      | .ok bs => (rangeFrom 0 n).map fun i => fieldAt bs (2 * i) 2 % 8192
/-- The peers of a pod-level task. -/
def taskPeers (s : State) (t : Task) : List Nat :=
  match t.lid.bind (smGet s.launches) with
  | some l => mapPeers s l.part l.tenant l.map
  | none => []

/-- The unit that a pod child goes to: 0 for this package, else 1 + its physical peer; none where its peer fails R301. -/
def podUnit (s : State) (t : Task) (ps : List Nat) (c : Nat) : Option Nat :=
  if ps.isEmpty then some 0
  else (peerCheck s (dieOf t.ctx) t.unit.part (ps.getD (c % ps.length) 0)).map fun p => if p = s.ownPeer then 0 else p + 1

/-- The next pass of a die-level task: the free quads, and no more children than the free share holds (R194, R195). -/
def diePass (s : State) (t : Task) (kids : List Nat) : Except ChildFault (List (Nat × Nat)) :=
  let die := taskDie t
  let quads := mappedQuads s die t.unit.part
  if quads.isEmpty then .error (placeFault 3 (kids.headD 0))
  else
    let free := quads.filter (quadIdle s t die)
    .ok ((kids.zip free).take (if t.fuse then 8 else stagingFree s t.unit.part die))

/-- The children that are issued together next, with their units; empty while none can be (R194, R201). -/
def nextPass (s : State) (t : Task) : Except ChildFault (List (Nat × Nat)) :=
  let kids := kidsLeft (kidCount t) t.done
  let (l, p) := t.place.getD (0, 0)
  match t.unit.level with
  | 0 => .ok [(0, p)]
  | 1 => .ok [(0, p)]
  | 2 =>
    match kids.find? fun j => (physical s (taskDie t) t.unit.part .core (4 * l + j)).isNone with
    | some j => .error (placeFault 2 j)
    | none => .ok (kids.map fun j => (j, (physical s (taskDie t) t.unit.part .core (4 * l + j)).getD 0))
  | 3 => diePass s t kids
  | 4 =>
    let dies := mappedDies s t
    if dies.isEmpty then .error (placeFault 4 (kids.headD 0))
    else .ok (((turns (kids.map fun j => (j, sliceDie s t (512 * j) (min 512 (taskN t - 512 * j)) dies))).head?).getD [])
  | _ =>
    let ps := if t.solo then [] else taskPeers s t
    match kids.find? fun c => (podUnit s t ps c).isNone with
    | some c => .error { flv := 5, cause := 12, opnd := 0xFF, addr := c, path := [] }
    | none => .ok (kids.map fun c => (c, (podUnit s t ps c).getD 0))

/-- Run a direct child on its unit. -/
def runKid (t : Task) (c p : Nat) (s : State) : KidRes :=
  let m := taskM t
  let n := taskN t
  let l := (t.place.map (·.1)).getD 0
  match t.unit.level with
  | 0 =>
    let core := 32 * taskDie t + p / 4
    if !coreFree s t core then .wait .nothing
    else withBinding false t core 0 m [] s fun s => bandRun false t core (32 * (p % 4)) 0 0 m 0 n s true s
  | 1 => coreChild false t (taskDie t) p l 0 m 0 n t.done s
  | 2 => coreChild false t (taskDie t) p (4 * l + c) 0 m (128 * c) (min 128 (n - 128 * c)) [] s
  | 3 => dieKid false t (taskDie t) 0 m 0 n c p s
  | 4 => packKid false t 0 m 0 n c p s
  | _ =>
    if t.solo then packChild false t 0 m 0 n s
    else
    let (i, j) := cellOf n 2048 c
    let rm := min 1024 (m - 1024 * i)
    let rn := min 2048 (n - 2048 * j)
    if p = 0 then packChild false t (1024 * i) rm (2048 * j) rn s else awayChild t (1024 * i) rm (2048 * j) rn s

-- Staging share of a running task.

/-- MiB of its die's share that a task holds. -/
def taskStage (t : Task) : Nat :=
  if t.st != .running then 0
  else
    match t.unit.level with
    | 2 => quadStage t
    | 3 => 4 + quadStage t * t.pass.length
    | _ => 0
/-- Replace a task, with the share that it holds. -/
def setTask (s : State) (t : Task) : State :=
  let old := ((s.tasks.find? fun x => x.id == t.id).map taskStage).getD 0
  let s := { s with tasks := s.tasks.map fun x => if x.id = t.id then t else x }
  if old = taskStage t then s
  else modDie s (taskDie t) fun d =>
    { d with stageUsed := smSet d.stageUsed t.unit.part (smGetD d.stageUsed t.unit.part 0 - old + taskStage t) 0 }
/-- A task is over. -/
def dropTask (s : State) (t : Task) : State :=
  let s := setTask s { t with st := .faulted }
  { s with tasks := s.tasks.filter fun x => x.id != t.id }

-- Faults and completion (R200 to R204, R381).

/-- The Docent reports a write that a task could not make (R381). DEDUCED (log entry 47). -/
def taskReport (t : Task) (va : Nat) (s : State) : State := report s 9 0 t.ctx t.itenant t.unit.part t.inst (natW va)

/-- Write as a scalar access of the issuer, whole or not at all; what cannot be written is reported (R381). -/
def issuerPut (t : Task) (va : Nat) (bs : List Byte) (s : State) : State :=
  match outRuns s t .ls t.itenant bs.length va bs.length [] with
  | .error (_, bad) => taskReport t bad s
  | .ok rs => putRuns (ownWriter s t) t rs (clean bs) s

/-- The sums of a task as a trailer. -/
def taskTrailer (t : Task) : List Byte :=
  trailerBytes (t.sums.ovf % 2 ^ 32) (t.sums.nans % 2 ^ 32) (taskM t) (taskN t) (taskFmt t).ofmt (t.sums.groups % 2 ^ 128)

/-- The 384 bytes of a fault area (R202). -/
def faultBytes (t : Task) (f : ChildFault) : List Byte :=
  let path := (f.path ++ List.replicate 5 0xFFFF).take 5
  let map := t.done.foldl (fun n c => n ||| 2 ^ c) 0
  leBytes 1 f.flv ++ leBytes 1 f.cause ++ leBytes 1 f.opnd ++ leBytes 1 (taskOp t) ++ leBytes 4 (taskTile t).w5.toNat ++ leBytes 8 f.addr ++
    path.flatMap (leBytes 2) ++ leBytes 6 0 ++ leBytes 8 t.num ++ leBytes 4 t.done.length ++ leBytes 4 (kidCount t) ++ leBytes 1 1 ++
    leBytes 15 0 ++ taskTrailer t ++ leBytes 256 map

/-- The task faults: its issuing level writes the fault area, and TILEF is due (R202, R203). -/
def failTask (t : Task) (f : ChildFault) (s : State) : State :=
  setTask (issuerPut t (recFault t.bytes) (faultBytes t f) s) { t with st := .faulted, pass := [], flt := [(0, f)] }

/-- Add 1 to the completion word at its home (R200): a release at the record's level, and a home atomic after what the issuing core
has on the way there. On a host page it is an AtomicOp, whose completion is its own (R236). -/
def bumpDone (t : Task) (s : State) : State :=
  let va := recDone t.bytes
  if va = 0 then s
  else if inWindow (natW va) then
    let bs := scratchRead s (coreOf t.ctx) (va % 2 ^ 22) 8
    if anyBad bs then taskReport t va s else issuerPut t va (leBytes 8 (valueOf bs + 1)) s
  else
    match sysRoute s t.unit.part t.itenant .ls true (natW va) with
    | .error _ => taskReport t va s
    | .ok pa =>
      let w := ownWriter s t
      let s := drainFor w t (pa / 64) s
      let (num, s) := if isHost pa then draw s else (0, s)
      if memPoison s pa 8 || (isHost pa && !Config.hostAtomicOk num) then taskReport t va s
      else
        let c := getCore s (coreOf t.ctx)
        let s := if wideScope s t.ctx t.unit.level && !isHost pa then sideWrite s (pa / 64) (c.cur ||| c.prv) else s
        putLine w t (pa / 64) (pa % 64) (clean (leBytes 8 (memNat s pa 8 + 1))) s

/-- Every child has completed (R200). -/
def completeTask (t : Task) (s : State) : State :=
  let wrote :=
    if (taskTile t).ovf && (taskOp t != 2 && taskOp t != 3) then
      outPut (ownWriter s t) t (roundUp (tileRow t 2 (taskM t)) 64) (taskTrailer t) s
    else .ok s
  match wrote with
  | .error (c, va) => failTask t { flv := t.unit.level, cause := c, opnd := 2, addr := va, path := [] } s
  | .ok s => dropTask (bumpDone t (onFull s t fun c => tcFinish c 5 t.num)) t

/-- The fault of the lowest child. -/
def lowestChild (l : List (Nat × ChildFault)) : Option ChildFault := (lowestFault l).map (·.2)

/-- A pass may be over: the task faults, completes, or its next pass can begin. -/
def settleTask (t : Task) (s : State) : State :=
  if !t.pass.all (fun p => t.done.contains p.1 || t.flt.any fun f => f.1 == p.1) then setTask s t
  else
    match lowestChild t.flt with
    | some f => failTask { t with pass := [] } f (setTask s { t with pass := [] })
    | none =>
      let t := { t with pass := [] }
      if (kidsLeft (kidCount t) t.done).isEmpty then completeTask t (setTask s t) else setTask s t

-- Selection (R75, R195, R197).

/-- The wait pairs of a task are satisfied. -/
def waitsOver (s : State) (t : Task) : Bool := t.waits.all fun w => decide (w.2.2 ≤ tcDone (tcOf (getCtx s w.1) w.2.1))
/-- MiB that a task must find free to start. -/
def stageNeed (t : Task) : Nat :=
  match t.unit.level with
  | 2 => quadStage t
  | 3 => 4 + quadStage t
  | _ => 0
/-- A task that its die can never hold fails at once; another waits for its share. -/
def shareOk (s : State) (t : Task) : Bool :=
  decide (stageNeed t = 0) || t.place.isNone || decide (stagingShare s t.unit.part (taskDie t) < stageNeed t) ||
    decide (stageNeed t ≤ stagingFree s t.unit.part (taskDie t))
/-- Tasks that hold a sequencer of a unit's level: a unit has its sequencers whatever the partition (R75). -/
def taskBusy (s : State) (u : UnitId) : Nat :=
  countIf (fun (t : Task) => t.unit.level == u.level && t.unit.n == u.n && (t.st == .running || t.st == .taken)) s.tasks
/-- One task goes before another. -/
def taskBefore (a b : Task) : Bool := decide (b.prio < a.prio) || (a.prio == b.prio && decide (a.seq < b.seq))
/-- The task that a unit selects. -/
def taskPick (s : State) (u : UnitId) : Option Task :=
  ((queuedAt s u).filter fun t => waitsOver s t && shareOk s t).foldl
    (fun best t => match best with | some b => if taskBefore t b then some t else best | none => some t) none

/-- A task begins on its sequencer: an unmapped place or too small a share is its own fault. -/
def beginTask (t : Task) (s : State) : State :=
  if t.place.isNone then failTask t (placeFault t.unit.level 0) s
  else if decide (stagingShare s t.unit.part (taskDie t) < stageNeed t) then failTask t (staleFault t.unit.level) s
  else
    let t := { t with st := .running }
    if decide (0 < kidCount t) && (kidsLeft (kidCount t) t.done).isEmpty then completeTask t (setTask s t) else setTask s t

/-- The sums that a fault area's PART holds. -/
def partSums (bs : List Byte) : Sums := { ovf := fieldAt bs 0 4, nans := fieldAt bs 4 4, groups := fieldAt bs 16 16 }
/-- Bytes of a fault area as read; zeros where they cannot be read. -/
def areaBytes (r : Except Stop (List Byte)) (n : Nat) : List Byte := match r with | .ok bs => bs | .error _ => List.replicate n 0
/-- What a read waits for. -/
def readWait (r : Except Stop (List Byte)) : Option Need := match r with | .error (.wait k) => some k | _ => none

/-- What a child, or the issuing level, waits for is begun. -/
def childWaits (t : Task) (k : Need) (s : State) : State :=
  match k with
  | .site die key n => setTask (startFill s die key n) { t with asked := if t.asked.contains key then t.asked else key :: t.asked }
  | .granule r g => if (fillHalt s (coreOf t.ctx) r g).isSome then s else raise s [.mapFill t.ctx r g]
  | .nothing => s

/-- The granule of a map region that the end of a task has to write and that is still to be filled (R211): its fault area's where
it faults, its completion word's where it completes. -/
def endNeed (s : State) (t : Task) (s' : State) : Option Need :=
  let need := fun (va n : Nat) =>
    if inWindow (natW va) then (unfilled (getCore s (coreOf t.ctx)) (va % 2 ^ 22) n).map fun e => Need.granule e.1 e.2 else none
  match s'.tasks.find? fun x => x.id == t.id with
  | some x => if x.st = .faulted then need (recFault t.bytes) 384 else none
  | none => if recDone t.bytes = 0 then none else need (recDone t.bytes) 8
/-- A task goes on to a state, unless its end has to wait for a granule first. -/
def taskTo (s : State) (t : Task) (s' : State) : Out :=
  match endNeed s t s' with
  | some k => .next (childWaits t k s)
  | none => .next s'

/-- TASK_SELECT (R75): a quiesced partition selects nothing (R205). -/
def execTaskSelect (u : UnitId) (s : State) : Out :=
  if (getPart s u.part).quiesced || decide ((if u.level = 0 then 1 else 4) ≤ taskBusy s u) then .next s
  else
    match taskPick s u with
    | none => .next s
    | some t =>
      let t := { t with order := s.nextId + 1 }
      let s := { s with nextId := s.nextId + 1 }
      if t.resume then .next (raise (setTask s { t with st := .taken }) [.tresume t.id]) else taskTo s t (beginTask t s)

/-- TRESUME (R204). -/
def execTresume (task : Nat) (s : State) : Out :=
  match s.tasks.find? (fun t => t.id == task && t.st == .taken) with
  | none => .next s
  | some t =>
    let area := recFault t.bytes
    let map := issuerRead s t (area + t.mapAt) 256
    let part := issuerRead s t (area + 64) 64
    match (readWait map).orElse fun _ => (readWait part).orElse fun _ => readWait (issuerRead s t area 64) with
    | some k => .next (childWaits t k s)
    | none =>
      let go := fun (s : State) => beginTask { t with done := (rangeFrom 0 (kidCount t)).filter (natBit (leNat (areaBytes map 256))), sums := partSums (areaBytes part 64) } s
      taskTo s t (go (issuerPut t (area + 48) [2] s))

-- CHILD_COMPLETE and CHILD_FAULT (R194, R200, R201).

/-- A running task with a pass in progress: the next one begins where none is. -/
def withPass (t : Task) (s : State) : Except ChildFault (Task × State) :=
  if t.pass.isEmpty then
    match nextPass s t with
    | .error f => .error f
    | .ok p => .ok ({ t with pass := p }, setTask s { t with pass := p })
  else .ok (t, s)

/-- A task of level 0 or 1 runs as one piece. -/
def wholeDone (t : Task) (g : Got) : State :=
  let t := { t with done := t.done ++ g.done, sums := t.sums.add g.sums, pass := [] }
  match g.flt with
  | none => completeTask t g.s
  | some f => failTask t f g.s

/-- A direct child has come to an end. -/
def childEnd (t : Task) (c : Nat) (g : Got) : State :=
  if t.unit.level ≤ 1 then wholeDone t g
  else
    match g.flt with
    | none => settleTask { t with done := t.done ++ [c], sums := t.sums.add g.sums } g.s
    | some f => settleTask { t with flt := t.flt ++ [(c, { f with path := c :: f.path })] } g.s

/-- The children that a running task has issued, or would issue now. -/
def issuedKids (s : State) (t : Task) : List (Nat × Nat) :=
  if t.pass.isEmpty then (match nextPass s t with | .ok p => p | .error _ => []) else t.pass
/-- A child of a task of the same queue that was selected earlier takes a unit first (R75). -/
def unitAhead (s : State) (t : Task) (p : Nat) : Bool :=
  s.tasks.any fun x => x.st == .running && x.unit == t.unit && decide (x.order < t.order) &&
    (issuedKids s x).any fun k => k.2 == p && !x.done.contains k.1 && !x.flt.any fun f => f.1 == k.1

/-- The child of a running task that is still to run, with its unit. -/
def childUnit (t : Task) (c : Nat) : Option Nat :=
  if t.done.contains c && decide (2 ≤ t.unit.level) || t.flt.any (fun f => f.1 == c) then none else smGet t.pass c

/-- A fault that a child on another package sends back. -/
def awayFault (d : Nat) : ChildFault :=
  let x := Config.freeWord d
  { flv := fld x 0 8 % 5, cause := fld x 8 6, opnd := fld x 16 8, addr := (Config.freeWord (d + 1)).toNat,
    path := [fld x 24 8, fld x 32 8, fld x 40 8].take (4 - fld x 0 8 % 5) }

/-- The running task of an event. -/
def runningTask (s : State) (task : Nat) : Option Task := s.tasks.find? fun t => t.id == task && t.st == .running

/-- CHILD_COMPLETE: a direct child runs to its end. -/
def execChildComplete (task child : Nat) (s : State) : Out :=
  match runningTask s task with
  | none => .next s
  | some t =>
    match withPass t s with
    | .error _ => .next s
    | .ok (t, s1) =>
      match childUnit t child with
      | none => .next s
      | some p =>
        if unitAhead s t p then .next s
        else
          match runKid t child p s1 with
          | .wait k => .next (childWaits t k s1)
          | .got g => if g.flt.isNone then taskTo s t (childEnd t child g) else .next s

/-- CHILD_FAULT: a direct child ends with a fault, or the parent cannot place it. -/
def execChildFault (task child : Nat) (s : State) : Out :=
  match runningTask s task with
  | none => .next s
  | some t =>
    match withPass t s with
    | .error f => taskTo s t (failTask t f s)
    | .ok (t, s1) =>
      match childUnit t child with
      | none => .next s
      | some p =>
        if unitAhead s t p then .next s
        else
          match runKid t child p s1 with
          | .wait _ => .next s
          | .got g =>
            if g.flt.isSome then taskTo s t (childEnd t child g)
            else if t.unit.level = 5 ∧ p ≠ 0 then
              taskTo s t (childEnd t child { s := { s1 with fresh := s1.fresh + 2 }, flt := some (awayFault s1.fresh) })
            else .next s

end Sys2Proof.Machine
end

