-- ==== Sys2Proof/Machine/Lifecycle.lean ====
section
/-! DEFINITION. The ends and turns of contexts: SPAWN, SYNCB, YIELD, EXIT, and the leaving of instances; ORPHAN, CKPT, TRET
and SNAP (03 R62 to R66, R70, R72, R77 to R79, 11 R270, 17 R331, R332, 18 R351, R354). -/

namespace Sys2Proof.Machine

-- What a context holds.

/-- Vector groups that a mask names become zero (R78). -/
def zeroGroups (m : BitVec 16) (c : Ctx) : Ctx := { c with v := c.v.filter fun e => !natBit m.toNat (e.1 / 4) }

/-- Poison of a context's own registers goes. -/
def cleanRegs (id : Nat) (s : State) : State :=
  if s.poison.isEmpty then s
  else
    let cl := clusterOf id
    let full := !isLight id
    { s with poison := s.poison.filter fun p =>
      match p with
      | .sreg k _ => k != id
      | .xreg k _ => k != id
      | .vreg k _ _ _ => !(full && k == cl)
      | .kmask k _ _ _ => !(full && k == cl)
      | .loopReg k _ => !(full && k == cl)
      | _ => true }

/-- The rings that a context has bound. -/
def ringHandles (c : Ctx) : List Nat := c.q.filterMap fun e => match e.2 with | .ring _ _ _ _ => some e.1 | _ => none

/-- MiB of staging that quad-level words in flight of a context take. -/
def stagingOf (s : State) (id : Nat) : Nat :=
  countIf (fun (o : MxOp) => !o.guardOff && needsStaging s id (mxWord o)) (getCtx s id).mx
/-- Change the staging in use of a context's partition on its die. -/
def modStaging (id : Nat) (f : Nat → Nat) (s : State) : State :=
  modDie s (dieOf id) fun d => { d with stageUsed := smSet d.stageUsed (partOf s id) (f (smGetD d.stageUsed (partOf s id) 0)) 0 }
/-- Staging that quad-level words in flight of a context hold is free again. -/
def freeStaging (id : Nat) (s : State) : State :=
  let n := stagingOf s id
  if n = 0 then s else modStaging id (fun u => u - n) s
/-- Quad-level words in flight of a restored context hold their staging again (R195). -/
def takeStaging (id : Nat) (s : State) : State :=
  let n := stagingOf s id
  if n = 0 then s else modStaging id (fun u => u + n) s

/-- The counters of a context that has ended: in tc.mx the numbers of its cluster's tasks stay (R200, R205). -/
def endedCounters (c : Ctx) : List (Nat × Counter) :=
  let own := c.mx.map (·.num)
  c.tc.map fun e => (e.1, { e.2 with pending := if e.1 = 5 then e.2.pending.filter fun n => !own.contains n else [] })
/-- The counters that the next start in a context finds: tc.mx while tasks of the cluster are numbered there. -/
def keptCounters (c : Ctx) : List (Nat × Counter) := (endedCounters c).filter fun e => e.1 == 5 && !e.2.pending.isEmpty

/-- A context that has ended or whose image is written: it runs nothing and holds nothing, and its registers stand until
the next start or the move of its cluster (R54, R79). -/
def endedCtx (id : Nat) (c : Ctx) : Ctx :=
  { idleCtx id with
    pc := c.pc, s := c.s, xstat := c.xstat, xprio := c.xprio, xdeadline := c.xdeadline, xsched := setBit c.xsched 0 false,
    tenant := c.tenant, xtrapc := c.xtrapc, xtrappc := c.xtrappc, xtrapva := c.xtrapva, xtrapmap := c.xtrapmap, xhyp := c.xhyp,
    xovec := c.xovec, xhypwait := c.xhypwait, xfmt := c.xfmt, xseed := c.xseed, xloop := maskW c.xloop 0xFFFFFF,
    xstagep := c.xstagep, xlpos := c.xlpos, xrrb := c.xrrb, xfte := c.xfte, v := c.v, k := c.k, l := c.l, ckcnt := c.ckcnt,
    tc := endedCounters c, uid := c.uid }

/-- Drain and empty the L1s of a quad, whose cores share one or cease to (R209). -/
def flushQuad (q : Nat) (s : State) : State :=
  (rangeFrom (4 * q) 4).foldl (fun s k =>
    let s := drainWhere s k fun _ => true
    if (getCore s k).l1.isEmpty then s else modCore s k fun c => { c with l1 := [] }) s

/-- A context's regions go, with no write-back. -/
def dropRegions (id : Nat) (s : State) : State :=
  if (getCore s (coreOf id)).regions.any (fun e => e.2.owner == id) then
    modCore s (coreOf id) fun c => { c with regions := c.regions.filter fun e => e.2.owner != id }
  else s

/-- Packets of a context that hold gateway slots give them back, and are not resent. -/
def dropFabric (id : Nat) (s : State) : State :=
  let c := getCtx s id
  let mine := (s.outbox.filter fun p => p.srcCtx == id).map (·.tenant)
  let next := (c.fab.filter (·.slot)).map (·.tenant)
  if mine.isEmpty && next.isEmpty then s
  else
    let s := (mine ++ next).foldl giveSlot s
    let s := modCtx s id fun c => { c with fab := c.fab.map fun o => { o with slot := false } }
    { s with outbox := s.outbox.filter fun p => p.srcCtx != id }

/-- An image can still be restored: it is queued, or it is the latest CTXSV image of its place's context, live or queued
(R336). -/
def acceptable (s : State) (k : Nat × Nat) : Bool :=
  let c := getCtx s k.1
  s.images.any (fun i => (i.place, i.cnt) == k) || (c.run != .free && c.run != .dormant && c.ckcnt.toNat == k.2) ||
    s.saved.any fun e => e.1.1 == k.1 && e.2.ctx.ckcnt.toNat == k.2 && s.images.any fun i => (i.place, i.cnt) == e.1
/-- Images of a place that can be restored no more are forgotten. -/
def pruneSaved (id : Nat) (s : State) : State :=
  if s.saved.any fun e => e.1.1 == id && !acceptable s e.1 then
    { s with saved := s.saved.filter fun e => e.1.1 != id || acceptable s e.1 }
  else s

/-- The context is FREE or DORMANT, and holds nothing (R55, R79). -/
def clearContext (id : Nat) (s : State) : State :=
  let s := leaveBarriers s id
  let s := freeStaging id s
  let s := (ringHandles (getCtx s id)).foldl (fun s q => releaseRing id q s) s
  let s := modCore s (coreOf id) fun k => { k with metaOwner := k.metaOwner.filter fun e => e.2 != id }
  let s := dropFabric id (dropRegions id s)
  let fused := fusedQuad s (quadOf id)
  let s := pruneSaved id (modCtx s id (endedCtx id))
  let s := if fused && !fusedQuad s (quadOf id) then flushQuad (quadOf id) s else s
  let s := freeNodes s
  if isLight id && !(getCluster s (clusterOf id)).handlers.isEmpty then raise s [.handlerWake (clusterOf id)] else s

-- Instances (R62, R65, R66).

/-- Change an instance of a launch. -/
def modInst (s : State) (lid serial : Nat) (f : Inst → Inst) : State :=
  modLaunch s lid fun l => { l with insts := l.insts.map fun i => if i.serial == serial && i.st != .exited then f i else i }

/-- An instance is neither over nor STRANDED. -/
def canStrand (s : State) (lid serial : Nat) : Bool :=
  ((smGet s.launches lid).map fun l => l.insts.any fun i => i.serial == serial && i.st != .exited && i.st != .stranded).getD false
/-- An instance becomes STRANDED, and its launch counts it, once (R62, R65). -/
def strandInst (s : State) (lid serial : Nat) : State :=
  if !canStrand s lid serial then s else
  let s := modInst s lid serial fun i => { i with st := .stranded }
  let s := modLaunch s lid fun l => { l with stranded := l.stranded + 1 }
  match smGet s.launches lid with
  | some l => (sysStore s l.part l.tenant .ls (natW (l.status + 16)) (leBytes 8 l.stranded)).2
  | none => s

/-- The state of an instance that is not PENDING or STRANDED, by its members. -/
def instState (i : Inst) : InstState :=
  if i.members.all (fun m => m.2 == .gone) then .exited
  else if i.members.all (fun m => m.2 != .bound) then .suspended
  else if i.requested then .suspending else .running

/-- A SUSPENDED instance with a saved member whose place is disabled (R69). -/
def lostPlace (s : State) (lid serial : Nat) : Bool :=
  match smGet s.launches lid with
  | some l => l.insts.any fun i => i.serial == serial && i.st == .suspended &&
      i.members.any fun m => m.2 == .saved && placeDead s (clusterOf m.1)
  | none => false

/-- Change where a member of an instance stands; one that becomes SUSPENDED with a place of it disabled is stranded
(R65, R69). -/
def setMember (m : Member) (id : Nat) (st : MemState) (s : State) : State :=
  let s := modLaunch s m.lid fun l =>
    { l with insts := l.insts.map fun i =>
        if i.serial == m.serial then
          let i := { i with members := i.members.map fun e => if e.1 = id then (e.1, st) else e }
          if i.st = .stranded then i else { i with st := instState i }
        else i }
  if lostPlace s m.lid m.serial then strandInst s m.lid m.serial else s

/-- A group that has lost a member may have met (R26). -/
def regroup (core : Nat) (m : Member) (s : State) : State :=
  if s.ctxs.any fun e => coreOf e.1 == core && e.2.wait == some .sync && (e.2.member.any fun x => x.lid == m.lid && x.serial == m.serial) then
    raise s [.syncedBundleIssue core m.lid m.serial]
  else s

/-- A context ends: it is cleared and leaves its instance. -/
def endContext (id : Nat) (s : State) : State :=
  let m := (getCtx s id).member
  let s := clearContext id s
  match m with
  | some m => settleLaunch m.lid (regroup (coreOf id) m (setMember m id .gone s))
  | none => s

-- EXIT (R79).

/-- CODE of a launch: the largest exit code, in its status area by an atomic maximum. -/
def recordCode (id code : Nat) (s : State) : State :=
  match taskLaunch s id with
  | none => s
  | some lid =>
    match smGet s.launches lid with
    | none => s
    | some l =>
      let s := modLaunch s lid fun l => { l with code := max l.code code }
      match sysLoad s l.part l.tenant .ls (natW (l.status + 8)) 8 with
      | .ok bs => if leNat bs < code then (sysStore s l.part l.tenant .ls (natW (l.status + 8)) (leBytes 8 code)).2 else s
      | .error _ => s

/-- Map regions of a context that no write-back of it is unmapping (R211). DEDUCED (log entry 48). -/
def regionsLeft (s : State) (id : Nat) : List Nat :=
  let busy := (getCtx s id).copies.filterMap fun o => match o.kind with | .writeBack r true _ => some r | _ => none
  ((getCore s (coreOf id)).regions.filter fun e => e.2.owner == id && !busy.contains e.1).map (·.1)
/-- EXIT writes a region back and unmaps it. -/
def unmapRegion (id : Nat) (s : State) (r : Nat) : State :=
  let c := getCtx s id
  let (n, c) := tcTake c 4
  setCtx s id { c with copies := c.copies ++
    [{ num := n, kind := .writeBack r true (dirtyOf s (coreOf id) r), view := viewOf c, tagged := false, tenant := c.tenant.toNat }] }

/-- A halted access engine is not waited for, nor a number that no block has still to take. -/
def dropHalts (c : Ctx) : Ctx := [0, 1, 2].foldl (fun c n => if (engOf c n).st = .halted then dropHalt c n else dropSpare c n) c
/-- A write engine still has blocks that it will perform. -/
def writesLeft (c : Ctx) : Bool := (engOf c 2).st != .halted && engEnabled c 2
/-- Every engine operation of a context has completed, but for its halted access engines. -/
def exitReady (s : State) (id : Nat) : Bool :=
  allDone (setCtx s id (dropHalts (getCtx s id))) id && !writesLeft (getCtx s id)

/-- EXIT of a context at its word. -/
def exitContext (id code : Nat) (s : State) : State :=
  let s := restartTold s id
  match faultDue s id anyNumber [4, 5, 6] with
  | some (t, s) => takeTrap id t s
  | none =>
    let s := (regionsLeft s id).foldl (unmapRegion id) s
    if !exitReady s id then modCtx s id fun c => { c with wait := some .exit }
    else endContext id (recordCode id code (release s id 4 none))

/-- EXIT: no later word of its bundle issues. -/
def execExit (_ : Bool) (c : BitVec 8) (s : State) : Out :=
  .next (exitContext s.cur c.toNat s)

-- SYNCB, YIELD, SPAWN (R72, R77, R78).

/-- SYNCB's effect on issue is in the framing of its bundle (R26). -/
def execSyncb (e : Bool) (s : State) : Out := .next (retire e 4 s)

/-- YIELD (R78). A context's turn is over after every bundle, so that without a request nothing is left to do. -/
def execYield (e : Bool) (m : BitVec 16) (s : State) : Out :=
  let id := s.cur
  let s := if isLight id then s
           else
             let s := onMe s (zeroGroups m)
             if s.poison.isEmpty then s
             else { s with poison := s.poison.filter fun p =>
                      match p with | .vreg k v _ _ => !(k == clusterOf id && natBit m.toNat (v / 4)) | _ => true }
  let s := retire e 4 s
  if bitAt (me s).xsched 0 then .next (beginSave id false (onMe s fun c => { c with dead := if isLight id then 0 else m }))
  else .next s

/-- A light context can be claimed: it is DORMANT, and no image is to be resumed there first (R69).
DEDUCED (log entry 49). -/
def claimable (s : State) (id : Nat) : Bool :=
  (getCtx s id).run == .dormant && !s.images.any fun i => i.place == id && i.refused == 0
/-- The lowest light context of a cluster that can be claimed. -/
def firstDormant (s : State) (cl : Nat) : Option Nat := (rangeFrom (8 * cl + 1) 7).find? (claimable s)

/-- The number of the next start of a context. -/
def nextUid (s : State) : Nat × State := (s.nextId + 1, { s with nextId := s.nextId + 1 })

/-- A context starts with the state that `c` gives it. -/
def startAt (id : Nat) (c : Ctx) (s : State) : State :=
  let (u, s) := nextUid (cleanRegs id s)
  setCtx s id { c with uid := u, run := .runnable }

/-- The context that SPAWN starts, or none. -/
def spawnTarget (s : State) (c : Nat) : Option Nat :=
  let cl := clusterOf s.cur
  if !coreAdmits s (coreOf s.cur) (worldOf s (me s).tenant.toNat) then none
  else if c = 0 then firstDormant s cl
  else if claimable s (8 * cl + c) then some (8 * cl + c) else none

def execSpawn (e : Bool) (d a b : SReg) (c : BitVec 3) (s : State) : Out :=
  supervisorOnly (.spawn e d a b c) s fun s =>
    withSrc [a, b] s fun s =>
      match spawnTarget s c.toNat with
      | none => result e d 0 s
      | some id =>
        let p := me s
        let prio := fld p.xprio 0 7
        let s := release s s.cur 1 none
        let s := startAt id { idleCtx id with
          pc := aligned4 (rs s a), s := smSet [] 1 (rs s b) 0, xprio := natW (prio + 256 * prio), xhyp := p.xhyp,
          xhypwait := p.xhypwait, tenant := p.tenant, xdeadline := p.xdeadline } s
        result e d (natW (ctxNum id)) s

-- ORPHAN (R270).

/-- Tagged copies of a context are dropped, their numbers completed. -/
def cutTagged (c : Ctx) : Ctx :=
  let gone := c.copies.filter (·.tagged)
  gone.foldl (fun c o => tcFinish c 4 o.num) { c with copies := c.copies.filter fun o => !o.tagged }
/-- A tagged store that waits for version space is abandoned; its number completes. -/
def cutStore (c : Ctx) : Ctx := match c.wait with | some (.versionSpace _ _) => tcStep c 0 | _ => c
/-- Whether ORPHAN drops tagged work. -/
def hasTagged (c : Ctx) : Bool := c.copies.any (·.tagged) || (match c.wait with | some (.versionSpace _ _) => true | _ => false)

/-- What ORPHAN does to a context whose node's survivor is `n`. -/
def orphanCtx (n : Nat) (c : Ctx) : Ctx :=
  let x := setFld (setFld (setFld c.xhyp 16 10 (viewOf c)) 0 10 n) 26 1 1
  let x := if hasTagged c then setFld x 27 1 1 else x
  let c := cutStore (cutTagged c)
  let c := { c with
    xhyp := x, run := .runnable, wait := none, due := none, xloop := maskW c.xloop 0xFFFFFF, refill := false,
    xstat := setBit c.xstat 0 false, mid := false, jump := none, back := [], held := [], syncGo := false, loopIdle := false,
    drainCut := false, qadvLeft := none, exiting := none }
  let v := aligned4 c.xovec
  if v = 0 then { c with exiting := some c.pc } else { c with pc := v }

/-- ORPHAN at a bundle boundary or in a wait; one without a vector goes on to its EXIT. -/
def execOrphan (ctx : Nat) (s : State) : Out :=
  let c := getCtx s ctx
  if c.run = .runnable ∧ exitsHere c = true then .next (exitContext ctx 0 s)
  else if (c.run = .waiting ∨ (c.run = .runnable ∧ inBundle c = false)) ∧
      (getNode (getPart s (partOf s ctx)) (viewOf c)).st = .refuted then
    let n := survivor (getPart s (partOf s ctx)) (viewOf c)
    .next (freeNodes (modCtx (leaveBarriers s ctx) ctx (orphanCtx n)))
  else .next s

-- CKPT, TRET, SNAP (R331, R332, R351, R354).

/-- CKPT is taken at a bundle boundary, and a wait is left (R351). While a handler runs it is held (R331). -/
def execCkpt (ctx : Nat) (s : State) : Out :=
  let c := getCtx s ctx
  if !c.ckpt then .next s
  else if bitAt c.xstat 0 then .next (modCtx s ctx fun c => { c with ckpt := false, ckptHeld := true })
  else if c.run == .waiting || (c.run == .runnable && !inBundle c) then
    let s := modCtx (leaveBarriers s ctx) ctx fun c => { c with ckpt := false }
    .next (takeTrap ctx { cause := 17 } s)
  else .next s

/-- A handler is over: TH is 0 and the loop is no longer idle (R89, R332). -/
def leaveHandler (c : Ctx) : Ctx := { c with xstat := setBit c.xstat 0 false, loopIdle := false }

/-- A context stands at the target of its return: in the rest of the bundle that its handler's trap left, where the target
lies in it, else at a new bundle (R25, R332). -/
def standAt (s : State) (id : Nat) (t : Word) (c : Ctx) : Ctx :=
  let (f, fs) := popFrame s id t c.held
  let c := { leaveHandler c with held := fs, qadvLeft := f.adv, syncGo := false }
  match f.rest with
  | some h => enterRest h c
  | none => enterAt t c

/-- The held CKPT is taken in place of a return to `t` (R331). -/
def takeHeldCkpt (id : Nat) (t : Word) (s : State) : State :=
  takeTrap id { cause := 17 } (modCtx s id fun c => { standAt s id t c with ckptHeld := false })

/-- TRET to a target (R332). The next bundle is there, or the rest of one that the handler's trap left (R25). The report of a
stop carries the cause and the failing address of the trap being handled (R333, R348). DEDUCED (log entry 75). -/
def returnTo (e stop : Bool) (t : Word) (s : State) : State :=
  let (f, fs) := popFrame s s.cur t (me s).held
  let s := onMe s fun c => { leaveHandler c with held := fs, qadvLeft := f.adv }
  if stop then
    reportCtx (onMe s fun c => { enterAt t c with run := .stopped, stopHeld := f.rest, trapped := false, syncGo := false }) 2
      (fld (me s).xtrapc 0 6) s.cur (me s).xtrapva
  else retire e 4 (onMe s fun c => { c with jump := some t, back := (f.rest.map fun h => h.jump :: h.back).getD [] })

/-- The target of a TRET and the state after it is found; the fate of the fetch that SKIP makes (R332). -/
def tretTarget (sk : Bool) (s : State) : Except UnitRes Word :=
  let t := aligned4 (me s).xtrappc
  if sk then
    match fetchUnit s s.cur t with
    | .unit w => .ok (t + natW (4 * unitCount w))
    | r => .error r
  else .ok t

/-- TRET (R332). A held CKPT comes before anything else; where SKIP's fetch fails as well, the target that XTRAPPC takes
is a free value. DESIGN CHOICE (log entry 81). -/
def execTret (e p sk : Bool) (s : State) : Out :=
  if !s.poison.isEmpty && isPoison s (.xreg s.cur 0x09) then trapNext { cause := 6 } s
  else
    match tretTarget sk s, (me s).ckptHeld with
    | .ok t, held =>
      match framesStuck s s.cur t (me s).held with
      | some r => fetchFails s s.cur r t
      | none => .next (if held then takeHeldCkpt s.cur t s else returnTo e p t s)
    | .error (.fill r g), true => fetchFails s s.cur (.fill r g) (aligned4 (me s).xtrappc)
    | .error .wait, true => fetchFails s s.cur .wait (aligned4 (me s).xtrappc)
    | .error _, true => .next (takeHeldCkpt s.cur (aligned4 (Config.freeWord (draw s).1)) (draw s).2)
    | .error r, false => fetchFails s s.cur r (aligned4 (me s).xtrappc)

def execSnap (e : Bool) (d : SReg) (t : BitVec 8) (s : State) : Out :=
  if snapReady s .snap (myPart s) then result e d 1 (fireSnap s .snap (myPart s) t.toNat s.cur) else result e d 0 s

end Sys2Proof.Machine
end

