-- ==== Sys2Proof/Machine/Images.lean ====
section
/-! DEFINITION. Save images: what a save holds and its bytes, saves by the schedulers and by CTXSV, the checks of a restore
and CTXRS (17 R335 to R345). -/

namespace Sys2Proof.Machine

-- What is saved (R338).

/-- Quarters of a core that a context owns. -/
def ownQuarters (id : Nat) (c : Core) : List Nat := (c.owner.filter fun e => e.2 == id).map (·.1)
/-- Slots of a core that a context has claimed. -/
def ownSlots (id : Nat) (c : Core) : List Nat := (c.claims.filter fun e => e.2 == id).map (·.1)
/-- Metadata slots that a context's TSMLDs have written last. -/
def ownMeta (id : Nat) (c : Core) : List Nat := (c.metaOwner.filter fun e => e.2 == id).map (·.1)

/-- The parts of a core in some quarters. -/
def quarterPart (qs : List Nat) (c : Core) : Core :=
  { acc := c.acc.filter fun e => qs.contains (e.1 / 4096)
    owner := c.owner.filter fun e => qs.contains e.1
    u := c.u.filter fun e => qs.contains (e.1 / 2048)
    marked := c.marked.filter fun k => qs.contains (k / 32)
    failed := c.failed.filter fun k => qs.contains (k / 32)
    sideN0 := c.sideN0.filter fun e => qs.contains (e.1 / 32)
    sideEnts := c.sideEnts.filter fun e => qs.contains e.1
    sideRank := c.sideRank.filter fun e => qs.any fun q => q / 4 == e.1
    held := c.held.filter fun h => qs.contains (4 * h.acc + h.row / 32) }

/-- A scratchpad offset lies in a saved range. -/
def inSpan (off n k : Nat) : Bool := decide (off ≤ k ∧ k < off + n)

/-- The parts of its core that a context's image holds. -/
def savedCore (id off n : Nat) (c : Core) : Core :=
  { quarterPart (ownQuarters id c) c with
    scratch := c.scratch.filter fun e => inSpan off n e.1
    regions := c.regions.filter fun e => e.2.owner == id
    slots := c.slots.filter fun e => (ownSlots id c).contains (e.1 / 128)
    claims := c.claims.filter fun e => e.2 == id
    smeta := c.smeta.filter fun e => (ownMeta id c).contains (e.1 / 2048)
    metaBad := c.metaBad.filter fun e => (ownMeta id c).contains e.1
    metaOwner := c.metaOwner.filter fun e => e.2 == id }

/-- What an image of a context stands for. -/
def savedPart (s : State) (id off n : Nat) (c : Ctx) : SavedPart :=
  { partn := partOf s id, ctx := { c with fab := c.fab.map fun o => { o with slot := false } }, part := savedCore id off n (getCore s (coreOf id))
    others := (s.cores.filter fun e => e.1 != coreOf id && e.2.owner.any fun q => q.2 == id).map fun e =>
      (e.1, quarterPart (ownQuarters id e.2) e.2) }

-- Bytes (R337, R338).

/-- The fields that fix an image's length. -/
structure ImageHead where
  light : Bool
  flags : Nat
  cnt : Nat
  place : Nat
  tenant : Nat
  live : Nat
  qtrs : Nat
  slots : Nat
  meta_ : Nat
  off : Nat
  span : Nat
  inst : Nat
  deriving DecidableEq, Repr

/-- Set bits among the first `n`. -/
def bitCount (n x : Nat) : Nat := countIf (natBit x) (rangeFrom 0 n)

/-- Bytes of the whole image (R338). -/
def ImageHead.len (h : ImageHead) : Nat :=
  256 + 1024 + h.span +
    if h.light then 0
    else 4096 + 2048 + 8192 * bitCount 16 h.live + 32768 * bitCount 28 h.slots + 25600 * bitCount 16 h.qtrs + 2048 * bitCount 16 h.meta_

/-- Header bytes 0 to 239. -/
def headBytes (h : ImageHead) : List Byte :=
  leBytes 2 1 ++ leBytes 1 (bitNat (!h.light)) ++ leBytes 1 h.flags ++ leBytes 4 h.len ++ leBytes 8 h.cnt ++ leBytes 2 h.place ++
    leBytes 2 h.tenant ++ leBytes 2 h.live ++ leBytes 2 h.qtrs ++ leBytes 4 h.slots ++ leBytes 2 h.meta_ ++ leBytes 2 0 ++
    leBytes 4 h.off ++ leBytes 4 h.span ++ leBytes 8 h.inst ++ List.replicate 192 0

/-- The header that 240 bytes hold, none where one breaks FORMAT (R341). -/
def headOf (light : Bool) (bs : List Byte) : Option ImageHead :=
  let h : ImageHead :=
    { light := light, flags := fieldAt bs 3 1, cnt := fieldAt bs 8 8, place := fieldAt bs 16 2, tenant := fieldAt bs 18 2,
      live := fieldAt bs 20 2, qtrs := fieldAt bs 22 2, slots := fieldAt bs 24 4, meta_ := fieldAt bs 28 2, off := fieldAt bs 32 4,
      span := fieldAt bs 36 4, inst := fieldAt bs 40 8 }
  if headBytes h = bs.take 240 ∧ h.flags < 4 ∧ h.place < 4096 ∧ h.slots < 2 ^ 28 ∧ h.inst < 2 ^ 24 ∧ h.off % 4096 = 0 ∧
      h.span % 4096 = 0 ∧ h.off + h.span ≤ 2 ^ 22 ∧ (light = true → h.live + h.qtrs + h.slots + h.meta_ = 0) then some h
  else none

/-- Eight bytes of a register. -/
def regBytes (v : Word) : List Byte := leBytes 8 v.toNat

/-- The watch as an image holds it. -/
def watchWord (c : Ctx) : Word :=
  if c.watchKey.isNone then 0
  else natW (c.watchVa.toNat / 64 * 64 % 2 ^ 57 + 2 + bitNat c.watchFired)

/-- CORE. -/
def coreBytes (s : State) (id : Nat) (c : Ctx) : List Byte :=
  let xs := [c.pc, c.xstat, c.xtrapc, c.xtrappc, c.xtrapva, c.xtrapmap, c.xprio, c.xdeadline, xschedWord c id, xtenantWord s id, c.xhyp,
    c.xovec, c.xhypwait, c.xfmt, c.xseed, watchWord c, c.ckcnt]
  List.replicate 8 0 ++ (rangeFrom 1 63).flatMap (fun i => regBytes (smGetD c.s i 0)) ++ xs.flatMap regBytes ++ List.replicate 376 0

/-- ENGINE: its public part, and bytes in the form that the device writes. -/
def engineBytes (place cnt : Nat) (c : Ctx) : List Byte :=
  (rangeFrom 0 80).flatMap (fun k => regBytes (smGetD c.l k 0)) ++
    [c.xloop, c.xstagep, c.xlpos, c.xrrb, xastat c].flatMap regBytes ++ List.replicate 88 0 ++
    (rangeFrom 0 64).flatMap (fun i => regBytes (smGetD c.xfte i 0)) ++ (rangeFrom 1280 2816).map (Config.engineByte place cnt)

/-- The numbers of set bits. -/
def bitList (n x : Nat) : List Nat := (rangeFrom 0 n).filter (natBit x)

/-- A quarter: values, o bits, u, per-row state in the device's form, zeros. -/
def quarterBytes (place cnt : Nat) (k : Core) (q : Nat) : List Byte :=
  (rangeFrom (4096 * q) 4096).flatMap (fun i => leBytes 4 (smGetD k.acc i (0, false)).1.toNat) ++
    leBytes 512 ((rangeFrom 0 4096).foldl (fun n i => if (smGetD k.acc (4096 * q + i) (0, false)).2 then n + 2 ^ i else n) 0) ++
    (rangeFrom (2048 * q) 2048).flatMap (fun i => leBytes 4 (smGetD k.u i 0).toNat) ++
    (rangeFrom (4096 + 256 * q) 256).map (Config.engineByte place cnt) ++ List.replicate 256 0

/-- The body of an image. -/
def bodyBytes (s : State) (id : Nat) (h : ImageHead) (c : Ctx) : List Byte :=
  let k := getCore s (coreOf id)
  let scratch := (rangeFrom h.off h.span).map fun i => smGetD k.scratch i 0
  if h.light then coreBytes s id c ++ scratch
  else
    coreBytes s id c ++ engineBytes h.place h.cnt c ++ (rangeFrom 0 8).flatMap (fun i => leBytes 256 (smGetD c.k i 0).toNat) ++
      ((bitList 16 h.live).flatMap fun g => (rangeFrom (4 * g) 4).flatMap fun v => leBytes 2048 (smGetD c.v v 0).toNat) ++
      ((bitList 28 h.slots).flatMap fun n => (rangeFrom (128 * n) 128).flatMap fun r => leBytes 256 (smGetD k.slots r 0).toNat) ++
      (bitList 16 h.qtrs).flatMap (quarterBytes h.place h.cnt k) ++
      ((bitList 16 h.meta_).flatMap fun m => (rangeFrom (2048 * m) 2048).map fun i => smGetD k.smeta i 0) ++ scratch

/-- The header of a context's next image. -/
def headFor (s : State) (id cnt flags off span : Nat) (c : Ctx) : ImageHead :=
  let k := getCore s (coreOf id)
  let light := isLight id
  let mask := fun (l : List Nat) => if light then 0 else (l.map (2 ^ ·)).sum
  { light := light, flags := flags, cnt := cnt, place := id, tenant := c.tenant.toNat + partOf s id * 4096,
    live := if light then 0 else 65535 - c.dead.toNat, qtrs := mask (ownQuarters id k), slots := mask (ownSlots id k),
    meta_ := mask (ownMeta id k), off := off, span := span,
    inst := match c.member with | some m => m.serial % 65536 + m.index % 256 * 65536 | none => 0 }

/-- The key that seals a context's images (R335): none while the partition has no context key. -/
def imageKey (s : State) (part place tenant : Nat) : Option (BitVec 256) :=
  match smGet s.keys (8176 + part) with
  | some k => (k.at k.cur).map fun key => kdf key (leBytes 2 place ++ leBytes 2 tenant)
  | none => none

/-- The IV of an image (R337). -/
def imageIv (place cnt : Nat) : List Byte := leBytes 2 place ++ leBytes 2 0 ++ leBytes 8 cnt

/-- The bytes of an image. -/
def imageBytes (s : State) (id : Nat) (key : BitVec 256) (h : ImageHead) (c : Ctx) : List Byte :=
  let aad := headBytes h
  let (ct, tag) := gcmSeal key (imageIv h.place h.cnt) aad (bodyBytes s id h c)
  aad ++ tag ++ ct

-- A save (R340, R343).

/-- The stream matrix words of a context that have stopped for a save: their next step's ring slots are not there, or an earlier
stopped word or TSTAGE of the context holds them back (R188, R205). -/
def stoppedWords (s : State) (id : Nat) : List MxOp :=
  let c := getCtx s id
  c.mx.foldl (fun l o => if !slotsReady s id o || stageBefore c o || l.any (fun p => shares id o id p) then o :: l else l) []
/-- Some stream matrix word of a context has still to run: one that waits for another context's word does, and held groups run
out too (R188, R192, R205). -/
def stepsLeft (s : State) (id : Nat) : Bool := decide ((stoppedWords s id).length < (getCtx s id).mx.length)

/-- Every engine operation of a context stands at a resumable point (R340). -/
def saveReady (s : State) (id : Nat) : Bool :=
  let c := getCtx s id
  !stepsLeft s id && !writesLeft c && !s.outbox.any (fun p => p.srcCtx == id) && (tcOf c 7).pending.isEmpty

/-- Poison lies in the state that an image would hold, on every core where the context owns quarters (R343). -/
def saveBad (s : State) (id off n : Nat) (c : Ctx) : Bool :=
  if s.poison.isEmpty && c.q.isEmpty && c.bodyBad.isEmpty then false
  else
    let k := getCore s (coreOf id)
    let cl := clusterOf id
    let core := coreOf id
    let full := !isLight id
    let mine := fun (h : HeldStep) (k : Core) => h.bad && (ownQuarters id k).contains (4 * h.acc + h.row / 32)
    s.cores.any (fun e => e.2.held.any fun h => mine h e.2) ||
    (full && (!c.bodyBad.isEmpty || c.q.any fun e => match e.2 with | .data _ bs => bs.any (!·.bad.isEmpty) | _ => false)) ||
    s.poison.any fun p =>
      match p with
      | .sreg i _ => i == id
      | .xreg i _ => i == id
      | .vreg i v _ _ => full && i == cl && !natBit c.dead.toNat (v / 4)
      | .kmask i _ _ _ => full && i == cl
      | .loopReg i _ => full && i == cl
      | .slot i m _ _ => i == core && (ownSlots id k).contains m
      | .acc i a r _ => (ownQuarters id (getCore s i)).contains (4 * a + r / 32)
      | .side i a r _ => (ownQuarters id (getCore s i)).contains (4 * a + r / 32)
      | .smeta i g => i == core && (ownMeta id k).contains (g / 256)
      | .scratch i g => i == core && inSpan off n (8 * g)
      | _ => false

/-- What becomes of a save: its count, or the cause and address that refuse it. -/
inductive SaveRes where
  | ok (cnt : Nat) (s : State)
  | bad (cause : Nat) (va : Word) (s : State)

/-- The first line of a range that copy-write is refused for. -/
def saveRoute (s : State) (part tenant : Nat) : Nat → Word → Nat → Option (Nat × Word)
  | 0, _, _ => none
  | f + 1, va, n =>
    if n = 0 then none
    else
      match sysRoute s part tenant .cw true va with
      | .error c => some (c, va)
      | .ok _ => saveRoute s part tenant f (va + natW (segLen va n)) (n - segLen va n)

/-- Engine work at its resumable point in the context itself: read queues are rewound (R99). -/
def rewound (c : Ctx) : Ctx := if c.eng.isEmpty then c else [0, 1].foldl rewind c

/-- The count that a save at a place takes (R336). -/
def takeCnt (s : State) (id : Nat) : Nat × State :=
  let n := smGetD s.scnt id 0 + 1
  (n, { s with scnt := smPut s.scnt id n })

/-- Write the image of a context, its registers as `c`, at an address; `limit` bounds its length. -/
def writeImage (id cnt flags off span limit : Nat) (va : Word) (c : Ctx) (s : State) : SaveRes :=
  let part := partOf s id
  let h := headFor s id cnt flags off span c
  if saveBad s id off span c then .bad 6 0 s
  else if limit < h.len then .bad 0 va s
  else
    match saveRoute s part c.tenant.toNat h.len va h.len with
    | some (k, a) => .bad k a s
    | none =>
      match imageKey s part id h.tenant with
      | none => .bad 0 va s
      | some key =>
        let ag : Agent := { ctx := id, part := part, tenant := c.tenant.toNat, view := 0 }
        match rangeWrite ag .cw h.len s va (clean (imageBytes s id key h c)) with
        | .ok _ s => .ok cnt { s with saved := (s.saved.filter fun e => e.1 != (id, cnt)) ++ [((id, cnt), savedPart s id off span c)] }
        | .fault k a s => .bad k a s
        | .wait s => .bad 3 va s

-- CTXSV (R344).

/-- SPOFF and SPAN fit R337. -/
def spanOk (off span : Nat) : Bool := decide (off % 4096 = 0 ∧ span % 4096 = 0 ∧ off + span ≤ 2 ^ 22)

/-- The status word of a CTXSV. -/
def saveStatus (st cnt : Nat) : Word := natW (st + cnt % 2 ^ 56 * 256)

def execCtxsv (d a b : SReg) (s : State) : Out :=
  if (me s).mid then illopOf (.ctxsv d a b) s
  else
    withSrc [a, b] s fun s =>
      let span := fld (rs s b) 0 32
      let off := fld (rs s b) 32 32
      let id := s.cur
      if !spanOk off span then result true d 3 s
      else if !saveReady s id then .next (stallHere .saves s)
      else
        let va := alignDown (rs s a) 64
        let (cnt, s1) := takeCnt (onMe s rewound) id
        let s2 := retire true 4 (setReg s1 d (saveStatus 2 cnt))
        match writeImage id cnt 2 off span (2 ^ 32) va { me s2 with ckcnt := BitVec.ofNat 64 cnt } s1 with
        | .bad k v s => trapNext { cause := 16, src := 8, w := k != 6, va := v, orig := k } s
        | .ok cnt s => result true d (saveStatus 1 cnt) (pruneSaved id (onMe s fun c => { c with ckcnt := BitVec.ofNat 64 cnt }))

-- Restores (R341).

/-- What becomes of a restore: a status that refuses it, a trap cause, or the header that has passed. -/
inductive LoadRes where
  | refused (code : Nat)
  | trap (cause : Nat) (va : Word)
  | ok (h : ImageHead) (p : SavedPart)

/-- Slots, quarters and metadata slots of an image are held by another context. -/
def partsBusy (s : State) (id : Nat) (h : ImageHead) : Bool :=
  let k := getCore s (coreOf id)
  let held := fun (m : List (Nat × Nat)) (n : Nat) => match smGet m n with | some o => o != id | none => false
  (bitList 28 h.slots).any (held k.claims) || (bitList 16 h.qtrs).any (held k.owner) || (bitList 16 h.meta_).any (held k.metaOwner)

/-- Quarters on other cores are held by another context. -/
def othersBusy (s : State) (id : Nat) (p : SavedPart) : Bool :=
  p.others.any fun e => e.2.owner.any fun q => match smGet (getCore s e.1).owner q.1 with | some o => o != id | none => false

/-- The checks on a header (R341). -/
def headCheck (s : State) (id tenant cnt : Nat) (bs : List Byte) : Except Nat ImageHead :=
  match headOf (isLight id) bs with
  | none => .error 3
  | some h =>
    if h.place ≠ id then .error 4
    else if h.tenant ≠ tenant then .error 5
    else if h.cnt ≠ cnt then .error 6
    else if partsBusy s id h then .error 7
    else .ok h

/-- Read an image as the core of its place reads it, which has what its own save has stored (R207, R341). -/
def imageGo (s : State) (id part tenant : Nat) : Nat → Word → Nat → List Byte → Except (Nat × Word) (List Byte)
  | 0, _, _, acc => .ok acc
  | f + 1, va, n, acc =>
    if n = 0 then .ok acc
    else
      let k := segLen va n
      match sysPage s part tenant .cr false va with
      | .error c => .error (c, va)
      | .ok (lo, pa) =>
        let bs := peekLine s { ctx := id, part := part, tenant := tenant, view := 0 } (pagePoint lo pa) (pa / 64) (pa % 64) k
        if anyBad bs then .error (6, va) else imageGo s id part tenant f (va + natW k) (n - k) (acc ++ bytesOf bs)
/-- Read `n` bytes of an image with copy-read permission. -/
def imageRead (s : State) (id part tenant : Nat) (va : Word) (n : Nat) : Except (Nat × Word) (List Byte) :=
  imageGo s id part tenant n va n []

/-- The checks of a restore at a place under the accepted count, the image read with copy-read permission. -/
def loadImage (s : State) (id part tenant cnt : Nat) (va : Word) : LoadRes :=
  match imageRead s id part tenant va 256 with
  | .error (c, a) => .trap c a
  | .ok hd =>
    match headCheck s id (tenant + part * 4096) cnt hd with
    | .error k => .refused k
    | .ok h =>
      match (s.saved.find? fun e => e.1 == (id, cnt)).map (·.2), imageKey s part id h.tenant with
      | some p, some key =>
        if othersBusy s id p then .refused 7
        else
          match imageRead s id part tenant (va + 256) (h.len - 256) with
          | .error (c, a) => .trap c a
          | .ok body =>
            if (gcmOpen key (imageIv h.place h.cnt) (hd.take 240) body (hd.drop 240)).isSome then .ok h p else .trap 14 va
      | _, _ => .refused 6

/-- Put a saved part of a core back. -/
def putPart (off span : Nat) (p c : Core) : Core :=
  { c with
    scratch := smPutMany (c.scratch.filter fun e => !inSpan off span e.1) p.scratch
    regions := p.regions.foldl (fun m e => smPut m e.1 e.2) c.regions
    slots := smPutMany (c.slots.filter fun e => (smGet p.claims (e.1 / 128)).isNone) p.slots
    claims := p.claims.foldl (fun m e => smPut m e.1 e.2) c.claims
    acc := smPutMany (c.acc.filter fun e => (smGet p.owner (e.1 / 4096)).isNone) p.acc
    owner := p.owner.foldl (fun m e => smPut m e.1 e.2) c.owner
    u := smPutMany (c.u.filter fun e => (smGet p.owner (e.1 / 2048)).isNone) p.u
    marked := p.marked ++ c.marked.filter fun k => (smGet p.owner (k / 32)).isNone
    failed := p.failed ++ c.failed.filter fun k => (smGet p.owner (k / 32)).isNone
    sideN0 := p.sideN0.foldl (fun m e => smPut m e.1 e.2) c.sideN0
    sideEnts := p.sideEnts.foldl (fun m e => smPut m e.1 e.2) c.sideEnts
    sideRank := p.sideRank.foldl (fun m e => smPut m e.1 (max e.2 (smGetD m e.1 0))) c.sideRank
    held := c.held.filter (fun h => (smGet p.owner (4 * h.acc + h.row / 32)).isNone) ++ p.held
    smeta := smPutMany (c.smeta.filter fun e => (smGet p.metaOwner (e.1 / 2048)).isNone) p.smeta
    metaBad := p.metaBad.foldl (fun m e => smPut m e.1 e.2) (c.metaBad.filter fun e => (smGet p.metaOwner e.1).isNone)
    metaOwner := p.metaOwner.foldl (fun m e => smPut m e.1 e.2) c.metaOwner }

/-- Restored storage of a core holds no poison. -/
def cleanPart (core off span : Nat) (p : Core) (s : State) : State :=
  if s.poison.isEmpty then s
  else
    { s with poison := s.poison.filter fun l =>
      match l with
      | .slot k n _ _ => !(k == core && (smGet p.claims n).isSome)
      | .acc k a r _ => !(k == core && (smGet p.owner (4 * a + r / 32)).isSome)
      | .side k a r _ => !(k == core && (smGet p.owner (4 * a + r / 32)).isSome)
      | .smeta k g => !(k == core && (smGet p.metaOwner (g / 256)).isSome)
      | .scratch k g => !(k == core && inSpan off span (8 * g))
      | _ => true }

/-- The registers that a restore gives a context: RES is set, FRC as the image says. A wait of a copy for version space begins
anew (R263), and its words in flight go ahead of younger ones (R205). -/
def restoredCtx (h : ImageHead) (c : Ctx) : Ctx :=
  { c with xsched := natW (bitNat (natBit h.flags 0) * 2 + 4), run := .runnable, wait := none, due := none, prqDue := none, forced := false,
           copies := c.copies.map fun o => { o with due := none }, mx := c.mx.map fun o => { o with restored := true }, dead := 0, drainCut := draining c && !c.refill }

/-- Put an image's state into a context whose own has gone; its quad-level words in flight have their staging again
(R195). -/
def putImage (id : Nat) (h : ImageHead) (p : SavedPart) (c : Ctx) (s : State) : State :=
  let s := modCore s (coreOf id) (putPart h.off h.span p.part)
  let s := p.others.foldl (fun s e => cleanPart e.1 0 0 e.2 (modCore s e.1 (putPart 0 0 e.2))) s
  let s := takeStaging id (setCtx (cleanRegs id (cleanPart (coreOf id) h.off h.span p.part s)) id c)
  if c.refill then setCtx s id (refillLoop (getCtx s id))
  else if loopActive c && !c.mid && c.pc == c.bodyAt + natW (bodyLen c) then raise s [.loopPassEnd id] else s

-- CTXRS (R345).

/-- tc.mx after a restore: the tasks' numbers as they stand, and those of the image's own words (R200). -/
def mergeMx (live saved : Counter) (own tasks : List Nat) : Counter :=
  { issued := max live.issued saved.issued, pending := live.pending.filter tasks.contains ++ own }

/-- The context that CTXRS makes of an image: what belongs to the hardware context stays, a CKPT that is due or held too,
which is no part of the image: the restored context meets it at its next boundary, or holds it while TH = 1 (R331, R351).
DESIGN CHOICE (log entry 106). -/
def rejoin (s : State) (h : ImageHead) (live c : Ctx) : Ctx :=
  let tasks := (s.tasks.filter fun t => t.full == live.uid).map (·.num)
  let c := restoredCtx h c
  { c with
    uid := live.uid, member := live.member, ckpt := live.ckpt || live.ckptHeld, ckptHeld := false, dbg := live.dbg, prqDue := live.prqDue
    xsched := setBit c.xsched 0 (bitAt live.xsched 0)
    tc := smPut c.tc 5 (mergeMx (tcOf live 5) (tcOf c 5) (c.mx.map (·.num)) tasks) }

/-- Drop what a context holds, for an image that takes its place. -/
def giveUp (id : Nat) (s : State) : State :=
  let s := freeStaging id s
  let s := (ringHandles (getCtx s id)).foldl (fun s q => releaseRing id q s) s
  dropRegions id (dropFabric id (modCtx s id fun c => { c with mx := [] }))

def execCtxrs (d a : SReg) (s : State) : Out :=
  if (me s).mid then illopOf (.ctxrs d a) s
  else
    withSrc [a] s fun s =>
      let id := s.cur
      let va := alignDown (rs s a) 64
      let tenant := (me s).tenant.toNat
      match imageRead s id (myPart s) tenant va 256 with
      | .error (c, v) => trapNext { cause := c, src := 8, va := if c = 6 then va else v } s
      | .ok _ =>
        if !saveReady s id then .next (stallHere .saves s)
        else
          match loadImage s id (myPart s) tenant (me s).ckcnt.toNat va with
          | .refused k => result true d (natW k) s
          | .trap c v => trapNext { cause := c, src := 8, va := if c = 6 ∨ c = 14 then va else v } s
          | .ok h p =>
            let live := me s
            .next (freeNodes (putImage id h p (rejoin s h live p.ctx) (giveUp id s)))

-- Saves by the schedulers (R68, R339, R343).

/-- The save area of a context and the scratchpad bytes that its image takes. DEDUCED (log entry 22). -/
def saveArea (s : State) (id : Nat) : Nat × Nat :=
  let dflt := (getPart s (partOf s id)).save
  match (getCtx s id).member, launchOf s id with
  | some m, some l => (if l.save = 0 then dflt else l.save, ((l.stages[m.stage]?).map (·.span)).getD 0)
  | _, _ => (dflt, 0)

/-- The lowest free cell of a save area and the cell size; the cause and address where the area cannot be read. -/
def freeCell (s : State) (part tenant area : Nat) : Except (Nat × Word) (Option (Nat × Nat)) :=
  match sysLoad s part tenant .cr (natW area) 64 with
  | .error e => .error e
  | .ok hd =>
    let n := min (fieldAt hd 4 4) 65536
    match sysLoad s part tenant .cr (natW (area + 64)) (ceilDiv n 8) with
    | .error e => .error e
    | .ok used =>
      let map := leNat used
      .ok (((rangeFrom 0 n).find? fun c => !natBit map c).map fun c => (c, fieldAt hd 0 4))

/-- Address of a cell. -/
def cellAddr (area size c : Nat) : Nat := area + 65536 + c * size

/-- Set or clear a cell's USED bit with a home atomic; the cause and address where it is refused. -/
def setUsed (s : State) (part tenant area cell : Nat) (on : Bool) : Except (Nat × Word) State :=
  let va := natW (area + 64 + cell / 8)
  match sysLoad s part tenant .cr va 1 with
  | .error e => .error e
  | .ok bs =>
    match sysStore s part tenant .cw va (leBytes 1 (putField (leNat bs) (cell % 8) 1 (bitNat on))) with
    | (none, s) => .ok s
    | (some e, _) => .error e

/-- A save is aborted: the context stops and stays resident, every vector group of it live again (R337, R343). -/
def abortSave (id cause : Nat) (va : Word) (s : State) : State :=
  reportCtx (modCtx s id fun c => { c with run := .stopped, forced := false, dead := 0 }) 3 cause id va

/-- The context of a written image becomes FREE or DORMANT, its image queued for its place. -/
def finishSave (id cnt area cell : Nat) (s : State) : State :=
  let c := getCtx s id
  let part := partOf s id
  let s : State := { s with images := s.images ++
    [{ place := id, cnt := cnt, part := part, tenant := c.tenant.toNat, member := c.member, area := area, cell := cell, ckpt := c.ckpt }] }
  let s := clearContext id (releaseDrain s id 4)
  match c.member with
  | some m => wakeSchedulers (setMember m id .saved s)
  | none => wakeSchedulers s

/-- A scheduler's save of a context that is SAVING; it takes its count first, written or not (R336). A USED bit that cannot be
written aborts it as a refused write of the image does (R339, R343). -/
def schedSave (id : Nat) (s : State) : State :=
  let (cnt, s) := takeCnt (modCtx s id rewound) id
  let c := getCtx s id
  let part := partOf s id
  let (area, span) := saveArea s id
  if area = 0 then abortSave id 0 0 s
  else
    match freeCell s part c.tenant.toNat area with
    | .error (k, a) => abortSave id k a s
    | .ok none => abortSave id 0 (natW area) s
    | .ok (some (cell, size)) =>
      match writeImage id cnt (bitNat c.forced) 0 span size (natW (cellAddr area size cell)) c s with
      | .bad k a s => abortSave id k a s
      | .ok cnt s =>
        match setUsed s part c.tenant.toNat area cell true with
        | .error (k, a) => abortSave id k a s
        | .ok s => finishSave id cnt area cell s

/-- IMAGE_WRITTEN (R340): once the context's engine work stands at a resumable point. -/
def execImageWritten (ctx : Nat) (s : State) : Out :=
  if (getCtx s ctx).run = .saving ∧ saveReady s ctx = true then .next (schedSave ctx s) else .next s

end Sys2Proof.Machine
end

