-- ==== Sys2Proof/Machine/Adapters.lean ====
section
/-! DEFINITION. Admission and publication of adapters: ADMIT, APIN, AUNPIN, APAGE and APUB, the Catalogue's host commands,
the records between a home package and its replicas, and fills (14 R302 to R320). -/

namespace Sys2Proof.Machine

-- Seals (R308).

/-- The sealed message of a request. -/
def sealMessage (handle tenant : Nat) (nonce : Word) : List Byte :=
  leBytes 4 handle ++ leBytes 2 tenant ++ leBytes 2 0 ++ leBytes 8 nonce.toNat
/-- A seal under one key. -/
def sealUnder (key : BitVec 256) (msg : List Byte) : Nat := leNat ((cmac key msg).take 4)
/-- The seal matches under the handle key's CUR position or the other one. -/
def sealMatches (s : State) (e : CatEntry) (nonce : Word) (v : Nat) : Bool :=
  match smGet s.keys e.kslot with
  | some k =>
    k.kind == 1 && k.tenant == e.tenant &&
      [k.cur, 1 - k.cur].any fun p =>
        match k.at p with
        | some key => sealUnder key (sealMessage e.handle e.tenant nonce) == v
        | none => false
  | none => false

-- ADMIT (R309, R310, R319).

/-- The fields of an ADMIT's descriptor. -/
structure AdmitDesc where
  handle : Nat
  sealV : Nat
  nonce : Word
  tok : Word
  site : Nat
  count : Nat
  ok : Bool
  deriving DecidableEq, Repr

/-- Read a descriptor's 32 bytes; `ok` says that no reserved field is set and TOKADDR is aligned. -/
def admitDesc (bs : List Byte) : AdmitDesc :=
  { handle := fieldAt bs 0 4 % 2 ^ 20, sealV := fieldAt bs 4 4, nonce := natW (fieldAt bs 8 8), tok := natW (fieldAt bs 16 8),
    site := fieldAt bs 24 1, count := fieldAt bs 25 1,
    ok := decide (fieldAt bs 0 4 < 2 ^ 20 ∧ fieldAt bs 26 6 = 0 ∧ fieldAt bs 16 8 % 16 = 0) }

/-- Checks 2 to 4 of an ADMIT at the home of an entry: the status, and the version it would pin. -/
def homeChecks (s : State) (e : CatEntry) (t sealV : Nat) (nonce : Word) : Nat × Option VRec :=
  if e.tenant ≠ t then (2, none)
  else if !sealMatches s e nonce sealV then (3, none)
  else
    match recIn e .current with
    | some v => (0, some v)
    | none => (4, none)

/-- The lowest free admission record. -/
def freeAdmission (s : State) : Option Nat := (rangeFrom 1 16383).find? fun i => (smGet s.admissions i).isNone
/-- The generation after another: 32 bits, never 0 (R309, R313). The count goes on at 1 after its last value. DESIGN CHOICE (log
entry 112). -/
def nextGen (n : Nat) : Nat := if (n + 1) % 2 ^ 32 = 0 then 1 else (n + 1) % 2 ^ 32
/-- Some site of a version needs more lines than the tenant's quota. -/
def overQuota (s : State) (t : Nat) (v : VerInfo) : Bool := (rangeFrom 0 v.nsite).any fun i => decide (hbLines s t < verLines v i)

/-- Start the prefetch fills of an admission. DEDUCED (log entry 50). -/
def prefetch (s : State) (die : Nat) (a : Admission) (v : VerInfo) (site n : Nat) : State :=
  ((rangeFrom site n).filter fun i => decide (i < v.nsite)).foldl
    (fun s i =>
      let k := siteKeyOf a i
      if siteHere (getDie s die) k (verLines v i) then s else startFill s die k (verLines v i)) s

/-- An ADMIT ends with a status: its usage record, and rd. -/
def admitEnd (e : Bool) (d : SReg) (x : AdmitDesc) (logTenant status ver : Nat) (s : State) : Out :=
  let s := onMe s fun c => { c with homeAdmit := none }
  result e d (natW (status + ver * 2 ^ 16)) (appendLog s logTenant 1 status ver x.handle x.nonce)

/-- Checks 5 and 6, and the admission: `pin` holds the version here, `drop` lets go of a home's pin. -/
def admitVersion (e : Bool) (d : SReg) (x : AdmitDesc) (logTenant : Nat) (v : VerInfo) (home : Nat) (pin drop : State → State)
    (s : State) : Out :=
  let t := (me s).tenant.toNat
  if overQuota s t v then admitEnd e d x logTenant 5 0 (drop s)
  else
    match freeAdmission s with
    | none => admitEnd e d x logTenant 6 0 (drop s)
    | some i =>
      let a : Admission :=
        { part := myPart s, tenant := t, handle := x.handle, ver := v.ver, gen := nextGen s.gen, refs := 1, info := if home = 0x1FFF then none else some v, home := home }
      match storeAt 0 x.tok (tokenBytes i a.gen x.handle v.ver t) s with
      | .trap f s => trapNext f (drop (onMe s fun c => { c with homeAdmit := none }))
      | .stay s => .next s
      | .done _ s =>
        let s := pin { s with admissions := smPut s.admissions i a, gen := a.gen }
        admitEnd e d x logTenant 0 v.ver (prefetch s (dieOf s.cur) a v x.site x.count)

/-- ADMIT on a replica: the home is asked, and its answer is waited for at the word. -/
def admitRemote (e : Bool) (d : SReg) (x : AdmitDesc) (bs : List Byte) (en : CatEntry) (s : State) : Out :=
  match peerCheck s (dieOf s.cur) en.part en.home with
  | none => admitEnd e d x en.tenant 7 0 s
  | some p =>
    let t := (me s).tenant.toNat
    let s := sendRecord s en.part p t 2 (.admitAsk s.ownPeer s.cur en.part x.handle t x.sealV x.nonce)
    .next (onMe s fun c => { c with homeAdmit := some { peer := p, desc := bs, part := en.part, logTenant := en.tenant, home := en.home } })

/-- ADMIT on a replica goes on once the home has answered: one that it does not know appends no usage record (R308). -/
def admitAnswered (e : Bool) (d : SReg) (h : HomeAdmit) (s : State) : Out :=
  let x := admitDesc h.desc
  match h.answer with
  | none => .next s
  | some (0, some v) =>
    admitVersion e d x h.logTenant v h.home (fun s => s)
      (fun s => sendRecord s h.part h.peer (me s).tenant.toNat 2 (.unpin s.ownPeer h.part x.handle v.ver (me s).tenant.toNat)) s
  | some (1, _) => result e d 1 (onMe s fun c => { c with homeAdmit := none })
  | some (st, _) => admitEnd e d x h.logTenant st 0 s

/-- ADMIT from its descriptor on. -/
def admitWith (e : Bool) (d : SReg) (bs : List Byte) (s : State) : Out :=
  let x := admitDesc bs
  storeChecked s x.tok fun s =>
    if !x.ok then result e d 8 s
    else
      match entryOf s (myPart s) x.handle with
      | none => result e d 1 s
      | some en =>
        if isReplica en then admitRemote e d x bs en s
        else
          match homeChecks s en (me s).tenant.toNat x.sealV x.nonce with
          | (_, some v) => admitVersion e d x en.tenant (verInfo s v) 0x1FFF (fun s => pinVersion s (dieOf s.cur) en.tenant en.part en.handle v.ver 0x1FFF) (fun s => s) s
          | (st, none) => admitEnd e d x en.tenant st 0 s

def execAdmitRq (e : Bool) (d a : SReg) (s : State) : Out :=
  match (me s).homeAdmit with
  | some h => admitAnswered e d h s
  | none =>
    withSrc [a] s fun s => (loadAt 0 (alignDown (rs s a) 32) 32 s).bind fun bs s => admitWith e d (bytesOf bs) s

-- APIN and AUNPIN (R313, R320).

/-- Read the token at an address for a pin or unpin. -/
def withToken (a : SReg) (s : State) (k : Token → State → Out) : Out :=
  withSrc [a] s fun s => (loadAt 0 (alignDown (rs s a) 16) 16 s).bind fun bs s => k (tokenOf (bytesOf bs)) s

def execApin (e : Bool) (d a : SReg) (s : State) : Out :=
  withToken a s fun k s =>
    let t := (me s).tenant.toNat
    match (if tenantIn s t (myPart s) then tokenAdmission s (myPart s) t k else none) with
    | none => result e d 1 s
    | some x =>
      if x.refs = 65535 then result e d 2 s
      else result e d 0 { s with admissions := smPut s.admissions k.aidx { x with refs := x.refs + 1 } }

/-- An admission is let go: the pin it holds, here or at its home. -/
def freeAdmitted (s : State) (i : Nat) (x : Admission) : State :=
  let s := { s with admissions := smDel s.admissions i }
  unpinVersion s (dieOf s.cur) x.tenant x.part x.handle x.ver x.home

def execAunpin (e : Bool) (d a : SReg) (s : State) : Out :=
  withToken a s fun k s =>
    let t := (me s).tenant.toNat
    match (if tenantIn s t (myPart s) || isSupervisor (me s) then tokenAdmission s (myPart s) t k else none) with
    | none => result e d 1 s
    | some x =>
      if x.refs ≤ 1 then result e d 0 (freeAdmitted s k.aidx x)
      else result e d 0 { s with admissions := smPut s.admissions k.aidx { x with refs := x.refs - 1 } }

-- APAGE (R314).

/-- The first start of `n` consecutive free indices of a pool, scanned from index `i` with `len` free before it. -/
def freeRun (free : Nat → Nat → Bool) (n : Nat) : List Nat → Nat → Nat → Option Nat
  | [], _, _ => none
  | f :: fs, i, len =>
    if free i f then (if n ≤ len + 1 then some (i + 1 - n) else freeRun free n fs (i + 1) (len + 1))
    else freeRun free n fs (i + 1) 0
/-- The lowest run of free pages in a partition's pool: given to no version, and CLEAN. -/
def poolRun (s : State) (part n : Nat) : Option Nat :=
  let p := getPart s part
  freeRun (fun i f => !p.poolUsed.contains i && frameState s f == 2) n p.pool 0 0

/-- FPAGES of a tenant. -/
def factorPages (s : State) (t : Nat) : Nat := ((smGet s.tenants t).map (·.fpages)).getD 0

/-- Fill the first FREE record of a list. -/
def fillFree (v : VRec) : List VRec → List VRec
  | [] => []
  | x :: xs => if x.st = .free then v :: xs else x :: fillFree v xs

/-- Stage a version of `n` pages. -/
def stageVersion (s : State) (en : CatEntry) (part t i n : Nat) : State :=
  let frames := ((getPart s part).pool.drop i).take n
  let s := frames.foldl (fun s f => setFrame s f (assignedEntry part t)) s
  let s := modPart s part fun p => { p with poolUsed := p.poolUsed ++ rangeFrom i n }
  setEntry s { en with
    lastver := en.lastver + 1
    vrec := fillFree { ver := en.lastver + 1, st := .staged, pidx := i, npage := n, ownt := t, pool := part } en.vrec }

/-- Discard the staged version. -/
def dropStaged (s : State) (en : CatEntry) (v : VRec) : State :=
  setEntry (releasePages s v) (modRec en v.ver fun _ => {})

/-- APAGE with a page count, its entry found and its issuer allowed. -/
def pageCount (e : Bool) (d : SReg) (en : CatEntry) (t n : Nat) (s : State) : Out :=
  match recIn en .staged with
  | some v => if n = 0 then result e d 0 (dropStaged s en v) else result e d 3 s
  | none =>
    if n = 0 then result e d 4 s
    else if factorPages s t < pagesCharged s t + n then result e d 5 s
    else if !en.vrec.any (fun v => v.st == .free) || en.lastver == 65535 then result e d 6 s
    else
      match poolRun s (myPart s) n with
      | none => result e d 7 s
      | some i => result e d (natW (i * 2 ^ 16)) (stageVersion s en (myPart s) t i n)

/-- Find the entry of an APAGE or APUB and check the issuer: statuses 1 and 2 (R314). -/
def withEntry (e : Bool) (d : SReg) (handle : Nat) (s : State) (k : CatEntry → Nat → State → Out) : Out :=
  let t := (me s).tenant.toNat
  match entryFor s (myPart s) t handle with
  | none => result e d 1 s
  | some en =>
    if isReplica en then result e d 1 s
    else if t ≠ en.tenant ∧ t ≠ en.pub then result e d 2 s
    else k en t s

def execApage (e : Bool) (d a b : SReg) (s : State) : Out :=
  withSrc [a, b] s fun s => withEntry e d (fld (rs s a) 0 20) s fun en t s => pageCount e d en t (fld (rs s b) 0 24) s

-- APUB (R315, R306).

/-- Whether an FP32 is NaN or infinite. -/
def notFinite32 (a : Nat) : Bool := natField a 23 8 == 255

/-- The fields of an APUB's descriptor, none where one is wrong. -/
def pubDesc (bs : List Byte) : Option VRec :=
  let b0 := fieldAt bs 0 1
  let b1 := fieldAt bs 1 1
  let f := b1 % 16
  let scl := natBit b1 4
  let nsite := fieldAt bs 2 1
  if b0 ≤ 6 ∧ b1 < 32 ∧ fieldAt bs 3 1 = 0 ∧ fieldAt bs 8 8 = 0 ∧ (f = 2 ∧ scl = false ∨ (f = 3 ∨ f = 4) ∧ scl = true) ∧
      1 ≤ nsite ∧ nsite ≤ 64 ∧ notFinite32 (fieldAt bs 4 4) = false then
    some { rank := b0, ffmt := f, fscl := scl, nsite := nsite, alpha := BitVec.ofNat 32 (fieldAt bs 4 4) }
  else none

/-- A directory entry whose factors fit a run of `len` bytes. -/
def dirEntryOk (v : VRec) (len : Nat) (x : Site) : Bool :=
  decide (x.resv = 0 ∧ x.aoff % 64 = 0 ∧ x.boff % 64 = 0 ∧ x.aoff + 2 ^ v.rank * columnBytes v.ffmt v.fscl x.kd ≤ len ∧
    x.boff + x.nd * columnBytes v.ffmt v.fscl (2 ^ v.rank) ≤ len)

/-- A sealing leaf under a table of a level maps a frame that `f` names. -/
def sealedLeaf (s : State) (f : Nat → Bool) : Nat → Nat → Bool
  | level, table =>
    let size := if level = 0 then 512 else 8192
    let es := (s.mem.filter fun c => decide (table ≤ c.1 ∧ c.1 < table + size ∧ (c.1 - table) % 16 = 0) && natBit c.2.toNat 0).map (·.1)
    es.any fun e =>
      let lo := BitVec.ofNat 64 (memNat s e 8)
      if bitAt lo 1 then
        level ≤ 2 && leafSeal lo && !leafPeer lo &&
          (let pb := pageBits level
           let base := fld lo 28 36 * 65536 / 2 ^ pb * 2 ^ pb / 65536
           (rangeFrom base (2 ^ pb / 65536)).any f)
      else
        match level with
        | 0 => false
        | l + 1 => sealedLeaf s f l (fld lo 9 43 * 512 / (if l = 0 then 512 else 8192) * (if l = 0 then 512 else 8192))

/-- A version's slab run is not sealed anywhere in its partition, and its directory is in order. -/
def slabOk (s : State) (v : VRec) : Bool :=
  let frames := ((getPart s v.pool).pool.drop v.pidx).take v.npage
  (verInfo s v).dir.all (fun x => dirEntryOk v (65536 * v.npage) (siteOf x)) &&
    !sealedLeaf s (fun f => frames.contains f) 4 (getPart s v.pool).root

/-- The staged version becomes CURRENT, and the old one RETIRING (R315, R316). -/
def publish (s : State) (en : CatEntry) (v : VRec) : State :=
  let old := recIn en .current
  let s := setEntry s { en with vrec := en.vrec.map fun x =>
    if x.st == .staged then { v with st := .current } else if x.st == .current then { x with st := .retiring } else x }
  match old, entryOf s en.part en.handle with
  | some o, some en => if o.pins = 0 then retireVersion s en { o with st := .retiring } else s
  | _, _ => s

/-- APUB with its descriptor, its entry found and its issuer allowed. -/
def publishWith (e : Bool) (d : SReg) (bs : List Byte) (en : CatEntry) (s : State) : Out :=
  match recIn en .staged with
  | none => result e d 4 s
  | some v =>
    match pubDesc bs with
    | none => result e d 8 s
    | some x =>
      let v := { v with rank := x.rank, ffmt := x.ffmt, fscl := x.fscl, nsite := x.nsite, alpha := x.alpha }
      if anyBad (runBytes s v 0 (16 * v.nsite)) then trapNext { cause := 6 } s
      else if !slabOk s v then result e d 9 s
      else result e d (natW (v.ver * 2 ^ 16)) (publish s en v)

def execApub (e : Bool) (d a b : SReg) (s : State) : Out :=
  withSrc [a, b] s fun s =>
    (loadAt 0 (alignDown (rs s b) 16) 16 (release s s.cur 4 none)).bind fun bs s =>
      withEntry e d (fld (rs s a) 0 20) s fun en _ s => publishWith e d (bytesOf bs) en s

-- The Catalogue's host commands (R302, R306, R369).

/-- The entry that an image of 128 bytes gives, none where V is clear: its versions are FREE and no number is given.
DEDUCED (log entry 51). -/
def entryImage (bs : List Byte) : Option CatEntry :=
  let id := fieldAt bs 0 4
  if natBit id 24 then
    some { part := natField id 20 4, handle := natField id 0 20, tenant := fieldAt bs 4 2 % 4096, pub := fieldAt bs 6 2 % 4096,
           home := fieldAt bs 8 2 % 8192, kslot := fieldAt bs 10 2 % 8192, lastver := 0, vrec := List.replicate 4 {} }
  else none

/-- CATNEW. -/
def execCatnew (c : CmdSrc) (rec_ : Nat) (s : State) : Out :=
  pf0Command c s fun s =>
    match entryImage (hostBytes s rec_ 128) with
    | none => cmdDone c .format s
    | some en =>
      if s.catalogue.any fun x => x.handle == en.handle && (x.part == en.part || x.pub == en.pub) then cmdDone c .format s
      else if 65536 ≤ s.catalogue.length then cmdDone c .busy s
      else cmdDone c .done { s with catalogue := s.catalogue ++ [en] }

/-- CATDEL: it is refused while a version is pinned or STAGED; otherwise every version retires. -/
def execCatdel (c : CmdSrc) (p handle : Nat) (s : State) : Out :=
  pf0Command c s fun s =>
    match entryOf s p handle with
    | none => cmdDone c .format s
    | some en =>
      if en.vrec.any fun v => decide (0 < v.pins) || v.st == .staged then cmdDone c .busy s
      else
        let s := (en.vrec.filter fun v => v.st != .free).foldl (fun s v => retireVersion s en v) s
        cmdDone c .done { s with catalogue := s.catalogue.filter fun x => !(x.part == p && x.handle == handle) }

/-- The frame addresses of a pool list. -/
def poolList (s : State) (list count : Nat) : List Nat := (rangeFrom 0 count).map fun i => leNat (hostBytes s (list + 8 * i) 8)

/-- POOL: each frame of the list must be CLEAN and unassigned, and no version may hold pages of the old pool. -/
def execPool (c : CmdSrc) (p list count : Nat) (s : State) : Out :=
  pf0Command c s fun s =>
    if 16 ≤ p ∨ 2 ^ 24 < count then cmdDone c .format s
    else
      let pas := poolList s list count
      if pas.any fun a => !namesFrame a then cmdDone c .format s
      else if !(getPart s p).poolUsed.isEmpty || pas.any fun a => frameState s (frameOf a) == 3 then cmdDone c .busy s
      else if pas.any fun a => frameState s (frameOf a) != 2 then cmdDone c .dirty s
      else cmdDone c .done (modPart s p fun r => { r with pool := pas.map frameOf })

-- Records between packages (R319) and fills (R318).

/-- A packet or record of a peer that the partition admits (R301). -/
def peerAdmitted (s : State) (part peer : Nat) : Bool :=
  decide (part < 16 ∧ peer < 4096) && (getPart s part).valid && natBit (memNat s ((getPart s part).peermap + peer / 8) 1) (peer % 8)

/-- A peer takes a pin on a version of an entry. -/
def peerPins (s : State) (en : CatEntry) (peer ver : Nat) : State :=
  setEntry s { modRec en ver (fun v => { v with pins := v.pins + 1 }) with peers := (peer, ver) :: en.peers }

/-- An ADMIT of a replica at the home: its checks, and the pin that its peer holds. -/
def homeAdmits (s : State) (peer ctx part handle t sealV : Nat) (nonce : Word) : State :=
  let answer := fun (s : State) (st : Nat) (v : Option VerInfo) =>
    sendRecord s part peer t 3 (.admitAnswer s.ownPeer ctx part handle t st v)
  match entryOf s part handle with
  | none => answer s 1 none
  | some en =>
    if isReplica en then answer s 1 none
    else
      match homeChecks s en t sealV nonce with
      | (_, some v) => answer (peerPins s en peer v.ver) 0 (some (verInfo s v))
      | (st, none) => answer s st none

/-- The home's answer reaches the ADMIT that asked, or finds it gone: then the pin is given back. -/
def admitAnswer (s : State) (peer ctx part handle t st : Nat) (v : Option VerInfo) : State :=
  let open_ := match (getCtx s ctx).homeAdmit with
    | some h => h.peer == peer && h.part == part && (admitDesc h.desc).handle == handle && h.answer.isNone
    | none => false
  if open_ then modCtx s ctx fun c => { c with homeAdmit := c.homeAdmit.map fun h => { h with answer := some (st, v) } }
  else
    match v with
    | some v => sendRecord s part peer t 2 (.unpin s.ownPeer part handle v.ver t)
    | none => s

/-- A peer that pins a version takes a further pin, for a binding there (R311). -/
def peerPin (s : State) (peer part handle ver : Nat) : State :=
  match entryOf s part handle with
  | some en => if en.peers.contains (peer, ver) then peerPins s en peer ver else s
  | none => s
/-- A peer's pin on a version falls. -/
def peerUnpin (s : State) (peer part handle ver : Nat) : State :=
  match entryOf s part handle with
  | some en =>
    if en.peers.contains (peer, ver) then
      unpinVersion (setEntry s { en with peers := en.peers.erase (peer, ver) }) 0 en.tenant part handle ver 0x1FFF
    else s
  | none => s

/-- The pieces of a site's bytes, with their offsets: 256 bytes a PUT, as a buffer slot holds (R298). -/
def sitePieces (bs : List Byte) : List (Nat × List Byte) :=
  (rangeFrom 0 (max 1 (ceilDiv bs.length 256))).map fun i => (256 * i, (bs.drop (256 * i)).take 256)

/-- A slab request at the home: it answers with PUTs of the site's bytes, or says that they cannot be read (R319). -/
def slabRequest (s : State) (peer die : Nat) (k : SiteKey) : State :=
  let refuse := sendRecord s k.part peer k.tenant 3 (.slabAnswer s.ownPeer die k 0 0 none)
  match entryOf s k.part k.handle with
  | none => refuse
  | some en =>
    match recOf en k.ver with
    | none => refuse
    | some v =>
      let bs := siteRun s v k.site
      if isReplica en || v.st == .staged || anyBad bs then refuse
      else
        let hs := if en.holders.contains (peer, k.ver) then en.holders else (peer, k.ver) :: en.holders
        (sitePieces (bytesOf bs)).foldl (fun s e =>
          sendRecord s k.part peer k.tenant 3 (.slabAnswer s.ownPeer die k e.1 bs.length (some e.2))) (setEntry s { en with holders := hs })

/-- The bytes that the pieces of a fill make up, once every one of them has come. -/
def joined (f : Fill) (total : Nat) : Option (List Byte) :=
  ((rangeFrom 0 (max 1 (ceilDiv total 256))).mapM fun i => smGet f.came (256 * i)).map List.flatten
/-- A piece of a site reaches the replica that asked for it; the last one lands the fill. -/
def slabAnswer (s : State) (die : Nat) (k : SiteKey) (off total : Nat) (b : Option (List Byte)) : State :=
  match (getDie s die).fills.find? (fun f => f.key == k && f.asked), b with
  | none, _ => s
  | some _, none => failFill s die k
  | some f, some bs =>
    let f := { f with came := smPut f.came off bs }
    match joined f total with
    | some bs => fillWith s die k (clean bs)
    | none => modFill s die k fun _ => f

/-- The peer that a record comes from, and the partition it is about. -/
def recordFrom (r : CatRecord) : Nat × Nat :=
  match r with
  | .admitAsk peer _ part _ _ _ _ => (peer, part)
  | .admitAnswer peer _ part _ _ _ _ => (peer, part)
  | .pin peer part _ _ _ => (peer, part)
  | .unpin peer part _ _ _ => (peer, part)
  | .slab peer _ k => (peer, k.part)
  | .slabAnswer peer _ k _ _ _ => (peer, k.part)
  | .invalidate peer part _ _ _ => (peer, part)

/-- What a record that is let in does. -/
def takeRecord (r : CatRecord) (s : State) : State :=
  match r with
  | .admitAsk peer ctx part handle tenant sealV nonce => homeAdmits s peer ctx part handle tenant sealV nonce
  | .admitAnswer peer ctx part handle t st v => admitAnswer s peer ctx part handle t st v
  | .pin peer part handle ver _ => peerPin s peer part handle ver
  | .unpin peer part handle ver _ => peerUnpin s peer part handle ver
  | .slab peer die k => slabRequest s peer die k
  | .slabAnswer _ die k off total b => slabAnswer s die k off total b
  | .invalidate _ part handle ver _ => dropLines s part handle ver

/-- The tenant whose slots a record takes: its request's (R298, R319). -/
def recordTenant (r : CatRecord) : Nat :=
  match r with
  | .admitAsk _ _ _ _ tenant _ _ => tenant
  | .admitAnswer _ _ _ _ tenant _ _ => tenant
  | .pin _ _ _ _ tenant => tenant
  | .unpin _ _ _ _ tenant => tenant
  | .slab _ _ k => k.tenant
  | .slabAnswer _ _ k _ _ _ => k.tenant
  | .invalidate _ _ _ _ tenant => tenant

/-- An acknowledgement leaves for a peer. -/
def sendAck (s : State) (peer : Nat) (a : Ack) : State := { s with acks := s.acks ++ [(peer, a)] }

/-- CATALOGUE_RECORD_ARRIVAL: a record of a peer outside the partition's PEERMAP is refused; another is taken once a gateway
slot is granted to it, and acknowledged (R298, R301, R319). -/
def execCatalogueRecordArrival (r : CatArrival) (s : State) : Out :=
  let (peer, part) := recordFrom r.rec_
  let ack := fun (f : Option (Nat × Nat)) => ({ ctx := 0, num := r.num, done := 0, fault := f, record := true } : Ack)
  if !peerAdmitted s part peer then .next (sendAck s peer (ack (some (12, 0))))
  else if !slotFree s (recordTenant r.rec_) then .next s
  else .next (sendAck (takeRecord r.rec_ s) peer (ack none))

def execHerbariumFill (die : Nat) (k : SiteKey) (s : State) : Out := .next (runHerbFill s die k)

end Sys2Proof.Machine
end

