-- ==== Sys2Proof/Machine/Fabric.lean ====
section
/-! DEFINITION. The fabric: PUT, REQ and FAMO with their packets and acknowledgements, what the gateway performs for packets
that arrive, wakes of handlers, and the ports' and signatures' timed events (10 R249 to R251, 09 R217, R226, R227, 03 R63,
13 R297 to R301, 18 R355). -/

namespace Sys2Proof.Machine

-- Issue (R249, R250).

/-- What an issue asks of the fabric. -/
structure FabAsk where
  cls : Nat
  dva : Word
  sva : Word := 0
  len : Nat
  handler : Option (Nat × Nat) := none
  atomic : Option (Nat × Nat × Word) := none

/-- The operation of a descriptor of 32 bytes, none where it is refused. -/
def fabDesc (isReq : Bool) (bs : List Byte) : Option FabAsk :=
  let len := fieldAt bs 16 4
  let hcl := fieldAt bs 20 2
  let fl := fieldAt bs 22 1
  let h := natBit fl 0
  let ans := natBit fl 1
  if 512 ≤ hcl ∨ 4 ≤ fl ∨ fieldAt bs 23 1 ≠ 0 ∨ len = 0 ∨ (if isReq then 256 else 65536) < len ∨ (isReq && (!h || ans)) = true then none
  else
    some { cls := if isReq then 2 else if ans then 3 else 0, dva := natW (fieldAt bs 0 8), sva := natW (fieldAt bs 8 8), len := len,
           handler := if h then some (hcl, fieldAt bs 24 8) else none }

/-- The key of a source context's operations of a class to a destination (R226). -/
def fabKey (ctx peer cls : Nat) : Nat := (ctx * 8192 + peer) * 4 + cls

/-- Checks 3 to 6 of an issue (R249): the window, the peer, a gateway slot, and the number. -/
def fabIssue (e : Bool) (d : SReg) (f : FabAsk) (s : State) : Out :=
  let id := s.cur
  let ag := agentOf s id
  match xlate s ag .fg true f.dva with
  | .bad c => trapNext { cause := c, w := true, va := f.dva } s
  | .scratch _ => trapNext { cause := 4, w := true, va := f.dva } s
  | .page lo hi pa inPage =>
    if !leafPeer lo || !grants lo .fg true then trapNext { cause := 4, w := true, va := f.dva } s
    else
      let s := tlbNote s ag f.dva (.page lo hi pa inPage)
      match peerCheck s (dieOf id) ag.part (fld lo 28 13) with
      | none => trapNext { cause := 12, w := true, va := natW (fld lo 28 13) } s
      | some p =>
        if !slotFree s ag.tenant then .next (waitHere .gatewaySlot s)
        else
          let (n, c) := tcTake (me s) 6
          let key := fabKey id p f.cls
          let seq := smGetD s.fabSeq key 0 + 1
          let op : FabOp := { num := n, seq := seq, order := s.nextId + 1, cls := f.cls, part := ag.part, peer := p, logical := fld lo 28 13, tenant := ag.tenant, dva := f.dva,
                              sva := f.sva, len := f.len, handler := f.handler, atomic := f.atomic, slot := true }
          let s : State := { s with fabSeq := smPut s.fabSeq key seq, nextId := s.nextId + 1 }
          result e d (natW n) (takeSlot (setCtx s id { c with fab := c.fab ++ [op] }) ag.tenant)

/-- PUT and REQ from their descriptor on (R249). -/
def fabSend (isReq e : Bool) (d a : SReg) (s : State) : Out :=
  withSrc [a] s fun s =>
    (loadAt 0 (alignDown (rs s a) 32) 32 s).bind fun bs s =>
      match fabDesc isReq (bytesOf bs) with
      | none => result e d 0 s
      | some f => fabIssue e d f s

def execPut (e : Bool) (d a : SReg) (s : State) : Out := fabSend false e d a s
def execReq (e : Bool) (d a : SReg) (s : State) : Out := fabSend true e d a s
def execFamo (e : Bool) (d a b : SReg) (z : Bool) (o : BitVec 4) (s : State) : Out :=
  withSrc [a, b] s fun s =>
    let n := amoBytes z
    fabIssue e d { cls := 1, dva := alignDown (rs s a) n, len := n, atomic := some (o.toNat, n, rs s b) } s

-- Packets at the source (R249, R251, R298).

/-- A fabric operation of a context by its number. -/
def fabOp (s : State) (id num : Nat) : Option FabOp := (getCtx s id).fab.find? fun o => o.num == num
/-- Change a fabric operation. -/
def setFab (s : State) (id num : Nat) (f : FabOp → FabOp) : State :=
  modCtx s id fun c => { c with fab := c.fab.map fun o => if o.num = num then f o else o }

/-- An operation has a packet to send, and no older packet of it waits on a fault. -/
def fabReady (s : State) (id : Nat) (o : FabOp) : Bool :=
  o.halt.isNone && decide (o.sent < o.len) && (o.slot || slotFree s o.tenant) && (getCtx s id).run != .saving &&
    (getCtx s id).run != .free && (getCtx s id).run != .dormant

/-- An operation issued earlier on the same die has a packet to send: traffic of a die keeps its issue order on the links that
join the dies (R226). DEDUCED (log entry 53). -/
def fabAhead (s : State) (id : Nat) (o : FabOp) : Bool :=
  s.ctxs.any fun e => dieOf e.1 == dieOf id && e.2.fab.any fun x => decide (x.order < o.order) && fabReady s e.1 x

/-- The packet is sent: it is in the links' replay buffers until it is acknowledged. -/
def sendPacket (s : State) (id : Nat) (o : FabOp) (n : Nat) (op : PacketOp) : State :=
  let p : Packet := { srcPeer := s.ownPeer, srcCtx := id, cls := o.cls, num := o.num, seq := o.seq, part := o.part, tenant := o.tenant,
                      va := (o.dva + natW o.sent).toNat, op := op }
  let s := if o.slot then s else takeSlot s o.tenant
  setFab { s with outbox := s.outbox ++ [p] } id o.num fun o => { o with sent := o.sent + n, slot := false }

/-- The next packet of an operation: its source bytes are read untagged, 256 at most. -/
def nextPacket (s : State) (id : Nat) (o : FabOp) : State :=
  match o.atomic with
  | some (f, n, x) => sendPacket s id o n (.atomic f n x)
  | none =>
    let n := min 256 (o.len - o.sent)
    let ag : Agent := { ctx := id, part := o.part, tenant := o.tenant, view := 0 }
    match rangeRead ag .fg n s (o.sva + natW o.sent) n [] with
    | .ok bs s =>
      let last := decide (o.len ≤ o.sent + n)
      sendPacket s id o n (.bytes bs last (if last then o.handler else none) o.dva.toNat o.len)
    | .fault c va s => setFab s id o.num fun o => { o with halt := some { cause := c, va := va, write := false } }
    | .wait s => s

/-- GATEWAY_SLOT_GRANT: the destination gateway grants a slot to the next packet of an operation (R298). -/
def execGatewaySlotGrant (ctx num : Nat) (s : State) : Out :=
  match fabOp s ctx num with
  | some o => .next (if fabReady s ctx o && !fabAhead s ctx o then nextPacket s ctx o else s)
  | none => .next s

/-- Where a packet of an operation ends, counted from the operation's first byte. -/
def packetEnd (o : FabOp) (p : Packet) : Nat :=
  (natW p.va - o.dva).toNat + match p.op with | .bytes bs _ _ _ _ => bs.length | .atomic _ n _ => n
/-- A packet belongs to an operation of a context. -/
def ofOp (id num : Nat) (p : Packet) : Bool := p.srcCtx == id && p.num == num
/-- Packets that are acknowledged leave the replay buffers and give their slots back. -/
def dropPackets (s : State) (f : Packet → Bool) : State :=
  let gone := s.outbox.filter f
  gone.foldl (fun s p => giveSlot s p.tenant) { s with outbox := s.outbox.filter fun p => !f p }

/-- A fault that the destination reports: the operation stands at its faulting line (R251). DEDUCED (log entry 52). -/
def fabFault (s : State) (id : Nat) (o : FabOp) (cause addr : Nat) : State :=
  let off := (natW (addr / 64 * 64) - o.dva).toNat
  let off := if addr / 64 * 64 < o.dva.toNat then 0 else min off o.len
  let s := dropPackets s (ofOp id o.num)
  let s := if o.slot then giveSlot s o.tenant else s
  let va := if addr / 64 * 64 < o.dva.toNat then o.dva else natW (addr / 64 * 64)
  setFab s id o.num fun o => { o with sent := off, acked := off, slot := false, halt := some { cause := cause, va := va, write := true } }

/-- A Catalogue record is acknowledged: its slot comes back. Where its destination has refused it, what it asked for has
not found its home (R301, R318, R319). -/
def recordAck (a : Ack) (s : State) : State :=
  match s.catOut.find? fun m => m.num == a.num && m.sent with
  | none => s
  | some m =>
    let s := dropRecords s fun x => x.num == a.num
    match a.fault, m.rec_ with
    | some _, .admitAsk _ ctx _ _ _ _ _ =>
      modCtx s ctx fun c => { c with homeAdmit := c.homeAdmit.map fun h => if h.answer.isNone then { h with answer := some (7, none) } else h }
    | some _, .slab _ die k => failFill s die k
    | _, _ => s

/-- FABRIC_ACK (R249, R251, R298, R319). -/
def execFabricAck (a : Ack) (s : State) : Out :=
  if a.record then .next (recordAck a s)
  else
  match fabOp s a.ctx a.num with
  | none => .next s
  | some o =>
    if o.halt.isSome || decide (o.sent < a.done) then .next s
    else
      let s := dropPackets s fun p => ofOp a.ctx a.num p && decide (packetEnd o p ≤ a.done)
      match a.fault with
      | some (c, addr) => .next (fabFault s a.ctx o c addr)
      | none =>
        if a.done = o.len then
          .next (modCtx s a.ctx fun c => tcFinish { c with fab := c.fab.filter fun o => o.num != a.num } 6 a.num)
        else .next (setFab s a.ctx a.num fun o => { o with acked := max o.acked a.done })

/-- LINK_REPLAY: the link resends from its own buffer, and nothing else changes (R299). -/
def execLinkReplay (_ : Nat) (s : State) : Out := .next s

-- Logs of inputs (R355).

/-- The logical number of a peer in a partition, by die 0's place cache; 0xFFFF where it has none. -/
def logicalPeer (s : State) (part peer : Nat) : Nat :=
  ((rangeFrom 0 4096).find? fun n => physical s 0 part .peer n == some peer).getD 0xFFFF
/-- A record of a log of inputs. -/
def inputRecord (kind q src len seq : Nat) (payload : List Byte) : BitVec 256 :=
  BitVec.ofNat 256 (kind + q % 256 * 2 ^ 8 + src % 2 ^ 16 * 2 ^ 16 + len % 2 ^ 32 * 2 ^ 32 + seq % 2 ^ 64 * 2 ^ 64 +
    leNat ((beBytes 48 (digest payload).toNat).take 8) * 2 ^ 128)
/-- Log an input of a launch that is being recorded, with its source's sequence number. -/
def logInput (s : State) (lid kind q src seq : Nat) (payload : List Byte) : State :=
  match smGet s.recorded lid with
  | some l => { s with recorded := smPut s.recorded lid (l ++ [inputRecord kind q src payload.length seq payload]) }
  | none => s
/-- The digest, source or length of a delivery differs from its record (R356). -/
def diverges (rec_ : BitVec 256) (kind q src : Nat) (bs : List Byte) : Bool :=
  inputRecord kind q src bs.length (natField rec_.toNat 64 64) bs != rec_
/-- An input is the next of the log of a launch that is being replayed; a launch that is not takes any (R356). -/
def replayTurn (s : State) (lid kind q src : Nat) (bs : List Byte) : Bool :=
  match smGet s.replaying lid with
  | some (x :: _) => !diverges x kind q src bs
  | _ => true
/-- The next input of a launch's log has been delivered. -/
def replayNext (s : State) (lid : Nat) : State :=
  match smGet s.replaying lid with
  | some (_ :: rest) => { s with replaying := smPut s.replaying lid rest }
  | _ => s
/-- Payload of a packet, or an atomic's operand. -/
def packetBytes (p : Packet) : List Byte :=
  match p.op with
  | .bytes bs _ _ _ _ => bytesOf bs
  | .atomic _ n x => leBytes n x.toNat
/-- Log a packet for every recorded launch of its partition. -/
def logPacket (s : State) (p : Packet) : State :=
  s.recorded.foldl (fun s e =>
    match smGet s.launches e.1 with
    | some l => if l.part = p.part then logInput s e.1 2 p.cls (logicalPeer s p.part p.srcPeer) p.seq (packetBytes p) else s
    | none => s) s

/-- The launches of a packet's partition that are being replayed. -/
def replaysOf (s : State) (p : Packet) : List Nat :=
  (s.replaying.filter fun e => ((smGet s.launches e.1).map (·.part)) == some p.part).map (·.1)
/-- A packet is the next of every log that holds it. -/
def packetTurn (s : State) (p : Packet) : Bool :=
  (replaysOf s p).all fun lid => replayTurn s lid 2 p.cls (logicalPeer s p.part p.srcPeer) (packetBytes p)

-- Arrivals (R226, R227, R249, R251).

/-- The gateway signs a line it has written, and publishes its signatures in the line's side-store entry (R227). -/
def gatewaySign (s : State) (line : Nat) : State :=
  let s := { s with gwCur := s.gwCur ||| sigBit line }
  if isHost (64 * line) then s else sideWrite s line (s.gwCur ||| s.gwPrv)

/-- Perform a packet's bytes at their homes, up to the first fault: its cause and address (R251). -/
def arriveBytes (part tenant : Nat) : Nat → State → Word → List PB → Option (Nat × Word) × State
  | 0, s, _, _ => (none, s)
  | f + 1, s, va, bs =>
    if bs.isEmpty then (none, s)
    else
      let k := segLen va bs.length
      match sysRoute s part tenant .fg true va with
      | .error c => (some (c, va), s)
      | .ok pa =>
        if isHost pa && anyBad (bs.take k) then (some (6, va), s)
        else
          let line := pa / 64
          let s := gatewaySign (homeWrite s (homeDie line) part line (pa % 64) (bs.take k) false) line
          arriveBytes part tenant f s (va + natW k) (bs.drop k)

/-- Perform a fabric atomic at its home, or what it faults with (R236, R250, R251). -/
def arriveAtomic (p : Packet) (o n : Nat) (x : Word) (s : State) : Option (Nat × Word) × State :=
  let va := alignDown (natW p.va) n
  match sysRoute s p.part p.tenant .fg true va with
  | .error c => (some (c, va), s)
  | .ok pa =>
    if isHost pa && !(o == 0 || o == 8) then (some (4, va), s)
    else
      let (num, s) := if isHost pa then draw s else (0, s)
      let bs := (rangeFrom pa n).map (committed s)
      if anyBad bs then (some (6, va), s)
      else if isHost pa && !Config.hostAtomicOk num then (some (6, va), s)
      else
        let line := pa / 64
        (none, gatewaySign (homeWrite s (homeDie line) p.part line (pa % 64) (clean (leBytes n (amoValue o (8 * n) (valueOf bs) (x.toNat % 2 ^ (8 * n))))) false) line)

/-- The cluster that a packet's HCL names here, through die 0's place cache for the die and that die's for the cluster.
DEDUCED (log entry 53). -/
def handlerCluster (s : State) (part hcl : Nat) : Option Nat :=
  match physical s 0 part .die (hcl % 4) with
  | some d => logicalCluster s d part (hcl / 4)
  | none => none
/-- A packet's handler waits at its cluster, keeping the packet's slot (R63, R299). -/
def queueHandler (s : State) (p : Packet) (cl pc start total : Nat) : State :=
  let r : HandlerReq := { pc := natW (pc / 4 * 4), addr := natW start, len := total, src := logicalPeer s p.part p.srcPeer, tenant := p.tenant }
  raise (modCluster (takeSlot s p.tenant) cl fun c => { c with part := some p.part, handlers := c.handlers ++ [r] }) [.handlerWake cl]

/-- A handler's packet finds its cluster's queue full, and is held back (R63). -/
def handlerFull (s : State) (p : Packet) : Bool :=
  match p.op with
  | .bytes _ _ (some h) _ _ =>
    (match handlerCluster s p.part h.1 with
     | some cl => decide (16 ≤ (getCluster s cl).handlers.length)
     | none => false)
  | _ => false
/-- The cluster can start handlers of a partition (R54). -/
def clusterServes (s : State) (cl part : Nat) : Bool :=
  (getCluster s cl).part == some part ||
    ((getCluster s cl).part == none && (rangeFrom (8 * cl) 8).all fun i => (getCtx s i).run == .free || (getCtx s i).run == .dormant)

/-- Where a packet's bytes lie in its operation, and how long the operation is. -/
def packetAt (p : Packet) : Nat × Nat :=
  match p.op with
  | .bytes _ _ _ start total => ((natW p.va - natW start).toNat, total)
  | .atomic _ n _ => (0, n)
/-- Bytes of a packet. -/
def packetLen (p : Packet) : Nat := match p.op with | .bytes bs _ _ _ _ => bs.length | .atomic _ n _ => n

/-- What has been performed for a packet's source context and class. -/
def arrivedOf (s : State) (p : Packet) : Arrived :=
  (s.arrived.find? fun a => a.peer == p.srcPeer && a.ctx == p.srcCtx && a.cls == p.cls).getD { peer := p.srcPeer, ctx := p.srcCtx, cls := p.cls }
/-- Note what has been performed. -/
def noteArrived (s : State) (a : Arrived) : State :=
  { s with arrived := a :: s.arrived.filter fun x => !(x.peer == a.peer && x.ctx == a.ctx && x.cls == a.cls) }

/-- A packet is the next of its source context's operations of its class, in issue order; one that follows a fault is not,
until the operation is sent again from its faulting line (R226, R251). -/
def packetNext (s : State) (p : Packet) : Bool :=
  let a := arrivedOf s p
  p.seq == a.next && (packetAt p).1 == a.done

/-- An acknowledgement of a packet leaves for its source: bytes performed so far, or the fault met (R249, R251). -/
def ackPacket (s : State) (p : Packet) (done : Nat) (fault : Option (Nat × Nat)) : State :=
  sendAck s p.srcPeer { ctx := p.srcCtx, num := p.num, done := done, fault := fault }

/-- A packet has been performed: its place in the order is passed, it is acknowledged, and the last one of an operation that
names a handler starts it (R63, R226, R249). -/
def endPacket (p : Packet) (s : State) : State :=
  let a := arrivedOf s p
  let done := a.done + packetLen p
  let over_ := decide ((packetAt p).2 ≤ done)
  let s := ackPacket (noteArrived s (if over_ then { a with next := a.next + 1, done := 0 } else { a with done := done })) p done none
  match p.op with
  | .bytes _ _ (some (hcl, pc)) start total =>
    (match handlerCluster s p.part hcl with
     | some cl => if over_ && clusterServes s cl p.part then queueHandler s p cl pc start total else s
     | none => s)
  | _ => s

/-- Offset in its operation, which begins at an address, of the line of a faulting one: the line may begin before the operation
does. -/
def faultLine (start va : Word) : Nat := if va.toNat / 64 * 64 < start.toNat then 0 else va.toNat / 64 * 64 - start.toNat

/-- A packet has met a fault: the bytes below the faulting line stand, and the operation is awaited from that line on, be it in an
earlier packet (R251). -/
def stopPacket (p : Packet) (cause : Nat) (va : Word) (s : State) : State :=
  let line := faultLine (match p.op with | .bytes _ _ _ start _ => natW start | .atomic _ _ _ => natW p.va) va
  ackPacket (noteArrived s { arrivedOf s p with done := line }) p line (some (cause, va.toNat))

/-- Perform a packet (R226). -/
def performPacket (p : Packet) (s : State) : State :=
  let s := logPacket s p
  let r := match p.op with
    | .atomic o n x => arriveAtomic p o n x s
    | .bytes bs _ _ _ _ => arriveBytes p.part p.tenant bs.length s (natW p.va) bs
  match r with
  | (none, s) => endPacket p s
  | (some (c, va), s) => stopPacket p c va s

/-- A packet is performed now: its turn has come, a slot has been granted, and its handler's queue has room (R63, R226,
R298). -/
def packetTaken (s : State) (p : Packet) : Bool := !handlerFull s p && slotFree s p.tenant && packetNext s p

/-- FABRIC_ARRIVAL: a packet of a peer outside the partition's PEERMAP is refused, and its source told so; another is
performed in its turn, in a replay in that of the log (R226, R298, R301, R356). -/
def execFabricArrival (p : Packet) (s : State) : Out :=
  if !peerAdmitted s p.part p.srcPeer then .next (ackPacket s p (packetAt p).1 (some (12, p.va)))
  else if packetTaken s p && packetTurn s p then .next (performPacket p ((replaysOf s p).foldl replayNext s))
  else .next s

-- Handlers (R63).

/-- HPRIO of the launch that owns a cluster, 0 if none does. -/
def handlerPrio (s : State) (cl : Nat) : Nat := ((launchOf s (8 * cl)).map (·.hprio)).getD 0
/-- The first request of a list that the core admits now, and the rest. -/
def takeRequest (f : HandlerReq → Bool) : List HandlerReq → Option (HandlerReq × List HandlerReq)
  | [] => none
  | r :: rs => if f r then some (r, rs) else (takeRequest f rs).map fun x => (x.1, r :: x.2)

/-- HANDLER_WAKE: the cluster's lowest DORMANT light context starts at a handler (R63, R218, R296). -/
def execHandlerWake (cl : Nat) (s : State) : Out :=
  if s.fatal then .next s
  else
  match firstDormant s cl, takeRequest (fun r => coreAdmits s (cl / 4) (worldOf s r.tenant)) (getCluster s cl).handlers with
  | some id, some (r, rest) =>
    let s := giveSlot (modCluster s cl fun c => { c with handlers := rest }) r.tenant
    let p := handlerPrio s cl
    let s := startAt id { idleCtx id with
      pc := r.pc, s := smSet (smSet (smSet [] 1 r.addr 0) 2 (natW r.len) 0) 3 (natW r.src) 0, xprio := natW (p + 256 * p),
      tenant := BitVec.ofNat 12 r.tenant } s
    let s := acquireAll s id 4
    .next (if rest.isEmpty then s else raise s [.handlerWake cl])
  | _, _ => .next s

-- Ports and signatures (R217, R227, R297).

/-- The first waiting request of a tenant at a port, and the rest. -/
def headRequest (t : Nat) : List PortReq → Option (PortReq × List PortReq)
  | [] => none
  | r :: rs => if r.tenant = t then some (r, rs) else (headRequest t rs).map fun x => (x.1, r :: x.2)

/-- A tenant's head request passes a port and takes its tokens, where the bucket holds them (R297). -/
def passPort (tenant : Nat) (c : Core) : Core :=
  match headRequest tenant c.portWait with
  | some (r, rest) =>
    let b := smGetD c.buckets tenant 0
    if r.bytes ≤ b then
      { c with portWait := rest, buckets := smPut c.buckets tenant (b - r.bytes), portLast := tenant, portPaid := r.agent.toList ++ c.portPaid }
    else c
  | none => c

/-- PORT_REQUEST_PASS (R297). -/
def execPortRequestPass (core tenant : Nat) (s : State) : Out :=
  if (getCore s core).portWait.any fun r => r.tenant == tenant then .next (modCore s core (passPort tenant)) else .next s

/-- Steps from the tenant served last to another, in turn. -/
def turnFrom (last t : Nat) : Nat := (t + numTenants - last - 1) % numTenants
/-- The tenant that a port serves next: round-robin among those whose head request can pass (R297). -/
def portTurn (c : Core) : Option Nat :=
  ((c.portWait.map (·.tenant)).eraseDups.filter fun t =>
      match headRequest t c.portWait with | some (r, _) => decide (r.bytes ≤ smGetD c.buckets t 0) | none => false).foldl
    (fun m t => match m with | some u => if turnFrom c.portLast t < turnFrom c.portLast u then some t else m | none => some t) none
/-- The requests that pass a port in a cycle, up to a number of them. -/
def portPlan : Nat → Core → List Nat
  | 0, _ => []
  | n + 1, c =>
    match portTurn c with
    | some t => t :: portPlan n (passPort t c)
    | none => []

/-- BWSHARE of a tenant. -/
def bwShare (s : State) (t : Nat) : Nat := ((smGet s.tenants t).map (·.bwshare)).getD 0
/-- A port's buckets after a period: the tenants that have a request there in it, or still waiting at its end, share the next one's
tokens; one that waits now has a request at the port in the period that begins (R297). -/
def refillPort (s : State) (c : Core) : Core :=
  let act := (c.portSeen ++ c.portWait.map (·.tenant)).eraseDups
  let total := (act.map (bwShare s)).sum
  { c with
    portSeen := (c.portWait.map (·.tenant)).eraseDups
    buckets := act.foldl (fun m t =>
      let r := if 0 < total then 262144 * bwShare s t / total else 262144 / act.length
      smPut m t (min (smGetD m t 0 + r) (2 * r))) c.buckets }
def execTokenRefill (s : State) : Out := .next { s with cores := s.cores.map fun e => (e.1, refillPort s e.2) }

def execSignatureRotation (s : State) : Out :=
  .next { s with cores := s.cores.map fun e => (e.1, { e.2 with prv := e.2.cur, cur := 0 }), gwPrv := s.gwCur, gwCur := 0 }

end Sys2Proof.Machine
end

