-- ==== Sys2Proof/Machine/Sched.lean ====
section
/-! DEFINITION. The die schedulers: the starts of members, placement, what each partition and stage is entitled to,
pre-emption requests, resumption from save images, and the supervisor's acts on places, stopped contexts and images
(03 R54, R63 to R71, 17 R341, R342). -/

namespace Sys2Proof.Machine

-- Pre-emption requests (R68).

/-- A request is raised on a context with a grace in cycles; a waiting context is suspended at once. One that is pending
stands, its deadline drawn nearer where the new one comes earlier. -/
def requestCtx (id n : Nat) (s : State) : State :=
  let c := getCtx s id
  let due := match c.prqDue with | some t => sooner s t (cycleIn s n) | none => cycleIn s n
  match c.run with
  | .runnable => modCtx s id fun c => { c with xsched := setBit c.xsched 0 true, prqDue := some due }
  | .waiting => beginSave id (draining c) (modCtx s id fun c => { c with xsched := setBit c.xsched 0 true })
  | _ => s

/-- The request on a context with its own XDEADLINE. -/
def requestOwn (id : Nat) (s : State) : State := requestCtx id (fld (getCtx s id).xdeadline 0 32) s

/-- Contexts that an instance's members are bound to. -/
def boundCtxs (i : Inst) : List Nat := (i.members.filter fun m => m.2 == .bound).map (·.1)

/-- Requests on every member of an instance (R65). -/
def requestInst (lid : Nat) (i : Inst) (s : State) : State :=
  let s := modInst s lid i.serial fun i => { i with requested := true, st := .suspending }
  (boundCtxs i).foldl (fun s id => requestOwn id s) s

/-- DEADLINE_EXPIRY: inside an active loop it drains; elsewhere the context is suspended at its bundle boundary (R68, R89,
R90). -/
def execDeadlineExpiry (ctx : Nat) (s : State) : Out :=
  let c := getCtx s ctx
  match c.run, c.prqDue with
  | .runnable, some t =>
    if reached s t = false ∨ inBundle c = true ∨ draining c = true then .next s
    else if inBody c c.pc then .next (modCtx s ctx fun c => { c with xloop := setBit c.xloop 25 true })
    else .next (beginSave ctx true s)
  | _, _ => .next s

-- Starts (R63).

/-- The registers that member `m` of `n` starts with. -/
def memberCtx (id : Nat) (l : Launch) (t : Stage) (k : Member) (n : Nat) : Ctx :=
  { idleCtx id with
    pc := t.entry
    s := smSet (smSet (smSet [] 1 t.arg 0) 2 (natW (k.index % 256 + n % 256 * 256 + k.serial % 2 ^ 16 * 2 ^ 16)) 0) 3 (natW k.lid) 0
    xprio := natW (t.prio % 128 + t.prio % 128 * 256), tenant := BitVec.ofNat 12 l.tenant, xdeadline := l.deadline
    xseed := l.seed + natW (16 * k.serial + k.index), member := some k }

/-- A quad whose launch fuses its L1s has them emptied as its members come (R209). -/
def fuseQuad (q : Nat) (fuse : Bool) (s : State) : State := if fuse && !fusedQuad s q then flushQuad q s else s

/-- A cluster goes to a partition: if that is another one, its eight contexts are cleared first, and no task is counted
in its tc.mx any more (R54). -/
def moveCluster (part cl : Nat) (s : State) : State :=
  if (getCluster s cl).part = some part then s
  else
    let s : State := (rangeFrom (8 * cl) 8).foldl (fun s id => cleanRegs id s) s
    modCluster { s with ctxs := s.ctxs.filter fun e => clusterOf e.1 != cl
                        tasks := s.tasks.map fun t => if clusterOf t.ctx = cl then { t with uncounted := true } else t }
      cl fun c => { c with part := some part }

/-- Start a member in context 0 of a cluster: it keeps the numbers that tasks of the cluster still hold. -/
def startMember (l : Launch) (t : Stage) (k : Member) (n cl : Nat) (s : State) : State :=
  let id := 8 * cl
  let s := moveCluster l.part cl (fuseQuad (quadOf id) l.fuse s)
  let tc := keptCounters (getCtx s id)
  acquireAll (startAt id { memberCtx id l t k n with tc := tc } s) id 4

/-- Members with their indices. -/
def numbered (cls : List Nat) : List (Nat × Nat) := (rangeFrom 0 cls.length).zip cls

/-- A PENDING instance is placed on clusters, and every member starts (R65). -/
def placeInst (lid : Nat) (l : Launch) (t : Stage) (i : Inst) (cls : List Nat) (s : State) : State :=
  let s := modInst s lid i.serial fun i =>
    { i with st := .running, started := s.cycle, members := cls.map fun cl => (8 * cl, MemState.bound) }
  (numbered cls).foldl
    (fun s e => startMember l t { lid := lid, stage := i.stage, serial := i.serial, index := e.1 } cls.length e.2 s) s

-- Eligibility and claims (R67).

/-- A queue that a stage writes to is full. -/
def outFull (l : Launch) (t : Stage) : Bool :=
  match t.outq with
  | some q => (match l.queues[q]? with | some x => decide (x.depth ≤ x.entries.length) | none => false)
  | none => false
/-- Entries of a stage's input queue and its depth. -/
def inputUse (l : Launch) (t : Stage) : Nat × Nat :=
  match t.inq with
  | some q => (match l.queues[q]? with | some x => (x.entries.length, x.depth) | none => (0, 1))
  | none => (0, 1)
/-- A stage is eligible (rule 1). -/
def eligible (l : Launch) (k : Nat) (t : Stage) : Bool :=
  !outFull l t && (decide (0 < liveInsts l k) || (t.inq.isSome && decide (0 < (inputUse l t).1)))

/-- An instance that has clusters or asks for them. -/
structure Claim where
  /-- The dies it can be on, best first. -/
  dies : List Nat
  lid : Nat
  stage : Nat
  serial : Nat
  part : Nat
  prio : Nat
  /-- Occupancy of the input queue, and its depth. -/
  occ : Nat × Nat
  w : Nat
  /-- 0 running, 1 suspended, 2 pending. -/
  kind : Nat
  /-- Cycles since it started. -/
  age : Nat
  /-- It is held whatever the rules say: a member is STOPPED (R66). -/
  fixed : Bool
  elig : Bool
  deriving DecidableEq, Repr

/-- A member of an instance is STOPPED. -/
def anyStopped (s : State) (i : Inst) : Bool := (boundCtxs i).any fun id => (getCtx s id).run == .stopped

/-- The kind of an instance's claim and the dies it can be on. One that is SUSPENDING holds its clusters while a member of
it is STOPPED (R66). -/
def claimKind (s : State) (l : Launch) (k : Nat) (t : Stage) (i : Inst) : Option (Nat × List Nat) :=
  let there := (i.members.filter fun m => m.2 != .gone).map fun m => dieOf m.1
  match i.st with
  | .running => some (0, there.take 1)
  | .suspending => if anyStopped s i then some (0, there.take 1) else none
  | .suspended => if (getPart s l.part).quiesced then none else some (1, there.take 1)
  | .pending => if (getPart s l.part).quiesced then none else some (2, homesOf s l.part l.tenant l.map k t)
  | _ => none

/-- The claims of a launch. -/
def launchClaims (s : State) (lid : Nat) (l : Launch) : List Claim :=
  l.insts.filterMap fun i =>
    match l.stages[i.stage]? with
    | some t =>
      (claimKind s l i.stage t i).map fun (kind, dies) =>
        { dies := dies, lid := lid, stage := i.stage, serial := i.serial, part := l.part, prio := t.prio, occ := inputUse l t,
          w := if i.st = .suspending then (boundCtxs i).length else widthClusters t.width, kind := kind, age := since s i.started, fixed := kind == 0 && anyStopped s i, elig := eligible l i.stage t }
    | none => none

/-- Rule 4's order, and within a stage the running instances, the suspended ones, the pending ones. -/
def Claim.before (a b : Claim) : Bool :=
  if a.prio ≠ b.prio then decide (b.prio < a.prio)
  else if a.occ.1 * b.occ.2 ≠ b.occ.1 * a.occ.2 then decide (b.occ.1 * a.occ.2 < a.occ.1 * b.occ.2)
  else if a.stage ≠ b.stage then decide (a.stage < b.stage)
  else if a.lid ≠ b.lid then decide (a.lid < b.lid)
  else if a.kind ≠ b.kind then decide (a.kind < b.kind)
  else if a.kind = 0 ∧ a.age ≠ b.age then decide (b.age < a.age)
  else decide (a.serial < b.serial)
/-- Put a claim among claims in order. -/
def insertClaim (a : Claim) : List Claim → List Claim
  | [] => [a]
  | b :: bs => if Claim.before a b then a :: b :: bs else b :: insertClaim a bs
/-- Every claim of the package in order. -/
def claims (s : State) : List Claim :=
  (s.launches.flatMap fun (e : Nat × Launch) => launchClaims s e.1 e.2).foldl (fun l a => insertClaim a l) []

/-- A claim that has been granted, and its die. -/
abbrev Grant := Claim × Nat
/-- The same instance. -/
def Claim.same (a b : Claim) : Bool := a.lid == b.lid && a.serial == b.serial
/-- Clusters of grants together. -/
def weight (l : List Grant) : Nat := (l.map (·.1.w)).sum
/-- Clusters of a die that no disabled place takes away. -/
def dieRoom (s : State) (die : Nat) : Nat := countIf (fun cl => !placeDead s cl) (rangeFrom (128 * die) 128)
/-- MIN × clusters of a claim's stage. -/
def stageMin (s : State) (a : Claim) : Nat :=
  match (smGet s.launches a.lid).bind fun l => l.stages[a.stage]? with
  | some t => t.min * widthClusters t.width
  | none => 0

/-- The passes that grant claims, in order: what is fixed; a partition's floor on a die; a stage's MIN; what remains (R67
rules 2 to 4). Within the floor and the MIN, what is within MIN and running comes first, since rule 3 lets a stage KEEP
its MIN. -/
inductive Pass where
  | fixed
  | floor (withinMin keep : Bool)
  | least (keep : Bool)
  | rest
  deriving DecidableEq, Repr

/-- What a pass asks of a claim, beside its room: MIN clusters of its stage not yet granted, a running instance. -/
def Pass.takes (p : Pass) (belowMin running : Bool) : Bool :=
  match p with
  | .fixed => false
  | .floor m k => (!m || belowMin) && (!k || running)
  | .least k => belowMin && (!k || running)
  | .rest => true

/-- The die that a pass grants a claim beside those granted. The share and the stage's MIN count clusters of the package,
a floor those of its die. -/
def grantDie (s : State) (pass : Pass) (got : List Grant) (a : Claim) : Option Nat :=
  let mine := got.filter fun b => b.1.part == a.part
  let p := getPart s a.part
  let floored := match pass with | .floor _ _ => true | _ => false
  let fits := fun d => decide (weight (got.filter fun b => b.2 == d) + a.w ≤ dieRoom s d) &&
    (!floored || decide (weight (mine.filter fun b => b.2 == d) < p.floors.getD d 0))
  let below := decide (weight (mine.filter fun b => b.1.lid == a.lid && b.1.stage == a.stage) < stageMin s a)
  if pass = .fixed then (if a.fixed then a.dies.head? else none)
  else if !a.elig || decide (p.clshare < weight mine + a.w) || !pass.takes below (a.kind == 0) then none
  else a.dies.find? fits
/-- One pass over the claims. -/
def grantPass (s : State) (pass : Pass) (l : List Claim) (got : List Grant) : List Grant :=
  l.foldl (fun got a =>
    if got.any fun b => Claim.same b.1 a then got
    else match grantDie s pass got a with | some d => got ++ [(a, d)] | none => got) got
/-- The claims that the rules entitle to clusters. -/
def granted (s : State) (l : List Claim) : List Grant :=
  [Pass.fixed, .floor true true, .floor true false, .floor false false, .least true, .least false, .rest].foldl
    (fun got p => grantPass s p l got) []

-- Victims (R67 rule 5).

/-- The instance of a claim. -/
def claimInst (s : State) (a : Claim) : Option (Launch × Stage × Inst) :=
  match smGet s.launches a.lid with
  | some l =>
    match l.stages[a.stage]?, l.insts.find? (fun i => i.serial == a.serial && i.st != .exited) with
    | some t, some i => some (l, t, i)
    | _, _ => none
  | none => none
/-- Clusters of an instance's bound members. -/
def instClusters (i : Inst) : List Nat := (boundCtxs i).map clusterOf
/-- Clusters of instances that are on their way out. -/
def leavingClusters (s : State) : List Nat :=
  s.launches.flatMap fun (e : Nat × Launch) => (e.2.insts.filter fun i => i.st == .suspending && !anyStopped s i).flatMap instClusters
/-- The order in which victims are taken: lowest PRIO, then most recently started. -/
def victimBefore (a b : Claim) : Bool :=
  if a.prio ≠ b.prio then decide (a.prio < b.prio)
  else if a.age ≠ b.age then decide (a.age < b.age) else decide (b.serial < a.serial)
/-- Put a claim among victims in order. -/
def insertVictim (a : Claim) : List Claim → List Claim
  | [] => [a]
  | b :: bs => if victimBefore a b then a :: b :: bs else b :: insertVictim a bs
/-- Running instances that nothing entitles to their clusters. -/
def victims (got : List Grant) (l : List Claim) : List Claim :=
  (l.filter fun a => a.kind == 0 && !a.fixed && !got.any fun b => Claim.same b.1 a).foldl (fun v a => insertVictim a v) []

/-- Clusters that a claim can take, given which will be free: a saved instance its own, another any that fit. -/
def placeOf (s : State) (die : Nat) (l : Launch) (t : Stage) (i : Inst) (free : Nat → Bool) : Option (List Nat) :=
  if i.st = .suspended then
    let cls := (i.members.filter fun m => m.2 == .saved).map fun m => clusterOf m.1
    if cls.all free then some cls else none
  else findRoom s die l.part t.width free

/-- The clusters of a victim. -/
def claimClusters (s : State) (a : Claim) : List Nat := ((claimInst s a).map fun x => instClusters x.2.2).getD []
/-- Take victims one by one until the claim would have its place: the victims whose place it is, and the place. -/
def chooseVictims (s : State) (die : Nat) (l : Launch) (t : Stage) (i : Inst) (doomed reserved : List Nat) :
    List Claim → List Claim → Option (List Claim × List Nat)
  | vs, taken =>
    let mine := taken.flatMap (claimClusters s)
    let free := fun cl => !reserved.contains cl && (freeFor s l.part l.tenant cl || doomed.contains cl || mine.contains cl) && !placeDead s cl
    match placeOf s die l t i free with
    | some cls => some (taken.filter fun a => (claimClusters s a).any cls.contains, cls)
    | none =>
      match vs with
      | [] => none
      | v :: vs => chooseVictims s die l t i doomed reserved vs (taken ++ [v])
/-- Take victims of a partition until its share has room for `short` clusters more; none where it cannot have. -/
def shareVictims (s : State) (part : Nat) : List Claim → Nat → Option (List Claim)
  | _, 0 => some []
  | [], _ => none
  | v :: vs, short =>
    if v.part = part then (shareVictims s part vs (short - (claimClusters s v).length)).map (v :: ·) else shareVictims s part vs short

-- Resumption (R65, R69, R341, R342).

/-- An image leaves its queue, and its cell is free. -/
def dropImage (s : State) (x : Image) : State :=
  let s := { s with images := s.images.filter (· ≠ x), saved := s.saved.filter fun e => e.1 != (x.place, x.cnt) }
  match setUsed s x.part x.tenant x.area x.cell false with
  | .ok s => s
  | .error _ => s

/-- The image of a member of an instance. -/
def imageOf (s : State) (lid serial id : Nat) : Option Image :=
  s.images.find? fun x => x.place == id && (x.member.any fun m => m.lid == lid && m.serial == serial)

/-- Address of an image's cell, where the header of its area can be read. -/
def imageAt (s : State) (x : Image) : Except (Nat × Word) Nat :=
  match sysLoad s x.part x.tenant .cr (natW x.area) 4 with
  | .ok bs => .ok (cellAddr x.area (leNat bs) x.cell)
  | .error e => .error e

/-- What the checks of a queued image find. -/
def checkImage (s : State) (x : Image) : LoadRes :=
  match imageAt s x with
  | .error (c, a) => .trap c a
  | .ok va => loadImage s x.place x.part x.tenant x.cnt (natW va)

/-- A report about an image. -/
def reportImage (s : State) (code cause : Nat) (x : Image) (addr : Word) : State :=
  report s code cause x.place x.tenant x.part ((x.member.map (·.serial)).getD 0) addr

/-- An image cannot be read: it is lost, with its instance (R342). -/
def loseImage (s : State) (x : Image) (va : Word) : State :=
  let s := reportImage (pruneSaved x.place (dropImage s x)) 4 6 x va
  match x.member with
  | some m => strandInst s m.lid m.serial
  | none => s

/-- An image is refused with a status, until the supervisor acts. -/
def refuseImage (s : State) (x : Image) (code : Nat) : State :=
  reportImage { s with images := s.images.map fun y => if y = x then { y with refused := code } else y } 6 code x (natW x.area)

/-- What a failed check does. -/
def imageFails (s : State) (x : Image) (r : LoadRes) : State :=
  match r with
  | .ok _ _ => s
  | .refused k => refuseImage s x k
  | .trap c va => if c = 6 then loseImage s x va else refuseImage s x c

/-- Bring an image that has passed back into its context (R341). -/
def bringBack (s : State) (x : Image) (h : ImageHead) (p : SavedPart) : State :=
  let id := x.place
  let live := getCtx s id
  let tasks := (s.tasks.filter fun t => fullOf t.ctx == id).map (·.num)
  let c := restoredCtx h p.ctx
  let c := { c with member := x.member, ckpt := x.ckpt, engSig := c.engSig ||| live.engSig, tc := smPut c.tc 5 (mergeMx (tcOf live 5) (tcOf c 5) (c.mx.map (·.num)) tasks) }
  let fuse := (x.member.bind fun m => (smGet s.launches m.lid).map (·.fuse)).getD false
  let s := modCluster (fuseQuad (quadOf id) fuse s) (clusterOf id) fun k => { k with part := some x.part }
  let s := putImage id h p c (dropImage s x)
  let s := match x.member with | some m => setMember m id .bound s | none => s
  acquireAll (freeNodes (pruneSaved id (loadPlace x.part (dieOf id) s))) id 4

/-- Resume every saved member of an instance, or none. The image of every member is checked, and each that fails is refused or lost
(R342). -/
def resumeInst (lid : Nat) (i : Inst) (s : State) : State :=
  let xs := (i.members.filter fun m => m.2 == .saved).filterMap fun m => imageOf s lid i.serial m.1
  if xs.any fun x => x.refused != 0 then s
  else
    let bad := xs.filter fun x => match checkImage s x with | .ok _ _ => false | _ => true
    if !bad.isEmpty then (bad.map fun x => (x, checkImage s x)).foldl (fun s e => imageFails s e.1 e.2) s
    else
      let s := modInst s lid i.serial fun i => { i with requested := false, started := s.cycle }
      xs.foldl (fun s x => match checkImage s x with | .ok h p => bringBack s x h p | _ => s) s

/-- A light context's image is resumed once its context is DORMANT (R69). -/
def resumeLight (s : State) (x : Image) : State :=
  if (getCtx s x.place).run = .dormant ∧ x.refused = 0 ∧ (getPart s x.part).quiesced = false ∧
      coreAdmits s (coreOf x.place) (worldOf s x.tenant) = true ∧ placeDead s (clusterOf x.place) = false then
    match checkImage s x with
    | .ok h p => bringBack s x h p
    | r => imageFails s x r
  else s
/-- The light images queued on a die. -/
def lightImages (s : State) (die : Nat) : List Image := s.images.filter fun x => isLight x.place && dieOf x.place == die

-- The pass (R67).

/-- Make the instances that eligible stages with input call for, one at a time. DEDUCED (log entry 55). -/
def makeWanted (l : Launch) : Launch :=
  ((rangeFrom 0 l.stages.length).zip l.stages).foldl (fun l e =>
    let waiting := l.insts.any fun i => i.stage == e.1 && i.st == .pending
    if e.2.inq.isSome && eligible l e.1 e.2 && decide (0 < (inputUse l e.2).1 ∧ liveInsts l e.1 < e.2.max) && !waiting then makeInst l e.1 else l) l
/-- New instances of every launch whose partition is not quiesced. -/
def wantInsts (s : State) : State :=
  { s with launches := s.launches.map fun e => if (getPart s e.2.part).quiesced then e else (e.1, makeWanted e.2) }

/-- The state of a pass over the entitled claims: clusters promised, those on their way out, and how many clusters each
promise is to add to a partition's share. -/
structure PassState where
  s : State
  reserved : List Nat := []
  doomed : List Nat := []
  promised : List (Nat × Nat) := []
  placed : Bool := false

/-- Clusters promised to a partition and not yet held. -/
def PassState.promisedTo (x : PassState) (part : Nat) : Nat := ((x.promised.filter fun e => e.1 == part).map (·.2)).sum
/-- Clusters of a partition that are on their way out. -/
def PassState.leaving (x : PassState) (part : Nat) : Nat := countIf (fun cl => (getCluster x.s cl).part == some part) x.doomed

/-- Ask for the place that a claim needs: victims on its die for room, and of its partition for the share. -/
def askFor (die : Nat) (vs : List Claim) (x : PassState) (a : Claim) (l : Launch) (t : Stage) (i : Inst) : PassState :=
  match chooseVictims x.s die l t i x.doomed x.reserved (vs.filter fun v => v.dies.head? == some die) [] with
  | none => x
  | some (room, cls) =>
    let gone := x.leaving l.part + ((room.filter fun v => v.part == l.part).map fun v => (claimClusters x.s v).length).sum
    let short := heldClusters x.s l.part + x.promisedTo l.part + a.w - gone - (getPart x.s l.part).clshare
    match shareVictims x.s l.part (vs.filter fun v => !room.contains v && !(claimClusters x.s v).any x.doomed.contains) short with
    | none => x
    | some more =>
      let need := room ++ more
      let s := need.foldl (fun s v => match claimInst s v with
        | some (_, _, j) => if j.st = .running then requestInst v.lid j s else s
        | none => s) x.s
      { x with s := s, reserved := x.reserved ++ cls, doomed := x.doomed ++ need.flatMap (claimClusters x.s), promised := (l.part, a.w) :: x.promised }

/-- Place or resume one entitled claim, or ask for the place it needs. One PENDING instance is placed a pass, since the next
one's die is counted after it (R64). -/
def serveClaim (die : Nat) (vs : List Claim) (x : PassState) (a : Claim) : PassState :=
  match (if x.placed && a.kind == 2 then none else claimInst x.s a) with
  | none => x
  | some (l, t, i) =>
    let now := fun cl => !x.reserved.contains cl && freeFor x.s l.part l.tenant cl
    let room := decide (heldClusters x.s l.part + x.promisedTo l.part + a.w ≤ (getPart x.s l.part).clshare)
    match (if room then placeOf x.s die l t i now else none) with
    | some cls =>
      if a.kind = 1 then { x with s := resumeInst a.lid i x.s, reserved := x.reserved ++ cls }
      else { x with s := placeInst a.lid l t i cls x.s, reserved := x.reserved ++ cls, placed := true }
    | none => askFor die vs x a l t i

/-- Whether a resumption could be tried: no image of the instance is refused. -/
def tryable (s : State) (a : Claim) : Bool :=
  a.kind != 1 || !s.images.any fun x => x.refused != 0 && (x.member.any fun m => m.lid == a.lid && m.serial == a.serial)

/-- SCHEDULER_PASS of a die (R67 to R69): what the rules entitle is found for the package, and the die serves the claims
that are its own. A pass that has placed an instance is followed by others. DEDUCED (log entry 54). -/
def execSchedulerPass (die : Nat) (s : State) : Out :=
  if s.fatal then .next s
  else
  let s := (lightImages s die).foldl resumeLight s
  let s := wantInsts s
  let all := claims s
  let got := granted s all
  let own := (got.filter fun b => b.2 == die && b.1.kind != 0 && tryable s b.1).map (·.1)
  let x := own.foldl (serveClaim die (victims got all)) { s := s, doomed := leavingClusters s }
  .next (if x.placed then wakeSchedulers x.s else x.s)

-- The supervisor's acts (R66, R69, R71, R342).

/-- PLACE_TABLE_RELOAD: refused with BUSY while a context of the partition on the die is RUNNABLE or WAITING (R71). -/
def execPlaceTableReload (part die : Nat) (s : State) : Out :=
  if s.ctxs.any fun e => dieOf e.1 == die && partOf s e.1 == part && (e.2.run == .runnable || e.2.run == .waiting) then
    .next (answer s (.status CmdStatus.busy.code))
  else .next (answer (loadPlace part die s) (.status CmdStatus.done.code))

/-- A context lies at a place. -/
def atPlace (k : PlaceKind) (n id : Nat) : Bool :=
  match k with
  | .die => dieOf id == n
  | .quad => quadOf id == n
  | .core => coreOf id == n
  | .cluster => clusterOf id == n
  | .bank => false
  | .peer => false

/-- PLACE_DISABLE (R69, R301): SUSPENDED instances bound to the place are stranded. -/
def execPlaceDisable (k : PlaceKind) (n : Nat) (s : State) : Out :=
  if s.deadPlaces.contains (k, n) then .next s
  else
    let gone := if k == .peer && !s.disabled.contains n then n :: s.disabled else s.disabled
    let s : State := { s with deadPlaces := (k, n) :: s.deadPlaces, disabled := gone }
    let hit := s.launches.flatMap fun (e : Nat × Launch) =>
      (e.2.insts.filter fun i => i.st == .suspended && i.members.any fun m => m.2 == .saved && atPlace k n m.1).map fun i => (e.1, i.serial)
    .next (hit.foldl (fun s x => strandInst s x.1 x.2) s)

/-- A request is pending on a context or on its instance. -/
def requestPending (s : State) (id : Nat) : Bool :=
  bitAt (getCtx s id).xsched 0 ||
    match (getCtx s id).member with
    | some m => ((smGet s.launches m.lid).map fun l => l.insts.any fun i => i.serial == m.serial && i.st != .exited && i.requested).getD false
    | none => false

/-- A STOPPED context goes on: at XTRAPPC after a trap, in the rest of the bundle that the stop left (R25, R329), where a
debug session has left it, or at the refill of a loop that was drained for a save that failed (R90). -/
def resumeStopped (id : Nat) (s : State) : State :=
  let c := getCtx s id
  let t := if c.trapped then aligned4 c.xtrappc else c.pc
  let c1 := match restFrom s id t c.stopHeld with
    | some h => enterRest h c
    | none => if c.trapped || c.stopHeld.isSome then enterAt t c else c
  let c1 := { c1 with run := .runnable, wait := none, stopHeld := none, trapped := false }
  setCtx s id (if c.refill then refillLoop c1 else c1)

/-- SUPERVISOR_RESUME: the context goes on, with a request that is pending raised afresh (R66). -/
def execSupervisorResume (ctx : Nat) (s : State) : Out :=
  if (getCtx s ctx).run = .stopped ∧ s.fatal = false then
    let s := resumeStopped ctx s
    .next (if requestPending s ctx then requestOwn ctx (modCtx s ctx fun c => { c with prqDue := none }) else s)
  else .next s

/-- SUPERVISOR_DISCARD: the context leaves its instance as by EXIT, with no release and no code (R66). -/
def execSupervisorDiscard (ctx : Nat) (s : State) : Out :=
  if (getCtx s ctx).run = .stopped then .next (endContext ctx s) else .next s

/-- The instance that a discard at a place is about: a stranded one, else one with a refused image.
DEDUCED (log entry 56). -/
def discardTarget (s : State) (ctx : Nat) : Option (Nat × Inst) :=
  let named := fun (f : Nat → Inst → Bool) => s.launches.findSome? fun (e : Nat × Launch) =>
    (e.2.insts.find? fun i => (i.members.any fun m => m.1 == ctx && m.2 != .bound) && f e.1 i).map fun i => (e.1, i)
  match named fun _ i => i.st == .stranded && (boundCtxs i).isEmpty with
  | some x => some x
  | none => named fun lid i => i.st == .suspended &&
      s.images.any fun x => x.refused != 0 && (x.member.any fun m => m.lid == lid && m.serial == i.serial)

/-- IMAGE_DISCARD: an instance's images go, and it is over; a restart makes a new instance of its stage (R69). A light
context's image goes alone. -/
def execImageDiscard (ctx : Nat) (restart : Bool) (s : State) : Out :=
  match discardTarget s ctx with
  | some (lid, i) =>
    let xs := s.images.filter fun x => x.member.any fun m => m.lid == lid && m.serial == i.serial
    let s := xs.foldl (fun s x => pruneSaved x.place (dropImage s x)) s
    let s := modInst s lid i.serial fun i => { i with st := .exited, members := i.members.map fun m => (m.1, MemState.gone) }
    let s := if restart then modLaunch s lid fun l => makeInst l i.stage else s
    .next (freeNodes (settleLaunch lid s))
  | none =>
    match s.images.find? fun x => x.place == ctx && x.member.isNone with
    | some x => .next (wakeSchedulers (freeNodes (pruneSaved x.place (dropImage s x))))
    | none => .next s

/-- IMAGE_REQUEUE: the refused images of a place may be tried again (R342). -/
def execImageRequeue (ctx : Nat) (s : State) : Out :=
  if s.images.any fun x => x.place == ctx && x.refused != 0 then
    .next (wakeSchedulers { s with images := s.images.map fun x => if x.place = ctx then { x with refused := 0 } else x })
  else .next s

end Sys2Proof.Machine
end

