-- ==== Sys2Proof/Machine/Vitrine.lean ====
section
/-! DEFINITION. Vitrine mode: a core's frame table and what happens at the points of its frames (13 R295, R296). -/

namespace Sys2Proof.Machine

/-- The entries of a frame table of 32 bytes. -/
def frameTable (bs : List Byte) : List (BitVec 16) := (rangeFrom 0 16).map fun i => BitVec.ofNat 16 (fieldAt bs (2 * i) 2)
/-- Grace of a frame in cycles. -/
def graceLen (e : BitVec 16) : Nat := 2 ^ (8 + natField e.toNat 12 4)
/-- A used entry within its range. -/
def frameOk (e : BitVec 16) : Bool := natField e.toNat 0 3 != 7 && decide (graceLen e + 8192 < frameLen e)
/-- A table may be written: its used entries run from entry 0, each within its range. -/
def tableOk (tbl : List (BitVec 16)) : Bool :=
  (usedFrames tbl).all frameOk && (tbl.drop (usedFrames tbl).length).all fun e => !natBit e.toNat 3

/-- The four cores of a quad take a table; one without used entries ends the mode. -/
def setTable (q : Nat) (tbl : List (BitVec 16)) (s : State) : State :=
  let t := if (usedFrames tbl).isEmpty then none else some tbl
  (rangeFrom (4 * q) 4).foldl (fun s k => modCore s k fun c => { c with vitrine := t, edge := false, graced := false }) s

/-- The used table that the cores of a quad hold. -/
def quadTables (s : State) (q : Nat) : List (List (BitVec 16)) := (rangeFrom (4 * q) 4).filterMap fun k => (getCore s k).vitrine

/-- VITRINE. The four cores of a quad hold the same table, so that the table is written to the named core's whole quad; in a quad
that is in Vitrine mode another table, but for one without used entries, is refused. DEDUCED (log entry 59). -/
def execVitrine (c : CmdSrc) (core table : Nat) (s : State) : Out :=
  pf0Command c s fun s =>
    let tbl := frameTable (hostBytes s table 32)
    let differs := !(usedFrames tbl).isEmpty && (quadTables s (core / 4)).any (· != tbl)
    if 128 ≤ core ∨ tableOk tbl = false ∨ differs = true then cmdDone c .format s
    else cmdDone c .done (setTable (core / 4) tbl s)

/-- Contexts of a core that are live. -/
def liveOn (s : State) (core : Nat) : List Nat :=
  (s.ctxs.filter fun e => coreOf e.1 == core && e.2.run != .free && e.2.run != .dormant).map (·.1)

/-- VITRINE_FRAME_BEGIN: the core admits its world's work. -/
def execVitrineFrameBegin (core : Nat) (s : State) : Out :=
  if (getCore s core).vitrine.isNone then .next s
  else
    let s := modCore s core fun c => { c with edge := false, graced := false }
    let cls := (rangeFrom (4 * core) 4).filter fun cl => !(getCluster s cl).handlers.isEmpty
    .next (raise s (cls.map Event.handlerWake ++ [.schedulerPass (core / 32)]))

/-- A context's instance is being suspended. -/
def markInst (id : Nat) (s : State) : State :=
  match (getCtx s id).member with
  | some m => modInst s m.lid m.serial fun i => if i.st = .running then { i with requested := true, st := .suspending } else i
  | none => s

/-- VITRINE_GRACE: a request with the frame's grace on every live context of the core. -/
def execVitrineGrace (core : Nat) (s : State) : Out :=
  match frameAt s core with
  | some (f, _) =>
    if (getCore s core).graced then .next s
    else
      let s := modCore s core fun c => { c with graced := true }
      .next ((liveOn s core).foldl (fun s id =>
        if (getCtx s id).run = .stopped then s else requestCtx id (graceLen f) (markInst id s)) s)
  | none => .next s

/-- The edge clears the registers and engines of a core's contexts; in tc.mx the numbers that tasks hold stay. -/
def wipeContexts (core : Nat) (s : State) : State :=
  { s with ctxs := s.ctxs.map fun e => if coreOf e.1 = core then (e.1, { idleCtx e.1 with tc := keptCounters e.2 }) else e }

/-- The edge ends a context: what it holds goes, its instance is stranded, and a report is made (R65, R348). -/
def cutContext (id : Nat) (s : State) : State :=
  let s := reportCtx s 5 0 id (getCtx s id).pc
  let m := (getCtx s id).member
  let s := clearContext id s
  match m with
  | some m => regroup (coreOf id) m (setMember m id .gone (strandInst s m.lid m.serial))
  | none => s

/-- What is left of a core after an edge: signatures, binding table, port and frame table. -/
def clearedCore (c : Core) : Core :=
  { bind := c.bind, cur := c.cur, prv := c.prv, vitrine := c.vitrine, edge := true, graced := true, buckets := c.buckets,
    portWait := c.portWait, portSeen := c.portSeen, portPaid := c.portPaid, portLast := c.portLast, throttled := c.throttled }

/-- Poison of a core's structures goes with them. -/
def cleanCore (core : Nat) (s : State) : State :=
  if s.poison.isEmpty then s
  else
    { s with poison := s.poison.filter fun p =>
      match p with
      | .scratch k _ => k != core
      | .slot k _ _ _ => k != core
      | .acc k _ _ _ => k != core
      | .side k _ _ _ => k != core
      | .smeta k _ => k != core
      | .sreg i _ => coreOf i != core
      | .xreg i _ => coreOf i != core
      | .vreg k _ _ _ => k / 4 != core
      | .kmask k _ _ _ => k / 4 != core
      | .loopReg k _ => k / 4 != core
      | _ => true }

/-- VITRINE_EDGE: unfinished contexts are cut, and the core and its die's place cache are cleared. -/
def execVitrineEdge (core : Nat) (s : State) : Out :=
  if (getCore s core).vitrine.isNone || (getCore s core).edge then .next s
  else
    let s := modCore s core fun c => { c with edge := true }
    let s := drainWhere (drainWhere s (l1Unit s core) fun _ => true) core fun _ => true
    let s := (liveOn s core).foldl (fun s id => cutContext id s) s
    let s := cleanCore core (modCore (wipeContexts core s) core clearedCore)
    .next (modDie s (core / 32) fun d => { d with place := [], loaded := [] })

end Sys2Proof.Machine
end

