-- ==== Sys2Proof/Machine/Host.lean ====
section
/-! DEFINITION. The host's commands and registers: partitions, tenants, regions, launches and their queues, quiesce and
resume, the command rings, and a virtual function's reset (13 R280, R281, 01 R13, 18 R349 to R352, 20 R368 to R371). -/

namespace Sys2Proof.Machine

-- Partitions (R280).

/-- What a partition record gives, on top of what the partition has. -/
def partRecord (bs : List Byte) (old : PartRec) : PartRec :=
  { old with
    valid := true, root := fieldAt bs 0 8 / 8192 * 8192 % 2 ^ 52, place := fieldAt bs 8 8 / 65536 * 65536 % 2 ^ 52
    peermap := fieldAt bs 16 8 % 2 ^ 52, clshare := fieldAt bs 24 2, floors := (rangeFrom 0 4).map fun d => fieldAt bs (28 + 2 * d) 2
    sram := (rangeFrom 0 4).map fun d => (rangeFrom 0 4).map fun r => fieldAt bs (36 + 4 * d + r) 1
    vstore := (rangeFrom 0 4).map fun d => fieldAt bs (52 + 2 * d) 2 }

/-- CLSHARE within its range; a floor or version-store share above its own is a sum that is exceeded. DEDUCED (log entry 57). -/
def partFieldsOk (p : PartRec) : Bool := decide (p.clshare ≤ 512)

/-- Size in MiB of a die's SRAM region: 0 L2/home, 1 Herbarium, 2 staging, 3 stage queues (R13). -/
def regionSize (d : Die) (r : Nat) : Nat :=
  match r with
  | 0 => d.home
  | 1 => d.herb
  | 2 => d.stage
  | _ => d.queue

/-- The other valid partitions. -/
def otherParts (s : State) (p : Nat) : List PartRec := (s.parts.filter fun e => e.1 != p && e.2.valid).map (·.2)
/-- The sum of a share over partitions. -/
def shareSum (ps : List PartRec) (f : PartRec → Nat) : Nat := (ps.map f).sum
/-- The shares of a die are exceeded by partitions (R280). -/
def sharesOver (s : State) (ps : List PartRec) (d : Nat) : Bool :=
  decide (128 < shareSum ps fun p => p.floors.getD d 0) ||
    (rangeFrom 0 4).any (fun r => decide (regionSize (getDie s d) r < shareSum ps fun p => (p.sram.getD d []).getD r 0)) ||
    decide ((getDie s d).vstore < shareSum ps fun p => p.vstore.getD d 0)

/-- A partition has a running launch or a live context. -/
def partBusy (s : State) (p : Nat) : Bool :=
  s.launches.any (fun e => e.2.part == p) ||
    s.ctxs.any fun e => e.2.run != .free && e.2.run != .dormant && (getCluster s (clusterOf e.1)).part == some p

/-- PART. A rewritten partition keeps no cached translation. -/
def execPart (c : CmdSrc) (p rec_ save ring entries : Nat) (s : State) : Out :=
  pf0Command c s fun s =>
    let new := partRecord (hostBytes s rec_ 64) (getPart s p)
    if 16 ≤ p ∨ partFieldsOk new = false then cmdDone c .format s
    else if partBusy s p then cmdDone c .busy s
    else if (rangeFrom 0 4).any (sharesOver s (new :: otherParts s p)) then cmdDone c .share s
    else
      let s := { s with dies := s.dies.map fun e => (e.1, { e.2 with tlb := e.2.tlb.filter fun t => t.part != p }) }
      let s := modPart s p fun _ => { new with save := save, ring := ring, ringLen := entries, ringAt := 0, ringUsed := 0 }
      cmdDone c .done (trimHerbs s (fun _ l => l.key.part == p) fun s d => herbShare s p d)

-- Tenants (R281).

/-- The tenant number and record that 16 bytes give. -/
def tenantRecord (bs : List Byte) : Nat × TenantRec :=
  (fieldAt bs 0 2 % 4096,
    { part := fieldAt bs 0 2 / 4096, world := fieldAt bs 2 1, valid := natBit (fieldAt bs 3 1) 0, tscope := natBit (fieldAt bs 3 1) 1,
      vf := fieldAt bs 4 1, slotmin := fieldAt bs 5 1, bwshare := fieldAt bs 6 2 % 1024, hblines := fieldAt bs 8 4, fpages := fieldAt bs 12 4 })
/-- Fields of a tenant record within their ranges. -/
def tenantFieldsOk (r : TenantRec) : Bool := (decide (r.vf < 64) || r.vf == 255) && decide (r.slotmin ≤ 64)
/-- The valid tenants with one replaced. -/
def tenantsWith (s : State) (t : Nat) (r : TenantRec) : List TenantRec :=
  ((s.tenants.filter fun e => e.1 != t).map (·.2) ++ [r]).filter (·.valid)
/-- A tenant that becomes valid has empty buckets at every port (R297). -/
def emptyBuckets (s : State) (t : Nat) : State :=
  { s with cores := s.cores.map fun e => (e.1, { e.2 with buckets := smDel e.2.buckets t }) }

/-- TENANT. -/
def execTenant (c : CmdSrc) (rec_ : Nat) (s : State) : Out :=
  pf0Command c s fun s =>
    let (t, r) := tenantRecord (hostBytes s rec_ 16)
    let all := tenantsWith s t r
    if !tenantFieldsOk r then cmdDone c .format s
    else if 1024 < (all.map (·.bwshare)).sum ∨ 3072 < (all.map (·.slotmin)).sum then cmdDone c .share s
    else
      let s := if r.valid && !(((smGet s.tenants t).map (·.valid)).getD false) then emptyBuckets s t else s
      let s := { s with tenants := smPut s.tenants t r }
      cmdDone c .done (trimHerbs s (fun _ l => l.key.tenant == t) fun s _ => hbLines s t)

-- Regions (R13).

/-- A tile task of a launch is queued or runs on a die, or may send its children there (R194). -/
def taskOn (s : State) (die : Nat) : Bool :=
  s.tasks.any fun t => t.lid.any (fun l => (smGet s.launches l).isSome) && t.st != .faulted &&
    (dieOf t.ctx == die || taskDie t == die || (decide (4 ≤ t.unit.level) && (mappedDies s t).contains die))

/-- A launch runs on a die: it has an instance, a queue or a tile task there. -/
def launchOn (s : State) (die : Nat) : Bool :=
  taskOn s die || s.launches.any fun e => e.2.insts.any (fun i => i.members.any fun m => m.2 == .bound && dieOf m.1 == die) || e.2.queues.any (fun q => q.die == die)

/-- Every Herbarium line of a die goes. -/
def dropDieLines (s : State) (die : Nat) : State := (getDie s die).lines.foldl (fun s l => evictHerb s die l) s

/-- REGION. The Herbarium is emptied where its region changes. DEDUCED (log entry 58). A region may become smaller than the
shares granted in it: these stand, and bound what is used. DESIGN CHOICE (log entry 90). Copies of the L2 and home region that a
smaller region no longer holds stay until the die's next fill trims them. DESIGN CHOICE (log entry 108). -/
def execRegion (c : CmdSrc) (die home herb stage queue : Nat) (s : State) : Out :=
  pf0Command c s fun s =>
    if 4 ≤ die ∨ home + herb + stage + queue ≠ 128 then cmdDone c .format s
    else if launchOn s die then cmdDone c .busy s
    else
      let s := if herb = (getDie s die).herb then s else dropDieLines s die
      cmdDone c .done (modDie s die fun d => { d with home := home, herb := herb, stage := stage, queue := queue })

-- Launches and their queues (R73, R369, R371).

/-- The virtual function of a function number, none for a physical one. -/
def vfOf (fn : Nat) : Option Nat := if 2 ≤ fn then some (fn - 2) else none
/-- A tenant belongs to a virtual function. -/
def ofVf (s : State) (t vf : Nat) : Bool := ((smGet s.tenants t).map fun r => r.valid && r.vf == vf).getD false
/-- A partition holds a tenant of a virtual function. -/
def partOfVf (s : State) (p vf : Nat) : Bool := s.tenants.any fun e => e.2.valid && e.2.part == p && e.2.vf == vf

/-- Write a LAUNCH's rd value into its entry. -/
def putRd (c : CmdSrc) (v : Nat) (s : State) : State := memWrite s (hostPa (c.entry + 16)) (leBytes 8 v)
/-- A LAUNCH whose record cannot be read. -/
def launchUnread (c : CmdSrc) (s : State) : Out := cmdDone c .format (putRd c 0 s)
/-- The header of a record's placement map can be read, where it names an aligned one. -/
def mapReadable (s : State) (p : Nat) (r : LaunchRec) : Bool :=
  r.map == 0 || r.map % 64 != 0 ||
    (match sysLoad s p anyTenant .ls (natW r.map) 64 with
     | .ok _ => true
     | .error _ => false)

/-- LAUNCH of a function, in a partition. -/
def execLaunchCommand (c : CmdSrc) (p rec_ : Nat) (s : State) : Out :=
  launchCommandOf c s fun s =>
    if (vfOf c.fn).any fun v => !partOfVf s p v then cmdDone c .denied s
    else
      match sysLoad s p anyTenant .ls (natW (rec_ / 64 * 64)) 512 with
      | .error _ => launchUnread c s
      | .ok bs =>
        let r := launchRec bs
        if (vfOf c.fn).any fun v => !ofVf s r.tenant v then cmdDone c .denied s
        else if !mapReadable s p r then launchUnread c s
        else
          let (v, s) := launchRecord s { part := p, fn := c.fn, ceil := if c.fn = 0 then 127 else 119 } r
          cmdDone c .done (putRd c v.toNat s)

/-- The launch and queue that a command names, where the function owns the launch. DEDUCED (log entry 23). -/
def withQueue (c : CmdSrc) (lid q : Nat) (s : State) (k : Launch → StageQueue → State → Out) : Out :=
  launchCommandOf c s fun s =>
    match smGet s.launches lid with
    | none => cmdDone c .format s
    | some l =>
      if l.fn ≠ c.fn then cmdDone c .denied s
      else
        match l.queues[q]? with
        | none => cmdDone c .format s
        | some x => k l x s

/-- An entry of the host joins a queue. -/
def pushEntry (s : State) (lid q : Nat) (x : StageQueue) (bs : List PB) : State :=
  let s := setQueue s lid q { x with entries := x.entries ++ [bs], puts := x.puts + 1 }
  if x.entries.isEmpty || x.entries.length + 1 == x.depth then wakeSchedulers s else s

/-- QPUT. In a replay an entry whose turn in the log has not come finds the queue BUSY (R356). DESIGN CHOICE (log entry 63). -/
def execQput (c : CmdSrc) (lid q addr : Nat) (s : State) : Out :=
  withQueue c lid q s fun l x s =>
    if !external l q then cmdDone c .format s
    else if x.closed then cmdDone c .closed s
    else if x.depth ≤ x.entries.length then cmdDone c .full s
    else
      let bs := hostRead s addr x.esize
      if !replayTurn s lid 1 q 0xFFFF (bytesOf bs) then cmdDone c .busy s
      else cmdDone c .done (pushEntry (logInput (replayNext s lid) lid 1 q 0xFFFF (x.puts + 1) (bytesOf bs)) lid q x bs)

/-- QCLOSE: the entries that are queued drain (R62). -/
def execQclose (c : CmdSrc) (lid q : Nat) (s : State) : Out :=
  withQueue c lid q s fun l x s =>
    if !external l q then cmdDone c .format s
    else if x.closed then cmdDone c .closed s
    else cmdDone c .done (settleLaunch lid (setQueue s lid q { x with closed := true }))

/-- QGET: the head entry is written to the host before STATUS. -/
def execQget (c : CmdSrc) (lid q addr : Nat) (s : State) : Out :=
  withQueue c lid q s fun l x s =>
    if !hostDrained l q then cmdDone c .format s
    else
      match x.entries with
      | [] => cmdDone c (if x.closed then .closed else .empty) s
      | bs :: rest =>
        cmdDone c .done (settleLaunch lid (setQueue (memWritePB s (hostPa addr) bs) lid q { x with entries := rest }))

-- Quiesce and resume (R349 to R352).

/-- Fabric operations of a context to a peer are abandoned: the lowest number, and the context without them (R349). -/
def abandonOps (peer : Option Nat) (c : Ctx) : Option Nat × Ctx :=
  let mine := fun (o : FabOp) => peer == some o.peer
  let gone := (c.fab.filter mine).map (·.num)
  ((match gone with | [] => none | n :: ns => some (ns.foldl min n)),
    gone.foldl (fun c n => tcFinish c 6 n) { c with fab := c.fab.filter fun o => !mine o })

/-- The lower of two numbers that may be absent. -/
def lowerOf (a b : Option Nat) : Option Nat :=
  match a, b with
  | some x, some y => some (min x y)
  | some x, none => some x
  | none, y => y

/-- Note a context's lowest abandoned number in its partition's checkpoint record (R350). -/
def noteLow (s : State) (part id : Nat) (n : Option Nat) : State :=
  match n with
  | some n => modPart s part fun p => { p with fplow := smPut p.fplow id ((lowerOf (smGet p.fplow id) (some n)).getD n) }
  | none => s

/-- A context's operations to a lost peer, live or in its images. -/
def abandonCtx (part : Nat) (peer : Option Nat) (s : State) (id : Nat) : State :=
  let c := getCtx s id
  let held := ((c.fab.filter fun o => peer == some o.peer && o.slot).map (·.tenant))
  let lost := (s.outbox.filter fun p => p.srcCtx == id && c.fab.any fun o => peer == some o.peer && o.num == p.num)
  let s := (held ++ lost.map (·.tenant)).foldl giveSlot { s with outbox := s.outbox.filter fun p => !lost.contains p }
  let (n, c) := abandonOps peer c
  noteLow (setCtx s id c) part id n
/-- A saved context's operations to a lost peer. -/
def abandonSaved (part : Nat) (peer : Option Nat) (s : State) (k : Nat × Nat) : State :=
  match s.saved.find? fun e => e.1 == k with
  | some e =>
    let (n, c) := abandonOps peer e.2.ctx
    noteLow { s with saved := s.saved.map fun x => if x.1 = k then (k, { x.2 with ctx := c }) else x } part k.1 n
  | none => s

/-- A partition's checkpoint record: its header, and an entry for each physical context (R350). -/
def checkpointBytes (s : State) (part : Nat) : List Byte :=
  let p := getPart s part
  leBytes 8 p.epoch ++ leBytes 2 p.lossPeer ++ leBytes 54 p.lossReason ++
    (rangeFrom 0 numContexts).flatMap fun i => leBytes 8 (smGetD p.fplow i 0)

/-- Live contexts of a partition. -/
def liveIn (s : State) (part : Nat) : List Nat :=
  (s.ctxs.filter fun e => e.2.run != .free && e.2.run != .dormant && partOf s e.1 == part && (getCluster s (clusterOf e.1)).part == some part).map (·.1)

/-- Every live context and every image of a partition is to take CKPT (R351). -/
def deliverCkpt (part : Nat) (s : State) : State :=
  let ids := liveIn s part
  let s := ids.foldl (fun s id => modCtx s id fun c => { c with ckpt := true }) s
  let s := { s with images := s.images.map fun x => if x.part = part then { x with ckpt := true } else x }
  raise s ((ids.filter fun id => (getCtx s id).run == .waiting).map Event.ckpt)

/-- A partition is quiesced: the reason's code, and the peer by its physical and logical number (R349, R350).
DEDUCED (log entry 61). -/
def quiescePart (part reason : Nat) (peer : Option (Nat × Nat)) (s : State) : State :=
  let phys := peer.map (·.1)
  let s := modPart s part fun p =>
    { p with quiesced := true, epoch := p.epoch + 1, lossPeer := (peer.map (·.2)).getD 0xFFFF, lossReason := reason, fplow := [] }
  let s := (s.ctxs.map (·.1)).foldl (fun s id => if partOf s id = part then abandonCtx part phys s id else s) s
  let keys := (s.images.filter fun x => x.part == part).map fun x => (x.place, x.cnt)
  let s := keys.foldl (abandonSaved part phys) s
  report (deliverCkpt part s) 7 0 0 0 part 0 (natW ((peer.map (·.2)).getD 0))

/-- QUIESCE on the supervisor's command. -/
def execQuiesce (c : CmdSrc) (p : Nat) (s : State) : Out :=
  pf0Command c s fun s =>
    if 16 ≤ p ∨ (getPart s p).valid = false then cmdDone c .format s
    else cmdDone c .done (quiescePart p 4 none s)

/-- RESUME: scheduling restarts (R352). -/
def execResumeCmd (c : CmdSrc) (p : Nat) (s : State) : Out :=
  pf0Command c s fun s =>
    if 16 ≤ p ∨ (getPart s p).valid = false then cmdDone c .format s
    else cmdDone c .done (wakeSchedulers (modPart s p fun r => { r with quiesced := false }))

-- The command registers (R368).

/-- The functions: PF0, PF1 and 64 virtual functions. -/
def numFns : Nat := 66

/-- CQTAIL_DOORBELL. -/
def execCqtailDoorbell (fn : Nat) (v : Word) (s : State) : Out :=
  .next (if fn < numFns then modFn s fn fun f => { f with tail := fld v 0 12 } else s)

/-- The ring size that a value of CQSIZE gives. -/
def ringSize (v : Word) : Nat :=
  let n := fld v 0 13
  if [16, 32, 64, 128, 256, 512, 1024, 2048, 4096].contains n then n else 0

/-- REGISTER_WRITE: CQBASE and CQSIZE while the ring is empty; CQHEAD and DSTAT are read-only. -/
def execRegisterWrite (fn off : Nat) (v : Word) (s : State) : Out :=
  if numFns ≤ fn ∨ (getFn s fn).head ≠ (getFn s fn).tail then .next s
  else if off = 0 then .next (modFn s fn fun f => { f with base := v.toNat })
  else if off = 8 then .next (modFn s fn fun f => { f with size := ringSize v })
  else .next s

-- A virtual function's reset (R371).

/-- A launch is aborted: its contexts, images and tasks go, and its status area says so. -/
def abortLaunch (s : State) (lid : Nat) : State :=
  match smGet s.launches lid with
  | none => s
  | some l =>
    let s := (l.insts.flatMap boundCtxs).foldl (fun s id => clearContext id s) s
    let s := (s.images.filter fun x => x.member.any fun m => m.lid == lid).foldl dropImage s
    let s := (s.tasks.filter fun t => t.lid == some lid).foldl dropTask s
    wakeSchedulers (freeNodes (endLaunch s lid l 2))

/-- VF_FLR. DEDUCED (log entry 60). -/
def execVfFlr (vf : Nat) (s : State) : Out :=
  if 64 ≤ vf then .next s
  else
    let mine := (s.launches.filter fun e => e.2.fn == vf + 2).map (·.1)
    .next (modFn (mine.foldl abortLaunch s) (vf + 2) fun f => { f with head := f.tail })

end Sys2Proof.Machine
end

