-- ==== Sys2Proof/Machine/Platform.lean ====
section
/-! DEFINITION. The package: key slots, lost peers and failing links, resets and bring-up, power, soft errors, reports,
the snapshot, recorded-input replay, debug sessions and firmware (13 R290, 18 R346 to R360, 20 R372 to R380). -/

namespace Sys2Proof.Machine

-- Keys (R290).

/-- KEY_SLOT_PROGRAM: a key goes into a FREE slot, or into the empty position of an ACTIVE one, and is CUR at once.
DEDUCED (log entry 62). -/
def execKeySlotProgram (slot kind tenant : Nat) (key : BitVec 256) (s : State) : Out :=
  if 8192 ≤ slot ∨ kind = 0 ∨ 3 < kind ∨ 4096 ≤ tenant then .next s
  else
    match smGet s.keys slot with
    | none => .next { s with keys := smPut s.keys slot { kind := kind, tenant := tenant, key0 := some key, key1 := none, cur := 0 } }
    | some k =>
      if k.kind ≠ kind ∨ k.tenant ≠ tenant then .next s
      else if k.key0.isNone then .next { s with keys := smPut s.keys slot { k with key0 := some key, cur := 0 } }
      else if k.key1.isNone then .next { s with keys := smPut s.keys slot { k with key1 := some key, cur := 1 } }
      else .next s

/-- KEY_RETIRE: the CUR position is not retired. -/
def execKeyRetire (slot pos : Nat) (s : State) : Out :=
  match smGet s.keys slot with
  | none => .next s
  | some k =>
    if pos = k.cur ∨ 2 ≤ pos then .next s
    else .next { s with keys := smPut s.keys slot (if pos = 0 then { k with key0 := none } else { k with key1 := none }) }

-- Peers (R319, R349, R374).

/-- The code of a loss in the checkpoint record (R350). -/
def LossReason.code (r : LossReason) : Nat :=
  match r with
  | .lost => 1
  | .reset => 2
  | .home => 3

/-- A partition's PEERMAP holds a peer. -/
def mapHolds (s : State) (part peer : Nat) : Bool := natBit (memNat s ((getPart s part).peermap + peer / 8) 1) (peer % 8)

/-- The pins of a lost package fall. -/
def dropPeerPins (s : State) (peer : Nat) : State :=
  let pins := s.catalogue.flatMap fun e => (e.peers.filter fun p => p.1 == peer).map fun p => (e.part, e.handle, p.2)
  let s := { s with catalogue := s.catalogue.map fun e =>
    { e with peers := e.peers.filter fun p => p.1 != peer, holders := e.holders.filter fun p => p.1 != peer } }
  pins.foldl (fun s p => unpinVersion s 0 0 p.1 p.2.1 p.2.2 0x1FFF) s

/-- An ADMIT in progress whose home is lost ends with status 7, answered or not. -/
def endAdmits (s : State) (peer : Nat) : State :=
  let ids := (s.ctxs.filter fun e => e.2.homeAdmit.any fun h => h.peer == peer).map (·.1)
  ids.foldl (fun s id => modCtx s id fun c => { c with homeAdmit := c.homeAdmit.map fun h => { h with answer := some (7, none) } }) s

/-- The home of a site's handle is a physical peer. -/
def homedAt (s : State) (die peer : Nat) (k : SiteKey) : Bool :=
  siteHome s die k != 0x1FFF && physical s die k.part .peer (siteHome s die k) == some peer
/-- Fills that wait for a lost home fail. -/
def failAsked (s : State) (peer die : Nat) : State :=
  (((getDie s die).fills.filter fun f => f.asked && homedAt s die peer f.key).map (·.key)).foldl (fun s k => failFill s die k) s

/-- A handle of a partition has its home on a physical peer. -/
def homedFor (s : State) (part peer : Nat) : Bool :=
  s.catalogue.any fun e => e.part == part && isReplica e && (rangeFrom 0 4).any fun d => physical s d part .peer e.home == some peer
/-- The REASON of a partition: a lost home where a handle's home is lost, and where nothing else reaches the peer (R349, R350). -/
def reasonFor (s : State) (part peer : Nat) (r : LossReason) : Nat :=
  if homedFor s part peer = true ∧ (r = .home ∨ mapHolds s part peer = false) then LossReason.code .home
  else if r = .home then LossReason.code .lost else LossReason.code r

/-- PEER_LOST: the peer is disabled, and every partition that reaches it is quiesced. -/
def execPeerLost (peer : Nat) (r : LossReason) (s : State) : Out :=
  let s := { s with disabled := if s.disabled.contains peer then s.disabled else peer :: s.disabled }
  let s := dropRecords (dropPeerPins (endAdmits s peer) peer) fun m => m.peer == peer
  let s := (s.dies.map (·.1)).foldl (fun s d => failAsked s peer d) s
  let ps := (s.parts.filter fun e => e.2.valid && (mapHolds s e.1 peer || homedFor s e.1 peer)).map (·.1)
  .next (ps.foldl (fun s p => quiescePart p (reasonFor s p peer r) (some (peer, logicalPeer s p peer)) s) s)

/-- DELVEL_PORT_FAILURE: fewer paths, and no loss (R374). -/
def execDelvelPortFailure (port : Nat) (s : State) : Out :=
  .next (if 16 ≤ port || s.portsDown.contains port then s else { s with portsDown := port :: s.portsDown })

-- The Annex (R372).

/-- First frame of a CXL port's range. -/
def portBase (port : Nat) : Nat := (if port = 0 then 2 ^ 44 else 2 ^ 45) / 65536
/-- A frame lies in a port's range. -/
def onPort (port f : Nat) : Bool := decide (portBase port ≤ f ∧ f < portBase port + 2 ^ 26)
/-- Every frame of a port is DIRTY, and no cached translation leads there. -/
def dirtyPort (s : State) (port : Nat) : State :=
  let fs := (s.frames.filter fun e => onPort port e.1).map (·.1)
  let s := fs.foldl dropFrame s
  { s with frames := s.frames.filter fun e => !onPort port e.1 }

/-- Agents whose accesses are in flight: they wait at a port, or have passed it (R297). -/
def atPorts (s : State) : List PortAgent :=
  (s.cores.flatMap fun e => e.2.portWait.filterMap (·.agent) ++ e.2.portPaid).eraseDups
/-- ANNEX_LINK_DOWN: the port's frames are DIRTY, and an access in flight there gets poison. DEDUCED (log entry 102). -/
def execAnnexLinkDown (port : Nat) (s : State) : Out :=
  if 2 ≤ port || s.annexDown.contains port then .next s
  else .next (dirtyPort { s with annexDown := port :: s.annexDown, cut := s.cut ++ (atPorts s).map fun a => (port, a) } port)
def execAnnexLinkRetrained (port : Nat) (s : State) : Out :=
  .next (dirtyPort { s with annexDown := s.annexDown.filter (· ≠ port), cut := s.cut.filter fun e => e.1 != port } port)

-- Failure, power and soft errors (R346, R376, R377).

/-- A package failure's report in every partition. -/
def fatalReports (s : State) : State :=
  ((s.parts.filter fun e => e.2.valid).map (·.1)).foldl (fun s p => report s 1 0 0 0 p 0 0) s

/-- PACKAGE_FAILURE: every context stops, and FATAL is set. -/
def execPackageFailure (link : Nat) (s : State) : Out :=
  if 6 ≤ link || s.fatal then .next s
  else
    let s := { s with fatal := true, barriers := [], ctxs := s.ctxs.map fun e =>
      (e.1, if e.2.run = .free ∨ e.2.run = .dormant then e.2 else { e.2 with run := .stopped, wait := none, due := none }) }
    .next (fatalReports s)

/-- POWER_THROTTLE: idle cycles, never on a core in Vitrine mode. -/
def execPowerThrottle (core : Nat) (s : State) : Out :=
  if 128 ≤ core || (getCore s core).vitrine.isSome then .next s
  else .next (modCore s core fun c => { c with throttled := c.throttled + 1 })

/-- The die whose corrected errors a structure counts among; register files and memory beyond the HBM have none. -/
def correctedOn (s : State) (p : PLoc) : Option Nat :=
  match p with
  | .mem g => if 8 * g < 2 ^ 39 then some (8 * g / 2 ^ 37) else none
  | .scratch k _ => some (k / 32)
  | .slot k _ _ _ => some (k / 32)
  | .acc k _ _ _ => some (k / 32)
  | .side k _ _ _ => some (k / 32)
  | .smeta k _ => some (k / 32)
  | .queue cl _ _ _ => some (cl / 128)
  | .herb d _ _ => some d
  | .l1 k _ _ => some (k / 32)
  | .visitor d _ _ => some d
  | .home g => if isHost (8 * g) then none else some (homeDie (g / 8))
  | .version p n _ => (((getPart s p).versions)[n]?).map fun v => homeDie v.line
  | .loopBuf c _ => some (dieOf c)
  | .squeue lid q _ _ => ((smGet s.launches lid).bind fun l => l.queues[q]?).map (·.die)
  | _ => none

/-- A unit joins the poisoned ones. -/
def addBad (g : Nat) (l : List Nat) : List Nat := if l.contains g then l else g :: l
/-- The poisoned queue block of a cluster's full context. -/
def badBlock (c : Ctx) (q idx unit : Nat) : Ctx :=
  match smGet c.q q with
  | some (.data n bs) => setBlocks c q n (bs.modify idx fun b => { b with bad := addBad unit b.bad })
  | _ => c

/-- A version is held in the version store's HBM, the versions before it filling the partition's L2/home share (R263).
DEDUCED (log entry 32). -/
def spilled (s : State) (p n : Nat) : Bool :=
  match (getPart s p).versions[n]? with
  | some v => decide ((((getPart s p).sram[homeDie v.line]?).getD []).headD 0 * 1048576 ≤
      64 * countIf (fun (w : Version) => homeDie w.line == homeDie v.line) ((getPart s p).versions.take n))
  | none => false
/-- Bytes with the 8 of a unit poisoned. -/
def badUnit (u : Nat) (bs : List PB) : List PB := ((rangeFrom 0 bs.length).zip bs).map fun e => (e.2.1, e.2.2 || e.1 / 8 == u)
/-- The poisoned entry of a stage queue. -/
def badEntry (l : Launch) (q idx u : Nat) : Launch :=
  { l with queues := l.queues.modify q fun x => { x with entries := x.entries.modify idx (badUnit u) } }

/-- SOFT_ERROR: a corrected error is counted; another leaves poison (R346). -/
def execSoftError (loc : PLoc) (fixable : Bool) (s : State) : Out :=
  if fixable then
    match correctedOn s loc with
    | some d => .next (modDie s d fun x => { x with corrected := x.corrected + 1 })
    | none => .next s
  else
    match loc with
    | .mem g => .next ((rangeFrom (g / 8 * 8) 8).foldl (fun s g => setPoison s (.mem g) true) s)
    | .herb d n g => .next (modDie s d fun x => { x with lines := x.lines.modify n fun l => { l with bad := addBad g l.bad } })
    | .l1 k n g => .next (modCore s k fun x => { x with l1 := x.l1.modify n fun l => { l with bad := addBad g l.bad } })
    | .visitor d n g => .next (modDie s d fun x => { x with visitors := x.visitors.modify n fun l => { l with bad := addBad g l.bad } })
    | .home g => .next (if isHost (8 * g) then s else setPoison s (.mem g) true)
    | .version p n g =>
      .next (modPart s p fun x => { x with versions := x.versions.modify n fun v =>
        { v with bytes := v.bytes.map fun b => if b.1 / 8 = g ∨ spilled s p n = true then (b.1, b.2.1, true) else b } })
    | .squeue lid q i u => .next (modLaunch s lid fun l => badEntry l q i u)
    | .loopBuf c n => .next (modCtx s c fun x => { x with bodyBad := addBad n x.bodyBad })
    | .queue cl q i u => .next (modCtx s (8 * cl) fun x => badBlock x q i u)
    | .acc k a r n => .next (setPoison (setPoison s (.acc k a r (n / 2 * 2)) true) (.acc k a r (n / 2 * 2 + 1)) true)
    | p => .next (setPoison s p true)

-- Resets and bring-up (R379, R380).

/-- The host's own memory. -/
def hostCells (m : List Host.Cell) : List Host.Cell := m.filter fun c => isHost c.1

/-- What every reset leaves: the reset state, with the host's memory, the burnt fuses and the firmware image, and the
model's own agenda and draws. -/
def afterReset (s : State) : State :=
  { State.reset with
    mem := hostCells s.mem, svnFuses := s.svnFuses, firmware := s.firmware, agenda := s.agenda, fresh := s.fresh
    poison := s.poison.filter fun p => match p with | .mem g => isHost (8 * g) | _ => false }

/-- COLD_RESET. -/
def execColdReset (s : State) : Out := .next (afterReset s)

/-- A tenant in RUN: valid, with a live launch (R359). -/
def inRun (s : State) (t : Nat) : Bool := ((smGet s.tenants t).map (·.valid)).getD false && s.launches.any fun e => e.2.tenant == t
/-- Tenants that a staged update awaits. DEDUCED (log entry 64). -/
def awaited (s : State) (u : Staged) : List Nat := ((s.tenants.map (·.1)).filter (inRun s)).filter fun t => !u.acks.contains t

/-- A package reset: the staged image stands, or becomes active once it is acknowledged. -/
def resetPackage (s : State) : State :=
  let r := afterReset s
  match s.staged with
  | some u => if (awaited s u).isEmpty then { r with firmware := u.fw } else { r with staged := some u }
  | none => r
def execPackageReset (s : State) : Out := .next (resetPackage s)

/-- RESET on command: its status is written before the reset. -/
def execResetCmd (c : CmdSrc) (s : State) : Out :=
  pf0Command c s fun s =>
    match cmdDone c .done s with
    | .next s => .next (resetPackage s)
    | o => o

/-- A context key of a partition. -/
def contextKey (s : State) (p : Nat) : State :=
  let (n, s) := draw s
  { s with keys := smPut s.keys (8176 + p) { kind := 3, tenant := 0, key0 := some (Config.randomKey n), key1 := none, cur := 0 } }

/-- BRING_UP_COMPLETE: the firmware is measured and its SVN burnt, context keys are programmed, and READY is set. Every frame is DIRTY
from the reset on, and the boot scrub runs from then on (R288, R380). An image below the fuses is never run (R360). -/
def execBringUpComplete (s : State) : Out :=
  if s.ready || decide (s.firmware.svn < s.svnFuses) then .next s
  else
    let s := { s with measured := s.measured ++ [s.firmware.digest], svnFuses := max s.svnFuses s.firmware.svn }
    .next { (rangeFrom 0 16).foldl contextKey s with ready := true }

-- Reports (R348).

def execReportAppend (part : Nat) (s : State) : Out := .next (appendReport s part)

-- The snapshot (R353, R354).

def execSnapshotArm (mask : BitVec 16) (src : SnapSource) (s : State) : Out := .next { s with snapArmed := some (mask, src) }

/-- A counter that the Docent watches has reached its value: a timeline counter of some context of the mask.
DEDUCED (log entry 63). -/
def counterMatches (s : State) (mask : BitVec 16) (k v : Nat) : Bool :=
  s.ctxs.any fun e => natBit mask.toNat (partOf s e.1) && (smGet e.2.tc k).isSome && tcDone (tcOf e.2 k) == v
/-- The armed trigger fires on a management command, or on its counter's match. -/
def fireReady (s : State) : Bool :=
  match s.snapArmed with
  | some (_, .command) => true
  | some (mask, .counterMatch k v) => counterMatches s mask k v
  | _ => false
def execSnapshotFire (s : State) : Out :=
  .next (if fireReady s then recordFiring s 0 0 else s)

/-- Every block's snapshot registers, latched for a firing. -/
def latched (s : State) (f : Firing) : Snapshot :=
  { tag := f.tag, place := f.place, cycle := f.cycle, ctxs := s.ctxs, clusters := s.clusters, cores := s.cores, dies := s.dies,
    launches := s.launches, images := s.images, tasks := s.tasks, barriers := s.barriers, gwSlots := s.gwSlots,
    outbox := s.outbox, catOut := s.catOut, portsDown := s.portsDown, annexDown := s.annexDown, scnt := s.scnt }

/-- SNAPSHOT_LATCH: sixteen cycles after the firing. -/
def execSnapshotLatch (s : State) : Out :=
  match s.snapFired with
  | some f => if 16 ≤ since s f.cycle then .next { s with snapFired := none, snapshot := some (latched s f) } else .next s
  | none => .next s

-- Replay (R355, R356).

/-- The launch and input of a delivery: kind, queue or class, source, payload. -/
def replayInput (s : State) (r : Replay) : Nat × Nat × Nat × Nat × List Byte :=
  match r with
  | .entry lid q bs => (lid, 1, q, 0xFFFF, bs)
  | .packet lid p => (lid, 2, p.cls, logicalPeer s p.part p.srcPeer, packetBytes p)
/-- Perform a delivery, where it can be taken now. -/
def deliverInput (r : Replay) (s : State) : Option State :=
  match r with
  | .entry lid q bs =>
    (match (smGet s.launches lid).bind fun l => (l.queues[q]?).map fun x => (l, x) with
     | some (l, x) => if external l q && !x.closed && decide (x.entries.length < x.depth) then some (pushEntry s lid q x (clean bs)) else none
     | none => none)
  | .packet _ p => if peerAdmitted s p.part p.srcPeer && packetTaken s p then some (performPacket p s) else none

/-- REPLAY_DELIVERY: a mismatch stops the replay with a report; an input that cannot be taken yet stays the next of its log. -/
def execReplayDelivery (r : Replay) (s : State) : Out :=
  let (lid, kind, q, src, bs) := replayInput s r
  match smGet s.replaying lid, smGet s.launches lid with
  | some (x :: _), some l =>
    if diverges x kind q src bs then .next (report { s with replaying := smDel s.replaying lid } 8 0 0 l.tenant l.part 0 0)
    else .next ((deliverInput r (replayNext s lid)).getD s)
  | some [], some l => .next (report { s with replaying := smDel s.replaying lid } 8 0 0 l.tenant l.part 0 0)
  | _, _ => .next s

-- The debug function (R357).

def execTenantCertificateEnrol (tenant : Nat) (cert : BitVec 384) (s : State) : Out := .next { s with certs := smPut s.certs tenant cert }

/-- DEBUG_SESSION: the session of a tenant opens with its enrolled certificate. -/
def execDebugSession (tenant : Nat) (cert : BitVec 384) (s : State) : Out :=
  if smGet s.certs tenant = some cert then
    .next (answer { s with sessions := if s.sessions.contains tenant then s.sessions else tenant :: s.sessions } (.status 0))
  else .next (answer s (.status CmdStatus.denied.code))

/-- A session reaches a context: its tenant is unlocked, and a Vitrine core exposes it only in its world's frame. -/
def debuggable (s : State) (id : Nat) : Bool :=
  let t := (getCtx s id).tenant.toNat
  (getCtx s id).run != .free && (getCtx s id).run != .dormant && s.sessions.contains t && coreAdmits s (coreOf id) (worldOf s t)

/-- The package with its contexts and cores as the latched snapshot has them. -/
def snapState (s : State) : State := { s with ctxs := (s.snapshot.map (·.ctxs)).getD [], cores := (s.snapshot.map (·.cores)).getD [] }

/-- A number with 64 bits of a wider one replaced. -/
def putWord (x lo : Nat) (v : Word) : Nat := putField x lo 64 v.toNat
/-- Lane of a row of a block. -/
def laneAt (row lane : BitVec 4) : Nat := 1024 * row.toNat + 64 * lane.toNat

/-- The state that a session names, as a word. -/
def debugRead (s : State) (id : Nat) (r : DbgReg) : Word :=
  let c := getCtx s id
  let k := getCore s (coreOf id)
  match r with
  | .pc => c.pc
  | .sreg i => sread c i
  | .xreg n => xread s id n
  | .vrow v row lane => natW (natField (smGetD c.v v.toNat 0).toNat (laneAt row lane) 64)
  | .krow n row high => natW (natField (kget c n).toNat (128 * row.toNat + 64 * bitNat high) 64)
  | .lreg seq i => lget c seq i
  | .queue q idx row lane => natW ((((qblocks c q)[idx]?).map fun b => natField b.data.toNat (laneAt row lane) 64).getD 0)
  | .ring q => (match smGet c.q q with | some (.ring _ p n f) => natW (p % 2 ^ 16 + n % 2 ^ 16 * 2 ^ 16 + f % 2 ^ 16 * 2 ^ 32) | _ => 0)
  | .counter n => natW (tcDone (tcOf c n))
  | .slot n row g => natW (natField (smGetD k.slots (128 * n + row) 0).toNat (64 * g) 64)
  | .acc a row col => (match smGetD k.acc (accKey a row col) (0, false) with | (x, o) => natW (x.toNat + 2 ^ 32 * bitNat o))
  | .snap r => debugRead (snapState s) id r
/-- The state that a session names replaced; what is written is good data. -/
def debugWrite (id : Nat) (r : DbgReg) (v : Word) (s : State) : State :=
  let ctx := fun (f : Ctx → Ctx) => modCtx s id f
  let core := fun (f : Core → Core) => modCore s (coreOf id) f
  match r with
  | .pc => ctx fun c => { enterAt (aligned4 v) c with stopHeld := none, trapped := false }
  | .sreg i => setPoison (ctx fun c => swrite c i v) (.sreg id i.toNat) false
  | .xreg n => setPoison (ctx (xwriteCtx n v)) (.xreg id n) false
  | .vrow i row lane =>
    setPoison (ctx fun c => { c with v := smSet c.v i.toNat (BitVec.ofNat 16384 (putWord (smGetD c.v i.toNat 0).toNat (laneAt row lane) v)) 0 })
      (.vreg (clusterOf id) i.toNat row.toNat lane.toNat) false
  | .krow n row high =>
    setPoison (ctx fun c => kset c n (BitVec.ofNat 2048 (putWord (kget c n).toNat (128 * row.toNat + 64 * bitNat high) v)))
      (.kmask (clusterOf id) n row.toNat (bitNat high)) false
  | .lreg seq i => loopClean (ctx fun c => lput c seq i v) id seq i
  | .queue q idx row lane =>
    ctx fun c =>
      match smGet c.q q with
      | some (.data n bs) => setBlocks c q n (bs.modify idx fun b =>
          { b with data := BitVec.ofNat 16384 (putWord b.data.toNat (laneAt row lane) v), bad := b.bad.filter (· != 16 * row.toNat + lane.toNat) })
      | _ => c
  | .ring q => ctx fun c => match smGet c.q q with | some (.ring l _ _ _) => { c with q := smPut c.q q (.ring l (fld v 0 16) (fld v 16 16) (fld v 32 16)) } | _ => c
  | .counter n => ctx fun c => { c with tc := smPut c.tc n { issued := v.toNat, pending := [] } }
  | .slot n row g =>
    setPoison (core fun k => { k with slots := smPut k.slots (128 * n + row) (BitVec.ofNat 2048 (putWord (smGetD k.slots (128 * n + row) 0).toNat (64 * g) v)) })
      (.slot (coreOf id) n row g) false
  | .acc a row col =>
    setPoison (core fun k => { k with acc := smPut k.acc (accKey a row col) (BitVec.ofNat 32 v.toNat, bitAt v 32) }) (.acc (coreOf id) a row col) false
  | .snap _ => s
/-- A context has the state that a session names (R10, R144, R167, R172). -/
def debugHas (s : State) (id : Nat) (r : DbgReg) : Bool :=
  match r with
  | .pc => true
  | .sreg _ => true
  | .xreg n => xregAllocated n && (!fullReg n || !isLight id)
  | .vrow _ _ _ => !isLight id
  | .krow k _ _ => !isLight id && decide (k < 8)
  | .lreg seq i => !isLight id && decide (seq < 5 ∧ i < 16)
  | .queue q idx _ _ => decide (idx < (qblocks (getCtx s id) q).length)
  | .ring q => (match smGet (getCtx s id).q q with | some (.ring _ _ _ _) => true | _ => false)
  | .counter k => decide (k < 8)
  | .slot n row g => smGet (getCore s (coreOf id)).claims n == some id && decide (row < 128 ∧ g < 32)
  | .acc a row col => smGet (getCore s (coreOf id)).owner (4 * a + row / 32) == some id && decide (row < 128 ∧ col < 128)
  | .snap r => debugHas (snapState s) id r

/-- A session reads the snapshot record of a context of its tenant; nothing writes there (R357). -/
def readSnapRecord (ctx : Nat) (reg : DbgReg) (wr : Option Word) (s : State) : Out :=
  if s.snapshot.isSome && wr.isNone && debuggable (snapState s) ctx && debugHas s ctx reg then
    .next (answer s (.value (getCtx (snapState s) ctx).tenant.toNat (debugRead s ctx reg)))
  else .next (answer s (.status CmdStatus.denied.code))

/-- The register lies in the latched snapshot. -/
def ofSnap (r : DbgReg) : Bool := match r with | .snap _ => true | _ => false

/-- DEBUG_STATE_ACCESS: of a STOPPED context, or of a snapshot record. -/
def execDebugStateAccess (ctx : Nat) (reg : DbgReg) (wr : Option Word) (s : State) : Out :=
  if ofSnap reg then readSnapRecord ctx reg wr s
  else if debuggable s ctx && (getCtx s ctx).run == .stopped && debugHas s ctx reg then
    match wr with
    | none => .next (answer s (.value (getCtx s ctx).tenant.toNat (debugRead s ctx reg)))
    | some v => .next (answer (debugWrite ctx reg v s) (.status 0))
  else .next (answer s (.status CmdStatus.denied.code))

/-- DEBUG_ARM. -/
def execDebugArm (ctx : Nat) (c : DbgCond) (s : State) : Out :=
  if debuggable s ctx then .next (answer (modCtx s ctx fun x => { x with dbg := x.dbg ++ [c] }) (.status 0))
  else .next (answer s (.status CmdStatus.denied.code))

-- Firmware (R358 to R360).

/-- GET_MEASUREMENTS: the record, signed by the attestation key. -/
def execGetMeasurements (requester : Nat) (s : State) : Out :=
  let (n, s) := draw s
  .next (answer s (.measurements requester s.measured (Config.signature n (s.measured.flatMap fun d => beBytes 48 d.toNat))))

/-- FIRMWARE_UPDATE_STAGE: refused with FORMAT unless its signature and SVN are good; the fuses are a thermometer of 64 bits. -/
def execFirmwareUpdateStage (f : Firmware) (s : State) : Out :=
  if Config.balquaSigned f.digest f.signature && decide (s.svnFuses ≤ f.svn ∧ f.svn ≤ 64) then
    .next (answer { s with staged := some { fw := f, acks := [] } } (.status 0))
  else .next (answer s (.status CmdStatus.format.code))

/-- UPDATE_ACK over the tenant's session: the tenant's log holds an UPDATE record. -/
def execUpdateAck (tenant : Nat) (s : State) : Out :=
  match s.staged with
  | some u =>
    if u.acks.contains tenant || !s.sessions.contains tenant || !(((smGet s.tenants tenant).map (·.valid)).getD false) then .next s
    else .next (appendLog { s with staged := some { u with acks := tenant :: u.acks } } tenant 3 0 0 0 0)
  | none => .next s

def execUpdateWithdraw (s : State) : Out := .next { s with staged := none }

end Sys2Proof.Machine
end

