-- ==== Sys2Proof/Machine/Waits.lean ====
section
/-! DEFINITION. The ends of waits: what a waiting context waits for, and the events WAIT_SATISFIED, WAIT_TIMEOUT and
HYPCAP_TIMEOUT (03 R55, R244, R263). -/

namespace Sys2Proof.Machine

/-- What a context waits for has come, or its word can go on. A TLWAIT that waits on an engine's counter goes on waiting where the
engine ends below its number. DESIGN CHOICE (log entry 107). -/
def waitMet (s : State) (id : Nat) : Bool :=
  let c := getCtx s id
  match c.wait with
  | none => true
  | some (.monitor _ _) => c.watchFired
  | some (.barrier _ _ _) => false
  | some (.counter k n) => decide (n ≤ tcDone (counterOf s id k)) || (counterDue s id n k).isSome
  | some .engines => allDone s id || (faultDue s id anyNumber (rangeFrom 0 8)).isSome
  | some .exit => exitReady s id || (faultDue s id anyNumber [4, 5, 6]).isSome
  | some .saves => saveReady s id
  | some (.ring q) => !ringUsed c q
  | some .sync => false
  | some (.queueRoom q) =>
    (match launchQueue s id q with
     | some x => x.closed || decide (x.entries.length < x.depth)
     | none => true)
  | some (.queueEntry q) =>
    (match launchQueue s id q with
     | some x => x.closed || !x.entries.isEmpty
     | none => true)
  | some (.dataQueue qs) => queuesOpen c qs
  | some (.flush q) => (qblocks c q).isEmpty || (flushHalt c q).isSome
  | some (.matrix _ reads writes) =>
    (stageHalted s id reads writes).isSome || (decide (c.mx.length + stagesOf c < 8) && ringsReady c reads writes)
  | some (.versionSpace line _) =>
    decide (versionUse s (partOf s id) (homeDie line) + 64 ≤ versionSpace s (partOf s id) (homeDie line))
  | some .gatewaySlot => slotFree s c.tenant.toNat
  | some .resolve => (getPart s (partOf s id)).resolves.isEmpty

/-- WAIT_SATISFIED: the context becomes RUNNABLE and executes its word again (R55). -/
def execWaitSatisfied (ctx : Nat) (s : State) : Out :=
  if (getCtx s ctx).run = .waiting ∧ waitMet s ctx = true then .next (wake s ctx) else .next s

/-- A context stands in a wait: it is WAITING at its bundle's first word, or stalls at a later one, inside the bundle (R25, R55).
DEDUCED (log entry 8). -/
def inWait (c : Ctx) : Bool := c.run == .waiting || (c.run == .runnable && c.mid)

/-- WAIT_TIMEOUT: an MWAIT whose time has run out returns 2 (R244). -/
def execWaitTimeout (ctx : Nat) (s : State) : Out :=
  let c := getCtx s ctx
  match inWait c, c.wait, c.due with
  | true, some (.monitor e d), some t => .next (if reached s t then mwaitDone ctx e (BitVec.ofNat 6 d) 2 s else s)
  | _, _, _ => .next s

/-- HYPCAP_TIMEOUT: a tagged store whose time for version space has run out traps (R263). -/
def execHypcapTimeout (ctx : Nat) (s : State) : Out :=
  let c := getCtx s ctx
  match inWait c, c.wait, c.due with
  | true, some (.versionSpace _ va), some t =>
    .next (if !reached s t then s else if waitMet s ctx then wake s ctx else takeTrap ctx { cause := 11, w := true, va := va } s)
  | _, _, _ => .next s

end Sys2Proof.Machine
end

