-- ==== Sys2Proof/Machine/Auto.lean ====
section
/-! DEFINITION. The events that the machine brings about, each given to the meaning of the opcode table's event of the
same name. -/

namespace Sys2Proof.Machine

/-- Run an event of the machine's own. -/
def runEvent (e : Event) (s : State) : Out :=
  match e with
  | .syncedBundleIssue core lid serial => execSyncedBundleIssue core lid serial s
  | .loopPassEnd ctx => execLoopPassEnd ctx s
  | .aaeBlock cl eng => execAaeBlock cl eng s
  | .kStep ctx num => execKStep ctx num s
  | .tstageSlot ctx num => execTstageSlot ctx num s
  | .copyLine ctx num => execCopyLine ctx num s
  | .mapFill ctx region granule => execMapFill ctx region granule s
  | .waitSatisfied ctx => execWaitSatisfied ctx s
  | .waitTimeout ctx => execWaitTimeout ctx s
  | .hypcapTimeout ctx => execHypcapTimeout ctx s
  | .orphan ctx => execOrphan ctx s
  | .ckpt ctx => execCkpt ctx s
  | .deadlineExpiry ctx => execDeadlineExpiry ctx s
  | .imageWritten ctx => execImageWritten ctx s
  | .schedulerPass die => execSchedulerPass die s
  | .handlerWake cl => execHandlerWake cl s
  | .gatewaySlotGrant ctx num => execGatewaySlotGrant ctx num s
  | .portRequestPass core tenant => execPortRequestPass core tenant s
  | .tokenRefill => execTokenRefill s
  | .signatureRotation => execSignatureRotation s
  | .taskSelect u => execTaskSelect u s
  | .childComplete task child => execChildComplete task child s
  | .childFault task child => execChildFault task child s
  | .herbariumFill die k => execHerbariumFill die k s
  | .resolveApply part => execResolveApply part s
  | .sweep part node => execSweep part node s
  | .vitrineFrameBegin core => execVitrineFrameBegin core s
  | .vitrineGrace core => execVitrineGrace core s
  | .vitrineEdge core => execVitrineEdge core s
  | .scrubStart frame => execScrubStart frame s
  | .scrubComplete frame => execScrubComplete frame s
  | .frameReleaseComplete frame => execFrameReleaseComplete frame s
  | .reportAppend part => execReportAppend part s
  | .usageLogSignPeriodic tenant => execUsageLogSignPeriodic tenant s
  | .snapshotFire => execSnapshotFire s
  | .snapshotLatch => execSnapshotLatch s
  | .tresume task => execTresume task s
  | .packageReset => execPackageReset s

end Sys2Proof.Machine
end

