-- ==== Sys2Proof/Machine/Scalar.lean ====
section
/-! DEFINITION. Scalar integer words, selects, compares, control transfers and scalar floating point (06 R135 to R142,
R145 to R149). -/

namespace Sys2Proof.Machine

-- The ALU group (R135, R136).

def execAdd (e : Bool) (d a b : SReg) (s : State) : Out := scalarOp e d [a, b] (fun s => rs s a + rs s b) s
def execSub (e : Bool) (d a b : SReg) (s : State) : Out := scalarOp e d [a, b] (fun s => rs s a - rs s b) s
def execAnd (e : Bool) (d a b : SReg) (s : State) : Out := scalarOp e d [a, b] (fun s => rs s a &&& rs s b) s
def execOr (e : Bool) (d a b : SReg) (s : State) : Out := scalarOp e d [a, b] (fun s => rs s a ||| rs s b) s
def execXor (e : Bool) (d a b : SReg) (s : State) : Out := scalarOp e d [a, b] (fun s => rs s a ^^^ rs s b) s
def execAndn (e : Bool) (d a b : SReg) (s : State) : Out := scalarOp e d [a, b] (fun s => rs s a &&& ~~~rs s b) s

/-- A shift count, bits [5:0] of a register (R135). -/
def count6 (w : Word) : Nat := w.toNat % 64

def execShl (e : Bool) (d a b : SReg) (s : State) : Out := scalarOp e d [a, b] (fun s => rs s a <<< count6 (rs s b)) s
def execShr (e : Bool) (d a b : SReg) (s : State) : Out := scalarOp e d [a, b] (fun s => rs s a >>> count6 (rs s b)) s
def execSra (e : Bool) (d a b : SReg) (s : State) : Out :=
  scalarOp e d [a, b] (fun s => (rs s a).sshiftRight (count6 (rs s b))) s
def execRor (e : Bool) (d a b : SReg) (s : State) : Out :=
  scalarOp e d [a, b] (fun s => (rs s a).rotateRight (count6 (rs s b))) s

def execMul (e : Bool) (d a b : SReg) (s : State) : Out := scalarOp e d [a, b] (fun s => rs s a * rs s b) s
/-- Bits [127:64] of the signed product. -/
def execMulhs (e : Bool) (d a b : SReg) (s : State) : Out :=
  scalarOp e d [a, b] (fun s => BitVec.ofInt 64 ((rs s a).toInt * (rs s b).toInt / 2 ^ 64)) s
/-- Bits [127:64] of the unsigned product. -/
def execMulhu (e : Bool) (d a b : SReg) (s : State) : Out :=
  scalarOp e d [a, b] (fun s => BitVec.ofNat 64 ((rs s a).toNat * (rs s b).toNat / 2 ^ 64)) s

/-- The signed quotient with R136's cases. -/
def quotS (a b : Word) : Word := if b = 0 then BitVec.allOnes 64 else BitVec.ofInt 64 (a.toInt.tdiv b.toInt)
/-- The unsigned quotient with R136's case. -/
def quotU (a b : Word) : Word := if b = 0 then BitVec.allOnes 64 else BitVec.ofNat 64 (a.toNat / b.toNat)
/-- The signed remainder with R136's cases. -/
def remS (a b : Word) : Word := if b = 0 then a else BitVec.ofInt 64 (a.toInt.tmod b.toInt)
/-- The unsigned remainder with R136's case. -/
def remU (a b : Word) : Word := if b = 0 then a else BitVec.ofNat 64 (a.toNat % b.toNat)

def execDivs (e : Bool) (d a b : SReg) (s : State) : Out := scalarOp e d [a, b] (fun s => quotS (rs s a) (rs s b)) s
def execDivu (e : Bool) (d a b : SReg) (s : State) : Out := scalarOp e d [a, b] (fun s => quotU (rs s a) (rs s b)) s
def execRems (e : Bool) (d a b : SReg) (s : State) : Out := scalarOp e d [a, b] (fun s => remS (rs s a) (rs s b)) s
def execRemu (e : Bool) (d a b : SReg) (s : State) : Out := scalarOp e d [a, b] (fun s => remU (rs s a) (rs s b)) s

def execMin (e : Bool) (d a b : SReg) (s : State) : Out :=
  scalarOp e d [a, b] (fun s => if relS .lt (rs s b) (rs s a) then rs s b else rs s a) s
def execMax (e : Bool) (d a b : SReg) (s : State) : Out :=
  scalarOp e d [a, b] (fun s => if relS .lt (rs s a) (rs s b) then rs s b else rs s a) s
def execMinu (e : Bool) (d a b : SReg) (s : State) : Out :=
  scalarOp e d [a, b] (fun s => if relU .lt (rs s b) (rs s a) then rs s b else rs s a) s
def execMaxu (e : Bool) (d a b : SReg) (s : State) : Out :=
  scalarOp e d [a, b] (fun s => if relU .lt (rs s a) (rs s b) then rs s b else rs s a) s

/-- Leading zeros of the low `n` bits. -/
def clzGo (w : Nat) : Nat → Nat
  | 0 => 0
  | n + 1 => if natBit w n then 0 else 1 + clzGo w n
/-- Trailing zeros from bit 64 − n upward. -/
def ctzGo (w : Nat) : Nat → Nat
  | 0 => 0
  | n + 1 => if natBit w (63 - n) then 0 else 1 + ctzGo w n
/-- One bits among the low `n`. -/
def popGo (w : Nat) : Nat → Nat
  | 0 => 0
  | n + 1 => bitNat (natBit w n) + popGo w n

def execClz (e : Bool) (d a : SReg) (s : State) : Out := scalarOp e d [a] (fun s => natW (clzGo (rs s a).toNat 64)) s
def execCtz (e : Bool) (d a : SReg) (s : State) : Out := scalarOp e d [a] (fun s => natW (ctzGo (rs s a).toNat 64)) s
def execPopc (e : Bool) (d a : SReg) (s : State) : Out := scalarOp e d [a] (fun s => natW (popGo (rs s a).toNat 64)) s

-- Immediate forms (R137, R138).

def execAddi (e : Bool) (d a : SReg) (i : BitVec 11) (s : State) : Out := scalarOp e d [a] (fun s => rs s a + sext11 i) s
def execAndi (e : Bool) (d a : SReg) (i : BitVec 11) (s : State) : Out := scalarOp e d [a] (fun s => rs s a &&& sext11 i) s
def execOri (e : Bool) (d a : SReg) (i : BitVec 11) (s : State) : Out := scalarOp e d [a] (fun s => rs s a ||| zext11 i) s
def execXori (e : Bool) (d a : SReg) (i : BitVec 11) (s : State) : Out := scalarOp e d [a] (fun s => rs s a ^^^ zext11 i) s
def execShli (e : Bool) (d a : SReg) (n : BitVec 6) (s : State) : Out := scalarOp e d [a] (fun s => rs s a <<< n.toNat) s
def execShri (e : Bool) (d a : SReg) (n : BitVec 6) (s : State) : Out := scalarOp e d [a] (fun s => rs s a >>> n.toNat) s
def execSrai (e : Bool) (d a : SReg) (n : BitVec 6) (s : State) : Out :=
  scalarOp e d [a] (fun s => (rs s a).sshiftRight n.toNat) s
def execMovi (e : Bool) (d : SReg) (i : BitVec 17) (s : State) : Out := scalarOp e d [] (fun _ => i.signExtend 64) s
def execMovhi (e : Bool) (d : SReg) (i : BitVec 16) (s : State) : Out :=
  scalarOp e d [d] (fun s => (rs s d <<< 16) ||| i.setWidth 64) s

-- Bit fields (R139): len − 1 in `l`, pos in `p`.

def execBfxu (e : Bool) (d a : SReg) (l : BitVec 5) (p : BitVec 6) (s : State) : Out :=
  scalarOp e d [a] (fun s => natW (fld (rs s a) p.toNat (l.toNat + 1))) s
def execBfxs (e : Bool) (d a : SReg) (l : BitVec 5) (p : BitVec 6) (s : State) : Out :=
  scalarOp e d [a] (fun s => BitVec.ofInt 64 (signedOf (l.toNat + 1) (fld (rs s a) p.toNat (l.toNat + 1)))) s
def execBfins (e : Bool) (d a : SReg) (l : BitVec 5) (p : BitVec 6) (s : State) : Out :=
  scalarOp e d [a, d] (fun s => setFld (rs s d) p.toNat (l.toNat + 1) (rs s a).toNat) s

/-- SEL: the condition is bit 0 of s(c), s0 to s31 (R141). -/
def execSel (e : Bool) (d a b : SReg) (c : BitVec 5) (s : State) : Out :=
  scalarOp e d [a, b, sdReg c] (fun s => if bitAt (rs s (sdReg c)) 0 then rs s a else rs s b) s

-- Integer compares (R140).

def execCmpeq (e : Bool) (sd : BitVec 5) (t : BitVec 6) (a b : SReg) (s : State) : Out :=
  compareOp e sd t a b (fun s => relS .eq (rs s a) (rs s b)) s
def execCmpne (e : Bool) (sd : BitVec 5) (t : BitVec 6) (a b : SReg) (s : State) : Out :=
  compareOp e sd t a b (fun s => relS .ne (rs s a) (rs s b)) s
def execCmplt (e : Bool) (sd : BitVec 5) (t : BitVec 6) (a b : SReg) (s : State) : Out :=
  compareOp e sd t a b (fun s => relS .lt (rs s a) (rs s b)) s
def execCmple (e : Bool) (sd : BitVec 5) (t : BitVec 6) (a b : SReg) (s : State) : Out :=
  compareOp e sd t a b (fun s => relS .le (rs s a) (rs s b)) s
def execCmpltu (e : Bool) (sd : BitVec 5) (t : BitVec 6) (a b : SReg) (s : State) : Out :=
  compareOp e sd t a b (fun s => relU .lt (rs s a) (rs s b)) s
def execCmpleu (e : Bool) (sd : BitVec 5) (t : BitVec 6) (a b : SReg) (s : State) : Out :=
  compareOp e sd t a b (fun s => relU .le (rs s a) (rs s b)) s

-- Control transfers (R24, R87, R142).

/-- A control-transfer word traps ILLOP in an active loop body (R87). -/
def transfer (i : Instr) (s : State) (k : State → Out) : Out := if inBody (me s) (me s).pc then illopOf i s else k s

/-- The control transfer takes effect after the bundle (R24). -/
def jumpTo (t : Word) (s : State) : State := onMe s fun c => { c with jump := some t }

def execBbs (e : Bool) (a : SReg) (t : BitVec 6) (d : BitVec 11) (s : State) : Out :=
  transfer (.bbs e a t d) s fun s => withSrc [a] s fun s =>
    .next (retire e 4 (if bitAt (rs s a) t.toNat then jumpTo (target (me s).pc (d.signExtend 64)) s else s))
def execBbc (e : Bool) (a : SReg) (t : BitVec 6) (d : BitVec 11) (s : State) : Out :=
  transfer (.bbc e a t d) s fun s => withSrc [a] s fun s =>
    .next (retire e 4 (if bitAt (rs s a) t.toNat then s else jumpTo (target (me s).pc (d.signExtend 64)) s))
def execJmp (e : Bool) (d : BitVec 23) (s : State) : Out :=
  transfer (.jmp e d) s fun s => .next (retire e 4 (jumpTo (target (me s).pc (d.signExtend 64)) s))

/-- The address after the word that ends a bundle, from a word of it on; none where a word of it cannot be fetched. -/
def bundleEnd (s : State) (id : Nat) : Nat → Word → Option Word
  | 0, va => some va
  | f + 1, va =>
    match unitAt s id va with
    | .unit w => if wordE w then some (va + natW (4 * unitCount w)) else bundleEnd s id f (va + natW (4 * unitCount w))
    | _ => none

/-- The return address of a word and the state after it is found: where a later word of the bundle cannot be fetched, its
own fetch traps when it is reached (R22), and the address is a free value. DESIGN CHOICE (log entry 27). -/
def returnAddr (e : Bool) (s : State) : Word × State :=
  if e then ((me s).pc + 4, s)
  else
    match bundleEnd s s.cur 3 ((me s).pc + 4) with
    | some a => (a, s)
    | none => (Config.freeWord (draw s).1, (draw s).2)

def execCall (e : Bool) (d : BitVec 23) (s : State) : Out :=
  transfer (.call e d) s fun s =>
    let (a, s) := returnAddr e s
    result e 63 a (jumpTo (target (me s).pc (d.signExtend 64)) s)
/-- JR reads s(a) before it writes s(d) (R142). -/
def execJr (e : Bool) (d a : SReg) (s : State) : Out :=
  transfer (.jr e d a) s fun s => withSrc [a] s fun s =>
    let (r, s) := returnAddr e s
    result e d r (jumpTo (aligned4 (rs s a)) s)

-- Hint space (R45, R145).

def execNop (e : Bool) (_ : BitVec 23) (s : State) : Out := .next (retire e 4 s)
def execHintp (e : Bool) (_ : BitVec 23) (s : State) : Out := .next (retire e 4 s)
def execHintb (e : Bool) (_ : BitVec 23) (s : State) : Out := .next (retire e 4 s)
def execHintx (e : Bool) (_ : BitVec 23) (s : State) : Out := .next (retire e 4 s)

-- Scalar floating point (R146 to R149).

def execFadd (e : Bool) (d a b : SReg) (s : State) : Out :=
  fpOp e d [a, b] (fun s m => addV (isRdn m) (f32 (rs s a)) (f32 (rs s b))) s
def execFsub (e : Bool) (d a b : SReg) (s : State) : Out :=
  fpOp e d [a, b] (fun s m => addV (isRdn m) (f32 (rs s a)) (f32 (rs s b)).negate) s
def execFmul (e : Bool) (d a b : SReg) (s : State) : Out := fpOp e d [a, b] (fun s _ => mulV (f32 (rs s a)) (f32 (rs s b))) s
def execFdiv (e : Bool) (d a b : SReg) (s : State) : Out := fpOp e d [a, b] (fun s _ => divV (f32 (rs s a)) (f32 (rs s b))) s
def execFsqrt (e : Bool) (d a : SReg) (s : State) : Out := fpOp e d [a] (fun s _ => sqrtV (f32 (rs s a))) s
def execFmac (e : Bool) (d a b : SReg) (s : State) : Out :=
  fpOp e d [a, b, d] (fun s m => addV (isRdn m) (f32 (rs s d)) (mulV (f32 (rs s a)) (f32 (rs s b)))) s
def execFmin (e : Bool) (d a b : SReg) (s : State) : Out := fpExact e d [a, b] (fun s => minV (f32 (rs s a)) (f32 (rs s b))) s
def execFmax (e : Bool) (d a b : SReg) (s : State) : Out := fpExact e d [a, b] (fun s => maxV (f32 (rs s a)) (f32 (rs s b))) s
def execFabs (e : Bool) (d a : SReg) (s : State) : Out := fpExact e d [a] (fun s => (f32 (rs s a)).absV) s
def execFneg (e : Bool) (d a : SReg) (s : State) : Out := fpExact e d [a] (fun s => (f32 (rs s a)).negate) s

def execFcmpeq (e : Bool) (sd : BitVec 5) (t : BitVec 6) (a b : SReg) (s : State) : Out :=
  compareOp e sd t a b (fun s => relF .eq (f32 (rs s a)) (f32 (rs s b))) s
def execFcmplt (e : Bool) (sd : BitVec 5) (t : BitVec 6) (a b : SReg) (s : State) : Out :=
  compareOp e sd t a b (fun s => relF .lt (f32 (rs s a)) (f32 (rs s b))) s
def execFcmple (e : Bool) (sd : BitVec 5) (t : BitVec 6) (a b : SReg) (s : State) : Out :=
  compareOp e sd t a b (fun s => relF .le (f32 (rs s a)) (f32 (rs s b))) s
def execFcmpun (e : Bool) (sd : BitVec 5) (t : BitVec 6) (a b : SReg) (s : State) : Out :=
  compareOp e sd t a b (fun s => unordered (f32 (rs s a)) (f32 (rs s b))) s

/-- The value a conversion writes to a register: integers sign-extended, other formats zero-extended (R149). -/
def placed (f : Fmt) (bits : Nat) : Word :=
  match f with
  | .int w => BitVec.ofInt 64 (signedOf w bits)
  | _ => BitVec.ofNat 64 bits

/-- FCVT (R149): `x` is the destination code, `c` the source code, `t` saturation. -/
def execFcvt (e : Bool) (d a : SReg) (t : Bool) (c x : BitVec 4) (s : State) : Out :=
  withSrc [a] s fun s => withMode s fun s =>
    let (m, cx) := scalarMode (me s)
    match fmtOf x.toNat, fmtOf c.toNat with
    | some dst, some src =>
      result e d (placed dst (convert dst src t m ((rs s a).toNat % 2 ^ fmtBits c.toNat))) (onMe s fun _ => cx)
    | _, _ => illopOf (.fcvt e d a t c x) s

end Sys2Proof.Machine
end

