-- ==== Sys2Proof/Machine/Dispatch.lean ====
section
/-! DEFINITION. exec gives every instruction and event its meaning: one arm per constructor of Instr, each one direct
call of that constructor's own meaning. -/

namespace Sys2Proof.Machine

def exec (i : Instr) (s : State) : Host.Outcome State Fault Refusal :=
  match i with
  | .add e d a b => Sys2Proof.Machine.execAdd e d a b s
  | .sub e d a b => Sys2Proof.Machine.execSub e d a b s
  | .and e d a b => Sys2Proof.Machine.execAnd e d a b s
  | .or e d a b => Sys2Proof.Machine.execOr e d a b s
  | .xor e d a b => Sys2Proof.Machine.execXor e d a b s
  | .andn e d a b => Sys2Proof.Machine.execAndn e d a b s
  | .shl e d a b => Sys2Proof.Machine.execShl e d a b s
  | .shr e d a b => Sys2Proof.Machine.execShr e d a b s
  | .sra e d a b => Sys2Proof.Machine.execSra e d a b s
  | .ror e d a b => Sys2Proof.Machine.execRor e d a b s
  | .mul e d a b => Sys2Proof.Machine.execMul e d a b s
  | .mulhs e d a b => Sys2Proof.Machine.execMulhs e d a b s
  | .mulhu e d a b => Sys2Proof.Machine.execMulhu e d a b s
  | .divs e d a b => Sys2Proof.Machine.execDivs e d a b s
  | .divu e d a b => Sys2Proof.Machine.execDivu e d a b s
  | .rems e d a b => Sys2Proof.Machine.execRems e d a b s
  | .remu e d a b => Sys2Proof.Machine.execRemu e d a b s
  | .min e d a b => Sys2Proof.Machine.execMin e d a b s
  | .max e d a b => Sys2Proof.Machine.execMax e d a b s
  | .minu e d a b => Sys2Proof.Machine.execMinu e d a b s
  | .maxu e d a b => Sys2Proof.Machine.execMaxu e d a b s
  | .clz e d a => Sys2Proof.Machine.execClz e d a s
  | .ctz e d a => Sys2Proof.Machine.execCtz e d a s
  | .popc e d a => Sys2Proof.Machine.execPopc e d a s
  | .addi e d a ix => Sys2Proof.Machine.execAddi e d a ix s
  | .andi e d a ix => Sys2Proof.Machine.execAndi e d a ix s
  | .ori e d a ix => Sys2Proof.Machine.execOri e d a ix s
  | .xori e d a ix => Sys2Proof.Machine.execXori e d a ix s
  | .shli e d a n => Sys2Proof.Machine.execShli e d a n s
  | .shri e d a n => Sys2Proof.Machine.execShri e d a n s
  | .srai e d a n => Sys2Proof.Machine.execSrai e d a n s
  | .movi e d ix => Sys2Proof.Machine.execMovi e d ix s
  | .movhi e d ix => Sys2Proof.Machine.execMovhi e d ix s
  | .bfxu e d a l p => Sys2Proof.Machine.execBfxu e d a l p s
  | .bfxs e d a l p => Sys2Proof.Machine.execBfxs e d a l p s
  | .bfins e d a l p => Sys2Proof.Machine.execBfins e d a l p s
  | .sel e d a b c => Sys2Proof.Machine.execSel e d a b c s
  | .xrd e d x => Sys2Proof.Machine.execXrd e d x s
  | .xwr e d x => Sys2Proof.Machine.execXwr e d x s
  | .xloopStart e d => Sys2Proof.Machine.execXloopStart e d s
  | .xloopAbandon e d => Sys2Proof.Machine.execXloopAbandon e d s
  | .xtenantWrite e d => Sys2Proof.Machine.execXtenantWrite e d s
  | .cmpeq e cx t a b => Sys2Proof.Machine.execCmpeq e cx t a b s
  | .cmpne e cx t a b => Sys2Proof.Machine.execCmpne e cx t a b s
  | .cmplt e cx t a b => Sys2Proof.Machine.execCmplt e cx t a b s
  | .cmple e cx t a b => Sys2Proof.Machine.execCmple e cx t a b s
  | .cmpltu e cx t a b => Sys2Proof.Machine.execCmpltu e cx t a b s
  | .cmpleu e cx t a b => Sys2Proof.Machine.execCmpleu e cx t a b s
  | .bbs e a t d => Sys2Proof.Machine.execBbs e a t d s
  | .bbc e a t d => Sys2Proof.Machine.execBbc e a t d s
  | .jmp e d => Sys2Proof.Machine.execJmp e d s
  | .call e d => Sys2Proof.Machine.execCall e d s
  | .jr e d a => Sys2Proof.Machine.execJr e d a s
  | .syncb e => Sys2Proof.Machine.execSyncb e s
  | .yield e m => Sys2Proof.Machine.execYield e m s
  | .exit e c => Sys2Proof.Machine.execExit e c s
  | .fadd e d a b => Sys2Proof.Machine.execFadd e d a b s
  | .fsub e d a b => Sys2Proof.Machine.execFsub e d a b s
  | .fmul e d a b => Sys2Proof.Machine.execFmul e d a b s
  | .fdiv e d a b => Sys2Proof.Machine.execFdiv e d a b s
  | .fsqrt e d a => Sys2Proof.Machine.execFsqrt e d a s
  | .fmin e d a b => Sys2Proof.Machine.execFmin e d a b s
  | .fmax e d a b => Sys2Proof.Machine.execFmax e d a b s
  | .fabs e d a => Sys2Proof.Machine.execFabs e d a s
  | .fneg e d a => Sys2Proof.Machine.execFneg e d a s
  | .fmac e d a b => Sys2Proof.Machine.execFmac e d a b s
  | .fcmpeq e cx t a b => Sys2Proof.Machine.execFcmpeq e cx t a b s
  | .fcmplt e cx t a b => Sys2Proof.Machine.execFcmplt e cx t a b s
  | .fcmple e cx t a b => Sys2Proof.Machine.execFcmple e cx t a b s
  | .fcmpun e cx t a b => Sys2Proof.Machine.execFcmpun e cx t a b s
  | .fcvt e d a t cx x => Sys2Proof.Machine.execFcvt e d a t cx x s
  | .ld8 e d a ix => Sys2Proof.Machine.execLd8 e d a ix s
  | .ld16 e d a ix => Sys2Proof.Machine.execLd16 e d a ix s
  | .ld32 e d a ix => Sys2Proof.Machine.execLd32 e d a ix s
  | .ld64 e d a ix => Sys2Proof.Machine.execLd64 e d a ix s
  | .ld8s e d a ix => Sys2Proof.Machine.execLd8s e d a ix s
  | .ld16s e d a ix => Sys2Proof.Machine.execLd16s e d a ix s
  | .ld32s e d a ix => Sys2Proof.Machine.execLd32s e d a ix s
  | .ldx e d a b p cx z => Sys2Proof.Machine.execLdx e d a b p cx z s
  | .st8 e d a ix => Sys2Proof.Machine.execSt8 e d a ix s
  | .st16 e d a ix => Sys2Proof.Machine.execSt16 e d a ix s
  | .st32 e d a ix => Sys2Proof.Machine.execSt32 e d a ix s
  | .st64 e d a ix => Sys2Proof.Machine.execSt64 e d a ix s
  | .stx e d a b p z => Sys2Proof.Machine.execStx e d a b p z s
  | .lda e d a z c => Sys2Proof.Machine.execLda e d a z c s
  | .stl e d a z c => Sys2Proof.Machine.execStl e d a z c s
  | .stH e d a z => Sys2Proof.Machine.execStH e d a z s
  | .amo e d a b z o => Sys2Proof.Machine.execAmo e d a b z o s
  | .cas e d a b z => Sys2Proof.Machine.execCas e d a b z s
  | .amoBins e d a b n => Sys2Proof.Machine.execAmoBins e d a b n s
  | .axadd e d a b => Sys2Proof.Machine.execAxadd e d a b s
  | .axrd e d a => Sys2Proof.Machine.execAxrd e d a s
  | .axclr e d a => Sys2Proof.Machine.execAxclr e d a s
  | .fence e g cx => Sys2Proof.Machine.execFence e g cx s
  | .tlwait e d a cx c => Sys2Proof.Machine.execTlwait e d a cx c s
  | .tlget e d v c => Sys2Proof.Machine.execTlget e d v c s
  | .monitor e a => Sys2Proof.Machine.execMonitor e a s
  | .mwait e d a => Sys2Proof.Machine.execMwait e d a s
  | .bar e d ix cx => Sys2Proof.Machine.execBar e d ix cx s
  | .xcopyLin e d a => Sys2Proof.Machine.execXcopyLin e d a s
  | .xcopyNest e d a => Sys2Proof.Machine.execXcopyNest e d a s
  | .xcopyMap e d a => Sys2Proof.Machine.execXcopyMap e d a s
  | .xcopyUnmap e d a => Sys2Proof.Machine.execXcopyUnmap e d a s
  | .xcopyWb e d a => Sys2Proof.Machine.execXcopyWb e d a s
  | .xcopyHLin e d a => Sys2Proof.Machine.execXcopyHLin e d a s
  | .xcopyHNest e d a => Sys2Proof.Machine.execXcopyHNest e d a s
  | .put e d a => Sys2Proof.Machine.execPut e d a s
  | .famo e d a b z o => Sys2Proof.Machine.execFamo e d a b z o s
  | .req e d a => Sys2Proof.Machine.execReq e d a s
  | .hopen e d n => Sys2Proof.Machine.execHopen e d n s
  | .hset e d a => Sys2Proof.Machine.execHset e d a s
  | .hget e d cx => Sys2Proof.Machine.execHget e d cx s
  | .hstat e d a => Sys2Proof.Machine.execHstat e d a s
  | .hvec e d a p => Sys2Proof.Machine.execHvec e d a p s
  | .hresCf e d a => Sys2Proof.Machine.execHresCf e d a s
  | .hresRf e d a => Sys2Proof.Machine.execHresRf e d a s
  | .spawn e d a b c => Sys2Proof.Machine.execSpawn e d a b c s
  | .launch e d a => Sys2Proof.Machine.execLaunch e d a s
  | .ttask e d a => Sys2Proof.Machine.execTtask e d a s
  | .sqpush e d a n q => Sys2Proof.Machine.execSqpush e d a n q s
  | .sqpop e d a n q => Sys2Proof.Machine.execSqpop e d a n q s
  | .lset e a cx l => Sys2Proof.Machine.execLset e a cx l s
  | .ago e d m g => Sys2Proof.Machine.execAgo e d m g s
  | .oclaim e d a q => Sys2Proof.Machine.execOclaim e d a q s
  | .orelease e q => Sys2Proof.Machine.execOrelease e q s
  | .admitRq e d a => Sys2Proof.Machine.execAdmitRq e d a s
  | .apin e d a => Sys2Proof.Machine.execApin e d a s
  | .aunpin e d a => Sys2Proof.Machine.execAunpin e d a s
  | .apage e d a b => Sys2Proof.Machine.execApage e d a b s
  | .apub e d a b => Sys2Proof.Machine.execApub e d a b s
  | .ctxsv d a b => Sys2Proof.Machine.execCtxsv d a b s
  | .ctxrs d a => Sys2Proof.Machine.execCtxrs d a s
  | .snap e d t => Sys2Proof.Machine.execSnap e d t s
  | .tret e p cx => Sys2Proof.Machine.execTret e p cx s
  | .nop e ops => Sys2Proof.Machine.execNop e ops s
  | .hintp e ops => Sys2Proof.Machine.execHintp e ops s
  | .hintb e ops => Sys2Proof.Machine.execHintb e ops s
  | .hintx e ops => Sys2Proof.Machine.execHintx e ops s
  | .vadd w => Sys2Proof.Machine.execVadd w s
  | .vsub w => Sys2Proof.Machine.execVsub w s
  | .vmul w => Sys2Proof.Machine.execVmul w s
  | .vfma w => Sys2Proof.Machine.execVfma w s
  | .vfms w => Sys2Proof.Machine.execVfms w s
  | .vmin w => Sys2Proof.Machine.execVmin w s
  | .vmax w => Sys2Proof.Machine.execVmax w s
  | .vabs w => Sys2Proof.Machine.execVabs w s
  | .vneg w => Sys2Proof.Machine.execVneg w s
  | .vmov w => Sys2Proof.Machine.execVmov w s
  | .vdiv w => Sys2Proof.Machine.execVdiv w s
  | .vmulh w => Sys2Proof.Machine.execVmulh w s
  | .vminu w => Sys2Proof.Machine.execVminu w s
  | .vmaxu w => Sys2Proof.Machine.execVmaxu w s
  | .vand w => Sys2Proof.Machine.execVand w s
  | .vor w => Sys2Proof.Machine.execVor w s
  | .vxor w => Sys2Proof.Machine.execVxor w s
  | .vandn w => Sys2Proof.Machine.execVandn w s
  | .vnot w => Sys2Proof.Machine.execVnot w s
  | .vshl w => Sys2Proof.Machine.execVshl w s
  | .vshr w => Sys2Proof.Machine.execVshr w s
  | .vsra w => Sys2Proof.Machine.execVsra w s
  | .vaddi w => Sys2Proof.Machine.execVaddi w s
  | .vmuli w => Sys2Proof.Machine.execVmuli w s
  | .vmini w => Sys2Proof.Machine.execVmini w s
  | .vmaxi w => Sys2Proof.Machine.execVmaxi w s
  | .vshli w => Sys2Proof.Machine.execVshli w s
  | .vshri w => Sys2Proof.Machine.execVshri w s
  | .vsrai w => Sys2Proof.Machine.execVsrai w s
  | .vmovi w => Sys2Proof.Machine.execVmovi w s
  | .vcmpEq w => Sys2Proof.Machine.execVcmpEq w s
  | .vcmpNe w => Sys2Proof.Machine.execVcmpNe w s
  | .vcmpLt w => Sys2Proof.Machine.execVcmpLt w s
  | .vcmpLe w => Sys2Proof.Machine.execVcmpLe w s
  | .vcmpGt w => Sys2Proof.Machine.execVcmpGt w s
  | .vcmpGe w => Sys2Proof.Machine.execVcmpGe w s
  | .vcmpUn w => Sys2Proof.Machine.execVcmpUn w s
  | .vcmpLtu w => Sys2Proof.Machine.execVcmpLtu w s
  | .vcmpLeu w => Sys2Proof.Machine.execVcmpLeu w s
  | .vkcmpEq w => Sys2Proof.Machine.execVkcmpEq w s
  | .vkcmpNe w => Sys2Proof.Machine.execVkcmpNe w s
  | .vkcmpLt w => Sys2Proof.Machine.execVkcmpLt w s
  | .vkcmpLe w => Sys2Proof.Machine.execVkcmpLe w s
  | .vkcmpGt w => Sys2Proof.Machine.execVkcmpGt w s
  | .vkcmpGe w => Sys2Proof.Machine.execVkcmpGe w s
  | .vkcmpUn w => Sys2Proof.Machine.execVkcmpUn w s
  | .kand w => Sys2Proof.Machine.execKand w s
  | .kor w => Sys2Proof.Machine.execKor w s
  | .kxor w => Sys2Proof.Machine.execKxor w s
  | .kandn w => Sys2Proof.Machine.execKandn w s
  | .knot w => Sys2Proof.Machine.execKnot w s
  | .kmov w => Sys2Proof.Machine.execKmov w s
  | .vselk k w => Sys2Proof.Machine.execVselk k w s
  | .vcvt w => Sys2Proof.Machine.execVcvt w s
  | .vpack4 w => Sys2Proof.Machine.execVpack4 w s
  | .vunpk4 w => Sys2Proof.Machine.execVunpk4 w s
  | .vrotr w => Sys2Proof.Machine.execVrotr w s
  | .vrotc w => Sys2Proof.Machine.execVrotc w s
  | .vbcr w => Sys2Proof.Machine.execVbcr w s
  | .vbcc w => Sys2Proof.Machine.execVbcc w s
  | .vredrAdd w => Sys2Proof.Machine.execVredrAdd w s
  | .vredrMax w => Sys2Proof.Machine.execVredrMax w s
  | .vredrMin w => Sys2Proof.Machine.execVredrMin w s
  | .vredcAdd w => Sys2Proof.Machine.execVredcAdd w s
  | .vredcMax w => Sys2Proof.Machine.execVredcMax w s
  | .vredcMin w => Sys2Proof.Machine.execVredcMin w s
  | .vxpose w => Sys2Proof.Machine.execVxpose w s
  | .vshuf w => Sys2Proof.Machine.execVshuf w s
  | .vexp2 w => Sys2Proof.Machine.execVexp2 w s
  | .vlog2 w => Sys2Proof.Machine.execVlog2 w s
  | .vrcp w => Sys2Proof.Machine.execVrcp w s
  | .vrsq w => Sys2Proof.Machine.execVrsq w s
  | .vsqrt w => Sys2Proof.Machine.execVsqrt w s
  | .vsin w => Sys2Proof.Machine.execVsin w s
  | .vcos w => Sys2Proof.Machine.execVcos w s
  | .vtanh w => Sys2Proof.Machine.execVtanh w s
  | .vsigm w => Sys2Proof.Machine.execVsigm w s
  | .vgelu w => Sys2Proof.Machine.execVgelu w s
  | .vsilu w => Sys2Proof.Machine.execVsilu w s
  | .qadv w c => Sys2Proof.Machine.execQadv w c s
  | .qclr w => Sys2Proof.Machine.execQclr w s
  | .qflush w => Sys2Proof.Machine.execQflush w s
  | .tmma w => Sys2Proof.Machine.execTmma w s
  | .tmmas w => Sys2Proof.Machine.execTmmas w s
  | .tzero w => Sys2Proof.Machine.execTzero w s
  | .tacc w => Sys2Proof.Machine.execTacc w s
  | .tepi w => Sys2Proof.Machine.execTepi w s
  | .tbind w => Sys2Proof.Machine.execTbind w s
  | .txpose w => Sys2Proof.Machine.execTxpose w s
  | .tsmld w => Sys2Proof.Machine.execTsmld w s
  | .tstage w => Sys2Proof.Machine.execTstage w s
  | .tqred w => Sys2Proof.Machine.execTqred w s
  | .tresume task => Sys2Proof.Machine.execTresume task s
  | .aend cl eng => Sys2Proof.Machine.execAend cl eng s
  | .agen cl eng f => Sys2Proof.Machine.execAgen cl eng f s
  | .aloop cl eng f => Sys2Proof.Machine.execAloop cl eng f s
  | .astep cl eng a b => Sys2Proof.Machine.execAstep cl eng a b s
  | .awaitCmd cl eng c r => Sys2Proof.Machine.execAwaitCmd cl eng c r s
  | .aaeBlock cl eng => Sys2Proof.Machine.execAaeBlock cl eng s
  | .syncedBundleIssue core lid serial => Sys2Proof.Machine.execSyncedBundleIssue core lid serial s
  | .loopPassEnd ctx => Sys2Proof.Machine.execLoopPassEnd ctx s
  | .kStep ctx num => Sys2Proof.Machine.execKStep ctx num s
  | .tstageSlot ctx num => Sys2Proof.Machine.execTstageSlot ctx num s
  | .copyLine ctx num => Sys2Proof.Machine.execCopyLine ctx num s
  | .mapFill ctx region granule => Sys2Proof.Machine.execMapFill ctx region granule s
  | .waitSatisfied ctx => Sys2Proof.Machine.execWaitSatisfied ctx s
  | .waitTimeout ctx => Sys2Proof.Machine.execWaitTimeout ctx s
  | .hypcapTimeout ctx => Sys2Proof.Machine.execHypcapTimeout ctx s
  | .orphan ctx => Sys2Proof.Machine.execOrphan ctx s
  | .ckpt ctx => Sys2Proof.Machine.execCkpt ctx s
  | .deadlineExpiry ctx => Sys2Proof.Machine.execDeadlineExpiry ctx s
  | .imageWritten ctx => Sys2Proof.Machine.execImageWritten ctx s
  | .schedulerPass die => Sys2Proof.Machine.execSchedulerPass die s
  | .handlerWake cl => Sys2Proof.Machine.execHandlerWake cl s
  | .fabricArrival p => Sys2Proof.Machine.execFabricArrival p s
  | .fabricAck a => Sys2Proof.Machine.execFabricAck a s
  | .gatewaySlotGrant ctx num => Sys2Proof.Machine.execGatewaySlotGrant ctx num s
  | .linkReplay link => Sys2Proof.Machine.execLinkReplay link s
  | .portRequestPass core tenant => Sys2Proof.Machine.execPortRequestPass core tenant s
  | .tokenRefill => Sys2Proof.Machine.execTokenRefill s
  | .signatureRotation => Sys2Proof.Machine.execSignatureRotation s
  | .taskSelect u => Sys2Proof.Machine.execTaskSelect u s
  | .childComplete task child => Sys2Proof.Machine.execChildComplete task child s
  | .childFault task child => Sys2Proof.Machine.execChildFault task child s
  | .herbariumFill die k => Sys2Proof.Machine.execHerbariumFill die k s
  | .catalogueRecordArrival r => Sys2Proof.Machine.execCatalogueRecordArrival r s
  | .resolveApply part => Sys2Proof.Machine.execResolveApply part s
  | .sweep part node => Sys2Proof.Machine.execSweep part node s
  | .vitrineFrameBegin core => Sys2Proof.Machine.execVitrineFrameBegin core s
  | .vitrineGrace core => Sys2Proof.Machine.execVitrineGrace core s
  | .vitrineEdge core => Sys2Proof.Machine.execVitrineEdge core s
  | .scrubStart frame => Sys2Proof.Machine.execScrubStart frame s
  | .scrubComplete frame => Sys2Proof.Machine.execScrubComplete frame s
  | .frameReleaseComplete frame => Sys2Proof.Machine.execFrameReleaseComplete frame s
  | .keySlotProgram slot kind tenant key => Sys2Proof.Machine.execKeySlotProgram slot kind tenant key s
  | .keyRetire slot pos => Sys2Proof.Machine.execKeyRetire slot pos s
  | .peerLost peer r => Sys2Proof.Machine.execPeerLost peer r s
  | .packageFailure link => Sys2Proof.Machine.execPackageFailure link s
  | .annexLinkDown port => Sys2Proof.Machine.execAnnexLinkDown port s
  | .vfFlr vf => Sys2Proof.Machine.execVfFlr vf s
  | .coldReset => Sys2Proof.Machine.execColdReset s
  | .packageReset => Sys2Proof.Machine.execPackageReset s
  | .bringUpComplete => Sys2Proof.Machine.execBringUpComplete s
  | .powerThrottle core => Sys2Proof.Machine.execPowerThrottle core s
  | .softError loc fixable => Sys2Proof.Machine.execSoftError loc fixable s
  | .cqtailDoorbell fn v => Sys2Proof.Machine.execCqtailDoorbell fn v s
  | .registerWrite fn off v => Sys2Proof.Machine.execRegisterWrite fn off v s
  | .part c p rec save ring entries => Sys2Proof.Machine.execPart c p rec save ring entries s
  | .tenant c rec => Sys2Proof.Machine.execTenant c rec s
  | .assign c pa p owner => Sys2Proof.Machine.execAssign c pa p owner s
  | .release c pa p owner => Sys2Proof.Machine.execRelease c pa p owner s
  | .catnew c rec => Sys2Proof.Machine.execCatnew c rec s
  | .catdel c p handle => Sys2Proof.Machine.execCatdel c p handle s
  | .pool c p list count => Sys2Proof.Machine.execPool c p list count s
  | .launchCommand c p rec => Sys2Proof.Machine.execLaunchCommand c p rec s
  | .qput c lid q addr => Sys2Proof.Machine.execQput c lid q addr s
  | .qclose c lid q => Sys2Proof.Machine.execQclose c lid q s
  | .qget c lid q addr => Sys2Proof.Machine.execQget c lid q addr s
  | .quiesce c p => Sys2Proof.Machine.execQuiesce c p s
  | .resumeCmd c p => Sys2Proof.Machine.execResumeCmd c p s
  | .vitrine c core table => Sys2Proof.Machine.execVitrine c core table s
  | .region c die home herb stage queue => Sys2Proof.Machine.execRegion c die home herb stage queue s
  | .resetCmd c => Sys2Proof.Machine.execResetCmd c s
  | .placeTableReload part die => Sys2Proof.Machine.execPlaceTableReload part die s
  | .placeDisable k n => Sys2Proof.Machine.execPlaceDisable k n s
  | .supervisorResume ctx => Sys2Proof.Machine.execSupervisorResume ctx s
  | .supervisorDiscard ctx => Sys2Proof.Machine.execSupervisorDiscard ctx s
  | .imageDiscard ctx restart => Sys2Proof.Machine.execImageDiscard ctx restart s
  | .reportAppend part => Sys2Proof.Machine.execReportAppend part s
  | .snapshotArm mask src => Sys2Proof.Machine.execSnapshotArm mask src s
  | .snapshotFire => Sys2Proof.Machine.execSnapshotFire s
  | .snapshotLatch => Sys2Proof.Machine.execSnapshotLatch s
  | .replayDelivery r => Sys2Proof.Machine.execReplayDelivery r s
  | .debugSession tenant cert => Sys2Proof.Machine.execDebugSession tenant cert s
  | .debugStateAccess ctx reg wr => Sys2Proof.Machine.execDebugStateAccess ctx reg wr s
  | .debugArm ctx c => Sys2Proof.Machine.execDebugArm ctx c s
  | .getMeasurements requester => Sys2Proof.Machine.execGetMeasurements requester s
  | .firmwareUpdateStage f => Sys2Proof.Machine.execFirmwareUpdateStage f s
  | .updateAck tenant => Sys2Proof.Machine.execUpdateAck tenant s
  | .updateWithdraw => Sys2Proof.Machine.execUpdateWithdraw s
  | .usageLogSignRequest tenant => Sys2Proof.Machine.execUsageLogSignRequest tenant s
  | .usageLogSignPeriodic tenant => Sys2Proof.Machine.execUsageLogSignPeriodic tenant s
  | .imageRequeue ctx => Sys2Proof.Machine.execImageRequeue ctx s
  | .annexLinkRetrained port => Sys2Proof.Machine.execAnnexLinkRetrained port s
  | .delvelPortFailure port => Sys2Proof.Machine.execDelvelPortFailure port s
  | .tenantCertificateEnrol tenant cert => Sys2Proof.Machine.execTenantCertificateEnrol tenant cert s

end Sys2Proof.Machine
end

