-- ==== Sys2Proof/Machine/Tick.lean ====
section
/-! DEFINITION. What the passing of a cycle brings about, the moves of the outside and of the machine's own units, which
move comes next where the agenda names none, and how an instruction is placed for the next step. -/

namespace Sys2Proof.Machine

-- Time (R378).

/-- Timed events of the package cycle count (R67, R217, R297). -/
def periodic (t : Nat) : List Event :=
  (if t % 65536 = 0 then [Event.signatureRotation] else []) ++ (if t % 1024 = 0 then [Event.tokenRefill] else []) ++
    (if t % 4096 = 0 then (rangeFrom 0 4).map Event.schedulerPass else [])

/-- Points of a core's Vitrine frame (R296). -/
def vitrineDue (s : State) (core : Nat) : List Event :=
  match frameAt s core with
  | some (f, t) =>
    if t = 0 then [.vitrineFrameBegin core]
    else if t + 8192 + graceLen f = frameLen f then [.vitrineGrace core]
    else if t + 8192 = frameLen f then [.vitrineEdge core]
    else []
  | none => []

/-- What the condition or the time of a context's wait brings (R26, R55, R244, R263). One that stalls inside its bundle needs no
event to try its word again. -/
def waitDue (s : State) (id : Nat) (c : Ctx) : List Event :=
  if !inWait c then [] else
  match c.wait with
  | none => []
  | some .sync =>
    (match c.member with
     | some m => if (syncGroup s id).all (atSync s) then [.syncedBundleIssue (coreOf id) m.lid m.serial] else []
     | none => [])
  | some w =>
    if waitMet s id then (if c.run = .waiting then [.waitSatisfied id] else [])
    else
      match w, c.due with
      | .monitor _ _, some d => if reached s d then [.waitTimeout id] else []
      | .versionSpace _ _, some d => if reached s d then [.hypcapTimeout id] else []
      | _, _ => []

/-- The snapshot registers latch 16 cycles after the trigger has fired; a counter's match fires it (R353). -/
def snapDue (s : State) : List Event :=
  match s.snapFired with
  | some f => if 16 ≤ since s f.cycle then [.snapshotLatch] else []
  | none =>
    match s.snapArmed with
    | some (mask, .counterMatch k v) => if counterMatches s mask k v then [.snapshotFire] else []
    | _ => []

/-- The event that a context at a bundle boundary, issuing or not, or in a wait has to take (R70, R351). -/
def contextDue (s : State) (id : Nat) (c : Ctx) : Option Event :=
  match c.run with
  | .runnable => boundaryEvent s id
  | .waiting =>
    if (getNode (getPart s (partOf s id)) (viewOf c)).st = .refuted then some (.orphan id)
    else if c.ckpt && !bitAt c.xstat 0 then some (.ckpt id) else none
  | _ => none

/-- An event is an ORPHAN, which comes before the ends of waits (R70). -/
def isOrphan (e : Event) : Bool := match e with | .orphan _ => true | _ => false

/-- The requests that pass the ports of a core in this cycle, after the refill that comes at a boundary (R297). -/
def portDue (s : State) (e : Nat × Core) : List Event :=
  if e.2.portWait.isEmpty then []
  else (portPlan 4 (if s.cycle % 1024 = 0 then refillPort s e.2 else e.2)).map fun t => .portRequestPass e.1 t

/-- One cycle passes. What falls due comes first, in the order of R70: ORPHAN, ends of waits, then CKPT and PREEMPT, with
the schedulers' pass after them. -/
def tick (s : State) : State :=
  let s := { s with cycle := cycleIn s 1 }
  let due := s.ctxs.filterMap fun (e : Nat × Ctx) => contextDue s e.1 e.2
  raise s (due.filter isOrphan ++ s.ctxs.flatMap (fun (e : Nat × Ctx) => waitDue s e.1 e.2) ++ (due.filter fun e => !isOrphan e) ++
    (s.cores.map (·.1)).flatMap (vitrineDue s) ++ periodic s.cycle ++ s.cores.flatMap (portDue s) ++ snapDue s)

/-- The end of a step: nodes that have come to their end are FREE at once (R255), Catalogue records leave as slots come free
(R298), and the issuing context keeps its slot while it is inside a bundle and its next word can issue (R23, R56, R297). -/
def settle (s : State) : State :=
  let s := sendWaiting (freeNodes s)
  { s with busy := (me s).mid && (me s).run == .runnable && (me s).wait.isNone && decide (s.cur < numContexts) && !portHeld s (.ctx s.cur) }

-- Issue (R56).

/-- A context that the arbiter of its cluster may choose: RUNNABLE, and its next bundle can issue. -/
def canIssue (s : State) (id : Nat) : Bool :=
  (getCtx s id).run == .runnable && waitMet s id && !(getCore s (coreOf id)).edge && !portHeld s (.ctx id)

/-- The contexts of a cluster in round-robin order after the last. -/
def turnOrder (last : Nat) : List Nat := (rangeFrom 1 8).map fun i => (last + i) % 8

/-- The priority at which a context competes. -/
def prioOf (s : State) (id : Nat) : Nat := fld (getCtx s id).xprio 0 7
/-- The highest priority among contexts. -/
def topPrio (s : State) (ids : List Nat) : Nat := ids.foldl (fun m id => max m (prioOf s id)) 0

/-- The choice of a cluster's arbiter (R56): a synced group's bundle first, then the highest priority, round-robin among
the contexts of that priority. -/
def arbiter (s : State) (cl : Nat) : Option Nat :=
  let ids := (rangeFrom (8 * cl) 8).filter (canIssue s)
  let p := topPrio s ids
  match ids.find? fun id => (getCtx s id).syncGo with
  | some id => some id
  | none => ((turnOrder (smGetD (getCluster s cl).last p 0)).map fun n => 8 * cl + n).find? fun id => canIssue s id && prioOf s id == p

/-- A context takes the issue slot, and its turn among those of its priority. -/
def takeIssue (s : State) (id : Nat) : State :=
  modCluster { s with cur := id, busy := true } (clusterOf id) fun c => { c with last := smPut c.last (prioOf s id) (id % 8) }

/-- Requests at the ports of a state that were not there before. -/
def newAsks (s t : State) : List (Nat × PortReq) :=
  t.cores.flatMap fun (e : Nat × Core) => (e.2.portWait.drop (getCore s e.1).portWait.length).map fun r => (e.1, r)
/-- How many requests of an agent have passed. -/
def paidFor (s : State) (a : PortAgent) : Nat := (s.cores.map fun e => countIf (· == a) e.2.portPaid).sum
/-- The agent waits at the ports with requests. -/
def enqueueAsks (a : PortAgent) (rs : List (Nat × PortReq)) (s : State) : State :=
  rs.foldl (fun s r => modCore s r.1 fun c =>
    { c with portSeen := if c.portSeen.contains r.2.tenant then c.portSeen else r.2.tenant :: c.portSeen
             portWait := c.portWait ++ [{ r.2 with agent := some a }] }) s
/-- The requests of an agent have passed, and what they carry has been read or written: its ports are as they were, its passes are
used up. -/
def spendAsks (a : PortAgent) (s t : State) : State :=
  { t with cores := t.cores.map fun e =>
      (e.1, { e.2 with portWait := e.2.portWait.take (getCore s e.1).portWait.length, portPaid := e.2.portPaid.filter (· != a) }) }
/-- An agent's turn begins: an access of it that was in flight on a link that has gone down gets poison (R372). -/
def beginTurn (a : PortAgent) (s : State) : State :=
  if s.cut.isEmpty then s else { s with cutNow := (s.cut.filter fun e => e.2 == a).map (·.1) }
/-- Its turn is over, and with it that access. -/
def endTurn (a : PortAgent) (s : State) : State :=
  if s.cut.isEmpty then s else { s with cutNow := [], cut := s.cut.filter fun e => e.2 != a }

/-- What becomes of an agent's turn that would lead from one state to another: it comes about once the requests that it makes of the
cores' ports have passed; until then the agent waits, with nothing done (R297). -/
def afterAsks (a : PortAgent) (s t : State) : State :=
  let asks := newAsks s t
  if asks.isEmpty then endTurn a t
  else if asks.length ≤ paidFor s a then spendAsks a s (endTurn a t)
  else enqueueAsks a (asks.drop (paidFor s a)) s
/-- An agent's turn at the ports. -/
def portGate (a : PortAgent) (run : State → Out) (s : State) : Out :=
  match run (beginTurn a s) with
  | .next t => .next (afterAsks a s t)
  | o => o
/-- The agent whose accesses an event makes. -/
def eventAgent (e : Event) : Option PortAgent :=
  match e with
  | .aaeBlock cl n => some (.eng (8 * cl) (n + 1))
  | .tstageSlot id _ => some (.eng id 4)
  | .copyLine id _ => some (.eng id 4)
  | .childComplete t _ => some (.task t)
  | .childFault t _ => some (.task t)
  | _ => none
/-- Run an event of the machine's own, with its agent's requests at the ports. -/
def runGated (e : Event) (s : State) : Out :=
  match eventAgent e with
  | some a => if portHeld s a then .next s else portGate a (runEvent e) s
  | none => runEvent e s

/-- The next word of the issuing context, or what stands before it. -/
def wordNext (s : State) : Out :=
  match nextWord s with
  | .out o => o
  | .event e => runEvent e s
  | .go i s => exec i s
/-- The issuing context goes on with its next word, once what the word asks of the ports has passed. -/
def issueNext (s : State) : Out := portGate (.ctx s.cur) wordNext s

/-- The arbiter of a cluster gives the issue slot to its choice. -/
def issueCluster (s : State) (cl : Nat) : Option State := (arbiter s cl).map (takeIssue s)

/-- The next cluster after the issuing one with a context that can issue. -/
def nextCluster (s : State) : Option Nat :=
  let cls := ((s.ctxs.map (·.1)).filter fun id => id < numContexts && canIssue s id).map clusterOf
  match cls.find? fun cl => clusterOf s.cur < cl with
  | some cl => some cl
  | none => cls.head?

-- What the outside does.

/-- The Docent can take the command at a function's head: bring-up has completed, the ring holds an entry, and none of
the function's commands is still at work on its frames (R287, R368, R370). -/
def docentReady (s : State) (fn : Nat) : Bool :=
  let f := getFn s fn
  s.ready && decide (fn < numFns) && f.size != 0 && f.head != f.tail && !s.frameWork.any (fun w => (w.2.src.map (·.fn)) == some fn)

/-- The Docent's next command of a function: its arguments are 8 bytes each from byte 8 on. DESIGN CHOICE (log entry 11).
An unlisted OPC gives FORMAT (R369). -/
def runDocent (fn : Nat) (s : State) : Out :=
  if docentReady s fn then
    let f := getFn s fn
    let bs := hostBytes s (headEntry f) 64
    let c : CmdSrc := { fn := fn, entry := headEntry f }
    let a := fun i => fieldAt bs (8 + 8 * i) 8
    match fieldAt bs 0 1 with
    | 0x01 => execPart c (a 0) (a 1) (a 2) (a 3) (a 4) s
    | 0x02 => execTenant c (a 0) s
    | 0x03 => execAssign c (a 0) (a 1) (a 2) s
    | 0x04 => execRelease c (a 0) (a 1) (a 2) s
    | 0x05 => execCatnew c (a 0) s
    | 0x06 => execCatdel c (a 0) (a 1) s
    | 0x07 => execPool c (a 0) (a 1) (a 2) s
    | 0x08 => execLaunchCommand c (a 0) (a 1) s
    | 0x09 => execQput c (a 0) (a 1) (a 2) s
    | 0x0A => execQclose c (a 0) (a 1) s
    | 0x0B => execQuiesce c (a 0) s
    | 0x0C => execResumeCmd c (a 0) s
    | 0x0D => execVitrine c (a 0) (a 1) s
    | 0x0E => execRegion c (a 0) (a 1) (a 2) (a 3) (a 4) s
    | 0x0F => execResetCmd c s
    | 0x10 => execQget c (a 0) (a 1) (a 2) s
    | _ => cmdDone c .format s
  else .next s

/-- The host writes a byte of its own memory. -/
def hostStore (s : State) (pa : Nat) (b : Byte) : State := if isHost pa && decide (pa < 2 ^ 52) then memWrite s pa [b] else s

/-- The supervisor takes reports out of a partition's ring. DESIGN CHOICE (log entry 14). -/
def takeReports (s : State) (part n : Nat) : State := modPart s part fun p => { p with ringUsed := p.ringUsed - n }

/-- Drop the cached copies of a line. -/
def otherLines (line : Nat) (cs : List CacheLine) : List CacheLine := cs.filter fun c => c.line != line

/-- A move of the agenda. -/
def runMove (m : Move) (s : State) : Out :=
  match m with
  | .run i => if wellFormed i then exec i s else .fault .noSuchUnit
  | .auto e => runGated e s
  | .issue cl =>
    if 512 ≤ cl then .fault .noSuchUnit
    else
      match issueCluster s cl with
      | some s => issueNext s
      | none => .next s
  | .drain core line => if portHeld s (.core core) then .next s else portGate (.core core) (fun s => .next (drainLine s core line)) s
  | .evictL1 core line => .next (modCore s core fun c => { c with l1 := otherLines line c.l1 })
  | .evictVisitor die line => .next (modDie s die fun d => { d with visitors := otherLines line d.visitors })
  | .evictSide die => .next (modDie s die fun d => { d with side := d.side.dropLast })
  | .evictTlb die => .next (modDie s die fun d => { d with tlb := d.tlb.dropLast })
  | .hostWrite pa b => .next (hostStore s pa b)
  | .docent fn => runDocent fn s
  | .takeReports part n => .next (raise (takeReports s part n) [.reportAppend part])
  | .record lid => .next { s with recorded := smPut s.recorded lid [] }
  | .readSnapshot => .next (answer s (.snapshot s.snapshot))
  | .readCheckpoint part => .next (answer s (.checkpoint part (checkpointBytes s part)))
  | .replayLog lid recs => .next { s with replaying := smPut s.replaying lid recs }
  | .fabricTrained own peers =>
    .next (if s.ready || decide (4096 ≤ own) then s else { s with ownPeer := own, populated := peers.filter fun p => decide (p < 4096) })
  | .podBarrier part i n away => .next (podBarrier part i n away s)
  | .idle => .next s

-- The machine's own units, in turn where the agenda is empty (log entry 1).

/-- Moves of a context's engines and copies. -/
def ctxMoves (s : State) (id : Nat) (c : Ctx) : List Move :=
  (((rangeFrom 0 3).filter fun n => engEnabled c n && (c.run != .saving || n == 2) && !portHeld s (.eng id (n + 1))).map fun n => Move.auto (.aaeBlock (id / 8) n)) ++
    (c.mx.filter (stepReady s id)).map (fun o => Move.auto (.kStep id o.num)) ++
    c.copies.filterMap (fun o =>
      match o.kind with
      | .stage w _ _ stamp => if stageReady s id o w stamp && !portHeld s (.eng id 4) then some (.auto (.tstageSlot id o.num)) else none
      | _ => if o.halt.isNone && c.run != .saving && !portHeld s (.eng id 4) then some (.auto (.copyLine id o.num)) else none) ++
    (c.fab.filter fun o => fabReady s id o && !fabAhead s id o).map (fun o => Move.auto (.gatewaySlotGrant id o.num)) ++
    (if c.run = .saving ∧ saveReady s id = true then [Move.auto (.imageWritten id)] else [])

/-- Moves of a running tile task: its children. A fault of a child on another package comes from the outside. -/
def taskMoves (s : State) (t : Task) : List Move :=
  if t.st = .taken then [.auto (.tresume t.id)]
  else if t.st = .running ∧ portHeld s (.task t.id) = false then
    match withPass t s with
    | .error _ => [.auto (.childFault t.id 0)]
    | .ok (t, _) =>
      (t.pass.filter fun p => (childUnit t p.1).isSome).flatMap fun (p : Nat × Nat) =>
        if t.unit.level = 5 ∧ p.2 ≠ 0 then [Move.auto (.childComplete t.id p.1)]
        else [Move.auto (.childComplete t.id p.1), .auto (.childFault t.id p.1)]
  else []

/-- A core's oldest written-through store. -/
def coreMoves (s : State) (k : Nat) (c : Core) : List Move :=
  if portHeld s (.core k) then [] else (c.pending.take 1).map fun p => Move.drain k p.line

/-- A partition's resolves, sweeps and reports. -/
def partMoves (n : Nat) (p : PartRec) : List Move :=
  (if p.resolves.isEmpty then [] else [Move.auto (.resolveApply n)]) ++
    ((p.nodes.filter fun e => sweepable p e.1).map fun e => Move.auto (.sweep n e.1)) ++
    (if !p.waiting.isEmpty && decide (p.ringUsed < p.ringLen) then [Move.auto (.reportAppend n)] else [])

/-- The scrub engine and the releases of frames. -/
def frameMoves (s : State) : List Move :=
  s.frameWork.map (fun w => Move.auto (.frameReleaseComplete w.1)) ++
    (s.frames.filter fun e => natField e.2.toNat 0 2 == 1).map (fun e => Move.auto (.scrubComplete e.1)) ++
    ((nextDirty s).toList.map fun f => Move.auto (.scrubStart f))

/-- Everything that a unit of the package can do next of its own. -/
def unitMoves (s : State) : List Move :=
  if s.fatal then []
  else
    s.ctxs.flatMap (fun (e : Nat × Ctx) => ctxMoves s e.1 e.2) ++ s.tasks.flatMap (taskMoves s) ++
      (((s.tasks.filter fun t => t.st == .queued).map (·.unit)).eraseDups.map fun u => Move.auto (.taskSelect u)) ++
      s.cores.flatMap (fun (e : Nat × Core) => coreMoves s e.1 e.2) ++
      s.dies.flatMap (fun (e : Nat × Die) => (e.2.fills.filter fun f => !f.asked).map fun f => Move.auto (.herbariumFill e.1 f.key)) ++
      s.parts.flatMap (fun (e : Nat × PartRec) => partMoves e.1 e.2) ++
      ((s.clusters.filter fun e => !e.2.handlers.isEmpty).map fun e => Move.auto (.handlerWake e.1)) ++
      ((s.fns.filter fun e => docentReady s e.1).map fun e => Move.docent e.1) ++
      ((podFull s).map fun b => Move.podBarrier b.2.1 b.1 b.2.2.n b.2.2.away) ++ frameMoves s

/-- A unit's move: the units take turns with the cycles. -/
def unitMove (s : State) : Option Move :=
  let l := unitMoves s
  l[s.cycle / 2 % l.length]?

/-- A turn of the machine where the agenda names no move: units and issue alternate. -/
def ownTurn (s : State) : Out :=
  let issue := fun (s : State) => ((nextCluster s).bind (issueCluster s)).map issueNext
  let unit := fun (s : State) => (unitMove s).map fun m => runMove m s
  if s.cycle % 2 = 1 then ((unit s).orElse fun _ => issue s).getD (.next s)
  else ((issue s).orElse fun _ => unit s).getD (.next s)

-- A step.

/-- What follows a move: a cycle passes and the issue slot is settled. -/
def finish (o : Out) : Out :=
  match o with
  | .next s => .next (settle (tick s))
  | .fault f => .fault f
  | .refused r => .refused r
/-- What follows an event that the machine has brought about: no cycle passes. -/
def finishEvent (o : Out) : Out :=
  match o with
  | .next s => .next (settle s)
  | .fault f => .fault f
  | .refused r => .refused r

/-- The next move: an event that has come about, the next word of a bundle, the agenda's, or the machine's own turn. -/
def advance (s : State) : Out :=
  match s.agenda with
  | .auto e :: rest => finishEvent (runGated e { s with agenda := rest })
  | [] => if s.busy then finish (issueNext s) else finish (ownTurn s)
  | m :: rest => if s.busy then finish (issueNext s) else finish (runMove m { s with agenda := rest })

-- Placing an instruction for the next step.

/-- The units of a word as they are placed: whole units, the first lowest (R21). A word that does not end its bundle is
followed by the first unit of a matrix word that does, with an S bit that agrees, so that the bundle is legal (R23,
R26). -/
def placedUnits (nbits w : Nat) : List Nat :=
  let w0 := w % 2 ^ 32
  let n := max (unitCount w0) (ceilDiv nbits 32)
  (rangeFrom 0 n).map (fun i => natField w (32 * i) 32) ++
    (if wordE w0 then [] else if wordKind w0 = 2 ∧ natBit w0 28 = false then [0xE0000000] else [0xF0000000])

/-- The scratchpad window's first address (R210). -/
def windowBase : Word := 0xFFFFFFFFFFC00000

/-- Moves left after the events that stand at the head. -/
def dropAutos : List Move → List Move
  | .auto _ :: rest => dropAutos rest
  | ms => ms

/-- Place a word at the start of the scratchpad of core 0, and give its context 0 the issue slot there. -/
def placeInstr (s : State) (nbits w : Nat) : State :=
  let bytes := (placedUnits nbits w).flatMap (leBytes 4)
  let s := modCore s 0 fun c => { c with scratch := memSetCells c.scratch 0 bytes }
  modCtx { s with cur := 0, busy := true, agenda := dropAutos s.agenda } 0 fun c => { c with run := .runnable, pc := windowBase, mid := false, wait := none }

end Sys2Proof.Machine
end

