-- ==== Sys2Proof/Machine/Step.lean ====
section
/-! DEFINITION. One step of the machine, and the placing of an instruction for it. -/

namespace Sys2Proof.Machine

/-- One step: three outcomes. -/
def step (s : State) : Host.Outcome State Fault Refusal := advance s

/-- The state with an instruction placed where the next step fetches it (log entry 3). -/
def State.withFetchWord (s : State) (nbits w : Nat) : State := placeInstr s nbits w

end Sys2Proof.Machine
end

