-- ==== Sys2Proof/Safety.lean ====
section
/-! DEFINITION. What the claims call a sound state and a safe outcome: the issue slot's rule, the form of the sparse
storage, the bundle boundary at which events are taken, and the words in which a claim says what one word wrote and
that it left everything else alone. -/

namespace Sys2Proof.Machine

/-- A step went on: no fault and no refusal. -/
def Safe (o : Out) : Prop := ∃ t, o = .next t

/-- The issue slot is kept only by a context of the package that is RUNNABLE and inside a bundle (R23, R56). -/
def State.SlotOk (s : State) : Prop :=
  s.busy = true → s.cur < numContexts ∧ (me s).run = .runnable ∧ (me s).mid = true

/-- Memory keeps its canonical form: addresses strictly rising, no byte listed that reads as an unlisted one. -/
def State.MemOk (s : State) : Prop := Memory.wf s.mem = true

/-- A context is at a bundle boundary with nothing of the outside ahead of it. -/
def State.AtBoundary (s : State) : Prop := (me s).mid = false ∧ boundaryEvent s s.cur = none ∧ dbgHit (me s) = none

-- What a word leaves alone.

/-- `c'` is `c` but for its place in the program: the PC, the bundle in progress and what debug counts of it. -/
def Ctx.PlaceOnly (c c' : Ctx) : Prop :=
  c' = { c with pc := c'.pc, mid := c'.mid, jump := c'.jump, back := c'.back, syncGo := c'.syncGo, dbg := c'.dbg }

/-- `t` is `s` but for the issuing context, marks of poison, and the end of a loop pass put ahead of the agenda. Every
byte of memory, every other context and every other unit is as it was. -/
def State.OwnOnly (s t : State) : Prop :=
  t = { s with ctxs := t.ctxs, poison := t.poison, agenda := t.agenda } ∧
    (∀ id, id ≠ s.cur → getCtx t id = getCtx s id) ∧
    (t.agenda = s.agenda ∨ t.agenda = .auto (.loopPassEnd s.cur) :: s.agenda)

/-- No scalar or state register of the issuing context holds poison (R347). -/
def State.OwnClean (s : State) : Prop :=
  ∀ n, isPoison s (.sreg s.cur n) = false ∧ isPoison s (.xreg s.cur n) = false

/-- Neither XFMT nor, where XFMT.RM is SR, XSEED of the issuing context holds poison (R117, R347). -/
def State.ModeClean (s : State) : Prop :=
  isPoison s (.xreg s.cur 0x18) = false ∧ (rmCode (me s) = 4 → isPoison s (.xreg s.cur 0x19) = false)

/-- From `s` to `t`, a word wrote `v` to s(d) over the context `c` that it had reached: every other register and field of
the context is as in `c`, a write of s0 is discarded and s0 reads all ones (R133), and the register holds good data
(R347). -/
def WroteOver (c : Ctx) (s t : State) (d : SReg) (v : Word) : Prop :=
  s.OwnOnly t ∧ Ctx.PlaceOnly { c with s := (me t).s } (me t) ∧
    (∀ r, sread (me t) r = if r = 0 then BitVec.allOnes 64 else if r = d then v else sread c r) ∧
    (∀ p, p ≠ .sreg s.cur d.toNat → isPoison t p = isPoison s p) ∧ (d ≠ 0 → isPoison t (.sreg s.cur d.toNat) = false)

/-- From `s1` to `t`, a word changed nothing but its own context, which is `c` but for its place in the program. -/
def PassedOver (c : Ctx) (s1 t : State) : Prop := s1.OwnOnly t ∧ c.PlaceOnly (me t) ∧ t.poison = s1.poison

/-- Executing `i` in `s` first makes `s1`, with the issuing context at `c`; then it writes `v` to s(d), and nothing else
beside the word's place in the program. -/
def WritesOver (i : Instr) (s s1 : State) (c : Ctx) (d : SReg) (v : Word) : Prop :=
  ∃ t, exec i s = .next t ∧ WroteOver c s1 t d v

/-- Executing `i` writes `v` to s(d), and nothing else beside the word's place in the program. -/
def Writes (i : Instr) (s : State) (d : SReg) (v : Word) : Prop := WritesOver i s s (me s) d v

/-- Executing `i` in `s` makes `s1`, with the issuing context at `c`, and the word retires. -/
def Retires (i : Instr) (s s1 : State) (c : Ctx) : Prop := ∃ t, exec i s = .next t ∧ PassedOver c s1 t

/-- Executing `i` takes the mode of XFMT.RM, and under SR one draw; it writes to s(d) the FP32 value that the mode's
exact result rounds to, and nothing else beside the generator and the word's place (R117, R146). -/
def WritesRounded (i : Instr) (s : State) (d : SReg) (f : Mode → FVal) : Prop :=
  WritesOver i s s (scalarMode (me s)).2 d
    (BitVec.ofNat 64 (roundFloat fp32 false (scalarMode (me s)).1 (f (scalarMode (me s)).1)))

/-- Executing `i` writes one condition bit of s(d) as `v` and keeps the register's other bits (R140, R148). -/
def WritesBit (i : Instr) (s : State) (d : SReg) (bit : Nat) (v : Bool) : Prop :=
  ∃ w, Writes i s d w ∧ ∀ n, n < 64 → bitAt w n = if n = bit then v else bitAt (rs s d) n

/-- The plain loads over one pair of registers: the word, its address, its bytes, its sign, its point (R232). -/
def loadForms (e : Bool) (d a b : SReg) (x : BitVec 11) (p : BitVec 2) (g : Bool) (z : BitVec 2) (s : State) :
    List (Instr × Word × Nat × Bool × Nat) :=
  let near := rs s a + x.signExtend 64
  [(.ld8 e d a x, near, 1, false, 0), (.ld16 e d a x, near, 2, false, 0), (.ld32 e d a x, near, 4, false, 0),
   (.ld64 e d a x, near, 8, false, 0), (.ld8s e d a x, near, 1, true, 0), (.ld16s e d a x, near, 2, true, 0),
   (.ld32s e d a x, near, 4, true, 0), (.ldx e d a b p g z, rs s a + rs s b, 2 ^ z.toNat, g, p.toNat)]

/-- The plain stores of s(d): the word, its address, its bytes, its point, `.str`'s being 2 (R232). -/
def storeForms (e : Bool) (d a b : SReg) (x : BitVec 11) (p : BitVec 2) (z : BitVec 2) (s : State) :
    List (Instr × Word × Nat × Nat) :=
  let near := rs s a + x.signExtend 64
  [(.st8 e d a x, near, 1, 0), (.st16 e d a x, near, 2, 0), (.st32 e d a x, near, 4, 0), (.st64 e d a x, near, 8, 0),
   (.stx e d a b p z, rs s a + rs s b, 2 ^ z.toNat, p.toNat)]

/-- The value of loaded bytes: zero-extended, or sign-extended from the top bit of `n` bytes (R232). -/
def extended (sign : Bool) (n : Nat) (bs : List Byte) : Word :=
  if sign then BitVec.ofInt 64 (signedOf (8 * n) (leNat bs)) else BitVec.ofNat 64 (leNat bs)

/-- Bytes of the issuing core's scratchpad (R210). -/
def State.pad (s : State) (off n : Nat) : List Byte :=
  (rangeFrom off n).map fun i => smGetD (getCore s (coreOf s.cur)).scratch i 0

/-- A range of the issuing core's scratchpad can be accessed: its map regions are filled, and it holds no poison. -/
def State.padReady (s : State) (off n : Nat) : Prop :=
  unfilled (getCore s (coreOf s.cur)) off n = none ∧
    ∀ i, off ≤ i → i < off + n → isPoison s (.scratch (coreOf s.cur) (i / 8)) = false

/-- `t` holds `bs` in the issuing core's scratchpad from `off` on, and every other byte of it and of memory as in `s`. -/
def PadWritten (s t : State) (off : Nat) (bs : List Byte) : Prop :=
  (∀ i, smGetD (getCore t (coreOf s.cur)).scratch i 0 =
    if off ≤ i then (bs[i - off]?).getD (smGetD (getCore s (coreOf s.cur)).scratch i 0)
    else smGetD (getCore s (coreOf s.cur)).scratch i 0) ∧
  (∀ k, k ≠ coreOf s.cur → (getCore t k).scratch = (getCore s k).scratch) ∧ ∀ a, memByte t a = memByte s a

/-- The next bundle of the issuing context is at `a`: at once where the word ends its bundle, else when it ends (R24). -/
def GoesTo (e : Bool) (a : Word) (t : State) : Prop := if e = true then (me t).pc = a else (me t).jump = some a

/-- The word of `len` bytes leaves the control transfer of its bundle as it was (R24). -/
def FallsThrough (e : Bool) (len : Nat) (s t : State) : Prop :=
  if e = true then (me t).pc = ((me s).jump).getD ((me s).pc + BitVec.ofNat 64 len)
  else (me t).pc = (me s).pc + BitVec.ofNat 64 len ∧ (me t).jump = (me s).jump

/-- Executing `i` takes a trap at its word and does nothing else. -/
def TrapsWith (i : Instr) (s : State) (x : Trap) : Prop := exec i s = .next (takeTrap s.cur x s)

-- Vector words.

/-- A vector word with a block destination, as the claims describe it: its fields, its sources with the type at which
they are read, the width of the elements that it writes, how many it writes in a row, and the value of each from the
operands, the destination's old rows and the rounding mode of its position. -/
structure VecForm where
  i : Instr
  h : VHead
  rounds : Bool
  srcs : List Desc
  d : Desc
  sty : BitVec 3
  w : Nat
  bad : State → Bool := fun _ => false
  n : Nat → Nat
  g : Ctx → Src → Src → Src → (Nat → Nat → Mode) → Nat → Nat → Nat

/-- The queues among some sources. -/
def queuesOf (srcs : List Desc) : List Nat := srcs.filterMap descQueue

/-- Source `k` of a word, as its context holds it: a queue shows its first block, or the next one where an earlier
operand has taken that (R100, R150). -/
def operandOf (ty : BitVec 3) (c : Ctx) (srcs : List Desc) (k : Nat) : Src :=
  match srcs[k]? with
  | none => .splat 0
  | some (.queue q) => .rows ((((qblocks c q.toNat)[(queuesOf (srcs.take k)).count q.toNat]?).map (·.data)).getD 0) plainGeo
  | some d => (takeSrc ty c d).1

/-- Every queue among some sources is bound to a read engine and holds a block for each use (R100). -/
def QueuesReady (c : Ctx) (srcs : List Desc) : Prop :=
  ∀ q ∈ queuesOf srcs, ∃ n bs, smGet c.q q = some (.data n bs) ∧ n ≠ 2 ∧ (queuesOf srcs).count q ≤ bs.length

/-- From `c` to `c'`, each queue among some sources has given up one block for each use (R102). -/
def QueuesTaken (c c' : Ctx) (srcs : List Desc) : Prop :=
  ∀ q, qblocks c' q = (qblocks c q).drop ((queuesOf srcs).count q)

/-- The guard register and, where a row is enabled, the sources hold no poison, nor what a rounding word's mode and draws
come from (R347). -/
def VecClean (s : State) (h : VHead) (srcs : List Desc) (bad : State → Bool) (rounds : Bool := false) : Prop :=
  srcBad s h.guard.reg = false ∧
    (guardRows (me s) h.guard ≠ 0 → srcsBad s srcs = false ∧ bad s = false ∧ (rounds = true → modeBad s h.rnd = false))

/-- The draws of a word and the context after them; without SR there are none (R117). -/
def VecForm.draws (f : VecForm) (c : Ctx) : List Nat × Ctx := if f.rounds then wordDraws c f.h else ([], c)

/-- The rounding mode of a position: under SR with the draw of that position (R116, R117). -/
def VecForm.mode (f : VecForm) (c : Ctx) (r j : Nat) : Mode :=
  modeOf (rndCode c f.h.rnd) (((f.draws c).1[r * viewElems f.h.ty + j]?).getD 0)

/-- The word completes: over a register, each enabled row's elements are written, a later row over an earlier one, and
every other bit of the vector registers stays; into a write queue with room, one block goes with its enabled rows. -/
def VecForm.Completes (f : VecForm) (s : State) : Prop :=
  let c := me s
  let rows := guardRows c f.h.guard
  let val := fun (d : Src) (r j : Nat) => f.g c (operandOf f.sty c f.srcs 0) (operandOf f.sty c f.srcs 1) d (f.mode c) r j % 2 ^ f.w
  (∀ v geo, descReg c f.d = some (v, geo) → 16 * geo.col % f.w = 0 →
    ∃ t, exec f.i s = .next t ∧ s.OwnOnly t ∧ FallsThrough f.h.e 12 s t ∧
      Ctx.PlaceOnly { c with v := (me t).v, q := (me t).q, xseed := (f.draws c).2.xseed } (me t) ∧
      QueuesTaken c (me t) f.srcs ∧ (∀ u, u ≠ v → vget (me t) u = vget c u) ∧
      (∀ r j, r < 16 → natBit rows r = true → j < f.n r →
        (∀ r', r < r' → r' < 16 → natBit rows r' = true → 0 < f.n r' → geo.rowAt r' ≠ geo.rowAt r) →
        natField (rowOf (vget (me t) v) (geo.rowAt r)) (geo.bitPos f.w j) f.w = val (.rows (vget c v) geo) r j) ∧
      ∀ row k, row < 16 → k < 1024 →
        (∀ r j, r < 16 → natBit rows r = true → j < f.n r →
          ¬(geo.rowAt r = row ∧ geo.bitPos f.w j ≤ k ∧ k < geo.bitPos f.w j + f.w)) →
        natBit (rowOf (vget (me t) v) row) k = natBit (rowOf (vget c v) row) k) ∧
  (∀ q bs, descQueue f.d = some q → smGet c.q q = some (.data 2 bs) → bs.length < 4 →
    ∃ t b, exec f.i s = .next t ∧ s.OwnOnly { t with fresh := s.fresh } ∧ FallsThrough f.h.e 12 s t ∧
      Ctx.PlaceOnly { c with q := (me t).q, xseed := (f.draws c).2.xseed } (me t) ∧
      (∀ k, qblocks (me t) k = if k = q then bs ++ [b] else (qblocks c k).drop ((queuesOf f.srcs).count k)) ∧
      (wordOff c f.h.guard = true → b.skipped = true ∧ b.rows = 0) ∧
      (wordOff c f.h.guard = false → b.skipped = false ∧ b.rows = BitVec.ofNat 16 rows ∧
        ∀ r j, r < 16 → natBit rows r = true → j < f.n r →
          natField (rowOf b.data r) (f.w * j) f.w = val (.rows 0 plainGeo) r j))

/-- A floating function of one element, rounded once. -/
def flt1 (ty : BitVec 3) (sat : Bool) (f : FVal → FVal) (m : Mode) (a : Nat) : Nat :=
  match floatTy ty with
  | some ff => roundFloat ff sat m (f (decodeFloat ff a))
  | none => 0

/-- The element-wise words over one set of V3 fields (R153, R154, R165). -/
def vecForms3 (w : V3) : List VecForm :=
  let ty := w.h.ty
  let b := tyBits ty
  let F := fun (i : Instr) (rounds : Bool) (g : Mode → Nat → Nat → Nat) =>
    ({ i := i, h := w.h, rounds := rounds, srcs := [w.a, w.b], d := w.d, sty := ty, w := b, n := fun _ => viewElems ty,
       g := fun _ x y _ md r j => g (md r j) (x.elem b r j) (y.elem b r j) } : VecForm)
  let A := fun (i : Instr) (fi : Int → Int → Int) (ff : Mode → FVal → FVal → FVal) =>
    F i (isFloatTy ty) fun m x y => arith2 ty w.sat fi ff m x y
  [A (.vadd w) (fun x y => x + y) (fun m x y => addV (m == .rdn) x y),
   A (.vsub w) (fun x y => x - y) (fun m x y => addV (m == .rdn) x y.negate),
   A (.vmul w) (fun x y => x * y) (fun _ x y => mulV x y),
   F (.vmin w) false fun _ x y => arith2 ty false min (fun _ u v => minV u v) .rne x y,
   F (.vmax w) false fun _ x y => arith2 ty false max (fun _ u v => maxV u v) .rne x y,
   F (.vdiv w) true fun m x y => arith2 ty w.sat (fun _ _ => 0) (fun _ u v => divV u v) m x y,
   F (.vmulh w) false fun _ x y => intBits b (signedOf b x * signedOf b y / 2 ^ b),
   F (.vminu w) false fun _ x y => min x y, F (.vmaxu w) false fun _ x y => max x y,
   F (.vand w) false fun _ x y => x &&& y, F (.vor w) false fun _ x y => x ||| y,
   F (.vxor w) false fun _ x y => x ^^^ y, F (.vandn w) false fun _ x y => x &&& (2 ^ b - 1 - y),
   F (.vshl w) false fun _ x n =>
     if w.sat then intBits b (clampInt b (signedOf b x * 2 ^ min n b)) else if n < b then x * 2 ^ n else 0,
   F (.vshr w) false fun _ x n => if n < b then x / 2 ^ n else 0,
   F (.vsra w) false fun _ x n => intBits b (signedOf b x / 2 ^ min n b),
   { F (.vshuf w) false (fun _ _ _ => 0) with
     g := fun _ x y _ _ r j => x.elem b r (y.elem b r j % viewElems ty) }]

/-- VFMA, VFMS and VSELK: the V3 words that read a third operand (R153, R159). -/
def vecForms3d (k : BitVec 3) (w : V3) : List VecForm :=
  let ty := w.h.ty
  let b := tyBits ty
  let fma := fun (i : Instr) (p : FVal → FVal) =>
    ({ i := i, h := w.h, rounds := true, srcs := [w.a, w.b], d := w.d, sty := ty, w := b, bad := fun s => descBad s w.d,
       n := fun _ => viewElems ty,
       g := fun _ x y z md r j =>
         match floatTy ty with
         | some f => roundFloat f w.sat (md r j) (addV (md r j == .rdn) (decodeFloat f (z.elem b r j))
             (p (mulV (decodeFloat f (x.elem b r j)) (decodeFloat f (y.elem b r j)))))
         | none => 0 } : VecForm)
  [fma (.vfma w) (fun p => p), fma (.vfms w) (fun p => p.negate),
   { i := .vselk k w, h := w.h, rounds := false, srcs := [w.a, w.b], d := w.d, sty := ty, w := b,
     bad := fun s => maskBad s k.toNat, n := fun _ => viewElems ty,
     g := fun c x y _ _ r j =>
       if natBit (maskRow (kget c k.toNat) r) (j * (b / 8)) then x.elem b r j else y.elem b r j }]

/-- The words over one set of V3 fields with one source (R153, R161, R163, R164, R166). -/
def vecForms2 (w : V2) : List VecForm :=
  let ty := w.h.ty
  let b := tyBits ty
  let n := viewElems ty
  let B := fun (i : Instr) (rounds : Bool) (width : Nat) (count : Nat → Nat) (g : Src → (Nat → Nat → Mode) → Nat → Nat → Nat) =>
    ({ i := i, h := w.h, rounds := rounds, srcs := [w.a], d := w.d, sty := ty, w := width, n := count,
       g := fun _ x _ _ md r j => g x md r j } : VecForm)
  let F := fun (i : Instr) (g : Nat → Nat) => B i false b (fun _ => n) fun x _ r j => g (x.elem b r j)
  let S := fun (i : Instr) (f : FVal → FVal) =>
    B i true b (fun _ => n) fun x md r j => flt1 ty w.sat f (md r j) (x.elem b r j)
  let R := fun (i : Instr) (k : Red) =>
    B i (k == .add && isFloatTy ty) b (fun _ => 1) fun x md r _ =>
      reduce k ty w.sat (md r 0) ((rangeFrom 0 n).map fun j => x.elem b r j)
  let C := fun (i : Instr) (k : Red) =>
    B i (k == .add && isFloatTy ty) b (fun r => if r = 0 then n else 0) fun x md _ j =>
      reduce k ty w.sat (md 0 j) ((rangeFrom 0 16).map fun r => x.elem b r j)
  [F (.vabs w) (fun x => arith1 ty w.sat (fun i => i.natAbs) FVal.absV x),
   F (.vneg w) (fun x => arith1 ty w.sat (fun i => -i) FVal.negate x),
   F (.vmov w) (fun x => x), F (.vnot w) (fun x => 2 ^ b - 1 - x),
   B (.vpack4 w) true 4 (fun _ => n) fun x md r j =>
     roundFloat fp4 false (md r j) (decodeFmt (tyFormat ty) (x.elem b r j)),
   B (.vunpk4 w) true b (fun _ => n) fun x md r j => roundTo (tyFormat ty) false (md r j) (decodeFloat fp4 (x.elem 4 r j)),
   R (.vredrAdd w) .add, R (.vredrMax w) .max, R (.vredrMin w) .min,
   C (.vredcAdd w) .add, C (.vredcMax w) .max, C (.vredcMin w) .min,
   B (.vxpose w) false b (fun _ => 16) fun x _ r j => x.elem b j r,
   S (.vexp2 w) exp2V, S (.vlog2 w) log2V, S (.vrcp w) (divV oneV), S (.vrsq w) rsqrtV, S (.vsqrt w) sqrtV,
   S (.vsin w) (trigV false), S (.vcos w) (trigV true), S (.vtanh w) tanhV, S (.vsigm w) sigmV, S (.vgelu w) geluV,
   S (.vsilu w) siluV]

/-- The words over one set of VI fields, with VMOVI (R155, R160, R162). -/
def vecFormsI (w : VI) : List VecForm :=
  let ty := w.h.ty
  let b := tyBits ty
  let n := viewElems ty
  let B := fun (i : Instr) (rounds : Bool) (g : Src → (Nat → Nat → Mode) → Nat → Nat → Nat) =>
    ({ i := i, h := w.h, rounds := rounds, srcs := [w.a], d := w.d, sty := ty, w := b, n := fun _ => n,
       g := fun _ x _ _ md r j => g x md r j } : VecForm)
  let imm := imm21Bits ty w.imm % 2 ^ b
  let k := w.imm.toNat
  let vm : VM := { h := w.h, d := w.d, imm := w.imm }
  [B (.vaddi w) (isFloatTy ty) fun x md r j =>
     arith2 ty w.sat (fun u v => u + v) (fun m u v => addV (m == .rdn) u v) (md r j) (x.elem b r j) imm,
   B (.vmuli w) (isFloatTy ty) fun x md r j => arith2 ty w.sat (fun u v => u * v) (fun _ u v => mulV u v) (md r j) (x.elem b r j) imm,
   B (.vmini w) false fun x _ r j => arith2 ty false min (fun _ u v => minV u v) .rne (x.elem b r j) imm,
   B (.vmaxi w) false fun x _ r j => arith2 ty false max (fun _ u v => maxV u v) .rne (x.elem b r j) imm,
   B (.vshli w) false fun x _ r j =>
     if w.sat then intBits b (clampInt b (signedOf b (x.elem b r j) * 2 ^ min k b))
     else if k < b then x.elem b r j * 2 ^ k else 0,
   B (.vshri w) false fun x _ r j => if k < b then x.elem b r j / 2 ^ k else 0,
   B (.vsrai w) false fun x _ r j => intBits b (signedOf b (x.elem b r j) / 2 ^ min k b),
   { B (.vmovi vm) false (fun _ _ _ _ => imm) with srcs := [] },
   B (.vrotr w) false fun x _ r j => x.elem b r ((j + k) % n),
   B (.vrotc w) false fun x _ r j => x.elem b ((r + k) % 16) j,
   B (.vbcr w) false fun x _ r _ => x.elem b r k, B (.vbcc w) false fun x _ _ j => x.elem b k j,
   { B (.vcvt w) true (fun _ _ _ _ => 0) with
     sty := w.cvtSrc
     n := fun _ => min (viewElems w.cvtSrc) n
     g := fun _ x _ _ md r j => cvtElem w (md r j) (x.elem (tyBits w.cvtSrc) r j) }]

/-- The conditions of VCMP, in the table's order. -/
def vcmpForms (w : VC) : List (Instr × VCond) :=
  [(.vcmpEq w, .rel .eq), (.vcmpNe w, .rel .ne), (.vcmpLt w, .rel .lt), (.vcmpLe w, .rel .le), (.vcmpGt w, .rel .gt),
   (.vcmpGe w, .rel .ge), (.vcmpUn w, .un), (.vcmpLtu w, .ltu), (.vcmpLeu w, .leu)]
/-- The conditions of VKCMP, in the table's order. -/
def vkcmpForms (w : VK) : List (Instr × VCond) :=
  [(.vkcmpEq w, .rel .eq), (.vkcmpNe w, .rel .ne), (.vkcmpLt w, .rel .lt), (.vkcmpLe w, .rel .le), (.vkcmpGt w, .rel .gt),
   (.vkcmpGe w, .rel .ge), (.vkcmpUn w, .un)]
/-- The mask words over three masks: the word, its sources, its operation on one bit of each (R158). -/
def maskForms (h : VHead) (d a b : BitVec 3) : List (Instr × List (BitVec 3) × (Bool → Bool → Bool)) :=
  let w : KB := { h := h, d := d, a := a, b := b }
  let u : KU := { h := h, d := d, a := a }
  [(.kand w, [a, b], fun x y => x && y), (.kor w, [a, b], fun x y => x || y), (.kxor w, [a, b], fun x y => x ^^ y),
   (.kandn w, [a, b], fun x y => x && !y), (.knot u, [a], fun x _ => !x), (.kmov u, [a], fun x _ => x)]

-- Matrix words, engines and lines.

/-- The stream matrix words over one set of fields, with their kinds (R173). -/
def tileForms (w : TileW) : List (Instr × MxKind) :=
  [(.tmma w, .tmma), (.tmmas w, .tmmas), (.tzero w, .tzero), (.tacc w, .tacc), (.tepi w, .tepi), (.tbind w, .tbind),
   (.txpose w, .txpose), (.tsmld w, .tsmld), (.tstage w, .tstage), (.tqred w, .tqred)]

/-- Executing `i` makes context `id` be `c`, and changes nothing else. -/
def CtxBecomes (i : Instr) (s : State) (id : Nat) (c : Ctx) : Prop :=
  ∃ t, exec i s = .next t ∧ t = { s with ctxs := t.ctxs } ∧ getCtx t id = c ∧ ∀ k, k ≠ id → getCtx t k = getCtx s k

/-- Executing `i` puts the issuing context into a wait at its word, or, where the word's bundle has begun, into a stall there
(log entry 8): it has not moved on, and it executes again. -/
def WaitsAt (i : Instr) (s : State) (w : Wait) : Prop :=
  ∃ t, exec i s = .next t ∧ (me t).run = (if (me s).mid then (me s).run else .waiting) ∧ (me t).wait = some w ∧
    (me t).pc = (me s).pc ∧ (me t).s = (me s).s

/-- Executing `i` stalls at its word: the context stays as it runs, has not moved on, and executes the word again. -/
def StallsAt (i : Instr) (s : State) (w : Wait) : Prop :=
  ∃ t, exec i s = .next t ∧ (me t).run = (me s).run ∧ (me t).wait = some w ∧ (me t).pc = (me s).pc ∧ (me t).s = (me s).s

/-- Executing `i` makes `s1`, and takes a trap at the word there. -/
def TrapsOver (i : Instr) (s s1 : State) (x : Trap) : Prop := exec i s = .next (takeTrap s1.cur x s1)

/-- Scalar loads of `n` lines from an address on: their bytes, and the state after them; none where one does not
complete. -/
def linesRead : Nat → Word → State → Option (List Byte × State)
  | 0, _, s => some ([], s)
  | n + 1, va, s =>
    match loadAt 0 va 64 s with
    | .done bs s1 => (linesRead n (va + 64) s1).map fun (r : List Byte × State) => (bytesOf bs ++ r.1, r.2)
    | _ => none

/-- Scalar stores of `n` lines from an address on, with their poison; none where one does not complete. -/
def linesStored : Nat → Word → List PB → State → Option State
  | 0, _, _, s => some s
  | n + 1, va, bs, s =>
    match storePB 0 va (bs.take 64) s with
    | .done _ s1 => linesStored n (va + 64) (bs.drop 64) s1
    | _ => none

/-- Nothing of a line stands nearer an agent than its home: no copy, no store of the agent's unit on its way, and no version of
the agent's partition. -/
def State.LineAtHome (s : State) (ag : Agent) (line : Nat) : Prop :=
  (∀ c ∈ l1At s (coreOf ag.ctx) line, c.line ≠ line) ∧ (∀ c ∈ (getDie s (dieOf ag.ctx)).visitors, c.line ≠ line) ∧
    (∀ w ∈ (getCore s (l1Unit s (coreOf ag.ctx))).pending, w.line ≠ line) ∧
    ∀ v ∈ (getPart s ag.part).versions, v.line ≠ line

/-- `n` bytes of memory from an address on hold no poison. -/
def State.CleanAt (s : State) (pa n : Nat) : Prop := ∀ i, i < n → isPoison s (.mem ((pa + i) / 8)) = false

/-- `n` lines from an address on translate, and grant a store of the issuing context. -/
def LinesOpen (s : State) (va : Word) (n : Nat) : Prop :=
  ∀ i, i < n →
    match xlate s (agentOf s s.cur) .ls true (va + 64 * BitVec.ofNat 64 i) with
    | .bad _ => False
    | .page lo _ _ _ => grants lo .ls true = true
    | .scratch _ => True

/-- What a task's end writes in the scratchpad window lies in granules that are filled (R211). -/
def AreaFilled (s : State) (t : Task) (va n : Nat) : Prop :=
  inWindow (natW va) = true → unfilled (getCore s (coreOf t.ctx)) (va % 2 ^ 22) n = none

/-- A queue of a launch. -/
def launchQueueAt (s : State) (lid q : Nat) : Option StageQueue := (smGet s.launches lid).bind fun l => l.queues[q]?

/-- From `s1` to `t`, the command of `c` has ended with a status: STATUS is that byte of its entry in host memory, every
other byte is as in `s1`, the other functions keep their registers, and the function's head has passed the entry, where it
points at it, with one signal of its vector 0 (R369, R370). -/
def CommandEnded (c : CmdSrc) (s1 t : State) (st : CmdStatus) : Prop :=
  t = { s1 with mem := t.mem, poison := t.poison, fns := t.fns } ∧
    (∀ a, memByte t a = if a = hostPa (c.entry + 1) then BitVec.ofNat 8 st.code else memByte s1 a) ∧
    (∀ f, f ≠ c.fn → getFn t f = getFn s1 f) ∧ (getFn t c.fn).msi0 = (getFn s1 c.fn).msi0 + 1 ∧
    ((getFn s1 c.fn).size ≠ 0 → (getFn s1 c.fn).head ≠ (getFn s1 c.fn).tail → headEntry (getFn s1 c.fn) = c.entry →
      (getFn t c.fn).head = ((getFn s1 c.fn).head + 1) % (getFn s1 c.fn).size) ∧
    (getFn t c.fn).tail = (getFn s1 c.fn).tail ∧ (getFn t c.fn).base = (getFn s1 c.fn).base ∧
    (getFn t c.fn).size = (getFn s1 c.fn).size

/-- Executing the command `i` of `c` makes `s1` and ends with a status. -/
def Completed (i : Instr) (s : State) (c : CmdSrc) (s1 : State) (st : CmdStatus) : Prop :=
  ∃ t, exec i s = .next t ∧ CommandEnded c s1 t st

end Sys2Proof.Machine
end

