-- ==== Sys2Proof/Certificates/Slice0/Obligations.lean ====
section
/-! DEFINITION. The statements about the model. -/

open Sys2Proof Sys2Proof.Machine

-- Scalar words.

/-- The scalar integer words write their results; R133's s0 and the frame stand in `Writes`. -/
def Obligations.ScalarIntegerWordsWriteTheirResults : Prop :=
  -- R135, R136: the binary ALU words write their results; R133's s0 and the frame stand in `Writes`.
  (∀ (e : Bool) (d a b : SReg) (s : State), srcBad s a = false → srcBad s b = false →
     let x := rs s a
     let y := rs s b
     let n := y.toNat % 64
     Writes (.add e d a b) s d (x + y) ∧ Writes (.sub e d a b) s d (x - y) ∧
     Writes (.and e d a b) s d (x &&& y) ∧ Writes (.or e d a b) s d (x ||| y) ∧
     Writes (.xor e d a b) s d (x ^^^ y) ∧ Writes (.andn e d a b) s d (x &&& ~~~y) ∧
     Writes (.shl e d a b) s d (x <<< n) ∧ Writes (.shr e d a b) s d (x >>> n) ∧
     Writes (.sra e d a b) s d (x.sshiftRight n) ∧ Writes (.ror e d a b) s d (x.rotateRight n) ∧
     Writes (.mul e d a b) s d (x * y) ∧
     Writes (.mulhs e d a b) s d (BitVec.ofInt 64 (x.toInt * y.toInt / 2 ^ 64)) ∧
     Writes (.mulhu e d a b) s d (BitVec.ofNat 64 (x.toNat * y.toNat / 2 ^ 64)) ∧
     Writes (.divs e d a b) s d (if y = 0 then BitVec.allOnes 64 else x.sdiv y) ∧
     Writes (.divu e d a b) s d (if y = 0 then BitVec.allOnes 64 else x.udiv y) ∧
     Writes (.rems e d a b) s d (if y = 0 then x else x.srem y) ∧
     Writes (.remu e d a b) s d (if y = 0 then x else x.umod y) ∧
     Writes (.min e d a b) s d (if x.toInt ≤ y.toInt then x else y) ∧
     Writes (.max e d a b) s d (if x.toInt < y.toInt then y else x) ∧
     Writes (.minu e d a b) s d (if x ≤ y then x else y) ∧ Writes (.maxu e d a b) s d (if x < y then y else x)) ∧
  -- R135: CLZ and CTZ count the zeros above the highest and below the lowest one bit, POPC the one bits.
  (∀ (e : Bool) (d a : SReg) (s : State), srcBad s a = false →
     (∃ n, n ≤ 64 ∧ Writes (.clz e d a) s d (BitVec.ofNat 64 n) ∧
       (∀ i, i < n → bitAt (rs s a) (63 - i) = false) ∧ (n < 64 → bitAt (rs s a) (63 - n) = true)) ∧
     (∃ n, n ≤ 64 ∧ Writes (.ctz e d a) s d (BitVec.ofNat 64 n) ∧
       (∀ i, i < n → bitAt (rs s a) i = false) ∧ (n < 64 → bitAt (rs s a) n = true)) ∧
     Writes (.popc e d a) s d (BitVec.ofNat 64 ((rangeFrom 0 64).countP (bitAt (rs s a))))) ∧
  -- R137, R138: the immediate words, their immediates extended as the tables say.
  (∀ (e : Bool) (d a : SReg) (i : BitVec 11) (n : BitVec 6) (m : BitVec 17) (h : BitVec 16) (s : State),
     srcBad s a = false →
     Writes (.addi e d a i) s d (rs s a + i.signExtend 64) ∧ Writes (.andi e d a i) s d (rs s a &&& i.signExtend 64) ∧
     Writes (.ori e d a i) s d (rs s a ||| i.setWidth 64) ∧ Writes (.xori e d a i) s d (rs s a ^^^ i.setWidth 64) ∧
     Writes (.shli e d a n) s d (rs s a <<< n.toNat) ∧ Writes (.shri e d a n) s d (rs s a >>> n.toNat) ∧
     Writes (.srai e d a n) s d ((rs s a).sshiftRight n.toNat) ∧ Writes (.movi e d m) s d (m.signExtend 64) ∧
     (srcBad s d = false → Writes (.movhi e d h) s d ((rs s d <<< 16) ||| h.setWidth 64))) ∧
  -- R139, R141: the bit-field words, bit by bit, and SEL. `l` holds len − 1.
  (∀ (e : Bool) (d a b : SReg) (l : BitVec 5) (p : BitVec 6) (c : BitVec 5) (s : State),
     srcBad s a = false → srcBad s b = false → srcBad s d = false → srcBad s (c.setWidth 6) = false →
     p.toNat + l.toNat + 1 ≤ 64 →
     (∃ w, Writes (.bfxu e d a l p) s d w ∧
       ∀ n, n < 64 → bitAt w n = (decide (n ≤ l.toNat) && bitAt (rs s a) (p.toNat + n))) ∧
     (∃ w, Writes (.bfxs e d a l p) s d w ∧ ∀ n, n < 64 → bitAt w n = bitAt (rs s a) (p.toNat + min n l.toNat)) ∧
     (∃ w, Writes (.bfins e d a l p) s d w ∧
       ∀ n, n < 64 → bitAt w n =
         if p.toNat ≤ n ∧ n ≤ p.toNat + l.toNat then bitAt (rs s a) (n - p.toNat) else bitAt (rs s d) n) ∧
     Writes (.sel e d a b c) s d (if bitAt (rs s (c.setWidth 6)) 0 then rs s a else rs s b)) ∧
  -- R140: the integer compares write one bit and keep the rest.
  (∀ (e : Bool) (sd : BitVec 5) (n : BitVec 6) (a b : SReg) (s : State),
     let d : SReg := sd.setWidth 6
     let x := rs s a
     let y := rs s b
     srcBad s a = false → srcBad s b = false → srcBad s d = false →
     WritesBit (.cmpeq e sd n a b) s d n.toNat (decide (x = y)) ∧
     WritesBit (.cmpne e sd n a b) s d n.toNat (decide (x ≠ y)) ∧
     WritesBit (.cmplt e sd n a b) s d n.toNat (x.slt y) ∧ WritesBit (.cmple e sd n a b) s d n.toNat (x.sle y) ∧
     WritesBit (.cmpltu e sd n a b) s d n.toNat (x.ult y) ∧ WritesBit (.cmpleu e sd n a b) s d n.toNat (x.ule y))

/-- The scalar floating words and FCVT. -/
def Obligations.ScalarFloatingWordsWriteTheirResults : Prop :=
  -- R146 to R148: the floating words, each computed exactly and rounded once with the mode of XFMT.RM; the
  -- compares.
  (∀ (e : Bool) (d a b : SReg) (sd : BitVec 5) (n : BitVec 6) (s : State),
     srcBad s a = false → srcBad s b = false → srcBad s d = false →
     let x := decodeFloat fp32 ((rs s a).toNat % 2 ^ 32)
     let y := decodeFloat fp32 ((rs s b).toNat % 2 ^ 32)
     let z := decodeFloat fp32 ((rs s d).toNat % 2 ^ 32)
     let enc := fun v : FVal => BitVec.ofNat 64 (roundFloat fp32 false .rne v)
     (s.ModeClean →
       WritesRounded (.fadd e d a b) s d (fun m => addV (m == .rdn) x y) ∧
       WritesRounded (.fsub e d a b) s d (fun m => addV (m == .rdn) x y.negate) ∧
       WritesRounded (.fmul e d a b) s d (fun _ => mulV x y) ∧ WritesRounded (.fdiv e d a b) s d (fun _ => divV x y) ∧
       WritesRounded (.fsqrt e d a) s d (fun _ => sqrtV x) ∧
       WritesRounded (.fmac e d a b) s d (fun m => addV (m == .rdn) z (mulV x y))) ∧
     (¬s.ModeClean → ∀ i ∈ [Instr.fadd e d a b, .fsub e d a b, .fmul e d a b, .fdiv e d a b, .fsqrt e d a, .fmac e d a b],
       TrapsWith i s { cause := 6 }) ∧
     Writes (.fmin e d a b) s d (enc (minV x y)) ∧ Writes (.fmax e d a b) s d (enc (maxV x y)) ∧
     Writes (.fabs e d a) s d (enc x.absV) ∧ Writes (.fneg e d a) s d (enc x.negate) ∧
     (srcBad s (sd.setWidth 6) = false →
       WritesBit (.fcmpeq e sd n a b) s (sd.setWidth 6) n.toNat (cmpV x y == some .eq) ∧
       WritesBit (.fcmplt e sd n a b) s (sd.setWidth 6) n.toNat (cmpV x y == some .lt) ∧
       WritesBit (.fcmple e sd n a b) s (sd.setWidth 6) n.toNat (cmpV x y == some .lt || cmpV x y == some .eq) ∧
       WritesBit (.fcmpun e sd n a b) s (sd.setWidth 6) n.toNat (decide (x = .nan ∨ y = .nan)))) ∧
  -- R149: FCVT decodes the low bits of s(a) in the source format, converts with the mode of XFMT.RM, and places the
  -- result: integers sign-extended, other formats zero-extended.
  (∀ (e : Bool) (d a : SReg) (sat : Bool) (c x : BitVec 4) (s : State), srcBad s a = false → s.ModeClean →
     c.toNat ≤ 9 → x.toNat ≤ 9 →
     ∃ src dst, fmtOf c.toNat = some src ∧ fmtOf x.toNat = some dst ∧
       WritesOver (.fcvt e d a sat c x) s s (scalarMode (me s)).2 d
         (let r := convert dst src sat (scalarMode (me s)).1 ((rs s a).toNat % 2 ^ fmtBits c.toNat)
          match dst with
          | .int w => BitVec.ofInt 64 (signedOf w r)
          | _ => BitVec.ofNat 64 r))

/-- Bundles end, control transfers go to their targets or trap, hints pass. That a return into a bundle goes on with the rest of it,
and that the bundle's own transfer stays pending, is the model's reading (log entry 9). -/
def Obligations.BundlesAndControlTransfers : Prop :=
  -- R24: a word moves the PC past itself and stays inside its bundle; the word with E set ends the bundle, and the
  -- next one is at the target of the bundle's control transfer, if it has one. A return into a bundle goes on with the
  -- rest of it, whose own transfer stays pending: the model's reading of R25 (log entry 9).
  (∀ (len : Nat) (s : State),
     FallsThrough false len s (retire false len s) ∧ (me (retire false len s)).mid = true ∧
     FallsThrough true len s (retire true len s) ∧
     ((me s).jump = none → (me (retire true len s)).mid = false) ∧
     ((me s).back = [] → (me (retire true len s)).mid = false ∧ (me (retire true len s)).jump = none) ∧
     (∀ a j js, (me s).jump = some a → (me s).back = j :: js →
       (me (retire true len s)).mid = true ∧ (me (retire true len s)).jump = j ∧ (me (retire true len s)).back = js)) ∧
  -- R22, R28, R142: the control transfers outside a loop body.
  (∀ (e : Bool) (a d : SReg) (n : BitVec 6) (x : BitVec 11) (y : BitVec 23) (s : State),
     inBody (me s) (me s).pc = false → srcBad s a = false →
     let down := fun w : Word => BitVec.ofNat 64 (w.toNat / 4 * 4)
     let near := down ((me s).pc + 4 * x.signExtend 64)
     let far := down ((me s).pc + 4 * y.signExtend 64)
     (∃ t, exec (.bbs e a n x) s = .next t ∧ PassedOver (me s) s t ∧
       if bitAt (rs s a) n.toNat then GoesTo e near t else FallsThrough e 4 s t) ∧
     (∃ t, exec (.bbc e a n x) s = .next t ∧ PassedOver (me s) s t ∧
       if bitAt (rs s a) n.toNat then FallsThrough e 4 s t else GoesTo e near t) ∧
     (∃ t, exec (.jmp e y) s = .next t ∧ PassedOver (me s) s t ∧ GoesTo e far t) ∧
     (∀ r, (if e then r = (me s).pc + 4 else bundleEnd s s.cur 3 ((me s).pc + 4) = some r) →
       (∃ t, exec (.call e y) s = .next t ∧ WroteOver (me s) s t 63 r ∧ GoesTo e far t) ∧
       (∃ t, exec (.jr e d a) s = .next t ∧ WroteOver (me s) s t d r ∧ GoesTo e (down (rs s a)) t))) ∧
  -- R87: a control transfer in the body of an active stream loop traps ILLOP.
  (∀ (e : Bool) (a d : SReg) (n : BitVec 6) (x : BitVec 11) (y : BitVec 23) (s : State),
     inBody (me s) (me s).pc = true →
     ∀ i ∈ [Instr.bbs e a n x, .bbc e a n x, .jmp e y, .call e y, .jr e d a],
       TrapsWith i s { cause := 1, va := BitVec.ofNat 64 (headUnit i) }) ∧
  -- R45, R77, R145: the hint words and SYNCB have no effect but to pass.
  (∀ (e : Bool) (x : BitVec 23) (s : State),
     ∀ i ∈ [Instr.nop e x, .hintp e x, .hintb e x, .hintx e x, .syncb e],
       ∃ t, exec i s = .next t ∧ PassedOver (me s) s t ∧ FallsThrough e 4 s t)

/-- R22, R142: CALL and JR of a bundle with a later word that cannot be fetched run as in any other; that the return
address which they write is then a free value is the model's choice (log entry 27). -/
def Obligations.CallsPastUnfetchableWordsComplete : Prop :=
  ∀ (a d : SReg) (y : BitVec 23) (s : State),
    inBody (me s) (me s).pc = false → srcBad s a = false → bundleEnd s s.cur 3 ((me s).pc + 4) = none →
    let down := fun w : Word => BitVec.ofNat 64 (w.toNat / 4 * 4)
    let r := Config.freeWord s.fresh
    let s1 := { s with fresh := s.fresh + 1 }
    (∃ t, exec (.call false y) s = .next t ∧ WroteOver (me s) s1 t 63 r ∧ GoesTo false (down ((me s).pc + 4 * y.signExtend 64)) t) ∧
    (∃ t, exec (.jr false d a) s = .next t ∧ WroteOver (me s) s1 t d r ∧ GoesTo false (down (rs s a)) t)

-- State registers.

/-- R20, R59, R97, R143, R144, R282: XRD of every register, field by field where it is put together. -/
def Obligations.XrdReadsEveryStateRegister : Prop :=
  ∀ (e : Bool) (d : SReg) (s : State), s.OwnClean →
    let c := me s
    let R := fun (x : BitVec 17) (v : Word) => Writes (.xrd e d x) s d v
    (∃ w, R 0x00 w ∧ fld w 48 16 = 0x4800 ∧ fld w 44 4 = Config.fusedStep.toNat ∧ fld w 40 4 = 15 ∧ fld w 32 8 = Config.quads ∧
      fld w 24 8 = Config.cores ∧ fld w 0 24 = 0) ∧ R 0x01 c.xstat ∧ R 0x02 c.xprio ∧ R 0x03 c.xdeadline ∧
    (∃ w, R 0x04 w ∧ fld w 0 3 = fld c.xsched 0 3 ∧ fld w 3 5 = 0 ∧ fld w 8 3 = s.cur % 8 ∧ fld w 11 5 = 0 ∧
      fld w 16 16 = (instOf c) % 2 ^ 16 ∧ fld w 32 32 = 0) ∧
    (∃ w, R 0x05 w ∧ fld w 0 12 = c.tenant.toNat ∧ fld w 12 4 = 0 ∧
      (myPart s < 16 → fld w 16 4 = myPart s ∧ fld w 20 8 = worldOf s c.tenant.toNat % 256 ∧ bitAt w 28 = tscope s s.cur ∧
        fld w 29 35 = 0)) ∧
    R 0x08 c.xtrapc ∧ R 0x09 c.xtrappc ∧ R 0x0A c.xtrapva ∧ R 0x0B c.xtrapmap ∧
    R 0x10 c.xhyp ∧ R 0x11 c.xovec ∧ R 0x12 c.xhypwait ∧ R 0x18 c.xfmt ∧ R 0x19 c.xseed ∧
    (isLight s.cur = false →
      R 0x20 c.xloop ∧ R 0x21 c.xstagep ∧ R 0x22 c.xlpos ∧ R 0x23 c.xrrb ∧
      (∃ w, R 0x24 w ∧ fld w 24 40 = 0 ∧ ∀ n, n < 3 →
        fld w (8 * n) 2 = (match (engOf c n).st with | .idle => 0 | .running => 1 | .halted => 2 | .waiting => 3) ∧
        fld w (8 * n + 2) 6 = if (engOf c n).st = .halted then (engOf c n).cause % 64 else 0) ∧
      ∀ k : BitVec 6, R (BitVec.ofNat 17 (0x40 + k.toNat)) (smGetD c.xfte k.toNat 0))

/-- XWR, and its form that writes XTENANT. That a write of XDEADLINE stores at least 0x100 is the model's reading of R58
(log entry 20). -/
def Obligations.XwrWritesWhereItMay : Prop :=
  -- R57, R58, R59, R116, R127, R143, R144, R326, R327: what XWR writes of each register, field by field: for XPRIO
  -- and XDEADLINE where the writer may write it.
  (∀ (e : Bool) (d : SReg) (s : State), s.OwnClean →
     let c := me s
     let v := rs s d
     let W := fun (x : BitVec 17) (c' : Ctx) => Retires (.xwr e d x) s s c'
     W 0x01 { c with xstat := BitVec.ofNat 64 (fld v 0 1 + bitNat (bitAt c.xstat 1 && bitAt v 1) * 2 + fld v 8 56 * 2 ^ 8) } ∧
     (isSupervisor c = true ∨ fld v 0 7 ≤ fld c.xprio 8 7 → W 0x02 { c with xprio := setFld c.xprio 0 7 (fld v 0 7) }) ∧
     (isSupervisor c = true → W 0x03 { c with xdeadline := BitVec.ofNat 64 (max 0x100 (fld v 0 32)) }) ∧
     W 0x04 { c with xsched := BitVec.ofNat 64 (bitNat (bitAt c.xsched 0) + bitNat (bitAt c.xsched 1 && bitAt v 1) * 2 +
       bitNat (bitAt c.xsched 2 && bitAt v 2) * 4) } ∧
     W 0x09 { c with xtrappc := BitVec.ofNat 64 (v.toNat / 4 * 4) } ∧ W 0x0A { c with xtrapva := v } ∧
     W 0x0B { c with xtrapmap := v } ∧ W 0x11 { c with xovec := v } ∧
     W 0x12 { c with xhypwait := BitVec.ofNat 64 (fld v 0 32) } ∧
     W 0x18 { c with xfmt := BitVec.ofNat 64 (if fld v 0 3 ≤ 4 then fld v 0 3 else 0) } ∧ W 0x19 { c with xseed := v } ∧
     (∃ w : Word, W 0x08 { c with xtrapc := w } ∧ fld w 0 6 = fld v 0 6 ∧ fld w 6 2 = 0 ∧ fld w 8 5 = fld v 8 5 ∧
       fld w 13 3 = 0 ∧ fld w 16 6 = fld v 16 6 ∧ fld w 22 42 = 0) ∧
     (isLight s.cur = false →
       W 0x21 { c with xstagep := BitVec.ofNat 64 (fld v 0 8) } ∧ W 0x23 { c with xrrb := BitVec.ofNat 64 (fld v 0 5) } ∧
       ∀ k : BitVec 6, ∃ m, W (BitVec.ofNat 17 (0x40 + k.toNat)) { c with xfte := m } ∧
         ∀ j, smGetD m j 0 = if j = k.toNat then v &&& 0x8FFFFFFF else smGetD c.xfte j 0)) ∧
  -- R46, R57, R58, R143, R144, R282: an XWR that its writer may not make traps PRIV, and a register that a light
  -- context does not have traps ILLOP there, before PRIV.
  (∀ (e : Bool) (d : SReg) (x : BitVec 17) (s : State), s.OwnClean →
     let no := fun n => TrapsWith (.xwr e d x) s { cause := n, va := BitVec.ofNat 64 (headUnit (.xwr e d x)) }
     (isLight s.cur = true → 0x20 ≤ x.toNat →
       no 1 ∧ TrapsWith (.xrd e d x) s { cause := 1, va := BitVec.ofNat 64 (headUnit (.xrd e d x)) }) ∧
     (x = 0x00 ∨ x = 0x10 ∨ (isLight s.cur = false ∧ (x = 0x22 ∨ x = 0x24)) → no 2) ∧
     (isSupervisor (me s) = false → x = 0x03 ∨ x = 0x05 → no 2) ∧
     (isSupervisor (me s) = false → x = 0x02 → fld (me s).xprio 8 7 < fld (rs s d) 0 7 → no 2) ∧
     (x = 0x05 → tenantIn s (fld (rs s d) 0 12) (myPart s) = false → no 2)) ∧
  -- R282: a supervisor's write of XTENANT that passes its checks.
  (∀ (e : Bool) (d : SReg) (s : State), s.OwnClean → isSupervisor (me s) = true →
     let t := fld (rs s d) 0 12
     tenantIn s t (myPart s) = true → (∀ f n, frameAt s (coreOf s.cur) = some (f, n) → worldOf s t = frameWorldOf f) →
     ∀ i ∈ [Instr.xtenantWrite e d, .xwr e d 0x05], Retires i s s { me s with tenant := BitVec.ofNat 12 t })

/-- LSET, and the forms of XWR that start and abandon a stream loop. -/
def Obligations.LoopsStartAndAreAbandoned : Prop :=
  -- R82: LSET writes one loop register of a full context; the running index of an active nest keeps its value.
  (∀ (e : Bool) (a : SReg) (q : BitVec 3) (l : BitVec 4) (s : State), isLight s.cur = false → srcBad s a = false →
     if isIndex s (me s) q.toNat l.toNat = true then Retires (.lset e a q l) s s (me s)
     else
       ∃ m, Retires (.lset e a q l) s (loopClean s s.cur q.toNat l.toNat) { me s with l := m } ∧
         ∀ k, smGetD m k 0 = if k = 16 * q.toNat + l.toNat then rs s a else smGetD (me s).l k 0) ∧
  -- R86, R88: XWR to XLOOP with GO = 1 starts the loop at the address after its bundle, or passes over the body
  -- where a trip count is 0. R347: a poisoned trip count traps UCE.
  (∀ (d : SReg) (s : State), s.OwnClean → isLight s.cur = false → (me s).jump = none →
     let c := me s
     let v := setBit (rs s d) 24 true
     let start := c.pc + 4
     let base := fld v 11 4
     let dims := fld v 8 3 + 1
     let preg := fld v 18 6
     loopActive c = false → dims ≤ 6 → base + 2 * dims ≤ 16 →
     bodyScan s s.cur (fld v 0 8 + 1) start (fld v 0 8 + 1) = .ok →
     ∀ i, (i = Instr.xloopStart true d ∨ (i = .xwr true d 0x20 ∧ bitAt (rs s d) 24 = true)) →
       let bad := fun k => isPoison s (.loopReg (clusterOf s.cur) (64 + base + 2 * k))
       ((∃ k, k < dims ∧ bad k = true) → TrapsWith i s { cause := 6 }) ∧
       ((∀ k, k < dims → bad k = false) →
         ∃ t, exec i s = .next t ∧ s.OwnOnly t ∧
           if ∃ k, k < dims ∧ lget c 4 (base + 2 * k) = 0 then
             bitAt (me t).xloop 24 = false ∧ (me t).pc = start + BitVec.ofNat 64 (4 * (fld v 0 8 + 1))
           else
             (me t).pc = start ∧ (me t).bodyAt = start ∧ bitAt (me t).xloop 24 = true ∧ bitAt (me t).xloop 25 = false ∧
             fld (me t).xloop 0 24 = fld v 0 24 ∧ (me t).xlpos = 1 ∧ (me t).xstagep = 1 ∧ (me t).bodyBuf = [] ∧
             (me t).bodyTrips = (rangeFrom 0 dims).map (fun k => (lget c 4 (base + 2 * k)).toNat) ∧
             (∀ k, k < dims → lget (me t) 4 (base + 2 * k + 1) = 0) ∧
             (preg ≠ 0 → fld (sread (me t) (BitVec.ofNat 6 preg)) 0 8 = 1))) ∧
  -- R84, R86, R143: XWR to XLOOP with GO = 0 stores the fields, leaves no loop active and keeps DRN.
  (∀ (e : Bool) (d : SReg) (s : State), s.OwnClean → isLight s.cur = false →
     ∀ i, (i = Instr.xloopAbandon e d ∨ (i = .xwr e d 0x20 ∧ bitAt (rs s d) 24 = false)) →
       ∃ w : Word, Retires i s s { me s with xloop := w, loopIdle := false, drainCut := false } ∧ fld w 0 24 = fld (rs s d) 0 24 ∧ fld w 24 1 = 0 ∧
         bitAt w 25 = bitAt (me s).xloop 25 ∧ fld w 26 38 = 0)

-- Loop registers, engines and the turns of contexts.

/-- AGO and the engine commands. -/
def Obligations.EnginesAreCommanded : Prop :=
  -- R96: AGO starts an engine that is idle or halted at its program, with the context's view and tenant and no
  -- queue bound; in resume mode a halted engine runs again from where it stands.
  (∀ (e : Bool) (d : SReg) (g : BitVec 2) (s : State), isLight s.cur = false → srcBad s d = false →
     ((engOf (me s) g.toNat).st = .idle ∨ (engOf (me s) g.toNat).st = .halted →
       ∃ s1, exec (.ago e d false g) s = .next (retire e 4 (leadGens (clusterOf s.cur) g.toNat 16 s1)) ∧
         (∀ id, id ≠ s.cur → getCtx s1 id = getCtx s id) ∧ s1.mem = s.mem ∧
         engOf (me s1) g.toNat =
           { st := .running, cmd := BitVec.ofNat 64 ((rs s d).toNat / 8 * 8), view := fld (me s).xhyp 0 10,
             tenant := (me s).tenant.toNat } ∧
         (∀ n, n ≠ g.toNat → engOf (me s1) n = engOf (me s) n) ∧
         ∀ q bs, (q, Handle.data g.toNat bs) ∉ (me s1).q) ∧
     (∃ t, exec (.ago e 0 true g) s = .next t ∧ s.OwnOnly t ∧
       ((engOf (me s) g.toNat).st = .halted →
         (engOf (me t) g.toNat).st = .running ∧ (engOf (me t) g.toNat).cmd = (engOf (me s) g.toNat).cmd ∧
           (engOf (me t) g.toNat).nest = (engOf (me s) g.toNat).nest) ∧
       ((engOf (me s) g.toNat).st ≠ .halted → engOf (me t) g.toNat = engOf (me s) g.toNat))) ∧
  -- R91 to R93, R95, R97: the commands of a running engine. AEND leaves it idle; AGEN binds its queue, or halts
  -- with QERR where that is bound elsewhere, and the core's L1 keeps no more than it has room for; ALOOP starts its nest, ends at once where a trip count is 0, or halts
  -- with QERR without an AGEN; ASTEP adds to a register; AWAIT goes on once its number has completed, and holds the
  -- engine until then.
  (∀ (cl n : Nat) (g : AGenF) (f : ALoopF) (a b : BitVec 4) (k : BitVec 3) (s : State),
     let id := 8 * cl
     let c := getCtx s id
     let e := engOf c n
     e.st = .running ∨ e.st = .waiting →
       let halted := fun c' : Ctx => (engOf c' n).st = .halted ∧ (engOf c' n).cause = 7 ∧ (engOf c' n).va = e.cmd ∧ c'.q = c.q
       let went := fun c' : Ctx => (engOf c' n).st = e.st ∧ (engOf c' n).cmd = e.cmd + 8
       (∃ c', CtxBecomes (.aend cl n) s id c' ∧ (engOf c' n).st = .idle ∧ (engOf c' n).nest = none ∧ c'.q = c.q ∧ c'.l = c.l) ∧
       (∃ t c', exec (.agen cl n g) s = .next t ∧ t = { s with ctxs := t.ctxs, cores := t.cores } ∧ getCtx t id = c' ∧
         (∀ k, k ≠ id → getCtx t k = getCtx s k) ∧ (∀ k, k ≠ coreOf id → getCore t k = getCore s k) ∧
         getCore t (coreOf id) =
           { getCore s (coreOf id) with l1 := (getCore s (coreOf id)).l1.take (l1Lines t (coreOf id)) } ∧ c'.l = c.l ∧
         (smGet c.q g.q.toNat = none → went c' ∧ (engOf c' n).gen = some g ∧ smGet c'.q g.q.toNat = some (.data n [])) ∧
         (∀ bs, smGet c.q g.q.toNat = some (.data n bs) → went c' ∧ (engOf c' n).gen = some g ∧ c'.q = c.q) ∧
         ((∃ h, smGet c.q g.q.toNat = some h ∧ ∀ bs, h ≠ .data n bs) → halted c')) ∧
       (∃ c', CtxBecomes (.aloop cl n f) s id c' ∧ c'.l = c.l ∧ c'.q = c.q ∧
         let trips := tripsOf c n f.l.toNat (f.dims.toNat + 1)
         (e.gen = none → halted c') ∧
         (∀ g0, e.gen = some g0 →
           (0 ∈ trips → went c' ∧ (engOf c' n).nest = e.nest) ∧
           (0 ∉ trips → (engOf c' n).cmd = e.cmd ∧ ∃ x, (engOf c' n).nest = some x ∧ x.f = f ∧ x.trips = trips ∧ x.pos = 0 ∧
             x.base = lget c n g0.base.toNat ∧ x.pitch = lget c n g0.pitch.toNat ∧
             x.strides = stridesOf c n f.s.toNat (f.dims.toNat + 1)))) ∧
       (∃ c', CtxBecomes (.astep cl n a b) s id c' ∧ went c' ∧
         ∀ r : BitVec 4, lget c' n r.toNat = if r = a then lget c n a.toNat + lget c n b.toNat else lget c n r.toNat) ∧
       (let v := (lget c n a.toNat).toNat
        (v ≤ tcDone (tcOf c k.toNat) →
           ∃ t, exec (.awaitCmd cl n k a) s = .next t ∧ (engOf (getCtx t id) n).st = .running ∧
             (engOf (getCtx t id) n).cmd = e.cmd + 8 ∧ (engOf (getCtx t id) n).awaits = none ∧ t.mem = s.mem) ∧
        (tcDone (tcOf c k.toNat) < v →
           ∃ c', CtxBecomes (.awaitCmd cl n k a) s id c' ∧ (engOf c' n).st = .waiting ∧ (engOf c' n).cmd = e.cmd ∧
             (engOf c' n).awaits = some (k.toNat, v))))

/-- SPAWN, YIELD, EXIT and TRET. -/
def Obligations.ContextsStartYieldAndEnd : Prop :=
  -- R72: SPAWN of a supervisor starts a light context of its cluster with the parent's priority, tenant, view and
  -- deadline, and returns its number; with none to start it returns 0.
  (∀ (e : Bool) (d a b : SReg) (c : BitVec 3) (s : State),
     isSupervisor (me s) = true → srcBad s a = false → srcBad s b = false →
     (spawnTarget s c.toNat = none → Writes (.spawn e d a b c) s d 0) ∧
     (∀ id, spawnTarget s c.toNat = some id → id ≠ s.cur →
       ∃ t, exec (.spawn e d a b c) s = .next t ∧ rs t d = (if d = 0 then BitVec.allOnes 64 else BitVec.ofNat 64 (id % 8)) ∧
         (∀ r, r ≠ d → rs t r = rs s r) ∧ (∀ x, memByte t x = memByte s x) ∧
         (∀ j, j ≠ id → j ≠ s.cur → getCtx t j = getCtx s j) ∧
         let n := getCtx t id
         n.run = .runnable ∧ n.pc = BitVec.ofNat 64 ((rs s a).toNat / 4 * 4) ∧ sread n 1 = rs s b ∧
           (∀ r, r ≠ 0 → r ≠ 1 → sread n r = 0) ∧ fld n.xprio 0 7 = fld (me s).xprio 0 7 ∧
           fld n.xprio 8 7 = fld (me s).xprio 0 7 ∧ n.xhyp = (me s).xhyp ∧ n.tenant = (me s).tenant ∧
           n.xdeadline = (me s).xdeadline ∧ n.xstat = 0)) ∧
  -- R78: YIELD discards the vector groups that its mask names; with a pre-emption request pending the context is
  -- then suspended, to go on after the word, and otherwise goes on at once. In a light context it has no groups to discard.
  (∀ (e : Bool) (m : BitVec 16) (s : State),
     let Zeroed := fun (t : State) =>
       ∀ v, vget (me t) v = if isLight s.cur = false ∧ natBit m.toNat (v / 4) = true then 0 else vget (me s) v
     (bitAt (me s).xsched 0 = false →
       ∃ t, exec (.yield e m) s = .next t ∧ s.OwnOnly t ∧ Ctx.PlaceOnly { me s with v := (me t).v } (me t) ∧
         FallsThrough e 4 s t ∧ Zeroed t) ∧
     (bitAt (me s).xsched 0 = true →
       ∃ t, exec (.yield e m) s = .next t ∧ (me t).run = .saving ∧ (me t).forced = false ∧ (me t).s = (me s).s ∧
         FallsThrough e 4 s t ∧ Zeroed t ∧ (me t).dead = (if isLight s.cur then 0 else m) ∧
         t.agenda.head? = some (.auto (.imageWritten s.cur)) ∧ ∀ a, memByte t a = memByte s a)) ∧
  -- R62, R79: EXIT with nothing left to complete ends its context, after a release at `.pk` and the record of its code:
  -- it is FREE, or DORMANT where it is light, and CODE of its launch is the maximum; with an operation in flight its word
  -- stalls.
  (∀ (e : Bool) (c : BitVec 8) (s : State),
     let s1 := restartTold s s.cur
     faultDue s1 s.cur anyNumber [4, 5, 6] = none → regionsLeft s1 s.cur = [] →
     (exitReady s1 s.cur = true →
       let s2 := release s1 s.cur 4 none
       let t := endContext s.cur (recordCode s.cur c.toNat s2)
       exec (.exit e c) s = .next t ∧ (getCtx t s.cur).run = (if isLight s.cur then .dormant else .free) ∧
         (getCtx t s.cur).member = none ∧ (getCtx t s.cur).s = (me s).s ∧
         ∀ lid l l2, taskLaunch s2 s.cur = some lid → smGet s2.launches lid = some l → smGet t.launches lid = some l2 →
           l2.code = max l.code c.toNat) ∧
     (exitReady s1 s.cur = false → StallsAt (.exit e c) s .exit)) ∧
  -- R331, R332: TRET returns to XTRAPPC, its low bits zero, or with SKIP past the word there, and clears TH; with STOP
  -- the context stops there. A held CKPT is taken there first, with XTRAPPC at the target. Where the target lies in a bundle
  -- that a trap has left part-way, the return takes up what that trap has kept (log entries 9 and 83).
  (∀ (e sk : Bool) (s : State), s.OwnClean →
     let back := BitVec.ofNat 64 ((me s).xtrappc.toNat / 4 * 4)
     let vec := fld (me s).xstat 8 56
     ∀ to_, (sk = false ∧ to_ = back ∨
         sk = true ∧ ∃ w, fetchUnit s s.cur back = .unit w ∧ to_ = back + BitVec.ofNat 64 (4 * unitCount w)) →
       framesStuck s s.cur to_ (me s).held = none →
       let kept := popFrame s s.cur to_ (me s).held
       let c' := { me s with xstat := setBit (me s).xstat 0 false, loopIdle := false, held := kept.2, qadvLeft := kept.1.adv }
       ((me s).ckptHeld = false →
         (∃ t, exec (.tret e false sk) s = .next t ∧ PassedOver c' s t ∧ GoesTo e to_ t) ∧
         (∃ t, exec (.tret e true sk) s = .next t ∧ (me t).run = .stopped ∧ (me t).pc = to_ ∧
           bitAt (me t).xstat 0 = false ∧ (me t).s = (me s).s)) ∧
       ((me s).ckptHeld = true → vec ≠ 0 →
         ∀ p, ∃ t, exec (.tret e p sk) s = .next t ∧ (me t).run = .runnable ∧ (me t).ckptHeld = false ∧ (me t).xtrapc = 17 ∧
           (me t).xtrappc = to_ ∧ bitAt (me t).xstat 0 = true ∧ (me t).pc = BitVec.ofNat 64 (256 * vec) ∧
           (me t).s = (me s).s ∧ t.mem = s.mem))

/-- SNAP and the Docent. What the latch captures and what reads of the snapshot answer are the model's choice (log entry 15). -/
def Obligations.DocentAnswersAndSnapshotsFire : Prop :=
  -- R354: SNAP fires the trigger where it is armed for SNAP and the context's partition, and says whether it did; of
  -- two firings in one cycle the lowest place is kept.
  (∀ (e : Bool) (d : SReg) (x : BitVec 8) (s : State),
     (snapReady s .snap (myPart s) = false → Writes (.snap e d x) s d 0) ∧
     (snapReady s .snap (myPart s) = true →
       (∀ mask src, s.snapArmed = some (mask, src) →
         WritesOver (.snap e d x) s
           { s with snapArmed := none
                    snapFired := some { cycle := s.cycle, tag := x.toNat, place := s.cur, mask := mask, src := src } } (me s) d 1) ∧
       (∀ f, s.snapArmed = none → s.snapFired = some f →
         WritesOver (.snap e d x) s
           (if s.cur < f.place then { s with snapFired := some { f with tag := x.toNat, place := s.cur } } else s) (me s) d 1))) ∧
  -- R353 to R359, R361, R362: the Docent's part: the trigger arms, fires and latches; a replayed input is delivered
  -- where it matches its log, and stops the replay where it does not; a session opens with its certificate and
  -- reaches stopped contexts of its tenant alone; measurements and log checkpoints are signed; a firmware update is
  -- staged, acknowledged, withdrawn.
  ((∀ (mask : BitVec 16) (src : SnapSource) (s : State),
     exec (.snapshotArm mask src) s = .next { s with snapArmed := some (mask, src) } ∧
     (s.snapArmed = none → exec .snapshotFire s = .next s) ∧
     (∀ m src1, s.snapArmed = some (m, src1) →
       exec .snapshotFire s = .next (if fireReady s then
         { s with snapArmed := none, snapFired := some { cycle := s.cycle, tag := 0, place := 0, mask := m, src := src1 } } else s)) ∧
     (s.snapFired = none → exec .snapshotLatch s = .next s) ∧
     (∀ f, s.snapFired = some f →
       let x := latched s f
       exec .snapshotLatch s = .next (if 16 ≤ since s f.cycle then { s with snapFired := none, snapshot := some x } else s) ∧
         x.tag = f.tag ∧ x.place = f.place ∧ x.cycle = f.cycle ∧ x.ctxs = s.ctxs ∧ x.cores = s.cores ∧ x.dies = s.dies ∧
         x.launches = s.launches ∧ x.outbox = s.outbox ∧ x.portsDown = s.portsDown ∧ x.annexDown = s.annexDown ∧ x.scnt = s.scnt)) ∧
   (∀ (lid q : Nat) (bs : List Byte) (s : State) (l : Launch) (rec_ : BitVec 256) (rest : List (BitVec 256)),
     smGet s.replaying lid = some (rec_ :: rest) → smGet s.launches lid = some l →
     let i := Instr.replayDelivery (.entry lid q bs)
     (diverges rec_ 1 q 0xFFFF bs = true →
       ∃ t, exec i s = .next t ∧ smGet t.replaying lid = none ∧ t.launches = s.launches ∧
         ∀ k, { getCtx t k with watchFired := (getCtx s k).watchFired } = getCtx s k) ∧
     (∀ x, diverges rec_ 1 q 0xFFFF bs = false → l.queues[q]? = some x → external l q = true → x.closed = false →
       x.entries.length < x.depth →
       ∃ t, exec i s = .next t ∧ t.mem = s.mem ∧ t.ctxs = s.ctxs ∧ smGet t.replaying lid = some rest ∧
         launchQueueAt t lid q = some { x with entries := x.entries ++ [clean bs], puts := x.puts + 1 }) ∧
     (∀ x, diverges rec_ 1 q 0xFFFF bs = false → l.queues[q]? = some x → x.depth ≤ x.entries.length → exec i s = .next s)) ∧
   (∀ (tenant : Nat) (cert : BitVec 384) (s : State),
     exec (.tenantCertificateEnrol tenant cert) s = .next { s with certs := smPut s.certs tenant cert } ∧
     (smGet s.certs tenant = some cert →
       ∃ t, exec (.debugSession tenant cert) s = .next t ∧ t = { s with sessions := t.sessions, replies := s.replies ++ [.status 0] } ∧
         ∀ k, k ∈ t.sessions ↔ k ∈ s.sessions ∨ k = tenant) ∧
     (smGet s.certs tenant ≠ some cert →
       exec (.debugSession tenant cert) s = .next { s with replies := s.replies ++ [.status 7] })) ∧
   (∀ (ctx : Nat) (r : DbgReg) (v : Word) (k : DbgCond) (s : State),
     let c := getCtx s ctx
     let Changes := fun (i : Instr) (f : Ctx → Prop) =>
       ∃ t, exec i s = .next t ∧ t = { s with ctxs := t.ctxs, poison := t.poison, replies := s.replies ++ [.status 0] } ∧
         f (getCtx t ctx) ∧ ∀ n, n ≠ ctx → getCtx t n = getCtx s n
     let denied := { s with replies := s.replies ++ [.status 7] }
     (∀ w, exec (.debugStateAccess ctx (.snap r) w) s = .next (
       if s.snapshot.isSome && w.isNone && debuggable (snapState s) ctx && debugHas (snapState s) ctx r then
         { s with replies := s.replies ++ [.value (getCtx (snapState s) ctx).tenant.toNat (debugRead (snapState s) ctx r)] }
       else denied)) ∧
     (debuggable s ctx = false → ofSnap r = false → exec (.debugStateAccess ctx r none) s = .next denied ∧
       exec (.debugStateAccess ctx r (some v)) s = .next denied ∧ exec (.debugArm ctx k) s = .next denied) ∧
     (debuggable s ctx = true →
       Changes (.debugArm ctx k) (fun x => x = { c with dbg := c.dbg ++ [k] }) ∧
       (ofSnap r = false → c.run ≠ .stopped ∨ debugHas s ctx r = false → exec (.debugStateAccess ctx r (some v)) s = .next denied) ∧
       (ofSnap r = false → c.run = .stopped → debugHas s ctx r = true →
         exec (.debugStateAccess ctx r none) s = .next { s with replies := s.replies ++ [.value c.tenant.toNat (debugRead s ctx r)] } ∧
         ∀ n : SReg, n ≠ 0 → Changes (.debugStateAccess ctx (.sreg n) (some v)) fun x =>
           sread x n = v ∧ x.pc = c.pc ∧ ∀ j : SReg, j ≠ n → sread x j = sread c j))) ∧
   ∀ (who tenant : Nat) (f : Firmware) (s : State),
     exec (.getMeasurements who) s = .next { s with
       fresh := s.fresh + 1,
       replies := s.replies ++ [.measurements who s.measured (Config.signature s.fresh (s.measured.flatMap fun d => beBytes 48 d.toNat))] } ∧
     (let good := Config.balquaSigned f.digest f.signature && decide (s.svnFuses ≤ f.svn ∧ f.svn ≤ 64)
      exec (.firmwareUpdateStage f) s = .next (if good then { s with staged := some { fw := f, acks := [] }, replies := s.replies ++ [.status 0] }
        else { s with replies := s.replies ++ [.status 1] })) ∧
     exec .updateWithdraw s = .next { s with staged := none } ∧
     (s.staged = none ∨ tenant ∉ s.sessions → exec (.updateAck tenant) s = .next s) ∧
     (∀ u, s.staged = some u → tenant ∈ s.sessions → tenant ∉ u.acks → (∃ r, smGet s.tenants tenant = some r ∧ r.valid = true) →
       ∃ t, exec (.updateAck tenant) s = .next t ∧ t.mem = s.mem ∧ t.staged = some { u with acks := tenant :: u.acks } ∧
         (smGetD t.logs tenant {}).seq = (smGetD s.logs tenant {}).seq + 1) ∧
     (let u := smGetD s.logs tenant {}
      let signed := fun (s : State) (n : Nat) => { s with
        fresh := s.fresh + 1,
        replies := s.replies ++ [.logSigned tenant n (digestOf u n)
          (Config.signature s.fresh (leBytes 2 tenant ++ leBytes 8 n ++ beBytes 48 (digestOf u n).toNat))] }
      let n := u.signed + 4096
      exec (.usageLogSignRequest tenant) s = .next (if s.sessions.contains tenant then signed s u.seq else s) ∧
      (n ≤ u.seq → exec (.usageLogSignPeriodic tenant) s = .next (signed { s with logs := smPut s.logs tenant { u with signed := n } } n)) ∧
      (u.seq < n → exec (.usageLogSignPeriodic tenant) s = .next s)))

-- Ordering and waits.

/-- TLGET and TLWAIT. That a light context reads tc.mx at its cluster's full context is the model's reading (log entry 36), and so is
that a wait inside a bundle stalls there (log entry 8). -/
def Obligations.TimelineWordsReadAndWait : Prop :=
  -- R240, R242: TLGET reads a counter's completed or issued number; tc.mx is the cluster's.
  (∀ (e : Bool) (d : SReg) (c : BitVec 3) (s : State),
     let t := tcOf (getCtx s (if c = 5 then s.cur / 8 * 8 else s.cur)) c.toNat
     Writes (.tlget e d false c) s d (BitVec.ofNat 64 (tcDone t)) ∧
     Writes (.tlget e d true c) s d (BitVec.ofNat 64 t.issued)) ∧
  -- R220, R241: TLWAIT takes a deferred fault of its counter, the operation restarting where this word has taken it
  -- before. It returns 1 once the number has completed, having acquired the operations at its scope: no copy is left of
  -- a line that they wrote. It returns 2 where the number can never arise, and waits otherwise, or is suspended where a
  -- pre-emption is pending.
  (∀ (e : Bool) (d a : SReg) (sc c : BitVec 3) (s : State), srcBad s a = false →
     let i := Instr.tlwait e d a sc c
     let s1 := restartTold s s.cur
     let n := (rs s a).toNat
     let t := counterOf s1 s.cur c.toNat
     let k := (demote s1 s.cur sc.toNat).1
     let s2 := acquireCounter (demote s1 s.cur sc.toNat).2 s.cur c.toNat n k
     (∀ x s', counterDue s1 s.cur n c.toNat = some (x, s') → TrapsOver i s s' x) ∧
     (counterDue s1 s.cur n c.toNat = none →
       (n ≤ tcDone t →
         WritesOver i s s2 (me s2) d 1 ∧ s2.mem = s.mem ∧ (∀ r, rs s2 r = rs s r) ∧ (∀ m, tcOf (me s2) m = tcOf (me s1) m) ∧
           (1 ≤ c.toNat → wideScope s1 s.cur k = true →
             ∀ k ∈ l1Arrays s (coreOf s.cur), ∀ x ∈ (getCore s2 k).l1,
               inSig (getCtx s2 (if c = 5 then s.cur / 8 * 8 else s.cur)).engSig x.line = false)) ∧
       (tcDone t < n → t.issued < n → noMore s1 s.cur c.toNat = true → WritesOver i s s1 (me s1) d 2) ∧
       (tcDone t < n → (n ≤ t.issued ∨ noMore s1 s.cur c.toNat = false) →
         exec i s = .next (
           if (me s).mid then setCtx s1 s.cur { me s1 with wait := some (.counter c.toNat n), due := none }
           else if bitAt (me s).xsched 0 then beginSave s.cur (draining (me s1)) s1
           else setCtx s1 s.cur { me s1 with run := .waiting, wait := some (.counter c.toNat n), due := none }))))

/-- FENCE, and what a wide scope does. -/
def Obligations.FencesOrderAndInvalidate : Prop :=
  -- R216 to R218, R240: FENCE with nothing of the fabric outstanding does the release and the acquire of its scope;
  -- with ENG it first has every numbered operation completed; otherwise its word stalls.
  (∀ (e : Bool) (sc : BitVec 3) (s : State),
     let id := s.cur
     let k := fun u : State => (demote u id sc.toNat).1
     let at_ := fun u : State => (demote u id sc.toNat).2
     (fabricPending (me s) (k s) = false →
       Retires (.fence e false sc) s (fenceAt (at_ s) id (k s)) (me (fenceAt (at_ s) id (k s)))) ∧
     (fabricPending (me s) (k s) = true → StallsAt (.fence e false sc) s (.counter 6 (tcOf (me s) 6).issued)) ∧
     (let s1 := restartTold s id
      faultDue s1 id anyNumber (rangeFrom 0 8) = none →
       (allDone s1 id = true →
         fabricPending (me s1) (k s1) = false ∧
         let s2 := fenceAt (acquireEvery (at_ s1) id (k s1)) id (k s1)
         Retires (.fence e true sc) s s2 (me s2)) ∧
       (allDone s1 id = false → StallsAt (.fence e true sc) s .engines))) ∧
  -- R208, R216, R217: what a release and an acquire at a wide scope do: none of the context's own stores is left in its
  -- unit, nor one of another context there that a release at P-L1 has passed on; and with a signature of all ones the L1
  -- and, from `.pk` on, the die's visitor copies are gone.
  (∀ (id sc : Nat) (s : State), wideScope s id sc = true →
     (∀ p ∈ (getCore (releaseDrain s id sc) (l1Unit s (coreOf id))).pending, ¬(p.op = none ∧ (p.ctx = id ∨ p.passed = true))) ∧
     (∀ k ∈ l1Arrays s (coreOf id), (getCore (acquireAll s id sc) k).l1 = []) ∧
     (4 ≤ sc → (getDie (acquireAll s id sc) (dieOf id)).visitors = []) ∧
     (∀ a, memByte (acquireAll s id sc) a = memByte s a))

/-- MONITOR and MWAIT. -/
def Obligations.WatchesFireAndEnd : Prop :=
  -- R229, R230, R243: MONITOR arms the watch on the line of its address and takes a tc.ls number.
  (∀ (e : Bool) (a : SReg) (s : State), srcBad s a = false →
     let va := rs s a
     let ag := agentOf s s.cur
     let armed := fun (key : Nat) (c : Ctx) => tcStep { c with watchVa := va, watchKey := some key, watchFired := false } 0
     (∀ off, xlate s ag .ls false va = .scratch off →
       Retires (.monitor e a) s s (armed (watchScratch (coreOf s.cur) off) (me s))) ∧
     (∀ lo hi pa x, xlate s ag .ls false va = .page lo hi pa x → grants lo .ls false = true → isHost pa = false →
       (delayed s ag.part (pa / 64) = true → StallsAt (.monitor e a) s .resolve) ∧
       (delayed s ag.part (pa / 64) = false →
         let s1 := (readLine (tlbNote s ag va (.page lo hi pa x)) ag (pagePoint lo pa) false (pa / 64) 0 64).2
         Retires (.monitor e a) s s1 (armed (watchLine (pa / 64)) (me s1))))) ∧
  -- R244: MWAIT returns 0 with no watch armed and 1 where it has fired; otherwise it waits, for as long as it says.
  (∀ (e : Bool) (d a : SReg) (s : State), srcBad s a = false →
     let done := { me s with watchFired := false, run := .runnable, wait := none, due := none }
     ((me s).watchKey = none → WritesOver (.mwait e d a) s s done d 0) ∧
     (∀ k, (me s).watchKey = some k → (me s).watchFired = true → WritesOver (.mwait e d a) s s done d 1) ∧
     (∀ k, (me s).watchKey = some k → (me s).watchFired = false → bitAt (me s).xsched 0 = false →
       ∃ t, exec (.mwait e d a) s = .next t ∧ s.OwnOnly t ∧ (me t).run = (if (me s).mid then (me s).run else .waiting) ∧
         (me t).pc = (me s).pc ∧ (me t).due = if fld (rs s a) 0 32 = 0 then none else some (cycleIn s (fld (rs s a) 0 32))))

/-- BAR, and synced groups. -/
def Obligations.BarriersAndGroupsMeet : Prop :=
  -- R245: BAR takes its count from s(d), or for s0 the members of the instance, all in the scope's unit; it stalls at a
  -- scope whose fabric writes are outstanding. It releases at its scope and arrives. The arrival that fills the barrier
  -- ends the episode and lets every arrived context go on past its BAR, each with an acquire at the scope; an earlier one,
  -- and at `.pd` every one where the package is attached to a fabric, joins the episode and waits, or is suspended where a
  -- pre-emption is pending. No count, a count of 0, and one that differs from the episode's trap QERR. The arrivals of
  -- other packages that the fabric has told of count too (log entry 98).
  (∀ (e : Bool) (d : SReg) (i : BitVec 5) (c : BitVec 3) (s : State), (d ≠ 0 → srcBad s d = false) →
     let id := s.cur
     let bar := Instr.bar e d i c
     let count := if d = 0 then instCount s id c.toNat else some (fld (rs s d) 0 24)
     let s1 := release s id c.toNat none
     let key := barKey s id c.toNat i.toNat
     let b := (s1.barriers.find? fun b => b.key == key).getD { key := key, n := count.getD 0, arrived := [] }
     let rest := s1.barriers.filter fun b => b.key != key
     (count = none → TrapsWith bar s { cause := 7 }) ∧
     (∀ n, count = some n →
       (fabricPending (me s) c.toNat = true → StallsAt bar s (.counter 6 (tcOf (me s) 6).issued)) ∧
       (fabricPending (me s) c.toNat = false →
         (n = 0 ∨ b.n ≠ n → TrapsOver bar s s1 { cause := 7 }) ∧
         let full := n ≤ b.arrived.length + b.away + 1 ∧ relayed s1 c.toNat = false
         (n ≠ 0 → b.n = n → full → (b.arrived ++ [id]).Nodup →
           ∃ t, exec bar s = .next t ∧ t.barriers = rest ∧ (∀ a, memByte t a = memByte s1 a) ∧
             (∀ m, m ∉ b.arrived → m ≠ id → getCtx t m = getCtx s1 m) ∧
             ∀ m ∈ b.arrived ++ [id],
               let x := getCtx s1 m
               let y := getCtx t m
               Ctx.PlaceOnly { x with run := .runnable, wait := none, due := none } y ∧
                 (if (if m = id then e else barE s1 m) then y.pc = x.jump.getD (x.pc + 4) else y.pc = x.pc + 4) ∧
                 (wideScope s1 m c.toNat = true → ∀ k ∈ l1Arrays s1 (coreOf m), (getCore t k).l1 = [])) ∧
         (n ≠ 0 → b.n = n → ¬full → (me s).mid = false →
           exec bar s = .next (if bitAt (me s).xsched 0 then beginSave id (draining (me s1)) s1
             else { setCtx s1 id { me s1 with run := .waiting, wait := some (.barrier key e c.toNat), due := none } with
                    barriers := { b with arrived := b.arrived ++ [id] } :: rest }))))) ∧
  -- R245: once the fabric has told that the arrivals of other packages make up the count of a `.pd` barrier, its contexts go on.
  (∀ (part i n away : Nat) (s : State) (b : Barrier), n ≠ 0 → part < 16 → i < 32 →
     s.barriers.find? (fun x => x.key == podKey part i) = some b → b.n = n → b.arrived.Nodup → n ≤ b.arrived.length + away →
     let t := podBarrier part i n away s
     t.barriers = (s.barriers.filter fun x => x.key != podKey part i) ∧ (∀ a, memByte t a = memByte s a) ∧
       ∀ m ∈ b.arrived, (getCtx t m).run = .runnable ∧ (getCtx t m).wait = none) ∧
  -- R26: a group whose members all wait at synced bundles issues them together; before that nothing happens.
  (∀ (core lid serial : Nat) (s : State) (id : Nat) (m : Member),
     smGet s.ctxs id = some (getCtx s id) → coreOf id = core → (getCtx s id).member = some m → m.lid = lid → m.serial = serial →
     (∀ j ∈ s.ctxs, coreOf j.1 = core → (∃ x, j.2.member = some x ∧ x.lid = lid ∧ x.serial = serial) → syncGroup s j.1 = syncGroup s id) →
     let g := syncGroup s id
     let i := Instr.syncedBundleIssue core lid serial
     ((∃ k ∈ g, atSync s k = false) → exec i s = .next s) ∧
     ((∀ k ∈ g, atSync s k = true) →
       ∃ t, exec i s = .next t ∧ t = { s with ctxs := t.ctxs } ∧
         ∀ k, getCtx t k = if k ∈ g then { getCtx s k with run := .runnable, wait := none, syncGo := true } else getCtx s k))

-- Memory.

/-- The plain loads. -/
def Obligations.LoadsReadMemory : Prop :=
  -- R210, R229, R232, R233: a plain load from the scratchpad window writes the little-endian value of its bytes,
  -- counts on tc.ls, and changes no byte.
  (∀ (e : Bool) (d a b : SReg) (x : BitVec 11) (p : BitVec 2) (g : Bool) (z : BitVec 2) (s : State),
     srcBad s a = false → srcBad s b = false →
     ∀ f ∈ loadForms e d a b x p g z s,
       inWindow f.2.1 = true → f.2.1.toNat % 64 + f.2.2.1 ≤ 64 → s.padReady (f.2.1.toNat % 2 ^ 22) f.2.2.1 →
       WritesOver f.1 s s (tcStep (me s) 0) d (extended f.2.2.2.1 f.2.2.1 (s.pad (f.2.1.toNat % 2 ^ 22) f.2.2.1))) ∧
  -- R229, R230, R233: a plain load from a page that grants it writes the value of the bytes that its point shows
  -- under the context's view, and counts on tc.ls. At P-L1 no byte of memory changes.
  (∀ (e : Bool) (d a b : SReg) (x : BitVec 11) (p : BitVec 2) (g : Bool) (z : BitVec 2) (s : State),
     srcBad s a = false → srcBad s b = false →
     ∀ f ∈ loadForms e d a b x p g z s, ∀ lo hi pa o, f.2.1.toNat % 64 + f.2.2.1 ≤ 64 →
       xlate s (agentOf s s.cur) .ls false f.2.1 = .page lo hi pa o → grants lo .ls false = true →
       delayed s (agentOf s s.cur).part (pa / 64) = false →
       let point := max f.2.2.2.2 (pagePoint lo pa)
       let r := readLine (tlbNote s (agentOf s s.cur) f.2.1 (.page lo hi pa o)) (agentOf s s.cur) point (f.2.2.2.2 == 2)
         (pa / 64) (pa % 64) f.2.2.1
       anyBad r.1 = false →
       WritesOver f.1 s r.2 (tcStep (me r.2) 0) d (extended f.2.2.2.1 f.2.2.1 (bytesOf r.1)) ∧
         (point = 0 → ∀ q, memByte r.2 q = memByte s q)) ∧
  -- R219, R233, R261: where nothing of the line stands nearer than its home, the value is that of the bytes of memory.
  (∀ (e : Bool) (d a b : SReg) (x : BitVec 11) (p : BitVec 2) (g : Bool) (z : BitVec 2) (s : State),
     srcBad s a = false → srcBad s b = false →
     ∀ f ∈ loadForms e d a b x p g z s, ∀ lo hi pa o, f.2.1.toNat % 64 + f.2.2.1 ≤ 64 → pa % 64 = f.2.1.toNat % 64 →
       xlate s (agentOf s s.cur) .ls false f.2.1 = .page lo hi pa o → grants lo .ls false = true →
       s.LineAtHome (agentOf s s.cur) (pa / 64) → s.CleanAt pa f.2.2.1 →
       ∃ s1, WritesOver f.1 s s1 (tcStep (me s1) 0) d (extended f.2.2.2.1 f.2.2.1 ((rangeFrom pa f.2.2.1).map (memByte s))) ∧
         ∀ q, memByte s1 q = memByte s q) ∧
  -- R219, R233: an agent's read at the point at which it has just written some bytes of a line gives those bytes.
  (∀ (s : State) (ag : Agent) (point line off : Nat) (bs : List Byte), off + bs.length ≤ 64 →
     s.LineAtHome ag line → s.CleanAt (64 * line + off) bs.length →
     (readLine (writeLine s ag point false line off (clean bs)) ag point false line off bs.length).1 = clean bs)

/-- The plain stores, with their frame: the bytes at the address computed, and no other. -/
def Obligations.StoresWriteMemory : Prop :=
  -- R210, R232, R233: a plain store to the scratchpad window writes the low bytes of s(d) there, and no other byte
  -- of the scratchpads or of memory.
  (∀ (e : Bool) (d a b : SReg) (x : BitVec 11) (p : BitVec 2) (z : BitVec 2) (s : State),
     srcBad s a = false → srcBad s b = false → srcBad s d = false →
     ∀ f ∈ storeForms e d a b x p z s,
       inWindow f.2.1 = true → f.2.1.toNat % 64 + f.2.2.1 ≤ 64 →
       unfilled (getCore s (coreOf s.cur)) (f.2.1.toNat % 2 ^ 22) f.2.2.1 = none →
       ∃ t, exec f.1 s = .next t ∧ PadWritten s t (f.2.1.toNat % 2 ^ 22) (leBytes f.2.2.1 (rs s d).toNat) ∧
         (∀ r, rs t r = rs s r) ∧ tcOf (me t) 0 = { (tcOf (me s) 0) with issued := (tcOf (me s) 0).issued + 1 }) ∧
  -- R208, R212, R233: a plain store to a page that grants it. At P-L1 memory is unchanged and the bytes stand in
  -- the core's unit as its newest store; beyond it, where no older store of the line is on its way, exactly the
  -- stored bytes of memory change.
  (∀ (e : Bool) (d a b : SReg) (x : BitVec 11) (p : BitVec 2) (z : BitVec 2) (s : State),
     srcBad s a = false → srcBad s b = false → srcBad s d = false →
     ∀ f ∈ storeForms e d a b x p z s, ∀ lo hi pa o, f.2.1.toNat % 64 + f.2.2.1 ≤ 64 →
       xlate s (agentOf s s.cur) .ls true f.2.1 = .page lo hi pa o → grants lo .ls true = true →
       let point := max f.2.2.2 (pagePoint lo pa)
       let bs := leBytes f.2.2.1 (rs s d).toNat
       let unit := l1Unit s (coreOf s.cur)
       ∃ t, exec f.1 s = .next t ∧ (∀ r, rs t r = rs s r) ∧
         (point = 0 →
           (∀ q, memByte t q = memByte s q) ∧
           (getCore t unit).pending = (getCore s unit).pending ++
             [{ line := pa / 64, ctx := s.cur, tenant := (me s).tenant.toNat, op := none, bytes := offBytes (pa % 64) (clean bs) }]) ∧
         (0 < point → (∀ w ∈ (getCore s unit).pending, w.line ≠ pa / 64) →
           ∀ q, memByte t q = if pa ≤ q then (bs[q - pa]?).getD (memByte s q) else memByte s q))

/-- Line-spanning and ungranted accesses. -/
def Obligations.AccessesThatAreRefusedTrap : Prop :=
  -- R229, R233, R235: an access that spans two lines traps ALIGN, before any translation.
  (∀ (e : Bool) (d a b : SReg) (x : BitVec 11) (p : BitVec 2) (g : Bool) (z : BitVec 2) (s : State),
     srcBad s a = false → srcBad s b = false → srcBad s d = false →
     (∀ f ∈ loadForms e d a b x p g z s, 64 < f.2.1.toNat % 64 + f.2.2.1 → TrapsWith f.1 s { cause := 5, va := f.2.1 }) ∧
     (∀ f ∈ storeForms e d a b x p z s, 64 < f.2.1.toNat % 64 + f.2.2.1 →
       TrapsWith f.1 s { cause := 5, w := true, va := f.2.1 }) ∧
     (64 < (rs s a).toNat % 64 + 2 ^ z.toNat → TrapsWith (.stH e d a z) s { cause := 5, w := true, va := rs s a })) ∧
  -- R229, R252: a plain access of an address with no translation traps with its cause, one of a page that does not
  -- grant it PERM.
  (∀ (e : Bool) (d a b : SReg) (x : BitVec 11) (p : BitVec 2) (g : Bool) (z : BitVec 2) (s : State),
     srcBad s a = false → srcBad s b = false → srcBad s d = false →
     (∀ f ∈ loadForms e d a b x p g z s, f.2.1.toNat % 64 + f.2.2.1 ≤ 64 →
       (∀ n, xlate s (agentOf s s.cur) .ls false f.2.1 = .bad n → TrapsWith f.1 s { cause := n, va := f.2.1 }) ∧
       (∀ lo hi pa o, xlate s (agentOf s s.cur) .ls false f.2.1 = .page lo hi pa o → grants lo .ls false = false →
         TrapsWith f.1 s { cause := 4, va := f.2.1 })) ∧
     (∀ f ∈ storeForms e d a b x p z s, f.2.1.toNat % 64 + f.2.2.1 ≤ 64 →
       (∀ n, xlate s (agentOf s s.cur) .ls true f.2.1 = .bad n → TrapsWith f.1 s { cause := n, w := true, va := f.2.1 }) ∧
       (∀ lo hi pa o, xlate s (agentOf s s.cur) .ls true f.2.1 = .page lo hi pa o → grants lo .ls true = false →
         TrapsWith f.1 s { cause := 4, w := true, va := f.2.1 })))

/-- R216, R234: LDA loads at an address rounded down to its size and then acquires at its scope; STL releases at its
scope and then stores, its store passed on to whoever acquires it. -/
def Obligations.AcquiringLoadsAndReleasingStores : Prop :=
  ∀ (e : Bool) (d a : SReg) (z : BitVec 2) (c : BitVec 3) (s : State),
    srcBad s a = false → srcBad s d = false →
    let n := 2 ^ z.toNat
    let va := BitVec.ofNat 64 ((rs s a).toNat / n * n)
    let ag := agentOf s s.cur
    let sc := fun u : State => (demote u s.cur c.toNat).1
    let at_ := fun u : State => (demote u s.cur c.toNat).2
    let bs := leBytes n (rs s d).toNat
    (inWindow va = true → s.padReady (va.toNat % 2 ^ 22) n →
      let s1 := acquireAt (at_ s) s.cur (sc s) none
      WritesOver (.lda e d a z c) s s1 (tcStep (me s1) 0) d (extended false n (s.pad (va.toNat % 2 ^ 22) n))) ∧
    (∀ lo hi pa o, xlate s ag .ls false va = .page lo hi pa o → grants lo .ls false = true →
      delayed s ag.part (pa / 64) = false →
      let r := readLine (tlbNote s ag va (.page lo hi pa o)) ag (max (scopePoint s s.cur c.toNat) (pagePoint lo pa)) false
        (pa / 64) (pa % 64) n
      anyBad r.1 = false →
      let s1 := acquireAt (at_ r.2) s.cur (sc r.2) (some (pa / 64))
      WritesOver (.lda e d a z c) s s1 (tcStep (me s1) 0) d (extended false n (bytesOf r.1))) ∧
    (fabricPending (me s) (sc s) = true →
      inWindow va = true ∨ (∃ lo hi pa o, xlate s ag .ls true va = .page lo hi pa o ∧ grants lo .ls true = true) →
      StallsAt (.stl e d a z c) s (.counter 6 (tcOf (me s) 6).issued)) ∧
    (fabricPending (me s) (sc s) = false →
      (inWindow va = true → unfilled (getCore s (coreOf s.cur)) (va.toNat % 2 ^ 22) n = none →
        ∃ t, exec (.stl e d a z c) s = .next t ∧ (∀ r, rs t r = rs s r) ∧
          ∀ i, smGetD (getCore t (coreOf s.cur)).scratch i 0 =
            if va.toNat % 2 ^ 22 ≤ i then (bs[i - va.toNat % 2 ^ 22]?).getD (smGetD (getCore s (coreOf s.cur)).scratch i 0)
            else smGetD (getCore s (coreOf s.cur)).scratch i 0) ∧
      (∀ lo hi pa o, xlate s ag .ls true va = .page lo hi pa o → grants lo .ls true = true →
        let s1 := release (at_ s) s.cur (sc s) (some (pa / 64))
        let s2 := passStore (writeLine (tlbNote s1 (agentOf s1 s.cur) va (.page lo hi pa o)) (agentOf s1 s.cur)
          (max (scopePoint s s.cur c.toNat) (pagePoint lo pa)) false (pa / 64) (pa % 64) (clean bs)) s.cur (pa / 64)
        xlate s1 (agentOf s1 s.cur) .ls true va = .page lo hi pa o →
        Retires (.stl e d a z c) s s2 (tcStep (me s2) 0)))

/-- Tagged stores write versions, and the root sees committed memory. -/
def Obligations.VersionsAreSeenByTheirViews : Prop :=
  -- R233, R235: ST.H at the root is the plain store of its bytes.
  (∀ (e : Bool) (d a : SReg) (z : BitVec 2) (s : State), srcBad s a = false → srcBad s d = false → viewOf (me s) = 0 →
     let va := rs s a
     let n := 2 ^ z.toNat
     let bs := leBytes n (rs s d).toNat
     let unit := l1Unit s (coreOf s.cur)
     va.toNat % 64 + n ≤ 64 →
     (inWindow va = true → unfilled (getCore s (coreOf s.cur)) (va.toNat % 2 ^ 22) n = none →
       ∃ t, exec (.stH e d a z) s = .next t ∧ PadWritten s t (va.toNat % 2 ^ 22) bs ∧ ∀ r, rs t r = rs s r) ∧
     (∀ lo hi pa o, xlate s (agentOf s s.cur) .ls true va = .page lo hi pa o → grants lo .ls true = true →
       ∃ t, exec (.stH e d a z) s = .next t ∧ (∀ r, rs t r = rs s r) ∧
         (pagePoint lo pa = 0 →
           (∀ q, memByte t q = memByte s q) ∧
           (getCore t unit).pending = (getCore s unit).pending ++
             [{ line := pa / 64, ctx := s.cur, tenant := (me s).tenant.toNat, op := none, bytes := offBytes (pa % 64) (clean bs) }]) ∧
         (0 < pagePoint lo pa → (∀ w ∈ (getCore s unit).pending, w.line ≠ pa / 64) →
           ∀ q, memByte t q = if pa ≤ q then (bs[q - pa]?).getD (memByte s q) else memByte s q))) ∧
  -- R235, R261, R263, R267, R269: under any other view it writes a version that stands for the context's node, leaves
  -- memory as it was, and the context's view then shows the bytes. Under a node that has merged into the root the bytes
  -- are committed, under a refuted one they are discarded. It stalls while a resolve that its node's versions wait for is
  -- not applied; it waits while the version space is full, XHYPWAIT cycles in all, and then traps HYPCAP. It traps
  -- HYPADDR where no version may lie.
  (∀ (e : Bool) (d a : SReg) (z : BitVec 2) (s : State), srcBad s a = false → srcBad s d = false →
     let va := rs s a
     let n := 2 ^ z.toNat
     let ag := agentOf s s.cur
     let bs := leBytes n (rs s d).toNat
     va.toNat % 64 + n ≤ 64 →
     viewOf (me s) ≠ 0 →
     let p := getPart s ag.part
     let h := resolveN p ag.view
     let die := fun pa : Nat => homeDie (pa / 64)
     (inWindow va = true → TrapsWith (.stH e d a z) s { cause := 10, w := true, va := va }) ∧
     (∀ k, xlate s ag .ls true va = .bad k → TrapsWith (.stH e d a z) s { cause := k, w := true, va := va }) ∧
     (∀ lo hi pa o, xlate s ag .ls true va = .page lo hi pa o →
       let barred := leafPeer lo = true ∨ isHost pa = true ∨ pagePoint lo pa = 2
       (barred → TrapsWith (.stH e d a z) s { cause := 10, w := true, va := va }) ∧
       (¬barred → grants lo .ls true = false → TrapsWith (.stH e d a z) s { cause := 4, w := true, va := va }) ∧
       (¬barred → grants lo .ls true = true →
         let line := pa / 64
         let s0 := tlbNote s ag va (.page lo hi pa o)
         let late := delayed s ag.part line = true ∨ ∃ r ∈ p.resolves, ag.view ∈ r.touched
         let held := ∃ v ∈ p.versions, v.line = line ∧ resolveN p v.node = h ∧ v.bytes ≠ []
         let room := versionUse s ag.part (die pa) + 64 ≤ versionSpace s ag.part (die pa)
         let limit := (me s).due.getD (cycleIn s (fld (me s).xhypwait 0 32))
         let alone := ∀ w ∈ (getCore s (l1Unit s (coreOf s.cur))).pending, w.line ≠ line
         let Stored := fun s1 : State => Retires (.stH e d a z) s s1 (tcStep { me s1 with due := none } 0)
         (late → StallsAt (.stH e d a z) s .resolve) ∧
         (¬late → (getNode p ag.view).st = .refuted →
           ∃ s1, tagWrite s0 ag line (pa % 64) (clean bs) = .done s1 ∧ Stored s1 ∧ ∀ q, memByte s1 q = memByte s q) ∧
         (¬late → (getNode p ag.view).st ≠ .refuted →
           (h = 0 → ∃ s1, tagWrite s0 ag line (pa % 64) (clean bs) = .done s1 ∧ Stored s1 ∧
             (alone → ∀ q, memByte s1 q = if pa ≤ q then (bs[q - pa]?).getD (memByte s q) else memByte s q)) ∧
           (h ≠ 0 → held ∨ room → ∃ s1, tagWrite s0 ag line (pa % 64) (clean bs) = .done s1 ∧ Stored s1 ∧
             (alone → ∀ q, memByte s1 q = memByte s q) ∧
             (resolveN p h = h → visibleHome s1 ag.part ag.view line (pa % 64) n = clean bs)) ∧
           (h ≠ 0 → ¬held → ¬room →
             (reached s limit = true → TrapsWith (.stH e d a z) s { cause := 11, w := true, va := va }) ∧
             (reached s limit = false → bitAt (me s).xsched 0 = false →
               exec (.stH e d a z) s = .next (setCtx s s.cur
                 { me s with run := if (me s).mid then (me s).run else .waiting
                             wait := some (.versionSpace line va), due := some limit }))))))) ∧
  -- R261: the view of an OPEN root is the committed memory, whatever versions stand on its lines.
  (∀ (s : State) (part line off n : Nat), (getNode (getPart s part) 0).st = .opened →
     visibleHome s part 0 line off n = (rangeFrom (64 * line + off) n).map (committed s))

/-- AMO, CAS, AMO.BINS, and the exact-cell words. -/
def Obligations.AtomicsReturnAndReplace : Prop :=
  -- R230, R236 to R238: AMO, CAS and AMO.BINS on the scratchpad: the old value to s(d), the new one in its place.
  (∀ (e : Bool) (d a b : SReg) (z hi : Bool) (o : BitVec 4) (s : State),
     srcBad s a = false → srcBad s b = false → srcBad s d = false →
     let n := if z then 8 else 4
     let off := (rs s a).toNat / n * n % 2 ^ 22
     let old := leNat (s.pad off n)
     let x := (rs s b).toNat % 2 ^ (8 * n)
     let off1 := (rs s a).toNat % 2 ^ 22
     let old1 := leNat (s.pad off1 1)
     let nib := (rs s b).toNat % 16
     let Done := fun (i : Instr) (at_ n old new : Nat) =>
       ∃ t, exec i s = .next t ∧ PadWritten s t at_ (leBytes n new) ∧
         ∀ r, rs t r = if r = 0 then BitVec.allOnes 64 else if r = d then BitVec.ofNat 64 old else rs s r
     (inWindow (BitVec.ofNat 64 ((rs s a).toNat / n * n)) = true → s.padReady off n →
       (o.toNat ≤ 8 → Done (.amo e d a b z o) off n old (amoValue o.toNat (8 * n) old x)) ∧
       Done (.cas e d a b z) off n old (if old = (rs s d).toNat % 2 ^ (8 * n) then x else old)) ∧
     (inWindow (rs s a) = true → s.padReady off1 1 →
       Done (.amoBins e d a b hi) off1 1 old1 (if hi then old1 % 16 + 16 * nib else old1 / 16 * 16 + nib))) ∧
  -- R236, R237: AMO and CAS on a page of package memory, where no store of the line is on its way: the old value to
  -- s(d), and in memory exactly the operand's bytes replaced by the new value.
  (∀ (e : Bool) (d a b : SReg) (z : Bool) (o : BitVec 4) (s : State) (lo hi : Word) (pa q : Nat),
     srcBad s a = false → srcBad s b = false → srcBad s d = false →
     let n := if z then 8 else 4
     let va := BitVec.ofNat 64 ((rs s a).toNat / n * n)
     let ag := { agentOf s s.cur with view := 0 }
     xlate s ag .ls true va = .page lo hi pa q → grants lo .ls true = true → isHost pa = false → memPoison s pa n = false →
     (∀ w ∈ (getCore s (l1Unit s (coreOf s.cur))).pending, w.line ≠ pa / 64) →
     let old := memNat s pa n
     let x := (rs s b).toNat % 2 ^ (8 * n)
     let Done := fun (i : Instr) (new : Nat) =>
       ∃ t, exec i s = .next t ∧
         (∀ k, memByte t k = if pa ≤ k then ((leBytes n new)[k - pa]?).getD (memByte s k) else memByte s k) ∧
         ∀ r, rs t r = if r = 0 then BitVec.allOnes 64 else if r = d then BitVec.ofNat 64 old else rs s r
     (o.toNat ≤ 8 → Done (.amo e d a b z o) (amoValue o.toNat (8 * n) old x)) ∧
     Done (.cas e d a b z) (if old = (rs s d).toNat % 2 ^ (8 * n) then x else old)) ∧
  -- R131, R132, R239: the exact-cell words on a page that grants the write and holds no poison there, once the unit's
  -- stores to the lines of the cell have reached their home: AXADD adds at the grain of the page and returns the flags,
  -- AXRD reads, AXCLR clears. A slot below 32 and the scratchpad window refuse.
  (∀ (e : Bool) (d a b : SReg) (s : State), srcBad s a = false → srcBad s b = false →
     let va := rs s a
     let slot := va.toNat / 32 % 2048
     (slot < 32 ∨ inWindow va = true →
       WritesOver (.axadd e d a b) s s (tcStep (me s) 0) d 1 ∧ WritesOver (.axclr e d a) s s (tcStep (me s) 0) d 1 ∧
       WritesOver (.axrd e d a) s s (tcStep (me s) 0) d (BitVec.ofNat 64 (2 ^ 34))) ∧
     (∀ lo hi pa q, 32 ≤ slot → inWindow va = false →
       let ag := { agentOf s s.cur with view := 0 }
       xlate s ag .ls true va = .page lo hi pa q → leafPeer lo = false → isHost pa = false → grants lo .ls true = true →
       let page := pa / 65536 * 65536
       let home := fun (u : State) (line : Nat) => refreshLine (drainLine u (l1Unit s (coreOf s.cur)) line) ag line false
       let s1 := [page / 64, pa / 64, (page + 512 + slot / 4) / 64].foldl home (tlbNote s ag va (.page lo hi pa q))
       cellBad s1 page slot = false →
       let c := readCell s1 page slot
       let sum := c.add (f32 (rs s b))
       let added := writeCell s1 ag lo page slot sum
       let cleared := writeCell s1 ag lo page slot { c with n := 0, sat := false, nan := false }
       WritesOver (.axadd e d a b) s added (tcStep (me added) 0) d (BitVec.ofNat 64 (bitNat sum.sat * 2 + bitNat sum.nan * 4)) ∧
       WritesOver (.axclr e d a) s cleared (tcStep (me cleared) 0) d 0 ∧
       WritesOver (.axrd e d a) s s1 (tcStep (me s1) 0) d
         (BitVec.ofNat 64 ((if c.nan then fp32.nanBits else roundFloat fp32 false .rne (.fin (decide (c.n < 0)) c.n.natAbs c.e)) +
           bitNat c.sat * 2 ^ 32 + bitNat c.nan * 2 ^ 33))))

-- Hypotheses.

/-- HOPEN, HSET, HGET, HSTAT and HVEC. -/
def Obligations.HypothesisWordsActOnTheTable : Prop :=
  -- R258, R272: HOPEN with no undecided resolve takes the lowest FREE ID as a child of the context's node; with
  -- ENTER the context moves there. With none FREE it returns 0 and changes nothing.
  (∀ (e enter : Bool) (d : SReg) (s : State),
     let p := getPart s (myPart s)
     let view := fld (me s).xhyp 0 10
     (p.resolves ≠ [] → StallsAt (.hopen e d enter) s .resolve) ∧
     (p.resolves = [] →
     ((∀ n, 1 ≤ n → n < 1024 → (getNode p n).st ≠ .free) → Writes (.hopen e d enter) s d 0) ∧
     (∀ i, 1 ≤ i → i < 1024 → (getNode p i).st = .free → (∀ j, 1 ≤ j → j < i → (getNode p j).st ≠ .free) →
       ∃ s1 c1, WritesOver (.hopen e d enter) s s1 c1 d (BitVec.ofNat 64 i) ∧
         getNode (getPart s1 (myPart s)) i =
           { st := .opened, parent := resolveN p view, aliasOf := i, tenant := (me s).tenant.toNat } ∧
         (∀ n, n ≠ i → getNode (getPart s1 (myPart s)) n = getNode p n) ∧ s1.mem = s.mem ∧
         c1 = { me s with xhyp := c1.xhyp } ∧
         if enter then fld c1.xhyp 0 10 = i ∧ fld c1.xhyp 26 2 = 0 ∧ fld c1.xhyp 16 10 = fld (me s).xhyp 16 10
         else c1.xhyp = (me s).xhyp))) ∧
  -- R264, R273: HSET to the root, or to an OPEN or MERGED node of the context's tenant, moves the view there; to
  -- any other node it returns 0 and changes nothing.
  (∀ (e : Bool) (d a : SReg) (s : State), srcBad s a = false →
     let p := getPart s (myPart s)
     let t := fld (rs s a) 0 10
     let ok := t = 0 ∨ (((getNode p t).st = .opened ∨ (getNode p t).st = .merged) ∧ (getNode p t).tenant = (me s).tenant.toNat)
     (ok → ∃ s1 c1, WritesOver (.hset e d a) s s1 c1 d 1 ∧ s1.mem = s.mem ∧ s1.parts = s.parts ∧
       c1 = { me s with xhyp := c1.xhyp } ∧ fld c1.xhyp 0 10 = resolveN p t % 1024 ∧ fld c1.xhyp 26 2 = 0) ∧
     (¬ok → Writes (.hset e d a) s d 0)) ∧
  -- R254, R274 to R276: HGET, HSTAT and HVEC read the context's view and the table and change nothing.
  (∀ (e : Bool) (d a : SReg) (s : State), srcBad s a = false →
     let p := getPart s (myPart s)
     let view := fld (me s).xhyp 0 10
     let n := fld (rs s a) 0 10
     let g := fld (rs s a) 0 4
     let bit := fun (c : BitVec 3) (f : Nat → Bool) =>
       ∃ w, Writes (.hvec e d a c) s d w ∧ ∀ i, i < 64 → bitAt w i = f (64 * g + i)
     Writes (.hget e d 0) s d (BitVec.ofNat 64 view) ∧ Writes (.hget e d 1) s d (BitVec.ofNat 64 (getNode p view).parent) ∧
     (∃ k, Writes (.hget e d 2) s d (BitVec.ofNat 64 k) ∧ (view = 0 → k = 0) ∧
       (view ≠ 0 → (getNode p view).parent = 0 → k = 1)) ∧
     ((getNode p n).st = .free → Writes (.hstat e d a) s d 0) ∧
     ((getNode p n).st = .opened → (getNode p n).parent < 1024 → (getNode p n).aliasOf < 1024 → (getNode p n).tenant < 4096 →
       ∃ w, Writes (.hstat e d a) s d w ∧ fld w 0 2 = 1 ∧ bitAt w 2 = (getNode p n).pend ∧ fld w 8 10 = (getNode p n).parent ∧
         fld w 18 10 = (getNode p n).aliasOf ∧ fld w 32 12 = (getNode p n).tenant ∧
         fld w 48 16 = min (nodeRefs s (myPart s) n) 0xFFFF) ∧
     bit 0 (fun k => (getNode p k).st == .opened) ∧ bit 1 (fun k => (getNode p k).st == .merged) ∧
     bit 2 (fun k => (getNode p k).st == .refuted) ∧ bit 3 (fun k => (getNode p k).st == .free) ∧
     bit 4 (fun k => onPath p view k))

/-- HRES, and the events that apply and sweep a resolve. -/
def Obligations.ResolvesAreDecidedAppliedAndSwept : Prop :=
  -- R256, R277: HRES releases at `.pk` and is decided against the table as the earlier resolves leave it: 2 for the
  -- root, 3 for a node not OPEN, 4 for another tenant's; an accepted one takes a tc.hr number, joins the order and
  -- marks PEND.
  (∀ (e : Bool) (d a : SReg) (s : State), srcBad s a = false →
     let h := fld (rs s a) 0 10
     let s1 := release s s.cur 4 none
     let part := myPart s1
     let x := getNode (decided (getPart s1 part)) h
     ∀ i cf, (i = Instr.hresCf e d a ∧ cf = true) ∨ (i = .hresRf e d a ∧ cf = false) →
       (h = 0 → WritesOver i s s1 (me s1) d 2) ∧
       (h ≠ 0 → x.st ≠ .opened → WritesOver i s s1 (me s1) d 3) ∧
       (h ≠ 0 → x.st = .opened → x.tenant ≠ (me s1).tenant.toNat → WritesOver i s s1 (me s1) d 4) ∧
       (h ≠ 0 → x.st = .opened → x.tenant = (me s1).tenant.toNat →
         let num := (tcOf (me s1) 7).issued + 1
         ∃ s2, WritesOver i s s2 (tcTake (me s1) 7).2 d (BitVec.ofNat 64 (1 + num * 2 ^ 16)) ∧ s2.mem = s1.mem ∧
           (∃ r, (getPart s2 part).resolves = (getPart s1 part).resolves ++ [r] ∧
             r.node = h ∧ r.confirm = cf ∧ r.ctx = s.cur ∧ r.uid = (me s).uid ∧ r.num = num) ∧
           (h ∈ (getPart s1 part).nodes.map (·.1) → (getNode (getPart s2 part) h).pend = true))) ∧
  -- R255, R256, R266, R267: the oldest decided resolve of a partition is applied: its set is REFUTED, or its node
  -- MERGED into its parent; memory is unchanged by a refute; the number completes at the start that issued it, wherever
  -- that runs now. A sweep leaves no emptied version of its node.
  ((∀ (part : Nat) (s : State),
     let p := getPart s part
     (p.resolves = [] → exec (.resolveApply part) s = .next s) ∧
     (∀ r rest, p.resolves = r :: rest →
       ∃ t, exec (.resolveApply part) s = .next t ∧ (getPart t part).resolves = rest ∧
         (∀ x, s.ctxs.find? (fun e => e.2.uid == r.uid && e.2.run != .free && e.2.run != .dormant) = some x →
           r.num ∉ (tcOf (getCtx t x.1) 7).pending) ∧ (r.node ≠ 0 → (getNode (getPart t part) r.node).pend = false) ∧
         (r.confirm = false → t.mem = s.mem ∧ ∀ n ∈ refuteSet p r.node, (getNode (getPart t part) n).st = .refuted) ∧
         (r.confirm = true → r.node ≠ 0 → (getNode p r.node).st = .opened →
           (getNode (getPart t part) r.node).st = .merged ∧ (getNode (getPart t part) r.node).aliasOf = (getNode p r.node).parent ∧
           ((getNode p r.node).parent ≠ 0 → t.mem = s.mem)) ∧
         -- A confirm into the root commits the bytes of the node's versions, and no others.
         (r.confirm = true → (getNode p r.node).parent = 0 → (∀ v ∈ nodeVersions p r.node, ∀ e ∈ v.bytes, e.1 < 64) →
           (∀ v ∈ nodeVersions p r.node, (v.bytes.map (·.1)).Nodup ∧ ∀ w ∈ nodeVersions p r.node, w.line = v.line → w = v) →
           (∀ v ∈ nodeVersions p r.node, ∀ e ∈ v.bytes, memByte t (64 * v.line + e.1) = e.2.1) ∧
           ∀ a, (∀ v ∈ nodeVersions p r.node, a / 64 = v.line → a % 64 ∉ v.bytes.map (·.1)) → memByte t a = memByte s a))) ∧
   ∀ (part node : Nat) (s : State),
     (sweepable (getPart s part) node = false → exec (.sweep part node) s = .next s) ∧
     (sweepable (getPart s part) node = true →
       ∃ t, exec (.sweep part node) s = .next t ∧ t.mem = s.mem ∧
         ((getNode (getPart t part) node).swept = true ∨ (getNode (getPart t part) node).st = .free) ∧
         ∀ v ∈ (getPart t part).versions, v.node = node → v.bytes ≠ []))

-- Vector and queue words.

/-- The vector words over registers, queues, masks and compares. That VUNPK4 of an immediate reads the low nibbles of the immediate
expanded to the type field's width is the model's reading (log entry 34), and so is that a word with no row on completes over poisoned sources and a poisoned XSEED (log entry
32). -/
def Obligations.VectorWordsComplete : Prop :=
  -- R34, R35, R100, R102, R117, R150, R151, R153, R154, R159, R165: the vector words with two sources complete.
  -- VFMA and VFMS, which read their destination, trap ILLOP on a queue there.
  (∀ (k : BitVec 3) (w : V3) (s : State), isLight s.cur = false →
     (∀ f ∈ vecForms3 w, VecClean s f.h f.srcs f.bad f.rounds → QueuesReady (me s) f.srcs → f.Completes s) ∧
     (∀ f ∈ vecForms3d k w, VecClean s f.h f.srcs f.bad f.rounds → QueuesReady (me s) f.srcs →
       f.i = .vselk k w ∨ w.d.isQueue = false → f.Completes s) ∧
     (w.d.isQueue = true → ∀ i ∈ [Instr.vfma w, .vfms w], TrapsWith i s { cause := 1, va := BitVec.ofNat 64 (headUnit i) })) ∧
  -- R34, R35, R100, R102, R117, R150 to R155, R160 to R164, R166: the vector words with one source, or none,
  -- complete.
  (∀ (w : V2) (x : VI) (s : State), isLight s.cur = false →
     (∀ f ∈ vecForms2 w, VecClean s f.h f.srcs f.bad f.rounds → QueuesReady (me s) f.srcs → f.Completes s) ∧
     (∀ f ∈ vecFormsI x, VecClean s f.h f.srcs f.bad f.rounds → QueuesReady (me s) f.srcs → f.Completes s)) ∧
  -- R33, R34, R156 to R158: VCMP writes the enabled row bits of its two destinations, the second over the first;
  -- VKCMP and the mask words write the enabled rows of their mask.
  (∀ (w : VC) (x : VK) (h : VHead) (d a b : BitVec 3) (s : State), isLight s.cur = false →
     let c := me s
     let el := fun (src : Src) (ty : BitVec 3) (r j : Nat) => src.elem (tyBits ty) r j
     (∀ f ∈ vcmpForms w, VecClean s w.h [w.a, w.b] (fun s => srcBad s w.regA || srcBad s w.regB) → QueuesReady c [w.a, w.b] →
       w.bitA.toNat ≤ 48 → w.bitBPos ≤ 48 →
       ∃ t, exec f.1 s = .next t ∧ s.OwnOnly t ∧ FallsThrough w.h.e 12 s t ∧
         Ctx.PlaceOnly { c with s := (me t).s, q := (me t).q } (me t) ∧ QueuesTaken c (me t) [w.a, w.b] ∧
         let u := fun r => el (operandOf w.h.ty c [w.a, w.b] 0) w.h.ty r 0
         let v := fun r => el (operandOf w.h.ty c [w.a, w.b] 1) w.h.ty r 0
         let on := fun r => natBit (guardRows c w.h.guard) r
         ∀ (r : SReg) (n : Nat), r ≠ 0 → n < 64 →
           bitAt (rs t r) n =
             if r = w.regB ∧ w.bitBPos ≤ n ∧ n < w.bitBPos + 16 ∧ on (n - w.bitBPos) = true then
               ordered w.h.ty (u (n - w.bitBPos)) (v (n - w.bitBPos)) && !f.2.holds w.h.ty (u (n - w.bitBPos)) (v (n - w.bitBPos))
             else if r = w.regA ∧ w.bitA.toNat ≤ n ∧ n < w.bitA.toNat + 16 ∧ on (n - w.bitA.toNat) = true then
               f.2.holds w.h.ty (u (n - w.bitA.toNat)) (v (n - w.bitA.toNat))
             else bitAt (rs s r) n) ∧
     (∀ f ∈ vkcmpForms x, VecClean s x.h [x.a, x.b] (fun _ => false) → QueuesReady c [x.a, x.b] →
       ∃ t, exec f.1 s = .next t ∧ s.OwnOnly t ∧ FallsThrough x.h.e 12 s t ∧
         Ctx.PlaceOnly { c with k := (me t).k, q := (me t).q } (me t) ∧ QueuesTaken c (me t) [x.a, x.b] ∧
         (∀ m, m ≠ x.k.toNat → kget (me t) m = kget c m) ∧
         ∀ r n, r < 16 → n < 128 →
           natBit (maskRow (kget (me t) x.k.toNat) r) n =
             if natBit (guardRows c x.h.guard) r = true then
               f.2.holds x.h.ty (el (operandOf x.h.ty c [x.a, x.b] 0) x.h.ty r (n / elemBytes x.h.ty))
                 (el (operandOf x.h.ty c [x.a, x.b] 1) x.h.ty r (n / elemBytes x.h.ty))
             else natBit (maskRow (kget c x.k.toNat) r) n) ∧
     (∀ f ∈ maskForms h d a b, VecClean s h [] (fun s => f.2.1.any fun m => maskBad s m.toNat) →
       ∃ t, exec f.1 s = .next t ∧ s.OwnOnly t ∧ FallsThrough h.e 12 s t ∧ Ctx.PlaceOnly { c with k := (me t).k } (me t) ∧
         (∀ m, m ≠ d.toNat → kget (me t) m = kget c m) ∧
         ∀ r n, r < 16 → n < 128 →
           natBit (maskRow (kget (me t) d.toNat) r) n =
             if natBit (guardRows c h.guard) r = true then
               f.2.2 (natBit (maskRow (kget c a.toNat) r) n) (natBit (maskRow (kget c b.toNat) r) n)
             else natBit (maskRow (kget c d.toNat) r) n))

/-- R101, R169: QADV moves its blocks through a data queue, whatever its guard says, or releases filled slots of a
ring, and waits where a block it needs is still on its way. QCLR empties its queue and halts the engine with no fault.
QFLUSH ends once its queue is empty and waits until then; a halt of the engine under its blocks is taken there, whatever
its guard says, which is the model's reading of R98, R330 and R334 (log entry 25). -/
def Obligations.QueueWordsMoveBlocks : Prop :=
  ∀ (w : VQ) (d : Desc) (s : State), isLight s.cur = false →
    let c := me s
    let q := w.q.toNat
    let n := advCount c d
    (descBad s d = false → c.qadvLeft = none →
      (∀ g bs, smGet c.q q = some (.data g bs) → (g ≠ 2 ∧ n ≤ bs.length) ∨ (g = 2 ∧ bs.length + n ≤ 4) →
        ∃ t, exec (.qadv w d) s = .next t ∧ s.OwnOnly t ∧ FallsThrough w.h.e 12 s t ∧
          Ctx.PlaceOnly { c with q := (me t).q } (me t) ∧
          (∀ k, k ≠ q → smGet (me t).q k = smGet c.q k) ∧
          (g ≠ 2 → qblocks (me t) q = bs.drop n) ∧
          (g = 2 → qblocks (me t) q =
            bs ++ List.replicate n { data := 0, rows := 0, skipped := true, loop := if loopActive c then c.loopNo else 0 })) ∧
      (∀ slots p k f, smGet c.q q = some (.ring slots p k f) → c.onMatrix = false →
        ∃ t, exec (.qadv w d) s = .next t ∧ s.OwnOnly t ∧ FallsThrough w.h.e 12 s t ∧
          Ctx.PlaceOnly { c with q := (me t).q } (me t) ∧ (∀ j, j ≠ q → smGet (me t).q j = smGet c.q j) ∧
          smGet (me t).q q = some (.ring slots p ((k + min n f) % slots.length) (f - min n f))) ∧
      (∀ g bs, smGet c.q q = some (.data g bs) → g ≠ 2 → bs.length < n → (engOf c g).st = .running →
        bitAt c.xsched 0 = false →
        ∃ t, exec (.qadv w d) s = .next t ∧ (me t).run = (if c.mid then c.run else .waiting) ∧ (me t).pc = c.pc ∧
          qblocks (me t) q = [] ∧ (me t).qadvLeft = some (c.pc, n - bs.length)) ∧
      (smGet c.q q = none → TrapsWith (.qadv w d) s { cause := 7, va := natW q })) ∧
    (∀ b bs, smGet c.q q = some (.data 2 (b :: bs)) → (engOf c 2).st = .halted →
      TrapsWith (.qflush w) s { cause := (engOf c 2).cause, src := 4, w := true, va := (engOf c 2).va }) ∧
    (srcBad s w.h.guard.reg = false →
      (guardRows c w.h.guard = 0 → ∀ i, i = Instr.qclr w ∨ (i = .qflush w ∧ flushHalt c q = none) →
        ∃ t, exec i s = .next t ∧ PassedOver c s t ∧ FallsThrough w.h.e 12 s t) ∧
      (guardRows c w.h.guard ≠ 0 →
        (∀ g bs, smGet c.q q = some (.data g bs) → g ≠ 2 →
          ∃ t, exec (.qclr w) s = .next t ∧ s.OwnOnly t ∧ FallsThrough w.h.e 12 s t ∧
            qblocks (me t) q = [] ∧ (engOf (me t) g).st = .halted ∧ (engOf (me t) g).cause = 0) ∧
        (smGet c.q q = some (.data 2 []) → ∃ t, exec (.qflush w) s = .next t ∧ PassedOver c s t ∧ FallsThrough w.h.e 12 s t) ∧
        (∀ b bs, smGet c.q q = some (.data 2 (b :: bs)) → (engOf c 2).st ≠ .halted →
          StallsAt (.qflush w) s (.flush q) ∧ ∀ t, exec (.qflush w) s = .next t → (me t).q = c.q) ∧
        (∀ g bs, smGet c.q q = some (.data g bs) → g = 2 → TrapsWith (.qclr w) s { cause := 7, va := natW q })))

-- Matrix words, engine commands, copies, the fabric, queues and rings.

/-- R37, R172 to R176, R185: a stream matrix word over its rings, placed and allowed, enters the array's order at the
next number of the cluster's tc.mx (a TSTAGE the copy engine's, at the next of tc.cp), with its format entry, its
cores and its guard, and takes its quarters; it writes no register and no memory. While its slots are missing, or
eight words are in flight, it waits. A deferred fault of the stage that it waits on is delivered at it (R330), ahead of the
model's choice of order among its own checks (log entry 88); a handle that is no ring traps QERR. -/
def Obligations.MatrixWordsEnterTheArray : Prop :=
  ∀ (w : TileW) (s : State), isLight s.cur = false → srcBad s w.guard.reg = false →
    let s1 := restartTold s s.cur
    let c := me s1
    ∀ f ∈ tileForms w, ∀ fte fmt, formatOf c f.2 w = some (fte, fmt) →
      let x : MxWord := { kind := f.2, w := w, f := fmt }
      (∀ n h, stageHaltOn s1 s.cur x = some (n, h) →
        TrapsOver f.1 s (setHalt s1 s.cur n (some { h with told := toldHere s1 s.cur }))
          { cause := h.cause, src := 5, w := h.write, va := h.va }) ∧
      (∀ q, stageHaltOn s1 s.cur x = none → badRing c x = some q → TrapsOver f.1 s s1 { cause := 7, va := BitVec.ofNat 64 q }) ∧
      (badRing c x = none → stageHaltOn s1 s.cur x = none →
        ∀ off cores,
          (off = true ∧ guardRows c w.guard = 0 ∧ cores = [coreOf s.cur]) ∨
            (off = false ∧ guardRows c w.guard ≠ 0 ∧ sizeRefused x = false ∧ placeWord s1 s.cur x = .ok cores ∧
              slotRefused s1 s.cur x cores = false ∧ metaRefused s1 x (metaCore s.cur x cores) = none ∧
              wordBad s1 s.cur x cores = false) →
          let ready := c.mx.length + stagesOf c < 8 ∧ (∀ q ∈ x.reads, readReady c x q = true) ∧ ∀ q ∈ x.writes, writeReady c q = true
          (ready →
            ∃ t, exec f.1 s = .next t ∧ FallsThrough w.e 24 s t ∧ (∀ r, rs t r = rs s r) ∧
              (f.2 ≠ .tstage → (∀ a, memByte t a = memByte s a) ∧
                ∃ o, (me t).mx = c.mx ++ [o] ∧ o.num = (tcOf (me s) 5).issued + 1 ∧ o.op = f.2.code ∧ o.w = w ∧ o.fte = fte ∧
                  o.guardOff = off ∧ o.key = fld (me s).xseed 32 32 ∧ o.tenant = (me s).tenant.toNat ∧ o.cores = cores ∧ o.step = 0) ∧
              (f.2 = .tstage →
                ∃ o, (me t).copies = c.copies ++ [o] ∧ o.num = (tcOf (me s) 4).issued + 1 ∧
                  o.kind = .stage w (lget (me s) 3 (natField w.w5.toNat 4 4)) off s.nextId ∧ o.pos = 0 ∧ o.halt = none) ∧
              (off = false → ∀ k ∈ cores, ∀ q ∈ quartersOf s.cur x, smGet (getCore t k).owner q = some s.cur)) ∧
          (¬ready → bitAt (me s).xsched 0 = false →
            WaitsAt f.1 s (.matrix (if x.level = 2 then (cores.map (· / 4)).eraseDups else []) (firstNeeds x) x.writes)))

/-- XCOPY and XCOPY.H, and the copy engine's lines. That a poisoned loop register's UCE goes before R248's HYPADDR, and both before
the refusals that return 0, is the model's choice (log entry 113); that the descriptor's read takes no number of tc.ls is too (log
entry 111). -/
def Obligations.CopiesIssueAndMove : Prop :=
  -- R185, R211, R221, R246, R248: a word of the copy engine reads its descriptor as a scalar load and releases at
  -- `.co`. Where the descriptor is refused it returns 0 and does nothing more; else it issues its operation at the
  -- next number of tc.cp, which it returns, a MAP's completing at once with its region made. A tagged copy into the
  -- scratchpad traps HYPADDR. R347: a nest that reads a poisoned loop register traps UCE.
  (∀ (e : Bool) (d a : SReg) (s s0 : State) (bs : List PB), srcBad s a = false →
     loadAt 0 (BitVec.ofNat 64 ((rs s a).toNat / 64 * 64)) 64 s = .done bs s0 →
     let s1 := release s0 s0.cur 1 none
     let c := me s1
     let x := copyDesc (bytesOf bs)
     let n := (tcOf c 4).issued + 1
     let Issues := fun (i : Instr) (k : CopyKind) (tag : Bool) =>
       let c2 := { (tcTake c 4).2 with
         copies := c.copies ++ [{ num := n, kind := k, view := fld c.xhyp 0 10, tagged := tag, tenant := c.tenant.toNat }] }
       WritesOver i s (onMe s1 fun _ => c2) c2 d (BitVec.ofNat 64 n)
     let Refuses := fun (i : Instr) => WritesOver i s s1 c d 0
     (∀ f ∈ [(Instr.xcopyLin e d a, false, false), (.xcopyNest e d a, true, false), (.xcopyHLin e d a, false, true),
         (.xcopyHNest e d a, true, true)],
       let tag := f.2.2 && decide (fld c.xhyp 0 10 ≠ 0)
       let regs := (rangeFrom 0 x.dims).flatMap fun i => [x.base + 2 * i, x.at 26 + i, x.at 27 + i]
       let poisoned := f.2.1 && x.nestOk && loopBad s1 s1.cur 3 regs
       (poisoned = true → TrapsOver f.1 s s1 { cause := 6 }) ∧
       (poisoned = false → tag = true → x.dloc = true → TrapsOver f.1 s s1 { cause := 10, w := true, va := x.daddr }) ∧
       (poisoned = false → tag = false ∨ x.dloc = false →
         (copyMove s1 f.2.1 x = none → Refuses f.1) ∧ ∀ k, copyMove s1 f.2.1 x = some k → Issues f.1 k tag)) ∧
     (mapRegion s1 x = none → Refuses (.xcopyMap e d a)) ∧
     (∀ r reg, mapRegion s1 x = some (r, reg) →
       let s2 := onMe (modCore s1 (coreOf s1.cur) fun k => { k with regions := smPut k.regions r reg }) fun c => tcStep c 4
       WritesOver (.xcopyMap e d a) s s2 (me s2) d (BitVec.ofNat 64 n)) ∧
     (∀ f ∈ [(Instr.xcopyUnmap e d a, true), (.xcopyWb e d a, false)],
       let r := x.at 28
       (x.mapOk = false ∨ smGet (getCore s1 (coreOf s1.cur)).regions r = none → Refuses f.1) ∧
       (x.mapOk = true → (smGet (getCore s1 (coreOf s1.cur)).regions r).isSome = true →
         Issues f.1 (.writeBack r f.2 (dirtyOf s1 (coreOf s1.cur) r)) false))) ∧
  -- R211, R246, R247: a copy that has not halted writes the next line of the row that it has read, and completes
  -- its number with its last byte. The first access to a granule of a map region fills it.
  ((∀ (ctx num : Nat) (s : State) (o : CopyOp), copyOf s ctx num = some o →
     let i := Instr.copyLine ctx num
     (o.halt.isSome = true ∨ (getCtx s ctx).run = .saving → exec i s = .next s) ∧
     (o.halt = none → (getCtx s ctx).run ≠ .saving → o.tagged = false →
       ∀ src dst sl dl len trips ss ds l, o.kind = .move src dst sl dl len trips ss ds l →
         let total := len * iterations trips
         let Ends := fun (t : State) => copyOf t ctx num = none ∧ num ∉ (tcOf (getCtx t ctx) 4).pending
         (total ≤ o.pos → ∃ t, exec i s = .next t ∧ t.mem = s.mem ∧ Ends t) ∧
         (o.pos < total → ∀ b bs h, o.buf = some (b :: bs, h) →
           let at_ := copyAddr dl dst + offsetOf (tupleOf (o.pos / len) trips) ds + BitVec.ofNat 64 (o.pos % len)
           let k := lineLen s (copyAgent s ctx o) at_ (b :: bs).length
           ∀ r s1, rangeWrite (copyAgent s ctx o) .cw k s at_ ((b :: bs).take k) = .ok r s1 →
             ∃ t, exec i s = .next t ∧ t.mem = s1.mem ∧ (total ≤ o.pos + k → Ends t) ∧
               (o.pos + k < total → ∃ o2, copyOf t ctx num = some o2 ∧ o2.pos = o.pos + k ∧ o2.kind = o.kind)))) ∧
   (∀ (ctx region granule : Nat) (s : State) (reg : Region),
     let core := coreOf ctx
     smGet (getCore s core).regions region = some reg → fillOp s core region granule = none →
     (granule ∈ reg.filled → exec (.mapFill ctx region granule) s = .next s) ∧
     (granule ∉ reg.filled → granule < reg.len / 4096 →
       let c := getCtx s ctx
       let n := (tcOf c 4).issued + 1
       let o : CopyOp := { num := n, kind := .fill region granule, view := fld c.xhyp 0 10, tagged := false, tenant := c.tenant.toNat }
       let s0 := setCtx s ctx { (tcTake c 4).2 with copies := c.copies ++ [o] }
       ∀ r s1 p, fillLines (copyAgent s0 ctx o) core reg granule 64 s0 0 = (.ok r s1, p) →
         ∃ t reg2, exec (.mapFill ctx region granule) s = .next t ∧ t.mem = s1.mem ∧
           smGet (getCore t core).regions region = some reg2 ∧ granule ∈ reg2.filled ∧ n ∉ (tcOf (getCtx t ctx) 4).pending)))

/-- PUT, REQ, FAMO, and their packets. -/
def Obligations.FabricWordsAndPackets : Prop :=
  -- R249, R250, R298, R301: PUT and REQ read their descriptor as a scalar load, and return 0 where it is refused.
  -- An issue whose window grants it and whose peer passes takes a buffer slot and the next number of tc.fp, which
  -- it returns, and waits while no slot is free; a page that is no window or does not grant it traps PERM, and a
  -- peer that does not pass FABPEER.
  (∀ (e z : Bool) (d a b : SReg) (o : BitVec 4) (s : State), srcBad s a = false → srcBad s b = false →
     let Issues := fun (i : Instr) (f : FabAsk) (s1 : State) =>
       let ag := agentOf s1 s1.cur
       (∀ n, xlate s1 ag .fg true f.dva = .bad n → TrapsOver i s s1 { cause := n, w := true, va := f.dva }) ∧
       ∀ lo hi pa off, xlate s1 ag .fg true f.dva = .page lo hi pa off →
         (leafPeer lo = false ∨ grants lo .fg true = false → TrapsOver i s s1 { cause := 4, w := true, va := f.dva }) ∧
         (leafPeer lo = true → grants lo .fg true = true →
           let s2 := tlbNote s1 ag f.dva (.page lo hi pa off)
           (peerCheck s2 (dieOf s1.cur) ag.part (fld lo 28 13) = none →
             TrapsOver i s s2 { cause := 12, w := true, va := BitVec.ofNat 64 (fld lo 28 13) }) ∧
           ∀ p, peerCheck s2 (dieOf s1.cur) ag.part (fld lo 28 13) = some p →
             (slotFree s2 ag.tenant = true →
               let n := (tcOf (me s2) 6).issued + 1
               let key := fabKey s1.cur p f.cls
               let seq := smGetD s2.fabSeq key 0 + 1
               let s3 := { s2 with fabSeq := smPut s2.fabSeq key seq, nextId := s2.nextId + 1 }
               let op : FabOp := { num := n, seq := seq, order := s2.nextId + 1, cls := f.cls, part := ag.part, peer := p, logical := fld lo 28 13, tenant := ag.tenant,
                                    dva := f.dva, sva := f.sva, len := f.len, handler := f.handler, atomic := f.atomic, slot := true }
               let c2 := { (tcTake (me s2) 6).2 with fab := (me s2).fab ++ [op] }
               WritesOver i s (takeSlot (onMe s3 fun _ => c2) ag.tenant) c2 d (BitVec.ofNat 64 n)) ∧
             (slotFree s2 ag.tenant = false → bitAt (me s).xsched 0 = false → WaitsAt i s .gatewaySlot))
     (∀ f ∈ [(Instr.put e d a, false), (.req e d a, true)], ∀ bs s1,
       loadAt 0 (BitVec.ofNat 64 ((rs s a).toNat / 32 * 32)) 32 s = .done bs s1 →
       (fabDesc f.2 (bytesOf bs) = none → WritesOver f.1 s s1 (me s1) d 0) ∧
       ∀ ask, fabDesc f.2 (bytesOf bs) = some ask → Issues f.1 ask s1) ∧
     (let n := if z then 8 else 4
      Issues (.famo e d a b z o)
        { cls := 1, dva := BitVec.ofNat 64 ((rs s a).toNat / n * n), len := n, atomic := some (o.toNat, n, rs s b) } s)) ∧
  -- R226, R227, R249, R251, R298, R301, R356: an arriving packet of an admitted peer is performed whole on its line in its
  -- turn, the gateway signs the line, and an acknowledgement of the bytes so far leaves for its source; a fault there is
  -- reported instead, with the bytes below its line. A packet of a peer that is not admitted is answered with FABPEER; one
  -- whose turn has not come, be it in a replay, or that no slot admits, changes nothing. A granted packet is sent and held for
  -- resending, those of a die in their order; an acknowledgement of the whole operation completes its number, a fault halts
  -- it.
  ((∀ (p : Packet) (s : State),
     let ack := fun (n : Nat) (f : Option (Nat × Nat)) => (p.srcPeer, ({ ctx := p.srcCtx, num := p.num, done := n, fault := f } : Ack))
     (peerAdmitted s p.part p.srcPeer = false →
       exec (.fabricArrival p) s = .next { s with acks := s.acks ++ [ack (packetAt p).1 (some (12, p.va))] }) ∧
     (peerAdmitted s p.part p.srcPeer = true →
       let s0 := logPacket ((replaysOf s p).foldl replayNext s) p
       (handlerFull s p = true ∨ slotFree s p.tenant = false ∨ packetNext s p = false ∨ packetTurn s p = false →
         exec (.fabricArrival p) s = .next s) ∧
       (∀ bs last start total, p.op = .bytes bs last none start total → slotFree s p.tenant = true → packetNext s p = true →
         packetTurn s p = true → bs ≠ [] →
         (∀ pa, segLen (natW p.va) bs.length = bs.length →
           sysRoute s0 p.part p.tenant .fg true (natW p.va) = .ok pa → isHost pa = false →
           ∃ t, exec (.fabricArrival p) s = .next t ∧
             (∀ a, memByte t a = if pa ≤ a ∧ a < pa + bs.length then ((bs[a - pa]?).map (·.1)).getD 0 else memByte s a) ∧
             t.gwCur = s.gwCur ||| sigBit (pa / 64) ∧ t.acks = s.acks ++ [ack ((arrivedOf s p).done + bs.length) none]) ∧
         (∀ cause, sysRoute s0 p.part p.tenant .fg true (natW p.va) = .error cause →
           ∃ t, exec (.fabricArrival p) s = .next t ∧ t.mem = s.mem ∧
             t.acks = s.acks ++ [ack (faultLine (natW start) (natW p.va)) (some (cause, (natW p.va).toNat))])))) ∧
   (∀ (a : Ack) (s : State) (o : FabOp), fabOp s a.ctx a.num = some o → o.halt = none → a.done ≤ o.sent → a.record = false →
     (a.fault = none → a.done = o.len →
       ∃ t, exec (.fabricAck a) s = .next t ∧ t.mem = s.mem ∧ fabOp t a.ctx a.num = none ∧
         a.num ∉ (tcOf (getCtx t a.ctx) 6).pending ∧ ∀ p ∈ t.outbox, p ∈ s.outbox) ∧
     (a.fault = none → a.done ≠ o.len →
       ∃ t o2, exec (.fabricAck a) s = .next t ∧ t.mem = s.mem ∧ fabOp t a.ctx a.num = some o2 ∧ o2 = { o with acked := max o.acked a.done }) ∧
     (∀ cause addr, a.fault = some (cause, addr) →
       ∃ t o2 h, exec (.fabricAck a) s = .next t ∧ t.mem = s.mem ∧ fabOp t a.ctx a.num = some o2 ∧ o2.halt = some h ∧ h.cause = cause ∧
         h.write = true ∧ o2.slot = false ∧ tcOf (getCtx t a.ctx) 6 = tcOf (getCtx s a.ctx) 6 ∧ ∀ p ∈ t.outbox, ofOp a.ctx a.num p = false)) ∧
   (∀ (ctx num : Nat) (s : State) (o : FabOp), fabOp s ctx num = some o →
     (fabReady s ctx o = false ∨ fabAhead s ctx o = true → exec (.gatewaySlotGrant ctx num) s = .next s) ∧
     (fabReady s ctx o = true → fabAhead s ctx o = false →
       (∀ f n x, o.atomic = some (f, n, x) →
         ∃ t p, exec (.gatewaySlotGrant ctx num) s = .next t ∧ t.mem = s.mem ∧ t.outbox = s.outbox ++ [p] ∧ p.op = .atomic f n x ∧
           p.srcCtx = ctx ∧ p.num = num ∧ p.seq = o.seq) ∧
       (o.atomic = none → ∀ bs s1,
         rangeRead { ctx := ctx, part := o.part, tenant := o.tenant, view := 0 } .fg (min 256 (o.len - o.sent)) s
           (o.sva + natW o.sent) (min 256 (o.len - o.sent)) [] = .ok bs s1 →
         ∃ t p last h, exec (.gatewaySlotGrant ctx num) s = .next t ∧ t.mem = s1.mem ∧ t.outbox = s1.outbox ++ [p] ∧
           p.op = .bytes bs last h o.dva.toNat o.len ∧ p.srcCtx = ctx ∧ p.num = num ∧ p.seq = o.seq ∧
           last = decide (o.len ≤ o.sent + min 256 (o.len - o.sent)) ∧ h = if last then o.handler else none))) ∧
   -- R319: the acknowledgement of a Catalogue record takes it out of the gateway, and gives its slot back.
   (∀ (a : Ack) (s : State) (m : CatMsg), a.record = true → a.fault = none →
     (s.catOut.find? fun x => x.num == a.num && x.sent) = some m → (s.catOut.filter fun x => x.num == a.num) = [m] →
     exec (.fabricAck a) s = .next (giveSlot { s with catOut := s.catOut.filter fun x => x.num != a.num } m.tenant)) ∧
   ∀ (link : Nat) (s : State), exec (.linkReplay link) s = .next s)

/-- LAUNCH, TTASK, SQPUSH and SQPOP. -/
def Obligations.LaunchesAndTasksAreQueued : Prop :=
  -- R60, R61, R73: LAUNCH of a supervisor releases at `.pk`, reads the record as scalar loads, and returns the code
  -- of its first check that fails. A record that passes takes the lowest free slot, whose number it returns: its
  -- source stages have their least number of instances, PENDING, and its queues are empty. The header of an aligned
  -- placement map is read as a scalar load before the checks. Below supervisor priority it traps PRIV.
  (∀ (e : Bool) (d a : SReg) (s : State),
     let i := Instr.launch e d a
     (isSupervisor (me s) = false → TrapsWith i s { cause := 2, va := BitVec.ofNat 64 (headUnit i) }) ∧
     (isSupervisor (me s) = true → srcBad s a = false →
       ∀ bs s0 s1, linesRead 8 (BitVec.ofNat 64 ((rs s a).toNat / 64 * 64)) (release s s.cur 4 none) = some (bs, s0) →
         let r := launchRec bs
         (if r.map = 0 ∨ r.map % 64 ≠ 0 then s1 = s0 else ∃ hs, linesRead 1 (BitVec.ofNat 64 r.map) s0 = some (hs, s1)) →
         let who : Launcher := { part := myPart s1, fn := 0, ceil := min 119 (fld (me s1).xprio 8 7) }
         (launchCheck s1 who r ≠ 0 → WritesOver i s s1 (me s1) d (BitVec.ofNat 64 (launchCheck s1 who r))) ∧
         (∀ lid, launchCheck s1 who r = 0 → freeLaunch s1 = some lid →
           ∃ s2 l, WritesOver i s s2 (me s2) d (BitVec.ofNat 64 (lid * 2 ^ 16)) ∧ s2.mem = s1.mem ∧
             smGet s2.launches lid = some l ∧ (∀ k, k ≠ lid → smGet s2.launches k = smGet s1.launches k) ∧
             l.part = who.part ∧ l.fn = 0 ∧ l.tenant = r.tenant ∧ l.stages = r.stages ∧ l.code = 0 ∧ l.stranded = 0 ∧
             (∀ x ∈ l.insts, x.st = .pending ∧ x.members = []) ∧ (∀ q ∈ l.queues, q.closed = false ∧ q.entries = []) ∧
             ∀ k t, r.stages[k]? = some t →
               (l.insts.filter fun x => x.stage == k).length = if t.inq = none then t.min else 0))) ∧
  -- R74, R199, R200, R365: TTASK reads its record as scalar loads and releases at its level. A record that fails a
  -- check gives 2, a full unit 1, and changes nothing more; else the task is queued at its unit under the next
  -- number of tc.mx, and rd has its sequence number. A TRESUME reads the header of its fault area, which it takes
  -- from the task that faulted there, with that task's number.
  (∀ (e : Bool) (d a : SReg) (s s1 : State) (bs : List Byte), srcBad s a = false →
     let va := BitVec.ofNat 64 ((rs s a).toNat / 128 * 128)
     linesRead 2 va s = some (bs, s1) →
     let i := Instr.ttask e d a
     let level := (recTile bs).level.toNat
     (5 < level → WritesOver i s s1 (me s1) d 2) ∧
     (level ≤ 5 → fabricPending (me s1) level = true → StallsAt i s (.counter 6 (tcOf (me s1) 6).issued)) ∧
     (level ≤ 5 → fabricPending (me s1) level = false →
       let s2 := release s1 s1.cur level none
       (recShape bs = false → WritesOver i s s2 (me s2) d 2) ∧
       (recShape bs = true → recOp bs ≠ 0x0A → LinesOpen s2 (BitVec.ofNat 64 (recFault bs)) 6 →
         (recDone bs ≠ 0 → LinesOpen s2 (BitVec.ofNat 64 (recDone bs)) 1) →
         let task := recTask s2 s2.cur va.toNat bs none 0
         (task = none → WritesOver i s s2 (me s2) d 2) ∧
         ∀ t, task = some t →
           (256 ≤ (queuedAt s2 t.unit).length → WritesOver i s s2 (me s2) d 1) ∧
           ((queuedAt s2 t.unit).length < 256 →
             let n := seqOf s2 t.unit + 1
             let num := (tcOf (getCtx s2 (fullOf s2.cur)) 5).issued + 1
             ∃ s3, WritesOver i s s3 (me s3) d (BitVec.ofNat 64 (n % 2 ^ 48 * 2 ^ 16)) ∧ s3.mem = s2.mem ∧
               s3.tasks = s2.tasks ++ [{ t with seq := n, num := num }] ∧ seqOf s3 t.unit = n ∧
               tcOf (getCtx s3 (fullOf s2.cur)) 5 =
                 { issued := num, pending := (tcOf (getCtx s2 (fullOf s2.cur)) 5).pending ++ [num] })) ∧
       (recShape bs = true → recOp bs = 0x0A → LinesOpen s2 (BitVec.ofNat 64 (recFault bs)) 6 →
         (recDone bs ≠ 0 → LinesOpen s2 (BitVec.ofNat 64 (recDone bs)) 1) →
         ∀ h s3, linesRead 1 (BitVec.ofNat 64 (recFault bs)) s2 = some (h, s3) →
           let w5 := (recTile bs).w5.toNat
           let area := areaPlace s3 (coreOf s3.cur) (partOf s3 s3.cur) (me s3).tenant.toNat (recFault bs)
           let refused := fieldAt h 48 1 ≠ 1 ∨ w5 % 8 ≠ 0 ∨ areaTaken s3 area = true ∨ 4 < fieldAt h 3 1
           let task := recTask s3 s3.cur va.toNat (restoreWord bs (fieldAt h 3 1) (fieldAt h 4 4)) (some (fieldAt h 32 8)) w5
           (refused ∨ task = none → WritesOver i s s3 (me s3) d 2) ∧
           (¬refused → ∀ t, task = some t →
             (256 ≤ (queuedAt s3 t.unit).length → WritesOver i s s3 (me s3) d 1) ∧
             ((queuedAt s3 t.unit).length < 256 →
               let n := seqOf s3 t.unit + 1
               ∃ s4, WritesOver i s s4 (me s4) d (BitVec.ofNat 64 (n % 2 ^ 48 * 2 ^ 16)) ∧ s4.mem = s3.mem ∧ s4.ctxs = s3.ctxs ∧
                 seqOf s4 t.unit = n ∧ (areaFault s3 t = none → s4.tasks = s3.tasks ++ [{ t with seq := n }]) ∧
                 ∀ o, areaFault s3 t = some o →
                   s4.tasks = (s3.tasks.filter fun x => x.id != o.id) ++
                     [{ t with seq := n, owner := o.owner, full := o.full, key := o.key }]))))) ∧
  -- R76: SQPUSH of a stage's own output queue copies the entry of its lines into it, and SQPOP of its input queue
  -- gives its oldest entry; each returns 1. On a queue that is full, empty or closed it returns 0 or 2, or waits.
  -- On another queue it traps QERR.
  (∀ (e : Bool) (d a : SReg) (q : BitVec 3) (s : State), isLight s.cur = false → srcBad s a = false →
     let va := BitVec.ofNat 64 ((rs s a).toNat / 64 * 64)
     (∀ n, (stageQueueOf s true q.toNat = none → TrapsWith (.sqpush e d a n q) s { cause := 7, va := BitVec.ofNat 64 q.toNat }) ∧
       (stageQueueOf s false q.toNat = none → TrapsWith (.sqpop e d a n q) s { cause := 7, va := BitVec.ofNat 64 q.toNat })) ∧
     (∀ lid x, stageQueueOf s true q.toNat = some (lid, x) →
       (x.depth ≤ x.entries.length →
         Writes (.sqpush e d a true q) s d 0 ∧
         (bitAt (me s).xsched 0 = false → WaitsAt (.sqpush e d a false q) s (.queueRoom q.toNat))) ∧
       (x.entries.length < x.depth → ∀ bs s1, linesRead (x.esize / 64) va s = some (bs, s1) → ∀ n,
         ∃ s2, WritesOver (.sqpush e d a n q) s s2 (me s2) d 1 ∧ s2.mem = (release s1 s1.cur 4 none).mem ∧
           launchQueueAt s2 lid q.toNat = some { x with entries := x.entries ++ [clean bs] })) ∧
     (∀ lid x, stageQueueOf s false q.toNat = some (lid, x) →
       (x.entries = [] → x.closed = true → ∀ n, Writes (.sqpop e d a n q) s d 2) ∧
       (x.entries = [] → x.closed = false →
         Writes (.sqpop e d a true q) s d 0 ∧
         (bitAt (me s).xsched 0 = false → WaitsAt (.sqpop e d a false q) s (.queueEntry q.toNat))) ∧
       (∀ bs rest, x.entries = bs :: rest → LinesOpen s va (x.esize / 64) →
         ∀ s1, linesStored (x.esize / 64) va bs (acquireAll s s.cur 4) = some s1 → ∀ n,
           ∃ s2, WritesOver (.sqpop e d a n q) s s2 (me s2) d 1 ∧
             (rest ≠ [] → x.entries.length ≠ x.depth →
               s2.mem = s1.mem ∧ launchQueueAt s2 lid q.toNat = some { x with entries := rest }))))

/-- R168, R170 to R172: OCLAIM binds the lowest free slots to an unused handle as an empty ring and returns their
mask, 0 where too few are free. ORELEASE of a ring that no word in flight uses unbinds it; its slots are free and
zero. -/
def Obligations.RingsAreClaimedAndReleased : Prop :=
  ∀ (e : Bool) (d a : SReg) (q : BitVec 4) (s : State), isLight s.cur = false → srcBad s a = false →
    let n := fld (rs s a) 0 6
    let core := coreOf s.cur
    let free := freeSlots (getCore s core)
    let err : Trap := { cause := 7, va := BitVec.ofNat 64 q.toNat }
    (n = 0 ∨ 28 < n ∨ (smGet (me s).q q.toNat).isSome = true → TrapsWith (.oclaim e d a q) s err) ∧
    (1 ≤ n → n ≤ 28 → smGet (me s).q q.toNat = none →
      (free.length < n → Writes (.oclaim e d a q) s d 0) ∧
      (n ≤ free.length →
        ∃ s2, WritesOver (.oclaim e d a q) s s2 (me s2) d (BitVec.ofNat 64 (((free.take n).map fun x => 2 ^ x).sum)) ∧
          s2.mem = s.mem ∧ smGet (me s2).q q.toNat = some (.ring (free.take n) 0 0 0) ∧
          (∀ k, k ≠ q.toNat → smGet (me s2).q k = smGet (me s).q k) ∧
          ∀ k, smGet (getCore s2 core).claims k = if k ∈ free.take n then some s.cur else smGet (getCore s core).claims k)) ∧
    (ringOf (me s) q.toNat = none → TrapsWith (.orelease e q) s err) ∧
    (∀ slots p k f, ringOf (me s) q.toNat = some (slots, p, k, f) →
      (ringUsed (me s) q.toNat = true → StallsAt (.orelease e q) s (.ring q.toNat)) ∧
      (ringUsed (me s) q.toNat = false →
        ∃ t, exec (.orelease e q) s = .next t ∧ FallsThrough e 4 s t ∧ t.mem = s.mem ∧ smGet (me t).q q.toNat = none ∧
          (∀ j, j ≠ q.toNat → smGet (me t).q j = smGet (me s).q j) ∧
          ∀ n ∈ slots, smGet (getCore t core).claims n = none ∧ ∀ r, r < 128 → smGetD (getCore t core).slots (128 * n + r) 0 = 0))

/-- ADMIT, APIN and AUNPIN. -/
def Obligations.HandlesAreAdmittedAndCounted : Prop :=
  -- R309, R310, R319: ADMIT reads its descriptor as a scalar load and checks in order: 8 for a reserved field, 1
  -- for no entry, 2 to 4 by its home, 5 over the quota, 6 with no record free, 7 for a home that is not reached.
  -- Else it stores the token and holds a new admission of the current version, with one reference.
  (∀ (e : Bool) (d a : SReg) (s s1 : State) (bs : List PB), srcBad s a = false → (me s).homeAdmit = none →
     loadAt 0 (BitVec.ofNat 64 ((rs s a).toNat / 32 * 32)) 32 s = .done bs s1 →
     let i := Instr.admitRq e d a
     let x := admitDesc (bytesOf bs)
     let t := (me s1).tenant.toNat
     let Ends := fun (v : Word) =>
       ∃ s2, WritesOver i s s2 (me s2) d v ∧ s2.admissions = s1.admissions ∧ s2.catalogue = s1.catalogue
     LinesOpen s1 x.tok 1 →
     (x.ok = false → WritesOver i s s1 (me s1) d 8) ∧
     (x.ok = true → entryOf s1 (myPart s1) x.handle = none → WritesOver i s s1 (me s1) d 1) ∧
     (∀ en, x.ok = true → entryOf s1 (myPart s1) x.handle = some en →
       (isReplica en = true →
         (peerCheck s1 (dieOf s1.cur) en.part en.home = none → Ends 7) ∧
         ∀ p, peerCheck s1 (dieOf s1.cur) en.part en.home = some p →
           ∃ u, exec i s = .next u ∧ (me u).pc = (me s).pc ∧
             (me u).homeAdmit = some { peer := p, desc := bytesOf bs, part := en.part, logTenant := en.tenant, home := en.home } ∧
             u.catOut = s1.catOut ++ [{ num := s1.catNum + 1, peer := p, tenant := t, cls := 2,
                                        rec_ := .admitAsk s1.ownPeer s1.cur en.part x.handle t x.sealV x.nonce
                                        sent := slotFree s1 t }]) ∧
       (isReplica en = false →
         (∀ st, homeChecks s1 en t x.sealV x.nonce = (st, none) → Ends (BitVec.ofNat 64 st)) ∧
         ∀ st v, homeChecks s1 en t x.sealV x.nonce = (st, some v) →
           (overQuota s1 t (verInfo s1 v) = true → Ends 5) ∧
           (overQuota s1 t (verInfo s1 v) = false → freeAdmission s1 = none → Ends 6) ∧
           (overQuota s1 t (verInfo s1 v) = false → ∀ k, freeAdmission s1 = some k →
             ∀ r s2, storeAt 0 x.tok (tokenBytes k (nextGen s1.gen) x.handle v.ver t) s1 = .done r s2 →
               ∃ s3, WritesOver i s s3 (me s3) d (BitVec.ofNat 64 (v.ver * 2 ^ 16)) ∧ s3.gen = nextGen s1.gen ∧
                 smGet s3.admissions k =
                   some { part := myPart s1, tenant := t, handle := x.handle, ver := v.ver, gen := nextGen s1.gen, refs := 1 } ∧
                 ∀ j, j ≠ k → smGet s3.admissions j = smGet s1.admissions j)))) ∧
  -- R313, R320: APIN adds a reference to the admission of a token that passes, and AUNPIN takes one off or lets the
  -- last go; each returns 0. A token that does not pass gives 1, and a full count 2.
  (∀ (e : Bool) (d a : SReg) (s s1 : State) (bs : List PB), srcBad s a = false →
     loadAt 0 (BitVec.ofNat 64 ((rs s a).toNat / 16 * 16)) 16 s = .done bs s1 →
     let k := tokenOf (bytesOf bs)
     let t := (me s1).tenant.toNat
     let adm := tokenAdmission s1 (myPart s1) t k
     let valid := tenantIn s1 t (myPart s1) = true
     let Becomes := fun (i : Instr) (x : Admission) =>
       WritesOver i s { s1 with admissions := smPut s1.admissions k.aidx x } (me s1) d 0
     (¬valid ∨ adm = none → WritesOver (.apin e d a) s s1 (me s1) d 1) ∧
     (¬(valid ∨ isSupervisor (me s1) = true) ∨ adm = none → WritesOver (.aunpin e d a) s s1 (me s1) d 1) ∧
     (∀ x, adm = some x →
       (valid → x.refs = 65535 → WritesOver (.apin e d a) s s1 (me s1) d 2) ∧
       (valid → x.refs ≠ 65535 → Becomes (.apin e d a) { x with refs := x.refs + 1 }) ∧
       (valid ∨ isSupervisor (me s1) = true →
         (1 < x.refs → Becomes (.aunpin e d a) { x with refs := x.refs - 1 }) ∧
         (x.refs ≤ 1 →
           ∃ s2, WritesOver (.aunpin e d a) s s2 (me s2) d 0 ∧ s2.mem = s1.mem ∧
             ∀ j, smGet s2.admissions j = if j = k.aidx then none else smGet s1.admissions j))))

/-- R303, R306, R314 to R316: APAGE of an entry that its tenant owns or publishes stages the next version over the
lowest run of free pages, or drops the staged one and releases its pages; APUB makes the staged version CURRENT, and the
old one RETIRING, or FREE where nothing pins it. Each gives the status of its first check that fails. That APUB's descriptor
address is rounded down to 16, and the address value of its UCE, are the model's reading (log entry 50). -/
def Obligations.VersionsAreStagedAndPublished : Prop :=
  ∀ (e : Bool) (d a b : SReg) (s : State), srcBad s a = false → srcBad s b = false →
    let h := fld (rs s a) 0 20
    let Entry := fun (u : State) (i : Instr) (Then : CatEntry → Prop) =>
      let t := (me u).tenant.toNat
      (entryFor u (myPart u) t h = none → WritesOver i s u (me u) d 1) ∧
      ∀ en, entryFor u (myPart u) t h = some en →
        (isReplica en = true → WritesOver i s u (me u) d 1) ∧
        (isReplica en = false → t ≠ en.tenant → t ≠ en.pub → WritesOver i s u (me u) d 2) ∧
        (isReplica en = false → t = en.tenant ∨ t = en.pub → Then en)
    let Freed := fun (ver : Nat) (r : VRec) => if r.st ≠ .free ∧ r.ver = ver then ({} : VRec) else r
    let Released := fun (s1 s2 : State) (v : VRec) =>
      ∀ j f, j < v.npage → (getPart s1 v.pool).pool[v.pidx + j]? = some f → frameState s1 f = 3 →
        frameEntry s2 f = 0 ∧ smGet s2.frameWork f = some { src := none, charge := some v.ownt }
    (let i := Instr.apage e d a b
     let n := fld (rs s b) 0 24
     let t := (me s).tenant.toNat
     let part := myPart s
     let pool := (getPart s part).pool
     let Free := fun k => ∃ f, pool[k]? = some f ∧ k ∉ (getPart s part).poolUsed ∧ frameState s f = 2
     Entry s i fun en =>
       (∀ v, recIn en .staged = some v →
         (n ≠ 0 → Writes i s d 3) ∧
         (n = 0 →
           let s2 := dropStaged s en v
           WritesOver i s s2 (me s2) d 0 ∧ s2.mem = s.mem ∧ Released s s2 v ∧
             entryOf s2 en.part en.handle = some { en with vrec := en.vrec.map (Freed v.ver) } ∧
             ∀ k, k ∈ (getPart s2 v.pool).poolUsed ↔ k ∈ (getPart s v.pool).poolUsed ∧ ¬(v.pidx ≤ k ∧ k < v.pidx + v.npage))) ∧
       (recIn en .staged = none →
         (n = 0 → Writes i s d 4) ∧
         (n ≠ 0 → factorPages s t < pagesCharged s t + n → Writes i s d 5) ∧
         (n ≠ 0 → pagesCharged s t + n ≤ factorPages s t →
           (recIn en .free = none ∨ en.lastver = 65535 → Writes i s d 6) ∧
           (∀ old, recIn en .free = some old → en.lastver ≠ 65535 →
             ((∀ k, ∃ j, k ≤ j ∧ j < k + n ∧ ¬Free j) → Writes i s d 7) ∧
             ∀ k, (∀ j, k ≤ j → j < k + n → Free j) → (∀ k', k' < k → ∃ j, k' ≤ j ∧ j < k' + n ∧ ¬Free j) →
               ∃ s2 en2, WritesOver i s s2 (me s2) d (BitVec.ofNat 64 (k * 2 ^ 16)) ∧
                 s2 = { s with frames := s2.frames, parts := s2.parts, catalogue := s2.catalogue } ∧
                 (∀ f, frameEntry s2 f =
                   if f ∈ (pool.drop k).take n then 3 + part % 16 * 4 + t % 4096 * 64 else frameEntry s f) ∧
                 (getPart s2 part = { getPart s part with poolUsed := (getPart s part).poolUsed ++ rangeFrom k n }) ∧
                 (∀ p, p ≠ part → getPart s2 p = getPart s p) ∧
                 (∀ p x, ¬(p = en.part ∧ x = en.handle) → entryOf s2 p x = entryOf s p x) ∧
                 entryOf s2 en.part en.handle = some en2 ∧ en2 = { en with lastver := en.lastver + 1, vrec := en2.vrec } ∧
                 recIn en2 .staged =
                   some { ver := en.lastver + 1, st := .staged, pidx := k, npage := n, ownt := t, pool := part } ∧
                 ∃ before after, en.vrec = before ++ old :: after ∧
                   en2.vrec = before ++ { ver := en.lastver + 1, st := .staged, pidx := k, npage := n, ownt := t, pool := part } :: after)))) ∧
    (∀ bs s1, loadAt 0 (BitVec.ofNat 64 ((rs s b).toNat / 16 * 16)) 16 (release s s.cur 4 none) = .done bs s1 →
      let i := Instr.apub e d a b
      Entry s1 i fun en =>
        (recIn en .staged = none → WritesOver i s s1 (me s1) d 4) ∧
        ∀ v, recIn en .staged = some v →
          (pubDesc (bytesOf bs) = none → WritesOver i s s1 (me s1) d 8) ∧
          ∀ x, pubDesc (bytesOf bs) = some x →
            let v2 := { v with rank := x.rank, ffmt := x.ffmt, fscl := x.fscl, nsite := x.nsite, alpha := x.alpha }
            let recs := en.vrec.map fun r =>
              if r.st = .staged then { v2 with st := .current } else if r.st = .current then { r with st := .retiring } else r
            let poison := anyBad (runBytes s1 v2 0 (16 * v2.nsite))
            (poison = true → TrapsOver i s s1 { cause := 6 }) ∧
            (poison = false → slabOk s1 v2 = false → WritesOver i s s1 (me s1) d 9) ∧
            (poison = false → slabOk s1 v2 = true →
              let s2 := publish s1 en v2
              WritesOver i s s2 (me s2) d (BitVec.ofNat 64 (v.ver * 2 ^ 16)) ∧ s2.mem = s1.mem ∧
                ((∀ o, recIn en .current = some o → o.pins ≠ 0) →
                  s2 = { s1 with catalogue := s2.catalogue } ∧ entryOf s2 en.part en.handle = some { en with vrec := recs }) ∧
                ∀ o, recIn en .current = some o → o.pins = 0 →
                  (∃ en2, entryOf s2 en.part en.handle = some en2 ∧ en2.vrec = recs.map (Freed o.ver)) ∧ Released s1 s2 o ∧
                    ∀ k, ∀ l ∈ (getDie s2 k).lines, ¬(l.key.part = en.part ∧ l.key.handle = en.handle ∧ l.key.ver = o.ver)))

-- Launches, tile tasks and save images.

/-- R336, R337, R341, R344, R345: CTXSV writes an image of the context and gives its count, and CTXRS of an image that
passes makes the context what the image holds, with RES set: it goes on after the CTXSV. A range or an image that does
not pass gives its status. -/
def Obligations.SavesAndRestores : Prop :=
  ∀ (d a b : SReg) (s : State), srcBad s a = false → srcBad s b = false → (me s).mid = false →
    let off := fld (rs s b) 32 32
    let span := fld (rs s b) 0 32
    let va := BitVec.ofNat 64 ((rs s a).toNat / 64 * 64)
    let cnt := smGetD s.scnt s.cur 0 + 1
    (spanOk off span = false → Writes (.ctxsv d a b) s d 3) ∧
    (spanOk off span = true →
      (saveReady s s.cur = false → StallsAt (.ctxsv d a b) s .saves) ∧
      (saveReady s s.cur = true →
        let s1 := { onMe s rewound with scnt := smPut s.scnt s.cur cnt }
        let after := me (retire true 4 (setReg s1 d (BitVec.ofNat 64 (2 + cnt % 2 ^ 56 * 256))))
        let held := { after with ckcnt := BitVec.ofNat 64 cnt }
        (∀ k v s2, writeImage s.cur cnt 2 off span (2 ^ 32) va held s1 = .bad k v s2 →
          TrapsOver (.ctxsv d a b) s s2 { cause := 16, src := 8, w := k != 6, va := v, orig := k }) ∧
        ∀ n s2, writeImage s.cur cnt 2 off span (2 ^ 32) va held s1 = .ok n s2 →
          let s3 := pruneSaved s.cur (onMe s2 fun c => { c with ckcnt := BitVec.ofNat 64 n })
          n = cnt ∧ ((me s).run = .runnable → cnt < 2 ^ 64 →
            s3.saved.find? (fun x => x.1 == (s.cur, cnt)) = s2.saved.find? (fun x => x.1 == (s.cur, cnt))) ∧ WritesOver (.ctxsv d a b) s s3 (me s3) d (BitVec.ofNat 64 (1 + cnt % 2 ^ 56 * 256)) ∧
            ∃ p, s2.saved.find? (fun x => x.1 == (s.cur, cnt)) = some ((s.cur, cnt), p) ∧ p.ctx.s = held.s ∧ p.ctx.pc = held.pc)) ∧
    (∀ hd, imageRead s s.cur (myPart s) (me s).tenant.toNat va 256 = .ok hd →
      (saveReady s s.cur = false → StallsAt (.ctxrs d a) s .saves) ∧
      (∀ k, saveReady s s.cur = true → loadImage s s.cur (myPart s) (me s).tenant.toNat (me s).ckcnt.toNat va = .refused k →
        Writes (.ctxrs d a) s d (BitVec.ofNat 64 k)) ∧
      ∀ h p, saveReady s s.cur = true → loadImage s s.cur (myPart s) (me s).tenant.toNat (me s).ckcnt.toNat va = .ok h p →
        p.ctx.refill = false →
        ∃ t, exec (.ctxrs d a) s = .next t ∧ t.mem = s.mem ∧ (me t).run = .runnable ∧ (me t).pc = p.ctx.pc ∧
          (me t).s = p.ctx.s ∧ (me t).v = p.ctx.v ∧ (me t).k = p.ctx.k ∧ (me t).xhyp = p.ctx.xhyp ∧
          bitAt (me t).xsched 2 = true)

-- What the engines and the array bring about.

/-- R88, R90: after the last bundle of a pass that is not draining, the next tuple is admitted where there is one, the
stage predicates shift, the rotation moves where there are two stages or more, and the body runs again, its mirror
written, or the loop is over. A drain that has run dry ends in the context's suspension, with a refill to come; one that a
wait had cut short refills from the next tuple at once. -/
def Obligations.LoopPassesAdvance : Prop :=
  ∀ (ctx : Nat) (s : State),
    let c := getCtx s ctx
    let stages := fld c.xloop 15 3 + 1
    let dims := fld c.xloop 8 3 + 1
    let base := fld c.xloop 11 4
    let preg := fld c.xloop 18 6
    let index := (rangeFrom 0 dims).map fun d => (lget c 4 (base + 2 * d + 1)).toNat
    let next := stepTuple c.bodyTrips index
    let i := Instr.loopPassEnd ctx
    (bitAt c.xloop 24 = true → c.mid = false → c.pc = c.bodyAt + BitVec.ofNat 64 (4 * (fld c.xloop 0 8 + 1)) →
      (bitAt c.xloop 25 = false → base + 2 * dims ≤ 16 →
        let p := (fld c.xstagep 0 8 * 2 + (if next.isSome then 1 else 0)) % 2 ^ stages
        ∃ c', CtxBecomes i s ctx c' ∧ c'.xstagep = BitVec.ofNat 64 p ∧
          c'.xrrb = (if 2 ≤ stages then BitVec.ofNat 64 ((fld c.xrrb 0 5 + 31) % 32) else c.xrrb) ∧
          c'.xlpos = (if next.isSome then c.xlpos + 1 else c.xlpos) ∧
          (∀ t, next = some t → ∀ d v, d < dims → t[d]? = some v → lget c' 4 (base + 2 * d + 1) = BitVec.ofNat 64 v) ∧
          (p = 0 → bitAt c'.xloop 24 = false ∧ c'.pc = c.pc ∧ c'.s = c.s) ∧
          (p ≠ 0 → c'.xloop = c.xloop ∧ c'.pc = c.bodyAt ∧
            (preg ≠ 0 → fld (sread c' (BitVec.ofNat 6 preg)) 0 8 = p))) ∧
      (bitAt c.xloop 25 = true → c.drainCut = false → fld c.xstagep 0 8 * 2 % 2 ^ stages = 0 →
        ∃ t, exec i s = .next t ∧ t.mem = s.mem ∧ t.agenda = .auto (.imageWritten ctx) :: s.agenda ∧
          (getCtx t ctx).run = .saving ∧ (getCtx t ctx).forced = true ∧ (getCtx t ctx).refill = true ∧
          (getCtx t ctx).pc = c.bodyAt ∧ bitAt (getCtx t ctx).xloop 24 = false ∧ (getCtx t ctx).s = c.s ∧
          ∀ k, k ≠ ctx → getCtx t k = getCtx s k) ∧
      (bitAt c.xloop 25 = true → c.drainCut = true → fld c.xstagep 0 8 * 2 % 2 ^ stages = 0 →
        ∃ c', CtxBecomes i s ctx c' ∧ bitAt c'.xloop 25 = false ∧ c'.refill = false ∧
          (next.isSome = true → bitAt c'.xloop 24 = true ∧ c'.pc = c.bodyAt ∧ c'.xlpos = 1 ∧ c'.xstagep = 1) ∧
          (next = none → bitAt c'.xloop 24 = false ∧ c'.pc = c.pc)))

/-- R92 to R94, R97, R98: an engine in a nest moves its next block: a read engine delivers a pad of zeros or the rows
that it has read, or halts at its fault; the write engine absorbs a pad or a skipped block and stores the rest. With
no nest left it runs its next command. That the pitch is the one kept at ALOOP, and that a block takes its number when it is handled,
is the model's reading (log entry 30). -/
def Obligations.EnginesMoveBlocks : Prop :=
  ∀ (cl n : Nat) (s : State),
    let id := 8 * cl
    let c := getCtx s id
    let e := engOf c n
    let i := Instr.aaeBlock cl n
    (e.st = .idle ∨ (e.st = .halted ∧ (e.redo = [] ∨ e.cause = 0 ∨ e.redoNum.isSome = true)) → exec i s = .next s) ∧
    (e.st = .running ∨ e.st = .waiting → e.redo = [] →
      (∀ g x, e.gen = some g → e.nest = some x → x.pos < x.total →
        let q := g.q.toNat
        let num := (takeEngNum c n).1
        let s0 := fun k => setCtx s id (showTuple (takeEngNum c n).2 n x k)
        (n ≠ 2 → (qblocks c q).length < 4 →
          (x.realAt = none →
            ∃ t b, exec i s = .next t ∧ t.mem = s.mem ∧ qblocks (getCtx t id) q = qblocks c q ++ [b] ∧ b.data = 0 ∧
              (engOf (getCtx t id) n).nest = some { x with pos := x.pos + 1 }) ∧
          (∀ k, x.realAt = some k →
            (∀ bs s1 rows,
              readRows (engAgent s id n num) (genBytes g) x.pitch (genRows g) (s0 k) (x.addr (genRows g) k) [] = (.ok bs s1, rows) →
              ∃ t b, exec i s = .next t ∧ t.mem = s1.mem ∧ qblocks (getCtx t id) q = qblocks c q ++ [b] ∧
                b.data = blockOf (rows.map bytesOf) ∧ (engOf (getCtx t id) n).nest = some { x with pos := x.pos + 1 } ∧
                num ∉ (tcOf (getCtx t id) (1 + n)).pending) ∧
            (∀ cause va s1 rows,
              readRows (engAgent s id n num) (genBytes g) x.pitch (genRows g) (s0 k) (x.addr (genRows g) k) [] =
                (.fault cause va s1, rows) →
              ∃ t, exec i s = .next t ∧ qblocks (getCtx t id) q = qblocks c q ∧ (engOf (getCtx t id) n).st = .halted ∧
                (engOf (getCtx t id) n).cause = cause ∧ (engOf (getCtx t id) n).va = va ∧
                (engOf (getCtx t id) n).haltNum = some num))) ∧
        (n = 2 → ∀ b bs, qblocks c q = b :: bs →
          (x.realAt = none ∨ b.skipped = true →
            ∃ t, exec i s = .next t ∧ t.mem = s.mem ∧ qblocks (getCtx t id) q = bs ∧
              (engOf (getCtx t id) 2).nest = some { x with pos := x.pos + 1 }) ∧
          (∀ k, x.realAt = some k → b.skipped = false → ∀ r s1,
            writeRows (engAgent s id 2 num) (genBytes g) x.pitch b (genRows g) 0 (s0 k) (x.addr (genRows g) k) = .ok r s1 →
            ∃ t, exec i s = .next t ∧ t.mem = s1.mem ∧ qblocks (getCtx t id) q = bs ∧
              (engOf (getCtx t id) 2).nest = some { x with pos := x.pos + 1 } ∧ num ∉ (tcOf (getCtx t id) 3).pending))) ∧
      (e.nest = none → ∀ bs s1, rangeRead (engAgent s id n 0) .ar 8 s e.cmd 8 [] = .ok bs s1 → anyBad bs = false →
        (∀ j, decodeAae cl n (valueOf bs) = some j → exec i s = exec j s1) ∧
        (decodeAae cl n (valueOf bs) = none →
          ∃ t, exec i s = .next t ∧ (engOf (getCtx t id) n).st = .halted ∧ (engOf (getCtx t id) n).cause = 7)))

/-- R122, R175 to R177, R179: a step of a matrix word that can run performs it, touches no memory, and completes the
word's number after the last. TZERO leaves zeros; a dense TMMA without a side path adds to each element of a row the
exact sum of its step, rounded once. A TEPI of the side path corrects the groups that are not held, and stays at its first step
while others are (R192). A step that cannot run changes nothing. -/
def Obligations.MatrixStepsRun : Prop :=
  ∀ (ctx num : Nat) (s : State) (o : MxOp), (getCtx s ctx).mx.find? (fun x => x.num == num) = some o →
    let i := Instr.kStep ctx num
    let x := mxWord o
    let stays := o.guardOff = false ∧ tepiOpen ctx o x = true ∧
      ∃ p ∈ panels ctx x o.cores, ∃ g ∈ groupsLeft o x p, ∃ r ∈ groupOf x p g, rowHeld (getCore s p.core) x p r = true
    (stepReady s ctx o = false → exec i s = .next s) ∧
    (stepReady s ctx o = true →
      ∃ t, exec i s = .next t ∧ t.mem = s.mem ∧
        (x.m ≤ 128 → stays →
          ∃ o2, (getCtx t ctx).mx.find? (fun y => y.num == num) = some o2 ∧ o2.step = 0 ∧ o2.w = o.w ∧ o2.op = o.op) ∧
        (¬stays → o.step + 1 < x.steps →
          ∃ o2, (getCtx t ctx).mx.find? (fun y => y.num == num) = some o2 ∧ o2.step = o.step + 1 ∧ o2.w = o.w ∧ o2.op = o.op) ∧
        (¬stays → x.steps ≤ o.step + 1 → num ∉ (tcOf (getCtx t ctx) 5).pending ∧ ∀ y ∈ (getCtx t ctx).mx, y.num ≠ num) ∧
        (o.guardOff = false → x.kind = .tzero → ∀ p ∈ panels ctx x o.cores, ∀ r n, r < p.rows → n < p.cols → n < 128 →
          smGetD (getCore t p.core).acc (accKey x.acc (p.row0 + r) n) (0, false) = (0, false)) ∧
        (o.guardOff = false → x.kind = .tmma → x.level ≤ 1 → x.w.side = false → ∀ p ∈ panels ctx x o.cores, p.cols ≤ 128 →
          ∀ r, r < p.rows →
            accRow (getCore t p.core) x.acc (p.row0 + r) p.cols =
              (rowStep x.fmt (aVals x.fmt (aCodes s ctx x o.step r) (aScales x o.step (stepScales s ctx x o.step) r))
                (bCols s ctx x o.step (stepScales s ctx x o.step) p) (accRow (getCore s p.core) x.acc (p.row0 + r) p.cols)).map
                fun e => (e.1 % 2 ^ 32, e.2)))

/-- R185, R186: a TSTAGE that can move its next slot fills it from the rows that it has read, or writes it out and
releases it, steps its base register, and completes its number with its last slot. A piece of a sealed block that a later
slot writes too is kept for it (R293). -/
def Obligations.StagingMovesSlots : Prop :=
  ∀ (ctx num : Nat) (s : State) (o : CopyOp) (w : TileW) (pitch : Word) (off : Bool) (stamp : Nat),
    copyOf s ctx num = some o → o.kind = .stage w pitch off stamp →
    let c := getCtx s ctx
    let q := w.aRing.toNat
    let i := Instr.tstageSlot ctx num
    (stageReady s ctx o w stamp = false → exec i s = .next s) ∧
    (stageReady s ctx o w stamp = true →
      let Steps := fun (m : List Host.Cell) (kept : List (Word × List PB)) (More : State → Prop) =>
        ∃ t, exec i s = .next t ∧ t.mem = m ∧ More t ∧
          lget (getCtx t ctx) 3 (stageBr w) = lget c 3 (stageBr w) + lget c 3 (stageStep w) ∧
          (w.n.toNat ≤ o.pos + 1 → copyOf t ctx num = none ∧ num ∉ (tcOf (getCtx t ctx) 4).pending) ∧
          (o.pos + 1 < w.n.toNat → ∃ o2, copyOf t ctx num = some o2 ∧ o2.kind = o.kind ∧ o2.pos = o.pos + 1 ∧ o2.kept = kept)
      (∀ slots p k f, ringOf c q = some (slots, p, k, f) → stageDrains w = false →
        let Filled := fun (row : Nat → SlotRow) (t : State) =>
          ringOf (getCtx t ctx) q = some (slots, (p + 1) % slots.length, k, f + 1) ∧
            ∀ r, r < 128 → smGetD (getCore t (coreOf ctx)).slots (128 * slots.getD p 0 + r) 0 = row r
        (off = true → Steps s.mem o.kept (Filled fun _ => 0)) ∧
        (off = false → ∀ rows s1, fillRows (copyAgent s ctx o) c w pitch w.m.toNat w.row0 [] s = .ok rows s1 →
          Steps s1.mem o.kept (Filled fun r => if r < w.row0 then 0 else slotRow (bytesOf (rows.getD (r - w.row0) []))))) ∧
      (stageDrains w = true →
        let Released := fun (t : State) => ringFilled (getCtx t ctx) q = ringFilled c q - 1
        let ag := copyAgent s ctx o
        let later := slotBlocks w pitch (w.n.toNat - o.pos - 1) (stepBase w c)
        let all := o.kept ++ drainRows s ctx w pitch (ringSlot c q 0)
        let ps := all.filter fun p => !pieceWaits s ag later p
        (off = true → Steps s.mem o.kept Released) ∧
        (off = false → ∀ r s1, drainPieces ag ps [] ps s = .ok r s1 →
          Steps s1.mem (all.filter (pieceWaits s ag later)) Released)))

-- What ends waits and turns contexts.

/-- The ends of waits, and the events of a boundary. -/
def Obligations.WaitsEndAndEventsTurnContexts : Prop :=
  -- R55, R244, R263: a wait whose condition has come makes its context RUNNABLE at the same word; an MWAIT whose
  -- time is up writes 2 and passes on; a tagged store whose time for version space is up traps HYPCAP, its time counted on
  -- where it has to wait again. Before that nothing happens.
  (∀ (ctx : Nat) (s : State), (getCtx s ctx).run = .waiting →
     let c := getCtx s ctx
     let up : Ctx := { c with run := .runnable, wait := none, due := keptDue c }
     (waitMet s ctx = true → CtxBecomes (.waitSatisfied ctx) s ctx up) ∧
     (waitMet s ctx = false → exec (.waitSatisfied ctx) s = .next s) ∧
     (∀ e d n, c.wait = some (.monitor e d) → c.due = some n →
       (reached s n = false → exec (.waitTimeout ctx) s = .next s) ∧
       (reached s n = true →
         ∃ t, exec (.waitTimeout ctx) s = .next t ∧ t.mem = s.mem ∧
           (getCtx t ctx).run = .runnable ∧ (getCtx t ctx).wait = none ∧ (getCtx t ctx).watchFired = false ∧
           (∀ r : SReg, sread (getCtx t ctx) r = if r = BitVec.ofNat 6 d ∧ r ≠ 0 then 2 else sread c r) ∧
           (getCtx t ctx).pc = (if e then c.jump.getD (c.pc + 4) else c.pc + 4) ∧
           ∀ k, k ≠ ctx → getCtx t k = getCtx s k)) ∧
     (∀ line va n, c.wait = some (.versionSpace line va) → c.due = some n →
       (reached s n = false → exec (.hypcapTimeout ctx) s = .next s) ∧
       (reached s n = true → waitMet s ctx = true → CtxBecomes (.hypcapTimeout ctx) s ctx up) ∧
       (reached s n = true → waitMet s ctx = false →
         exec (.hypcapTimeout ctx) s = .next (takeTrap ctx { cause := 11, w := true, va := va } s)))) ∧
  -- R68, R89, R270, R331, R351: at a boundary or in a wait, ORPHAN moves the context to its node's survivor and to
  -- XOVEC, and CKPT traps into the handler, or is held while one runs; at the deadline of a request a context drains its
  -- loop or is suspended.
  (∀ (ctx : Nat) (s : State),
     let c := getCtx s ctx
     let p := getPart s (partOf s ctx)
     let atBoundary := c.run = .waiting ∨ (c.run = .runnable ∧ inBundle c = false)
     (atBoundary → ¬(c.run = .runnable ∧ exitsHere c = true) → (getNode p (viewOf c)).st = .refuted →
       ∃ t, exec (.orphan ctx) s = .next t ∧ t.mem = s.mem ∧
         (getCtx t ctx).run = .runnable ∧ (getCtx t ctx).wait = none ∧ (getCtx t ctx).s = c.s ∧
         fld (getCtx t ctx).xhyp 0 10 = survivor p (viewOf c) % 1024 ∧ fld (getCtx t ctx).xhyp 16 10 = viewOf c ∧
         bitAt (getCtx t ctx).xhyp 26 = true ∧ bitAt (getCtx t ctx).xloop 24 = false ∧
         (∀ o ∈ (getCtx t ctx).copies, o.tagged = false) ∧ (∀ b ∈ t.barriers, ctx ∉ b.arrived) ∧
         let v := BitVec.ofNat 64 (c.xovec.toNat / 4 * 4)
         if v = 0 then (getCtx t ctx).pc = c.pc ∧ (getCtx t ctx).exiting = some c.pc else (getCtx t ctx).pc = v) ∧
     (c.run = .runnable → c.mid = false → bitAt c.xstat 0 = false → c.exiting = some c.pc →
       exec (.orphan ctx) s = .next (exitContext ctx 0 s)) ∧
     (c.ckpt = true → bitAt c.xstat 0 = true → CtxBecomes (.ckpt ctx) s ctx { c with ckpt := false, ckptHeld := true }) ∧
     (c.ckpt = true → bitAt c.xstat 0 = false → atBoundary →
       ∃ t, exec (.ckpt ctx) s = .next t ∧ (getCtx t ctx).ckpt = false ∧ fld (getCtx t ctx).xtrapc 0 6 = 17 ∧
         (getCtx t ctx).xtrappc = c.pc ∧ (getCtx t ctx).s = c.s ∧
         if fld c.xstat 8 56 = 0 then (getCtx t ctx).run = .stopped
         else (getCtx t ctx).run = .runnable ∧ bitAt (getCtx t ctx).xstat 0 = true ∧
           (getCtx t ctx).pc = BitVec.ofNat 64 (256 * fld c.xstat 8 56)) ∧
     (∀ n, c.run = .runnable → c.prqDue = some n → inBundle c = false → draining c = false →
       (reached s n = false → exec (.deadlineExpiry ctx) s = .next s) ∧
       (reached s n = true → inBody c c.pc = true →
         CtxBecomes (.deadlineExpiry ctx) s ctx { c with xloop := setBit c.xloop 25 true }) ∧
       (reached s n = true → inBody c c.pc = false →
         ∃ t, exec (.deadlineExpiry ctx) s = .next t ∧ t.mem = s.mem ∧ t.agenda = .auto (.imageWritten ctx) :: s.agenda ∧
           getCtx t ctx = { c with run := .saving, wait := none, due := none, forced := true, prqDue := none } ∧
           ∀ k, k ≠ ctx → getCtx t k = getCtx s k)))

/-- R63, R66, R79, R90, R329, R340, R343: a STOPPED context that the supervisor resumes goes on: at XTRAPPC after a trap, in
the rest of the bundle that its stop left, or at the refill of its drained loop; one that it discards holds nothing, and its
registers stand; an arrived handler starts in the lowest DORMANT light context; a SAVING context whose image is written is
idle with its image queued, one without a save area stops. -/
def Obligations.ContextsAreResumedDiscardedAndSaved : Prop :=
  (∀ (ctx : Nat) (s : State), (getCtx s ctx).run = .stopped →
    let c := getCtx s ctx
    let at_ := if c.trapped then BitVec.ofNat 64 (c.xtrappc.toNat / 4 * 4) else c.pc
    let Resumes := fun (c1 : Ctx) =>
      let up : Ctx := { c1 with run := .runnable, wait := none, stopHeld := none, trapped := false }
      (requestPending s ctx = false → CtxBecomes (.supervisorResume ctx) s ctx up) ∧
      (requestPending s ctx = true →
        CtxBecomes (.supervisorResume ctx) s ctx
          { up with xsched := setBit c.xsched 0 true, prqDue := some (cycleIn s (fld c.xdeadline 0 32)) })
    (s.fatal = false → c.refill = false →
      (c.stopHeld = none → c.trapped = false → Resumes c) ∧
      (c.trapped = true ∨ c.stopHeld.isSome = true → restFrom s ctx at_ c.stopHeld = none →
        Resumes { c with pc := at_, mid := false, jump := none, back := [] }) ∧
      (∀ h, restFrom s ctx at_ c.stopHeld = some h → Resumes { c with pc := h.next, mid := true, jump := h.jump, back := h.back }) ∧
      ∀ h, c.stopHeld = some h → h.next = at_ → restFrom s ctx at_ c.stopHeld = some h) ∧
    (s.fatal = false → c.refill = true → requestPending s ctx = false →
      ∃ c', CtxBecomes (.supervisorResume ctx) s ctx c' ∧ c'.run = .runnable ∧ c'.refill = false ∧ bitAt c'.xloop 25 = false ∧
        c'.mid = false ∧ c'.k = c.k ∧ c'.xhyp = c.xhyp) ∧
    (s.fatal = true → exec (.supervisorResume ctx) s = .next s) ∧
    ∃ t, exec (.supervisorDiscard ctx) s = .next t ∧ (getCtx t ctx).run = (if isLight ctx then .dormant else .free) ∧
      (getCtx t ctx).s = c.s ∧ (getCtx t ctx).member = none ∧ (getCtx t ctx).wait = none ∧ (getCtx t ctx).copies = []) ∧
  (∀ (cl id : Nat) (s : State) (r : HandlerReq) (rest : List HandlerReq), s.fatal = false → firstDormant s cl = some id →
    takeRequest (fun r => coreAdmits s (cl / 4) (worldOf s r.tenant)) (getCluster s cl).handlers = some (r, rest) →
    ∃ t, exec (.handlerWake cl) s = .next t ∧ (getCtx t id).run = .runnable ∧ (getCtx t id).pc = r.pc ∧
      sread (getCtx t id) 1 = r.addr ∧ sread (getCtx t id) 2 = BitVec.ofNat 64 r.len ∧
      sread (getCtx t id) 3 = BitVec.ofNat 64 r.src ∧ (getCtx t id).tenant = BitVec.ofNat 12 r.tenant ∧
      (getCluster t cl).handlers = rest ∧ t.mem = s.mem ∧ slotsHeld t r.tenant = slotsHeld s r.tenant - 1) ∧
  (∀ (ctx : Nat) (s : State), (getCtx s ctx).run = .saving → saveReady s ctx = true →
    let s0 := setCtx s ctx (rewound (getCtx s ctx))
    let cnt := (takeCnt s0 ctx).1
    let s1 := (takeCnt s0 ctx).2
    let part := partOf s1 ctx
    let tenant := (getCtx s1 ctx).tenant.toNat
    ((saveArea s1 ctx).1 = 0 → ∃ t, exec (.imageWritten ctx) s = .next t ∧ (getCtx t ctx).run = .stopped ∧ (getCtx t ctx).forced = false) ∧
    (∀ area span cell size s2, saveArea s1 ctx = (area, span) → area ≠ 0 →
      freeCell s1 part tenant area = .ok (some (cell, size)) →
      writeImage ctx cnt (bitNat (getCtx s1 ctx).forced) 0 span size (BitVec.ofNat 64 (cellAddr area size cell)) (getCtx s1 ctx) s1 =
        .ok cnt s2 →
      (∀ k a, setUsed s2 part tenant area cell true = .error (k, a) →
        ∃ t, exec (.imageWritten ctx) s = .next t ∧ (getCtx t ctx).run = .stopped ∧ (getCtx t ctx).forced = false ∧ t.images = s.images) ∧
      ∀ s3, setUsed s2 part tenant area cell true = .ok s3 →
      ∃ t, exec (.imageWritten ctx) s = .next t ∧ (getCtx t ctx).run = (if isLight ctx then .dormant else .free) ∧
        ∃ x ∈ t.images, x.place = ctx ∧ x.cnt = cnt ∧ x.area = area ∧ x.cell = cell ∧ x.refused = 0))

-- The fabric.

/-- R217, R297, R374: the head request of a tenant passes its port when the tenant's bucket holds it, and the tenant is the
one served last; a period refills the active tenants' buckets by their shares, at most to two periods; a rotation moves CUR to PRV everywhere; a failed port is no loss. -/
def Obligations.PortsAndSignaturesTurnOver : Prop :=
  (∀ (core tenant : Nat) (r : PortReq) (rest : List PortReq) (s : State), headRequest tenant (getCore s core).portWait = some (r, rest) →
    let b := smGetD (getCore s core).buckets tenant 0
    (b < r.bytes → ∃ t, exec (.portRequestPass core tenant) s = .next t ∧ t.mem = s.mem ∧ t.ctxs = s.ctxs ∧ ∀ k, getCore t k = getCore s k) ∧
    (r.bytes ≤ b → ∃ t, exec (.portRequestPass core tenant) s = .next t ∧ t.mem = s.mem ∧ t.ctxs = s.ctxs ∧
      (getCore t core).portWait = rest ∧ (getCore t core).portLast = tenant ∧ (getCore t core).portPaid = r.agent.toList ++ (getCore s core).portPaid ∧
      smGetD (getCore t core).buckets tenant 0 = b - r.bytes ∧
      (∀ k, k ≠ tenant → smGetD (getCore t core).buckets k 0 = smGetD (getCore s core).buckets k 0) ∧
      ∀ k, k ≠ core → getCore t k = getCore s k)) ∧
  (∀ s : State, ∃ t, exec .tokenRefill s = .next t ∧ t.mem = s.mem ∧ t.ctxs = s.ctxs ∧
    ∀ core, let c := getCore s core
      let act := (c.portSeen ++ c.portWait.map (·.tenant)).eraseDups
      let total := (act.map (bwShare s)).sum
      (getCore t core).portSeen = (c.portWait.map (·.tenant)).eraseDups ∧ (getCore t core).portWait = c.portWait ∧
      ∀ k, smGetD (getCore t core).buckets k 0 =
        if k ∈ act then
          let r := if total = 0 then 262144 / act.length else 262144 * bwShare s k / total
          min (smGetD c.buckets k 0 + r) (2 * r)
        else smGetD c.buckets k 0) ∧
  (∀ s : State, ∃ t, exec .signatureRotation s = .next t ∧ t.mem = s.mem ∧ t.ctxs = s.ctxs ∧ t.gwPrv = s.gwCur ∧ t.gwCur = 0 ∧
    ∀ core, (getCore t core).prv = (getCore s core).cur ∧ (getCore t core).cur = 0 ∧ (getCore t core).scratch = (getCore s core).scratch) ∧
  ∀ (port : Nat) (s : State), port < 16 → ∃ t, exec (.delvelPortFailure port) s = .next t ∧ t = { s with portsDown := t.portsDown } ∧
    ∀ k, k ∈ t.portsDown ↔ k ∈ s.portsDown ∨ k = port

-- Tile tasks, the Herbarium, the Catalogue between packages, resolves.

/-- R75, R195, R204: a unit with a free sequencer selects its best ready task. The task begins, or resumes: PART of
its fault area becomes 2, and the children that the area's map names are done, with the sums of its PART. A task whose place is
unmapped faults. A granule of a map region that the task has to read or write is waited for (R211). -/
def Obligations.TasksAreSelectedAndResumed : Prop :=
  (∀ (u : UnitId) (s : State),
    ((getPart s u.part).quiesced = true ∨ (if u.level = 0 then 1 else 4) ≤ taskBusy s u ∨ taskPick s u = none →
      exec (.taskSelect u) s = .next s) ∧
    (∀ k, (getPart s u.part).quiesced = false → taskBusy s u < (if u.level = 0 then 1 else 4) → taskPick s u = some k →
      let Becomes := fun (f : Task → Prop) => ∃ t, exec (.taskSelect u) s = .next t ∧ ∀ x ∈ t.tasks, x.id = k.id → f x
      let order := s.nextId + 1
      (k.resume = true → Becomes fun x => x = { k with st := .taken, order := order }) ∧
      (k.resume = false → k.place = none → AreaFilled s k (recFault k.bytes) 384 → Becomes fun x => x.st = .faulted) ∧
      (k.resume = false → k.place = none → ¬AreaFilled s k (recFault k.bytes) 384 →
        ∃ t, exec (.taskSelect u) s = .next t ∧ t.tasks = s.tasks) ∧
      (k.resume = false → k.place ≠ none → stageNeed k ≤ stagingShare s k.unit.part (taskDie k) → kidsLeft (kidCount k) k.done ≠ [] →
        Becomes fun x => x = { k with st := .running, order := order }))) ∧
  ∀ (task : Nat) (s : State) (k : Task), s.tasks.find? (fun t => t.id == task && t.st == .taken) = some k →
    let area := recFault k.bytes
    let map := issuerRead s k (area + k.mapAt) 256
    let part := issuerRead s k (area + 64) 64
    let s1 := issuerPut k (area + 48) [2] s
    let done := (rangeFrom 0 (kidCount k)).filter (natBit (leNat (areaBytes map 256)))
    (∀ n, map = .error (.wait n) → exec (.tresume task) s = .next (childWaits k n s)) ∧
    (readWait map = none → readWait part = none → readWait (issuerRead s k area 64) = none → k.place ≠ none →
      stageNeed k ≤ stagingShare s1 k.unit.part (taskDie k) → kidsLeft (kidCount k) done ≠ [] →
      ∃ t, exec (.tresume task) s = .next t ∧ t.mem = s1.mem ∧
        ∀ x ∈ t.tasks, x.id = task → x.st = .running ∧ x.done = done ∧ x.sums = partSums (areaBytes part 64))

/-- R75, R194, R200, R201: a child whose unit a task of the same queue, selected earlier, is to use first does nothing yet;
another one that ends is recorded in its parent, with its sums or with its fault under its own
number; a parent whose last child has completed is over, one with a faulted child faults when its pass is. A parent
that cannot place a child faults. The parent's own end comes about once the granules that it writes are filled (R211). -/
def Obligations.ChildrenEndInTheirParents : Prop :=
  ∀ (task child : Nat) (s : State) (k0 : Task), runningTask s task = some k0 →
    (∀ f, withPass k0 s = .error f → AreaFilled s k0 (recFault k0.bytes) 384 →
      ∃ t, exec (.childFault task child) s = .next t ∧ ∀ x ∈ t.tasks, x.id = task → x.st = .faulted) ∧
    (∀ k s1 p, withPass k0 s = .ok (k, s1) → childUnit k child = some p → unitAhead s k p = true →
      exec (.childComplete task child) s = .next s ∧ exec (.childFault task child) s = .next s) ∧
    (∀ k s1 p g, withPass k0 s = .ok (k, s1) → childUnit k child = some p → unitAhead s k p = false →
      runKid k child p s1 = .got g → 2 ≤ k.unit.level →
      let Ended := fun (i : Instr) (f : Task → Prop) => ∃ t, exec i s = .next t ∧ ∀ x ∈ t.tasks, x.id = task → f x
      let passOver := fun (k : Task) => k.pass.all fun q => k.done.contains q.1 || k.flt.any fun f => f.1 == q.1
      (g.flt = none →
        let k1 := { k with done := k.done ++ [child], sums := k.sums.add g.sums }
        let i := Instr.childComplete task child
        (passOver k1 = false → Ended i fun x => x = k1) ∧
        (passOver k1 = true → k1.flt = [] → kidsLeft (kidCount k1) k1.done ≠ [] → Ended i fun x => x = { k1 with pass := [] }) ∧
        (passOver k1 = true → k1.flt = [] → kidsLeft (kidCount k1) k1.done = [] → (taskTile k1).ovf = false →
          (recDone k.bytes ≠ 0 → AreaFilled s k (recDone k.bytes) 8) → Ended i fun _ => False) ∧
        (passOver k1 = true → k1.flt ≠ [] → AreaFilled s k (recFault k.bytes) 384 → Ended i fun x => x.st = .faulted)) ∧
      (∀ f, g.flt = some f →
        let k1 := { k with flt := k.flt ++ [(child, { f with path := child :: f.path })] }
        let i := Instr.childFault task child
        (passOver k1 = false → Ended i fun x => x = k1) ∧ 
        (passOver k1 = true → AreaFilled s k (recFault k.bytes) 384 → Ended i fun x => x.st = .faulted)))

/-- R298, R301, R318, R319: a running fill lands its site's lines and makes the die's entries RESIDENT, or is over without
them; on a replica it asks the home once there is room. A record of a peer outside the partition's PEERMAP is refused, one
without a gateway slot waits, and every other is acknowledged. A home answers an ADMIT with the first of its checks that
fails, or pins the version for the peer; a retired version's lines go everywhere. That it answers status 1 for an entry it does
not have is the model's reading (log entry 50), and so are the records of a replica (log entry 40). -/
def Obligations.SitesAndRecordsArrive : Prop :=
  (∀ (die : Nat) (k : SiteKey) (s : State),
    let i := Instr.herbariumFill die k
    let Fails := fun (_ : Unit) =>
      ∃ t, exec i s = .next t ∧ t.mem = s.mem ∧ filling (getDie t die) k = false ∧ (getDie t die).lines = (getDie s die).lines
    let home := siteHome s die k
    let held := (linesOf (getDie s die) k).length
    let room := fun (n : Nat) => makeRoom die k (n - held) ((getDie s die).lines.length + 1) s
    ((getDie s die).fills.find? (fun f => f.key == k) = none → exec i s = .next s) ∧
    (∀ f, (getDie s die).fills.find? (fun f => f.key == k) = some f →
      (home ≠ 0x1FFF → peerCheck s die k.part home = none → Fails ()) ∧
      (home ≠ 0x1FFF → ∀ p, peerCheck s die k.part home = some p →
        (f.asked = true → exec i s = .next s) ∧
        (f.asked = false → room f.lines = none → Fails ()) ∧
        (f.asked = false → (room f.lines).isSome = true →
          ∃ t, exec i s = .next t ∧ t.mem = s.mem ∧ (∃ g ∈ (getDie t die).fills, g.key = k ∧ g.asked = true) ∧
            t.catOut = s.catOut ++ [{ num := s.catNum + 1, peer := p, tenant := k.tenant, cls := 2, rec_ := .slab s.ownPeer die k,
                                      sent := slotFree s k.tenant }])) ∧
      (home = 0x1FFF → ((entryOf s k.part k.handle).bind fun e => recOf e k.ver) = none → Fails ()) ∧
      (home = 0x1FFF → ∀ v, ((entryOf s k.part k.handle).bind fun e => recOf e k.ver) = some v →
        let bs := siteRun s v k.site
        let n := (bs.length + 4095) / 4096
        (anyBad bs = true ∨ room n = none → Fails ()) ∧
        (∀ s1, anyBad bs = false → room n = some s1 →
          ∃ t, exec i s = .next t ∧ t.mem = s1.mem ∧ filling (getDie t die) k = false ∧ siteHere (getDie t die) k n = true ∧
            ∀ core b x, core / 32 = die → smGet (getCore t core).bind b = some x → x.key = k → x.st ≠ .missing)))) ∧
  (∀ (num peer ctx part handle t0 sealV : Nat) (nonce : Word) (s : State),
    let i := Instr.catalogueRecordArrival { num := num, rec_ := .admitAsk peer ctx part handle t0 sealV nonce }
    let ack := fun (f : Option (Nat × Nat)) => (peer, ({ ctx := 0, num := num, done := 0, fault := f, record := true } : Ack))
    let Answers := fun (st : Nat) (v : Option VerInfo) (t : State) =>
      exec i s = .next t ∧ t.mem = s.mem ∧ t.acks = s.acks ++ [ack none] ∧
        t.catOut = s.catOut ++ [{ num := s.catNum + 1, peer := peer, tenant := t0, cls := 3,
                                  rec_ := .admitAnswer s.ownPeer ctx part handle t0 st v, sent := slotFree s t0 }]
    (peerAdmitted s part peer = false → exec i s = .next { s with acks := s.acks ++ [ack (some (12, 0))] }) ∧
    (peerAdmitted s part peer = true → slotFree s t0 = false → exec i s = .next s) ∧
    (peerAdmitted s part peer = true → slotFree s t0 = true → peerOk s part peer = true →
      (entryOf s part handle = none → ∃ t, Answers 1 none t ∧ t.catalogue = s.catalogue) ∧
      (∀ e, entryOf s part handle = some e → isReplica e = false →
        (∀ st, homeChecks s e t0 sealV nonce = (st, none) → ∃ t, Answers st none t ∧ t.catalogue = s.catalogue) ∧
        (∀ st v, homeChecks s e t0 sealV nonce = (st, some v) →
          ∃ t e2, Answers 0 (some (verInfo s v)) t ∧ entryOf t part handle = some e2 ∧ e2.peers = (peer, v.ver) :: e.peers)))) ∧
  ∀ (num peer part handle ver tenant : Nat) (s : State), peerAdmitted s part peer = true → slotFree s tenant = true →
    ∃ t, exec (.catalogueRecordArrival { num := num, rec_ := .invalidate peer part handle ver tenant }) s = .next t ∧ t.mem = s.mem ∧
      ∀ die, ∀ l ∈ (getDie t die).lines, ¬(l.key.part = part ∧ l.key.handle = handle ∧ l.key.ver = ver)

-- Vitrine frames, memory frames, key slots.

/-- R296: a frame begins by admitting its world; its grace point raises a request on every live context of the core;
its edge leaves no live context there, and none of the core's contents. -/
def Obligations.VitrineFramesTurn : Prop :=
  ∀ (core : Nat) (s : State),
    let none_ := (getCore s core).vitrine = none
    (none_ → exec (.vitrineFrameBegin core) s = .next s ∧ exec (.vitrineGrace core) s = .next s ∧
      exec (.vitrineEdge core) s = .next s) ∧
    (¬none_ → ∃ t, exec (.vitrineFrameBegin core) s = .next t ∧ t.mem = s.mem ∧ t.ctxs = s.ctxs ∧ (getCore t core).edge = false ∧
      (getCore t core).graced = false ∧ (getCore t core).scratch = (getCore s core).scratch) ∧
    (∀ f n, frameAt s core = some (f, n) → (getCore s core).graced = false →
      let due := cycleIn s (graceLen f)
      ∃ t, exec (.vitrineGrace core) s = .next t ∧ t.mem = s.mem ∧ (getCore t core).graced = true ∧
        ∀ id, (getCtx t id).s = (getCtx s id).s ∧ (coreOf id = core →
          ((getCtx s id).run = .runnable →
            (getCtx t id).run = .runnable ∧ bitAt (getCtx t id).xsched 0 = true ∧
              (getCtx t id).prqDue = some (match (getCtx s id).prqDue with | some d => sooner s d due | none => due)) ∧
          ((getCtx s id).run = .waiting → (getCtx t id).run = .saving))) ∧
    (¬none_ → (getCore s core).edge = false →
      ∃ t, exec (.vitrineEdge core) s = .next t ∧ (getCore t core).edge = true ∧ (getCore t core).vitrine = (getCore s core).vitrine ∧
        (getCore t core).scratch = [] ∧ (getCore t core).slots = [] ∧ (getCore t core).acc = [] ∧ (getCore t core).u = [] ∧
        (getCore t core).smeta = [] ∧ (getCore t core).l1 = [] ∧ (getDie t (core / 32)).place = [] ∧
        ∀ id, coreOf id = core → (getCtx t id).run = .free ∨ (getCtx t id).run = .dormant)

/-- Memory frames and key slots. -/
def Obligations.FramesAndKeySlots : Prop :=
  -- R287, R288: a DIRTY frame is scrubbed: SCRUBBING, then CLEAN with every byte of it zero and no copy of it left;
  -- no other frame changes. A released frame's command completes once its stores on their way have been performed.
  (∀ (f : Nat) (s : State),
     (frameState s f ≠ 0 → exec (.scrubStart f) s = .next s) ∧
     (frameState s f = 0 → releasing s f = false → populatedPa (65536 * f) = true → linkUp s (65536 * f) = true →
       ∃ t, exec (.scrubStart f) s = .next t ∧ t = { s with frames := t.frames } ∧ frameState t f = 1 ∧
         ∀ k, k ≠ f → frameEntry t k = frameEntry s k) ∧
     (frameState s f ≠ 1 → exec (.scrubComplete f) s = .next s) ∧
     (frameState s f = 1 →
       ∃ t, exec (.scrubComplete f) s = .next t ∧ t.ctxs = s.ctxs ∧ frameState t f = 2 ∧ (∀ k, k ≠ f → frameEntry t k = frameEntry s k) ∧
         (∀ a, memByte t a = if a / 65536 = f then 0 else memByte s a) ∧
         (∀ k, ∀ c ∈ (getCore t k).l1, c.line / 1024 ≠ f) ∧ (∀ d, ∀ c ∈ (getDie t d).visitors, c.line / 1024 ≠ f) ∧
         ∀ p, ∀ v ∈ (getPart t p).versions, v.line / 1024 ≠ f) ∧
     (smGet s.frameWork f = none → exec (.frameReleaseComplete f) s = .next s) ∧
     (∀ w, smGet s.frameWork f = some w →
       let s1 := { drainFrame s f with frameWork := smDel s.frameWork f }
       (∀ k, ∀ p ∈ (getCore s1 k).pending, p.line / 1024 ≠ f) ∧
       (w.src = none → exec (.frameReleaseComplete f) s = .next s1) ∧
       ∀ c, w.src = some c → Completed (.frameReleaseComplete f) s c s1 .done)) ∧
  -- R290: a programmed key goes into a FREE slot or the empty position of an ACTIVE one of its kind and tenant, and
  -- is CUR at once; the CUR position is never retired; no other slot changes.
  ((∀ (slot kind tenant : Nat) (key : BitVec 256) (s : State), slot < 8192 → 1 ≤ kind → kind ≤ 3 → tenant < 4096 →
     let i := Instr.keySlotProgram slot kind tenant key
     let Becomes := fun (k : KeySlot) =>
       ∃ t, exec i s = .next t ∧ t = { s with keys := t.keys } ∧ smGet t.keys slot = some k ∧ ∀ n, n ≠ slot → smGet t.keys n = smGet s.keys n
     (smGet s.keys slot = none → Becomes { kind := kind, tenant := tenant, key0 := some key, key1 := none, cur := 0 }) ∧
     (∀ k, smGet s.keys slot = some k →
       (k.kind ≠ kind ∨ k.tenant ≠ tenant → exec i s = .next s) ∧
       (k.kind = kind → k.tenant = tenant →
         (k.key0 = none → Becomes { k with key0 := some key, cur := 0 }) ∧
         (k.key0 ≠ none → k.key1 = none → Becomes { k with key1 := some key, cur := 1 }) ∧
         (k.key0 ≠ none → k.key1 ≠ none → exec i s = .next s)))) ∧
   ∀ (slot pos : Nat) (s : State) (k : KeySlot), smGet s.keys slot = some k →
     let i := Instr.keyRetire slot pos
     (pos = k.cur ∨ 2 ≤ pos → exec i s = .next s) ∧
     (pos ≠ k.cur → pos < 2 →
       ∃ t, exec i s = .next t ∧ t = { s with keys := t.keys } ∧
         smGet t.keys slot = some (if pos = 0 then { k with key0 := none } else { k with key1 := none }) ∧
         ∀ n, n ≠ slot → smGet t.keys n = smGet s.keys n))

-- The package.

/-- R346, R349, R372, R374, R376, R377: what fails. A lost peer is disabled, and the partitions that reach it are
quiesced; a package failure stops every context and sets FATAL; an Annex link that goes down, or comes back, leaves
its range DIRTY, and an access in flight there gets poison, that being one that waits at a port or has passed it by the model's
reading (log entry 102); a soft error is counted or leaves poison; throttling inserts idle cycles outside Vitrine cores. -/
def Obligations.FailuresAreContained : Prop :=
  (∀ (peer : Nat) (r : LossReason) (s : State),
    ∃ t, exec (.peerLost peer r) s = .next t ∧ peer ∈ t.disabled ∧
      ∀ p, (getPart s p).valid = true → mapHolds s p peer = true → (getPart t p).quiesced = true) ∧
  (∀ (link : Nat) (s : State),
    (6 ≤ link ∨ s.fatal = true → exec (.packageFailure link) s = .next s) ∧
    (link < 6 → s.fatal = false →
      ∃ t, exec (.packageFailure link) s = .next t ∧ t.fatal = true ∧ ∀ id,
        (getCtx t id).s = (getCtx s id).s ∧ (getCtx t id).pc = (getCtx s id).pc ∧
        (getCtx t id).run = if (getCtx s id).run = .free ∨ (getCtx s id).run = .dormant then (getCtx s id).run else .stopped)) ∧
  (∀ (port : Nat) (s : State),
    let Dirties := fun (t : State) => t.mem = s.mem ∧ ∀ f,
      if onPort port f = true then frameState t f = 0 else frameEntry t f = frameEntry s f
    (2 ≤ port ∨ port ∈ s.annexDown → exec (.annexLinkDown port) s = .next s) ∧
    (port < 2 → port ∉ s.annexDown → ∃ t, exec (.annexLinkDown port) s = .next t ∧ port ∈ t.annexDown ∧ Dirties t ∧
      ∀ a ∈ atPorts s, (port, a) ∈ t.cut) ∧
    ∃ t, exec (.annexLinkRetrained port) s = .next t ∧ port ∉ t.annexDown ∧ Dirties t ∧ ∀ e ∈ t.cut, e.1 ≠ port) ∧
  (∀ (core : Nat) (s : State),
    ((getCore s core).vitrine ≠ none → exec (.powerThrottle core) s = .next s) ∧
    (core < 128 → (getCore s core).vitrine = none →
      ∃ t, exec (.powerThrottle core) s = .next t ∧ t = { s with cores := t.cores } ∧
        ∀ k, getCore t k = if k = core then { getCore s core with throttled := (getCore s core).throttled + 1 } else getCore s k)) ∧
  ∀ (loc : PLoc) (s : State),
    (∀ d, correctedOn s loc = some d →
      ∃ t, exec (.softError loc true) s = .next t ∧ t = { s with dies := t.dies } ∧ (getDie t d).corrected = (getDie s d).corrected + 1) ∧
    (∀ g, loc = .mem g →
      ∃ t, exec (.softError loc false) s = .next t ∧ t = { s with poison := t.poison } ∧
        ∀ j, j / 8 = g / 8 → isPoison t (.mem j) = true) ∧
    (∀ c r, loc = .sreg c r → ∃ t, exec (.softError loc false) s = .next t ∧ t = { s with poison := t.poison } ∧ isPoison t loc = true) ∧
    (∀ k n g x, loc = .l1 k n g → (getCore s k).l1[n]? = some x →
      ∃ t y, exec (.softError loc false) s = .next t ∧ t = { s with cores := t.cores } ∧ (getCore t k).l1[n]? = some y ∧
        y = { x with bad := y.bad } ∧ ∀ j, j ∈ y.bad ↔ j ∈ x.bad ∨ j = g)

/-- R360, R371, R379, R380: every reset leaves the host's memory, the burnt fuses and the firmware, and nothing else;
a package reset makes a staged update active once it is acknowledged, and keeps it otherwise. Bring-up burns the SVN,
gives each partition a context key and sets READY; every frame is DIRTY from the reset on, and the boot scrub runs from then on. A
function reset ends its launches. That the bytes of HBM read 0 after a reset is the model's choice (log entry 2). -/
def Obligations.ResetsAndBringUp : Prop :=
  (∀ s : State,
    let Cleared := fun (t : State) =>
      (∀ a, memByte t a = if isHost a then memByte s a else 0) ∧ t.svnFuses = s.svnFuses ∧ t.ctxs = [] ∧ t.clusters = [] ∧ t.cores = [] ∧
        t.dies = [] ∧ t.parts = [] ∧ t.tenants = [] ∧ t.frames = [] ∧ t.keys = [] ∧ t.launches = [] ∧ t.images = [] ∧ t.tasks = [] ∧
        t.barriers = [] ∧ t.catalogue = [] ∧ t.admissions = [] ∧ t.logs = [] ∧ t.fns = [] ∧ t.ready = false ∧ t.fatal = false ∧ t.cycle = 0
    (∃ t, exec .coldReset s = .next t ∧ Cleared t ∧ t.firmware = s.firmware ∧ t.staged = none) ∧
    (∃ t, exec .packageReset s = .next t ∧ Cleared t ∧
      (s.staged = none → t.firmware = s.firmware ∧ t.staged = none) ∧
      (∀ u, s.staged = some u → awaited s u = [] → t.firmware = u.fw ∧ t.staged = none) ∧
      (∀ u, s.staged = some u → awaited s u ≠ [] → t.firmware = s.firmware ∧ t.staged = some u)) ∧
    (∀ c : CmdSrc, c.fn = 0 → s.ready = true →
      ∃ t, exec (.resetCmd c) s = .next t ∧ t.ctxs = [] ∧ t.launches = [] ∧ t.ready = false ∧ t.cycle = 0 ∧
        ∀ a, memByte t a = if a = hostPa (c.entry + 1) then 0 else if isHost a then memByte s a else 0)) ∧
  (∀ s : State,
    (s.ready = true ∨ s.firmware.svn < s.svnFuses → exec .bringUpComplete s = .next s) ∧
    (s.ready = false → s.svnFuses ≤ s.firmware.svn →
      ∃ t, exec .bringUpComplete s = .next t ∧ t.ready = true ∧ t.frames = s.frames ∧ t.svnFuses = s.firmware.svn ∧ t.mem = s.mem ∧
        t.measured = s.measured ++ [s.firmware.digest] ∧
        ∀ p, p < 16 → ∃ k, smGet t.keys (8176 + p) = some k ∧ k.kind = 3 ∧ k.key0.isSome = true ∧ k.cur = 0)) ∧
  ∀ (vf : Nat) (s : State), vf < 64 →
    ∃ t, exec (.vfFlr vf) s = .next t ∧ (getFn t (vf + 2)).head = (getFn t (vf + 2)).tail ∧
      (getFn t (vf + 2)).tail = (getFn s (vf + 2)).tail ∧ ∀ e ∈ t.launches, e.2.fn ≠ vf + 2

/-- R280, R281, R295, R349, R352, R369 to R371: a command that PF0 alone may give stays in its ring before READY and is
DENIED to another function; it ends with the status of its first failed check, or DONE with its effect. VITRINE writes the table to
the named core's quad, and refuses one that differs from a table in use there: the model's reading (log entry 59). -/
def Obligations.SetupCommandsComplete : Prop :=
  ∀ (c : CmdSrc) (p a1 a2 a3 a4 : Nat) (s : State),
    let cmds : List Instr :=
      [.part c p a1 a2 a3 a4, .tenant c a1, .assign c a1 p a2, .release c a1 p a2, .catnew c a1, .catdel c p a1, .pool c p a1 a2,
       .quiesce c p, .resumeCmd c p, .vitrine c p a1, .region c p a1 a2 a3 a4, .resetCmd c]
    (s.ready = false → ∀ i ∈ cmds, exec i s = .next s) ∧
    (s.ready = true → c.fn ≠ 0 → ∀ i ∈ cmds, Completed i s c s .denied) ∧
    (s.ready = true → c.fn = 0 →
      (let i := Instr.part c p a1 a2 a3 a4
       let new := partRecord (hostBytes s a1 64) (getPart s p)
       let share := (rangeFrom 0 4).any (sharesOver s (new :: otherParts s p))
       (16 ≤ p ∨ partFieldsOk new = false → Completed i s c s .format) ∧
       (p < 16 → partFieldsOk new = true →
         (partBusy s p = true → Completed i s c s .busy) ∧
         (partBusy s p = false → share = true → Completed i s c s .share) ∧
         (partBusy s p = false → share = false →
           ∃ s1, Completed i s c s1 .done ∧ s1.mem = s.mem ∧ s1.ctxs = s.ctxs ∧
             getPart s1 p = { new with save := a2, ring := a3, ringLen := a4, ringAt := 0, ringUsed := 0 } ∧
             ∀ q, q ≠ p → getPart s1 q = getPart s q))) ∧
      (let i := Instr.tenant c a1
       let (t, r) := tenantRecord (hostBytes s a1 16)
       let all := tenantsWith s t r
       let share := 1024 < (all.map (·.bwshare)).sum ∨ 3072 < (all.map (·.slotmin)).sum
       (tenantFieldsOk r = false → Completed i s c s .format) ∧
       (tenantFieldsOk r = true → share → Completed i s c s .share) ∧
       (tenantFieldsOk r = true → ¬share →
         ∃ s1, Completed i s c s1 .done ∧ s1.mem = s.mem ∧ smGet s1.tenants t = some r ∧ ∀ q, q ≠ t → smGet s1.tenants q = smGet s.tenants q)) ∧
      (let bad := 16 ≤ p ∨ (getPart s p).valid = false
       (bad → Completed (.quiesce c p) s c s .format ∧ Completed (.resumeCmd c p) s c s .format) ∧
       (¬bad →
         (∃ s1, Completed (.quiesce c p) s c s1 .done ∧ (getPart s1 p).quiesced = true ∧ (getPart s1 p).epoch = (getPart s p).epoch + 1) ∧
         (∃ s1, Completed (.resumeCmd c p) s c s1 .done ∧ s1.mem = s.mem ∧ getPart s1 p = { getPart s p with quiesced := false }))) ∧
      (let i := Instr.vitrine c p a1
       let tbl := frameTable (hostBytes s a1 32)
       let differs := usedFrames tbl ≠ [] ∧ ∃ x ∈ quadTables s (p / 4), x ≠ tbl
       (128 ≤ p ∨ tableOk tbl = false ∨ differs → Completed i s c s .format) ∧
       (p < 128 → tableOk tbl = true → ¬differs →
         ∃ s1, Completed i s c s1 .done ∧ s1.mem = s.mem ∧ ∀ k,
           if k / 4 = p / 4 then (getCore s1 k).vitrine = (if usedFrames tbl = [] then none else some tbl) else getCore s1 k = getCore s k)) ∧
      (let i := Instr.region c p a1 a2 a3 a4
       (4 ≤ p ∨ a1 + a2 + a3 + a4 ≠ 128 → Completed i s c s .format) ∧
       (p < 4 → a1 + a2 + a3 + a4 = 128 →
         (launchOn s p = true → Completed i s c s .busy) ∧
         (launchOn s p = false →
           ∃ s1, Completed i s c s1 .done ∧ s1.mem = s.mem ∧ (getDie s1 p).home = a1 ∧ (getDie s1 p).herb = a2 ∧ (getDie s1 p).stage = a3 ∧
             (getDie s1 p).queue = a4 ∧ (getDie s1 p).lines = if a2 = (getDie s p).herb then (getDie s p).lines else []))))

/-- R288, R302, R306, R369: ASSIGN takes a CLEAN frame, RELEASE makes an assigned one DIRTY and completes when its
accesses have been performed; CATNEW, CATDEL and POOL complete with the status of their first failed check, or DONE.
-/
def Obligations.FrameAndCatalogueCommandsComplete : Prop :=
  ∀ (c : CmdSrc) (p a1 a2 : Nat) (s : State), s.ready = true → c.fn = 0 →
    let f := frameOf a1
    let bad := namesFrame a1 = false ∨ 16 ≤ p ∨ 4096 ≤ a2
    (bad → Completed (.assign c a1 p a2) s c s .format ∧ Completed (.release c a1 p a2) s c s .format) ∧
    (¬bad →
      (frameState s f = 2 →
        ∃ s1, Completed (.assign c a1 p a2) s c s1 .done ∧ s1 = { s with frames := s1.frames } ∧
          frameState s1 f = 3 ∧ natField (frameEntry s1 f) 2 4 = p ∧ natField (frameEntry s1 f) 6 12 = a2 ∧
          ∀ k, k ≠ f → frameEntry s1 k = frameEntry s k) ∧
      (frameState s f = 3 → Completed (.assign c a1 p a2) s c s .busy) ∧
      (frameState s f < 2 → Completed (.assign c a1 p a2) s c s .dirty) ∧
      (frameState s f ≠ 3 → Completed (.release c a1 p a2) s c s .done) ∧
      (frameState s f = 3 →
        ∃ t, exec (.release c a1 p a2) s = .next t ∧ t.mem = s.mem ∧ frameState t f = 0 ∧
          smGet t.frameWork f = some { src := some c, charge := none } ∧ t.agenda.head? = some (.auto (.frameReleaseComplete f)))) ∧
    (let i := Instr.catnew c a1
     (entryImage (hostBytes s a1 128) = none → Completed i s c s .format) ∧
     (∀ en, entryImage (hostBytes s a1 128) = some en →
       let clash := s.catalogue.any fun x => x.handle == en.handle && (x.part == en.part || x.pub == en.pub)
       (clash = true → Completed i s c s .format) ∧
       (clash = false → 65536 ≤ s.catalogue.length → Completed i s c s .busy) ∧
       (clash = false → s.catalogue.length < 65536 → Completed i s c { s with catalogue := s.catalogue ++ [en] } .done))) ∧
    (let i := Instr.catdel c p a1
     (entryOf s p a1 = none → Completed i s c s .format) ∧
     (∀ en, entryOf s p a1 = some en →
       let held := en.vrec.any fun v => decide (0 < v.pins) || v.st == .staged
       (held = true → Completed i s c s .busy) ∧
       (held = false → ∃ s1, Completed i s c s1 .done ∧ s1.mem = s.mem ∧ entryOf s1 p a1 = none))) ∧
    (let i := Instr.pool c p a1 a2
     let pas := poolList s a1 a2
     let wrong := 16 ≤ p ∨ 2 ^ 24 < a2 ∨ pas.any (fun a => !namesFrame a) = true
     let busy := (getPart s p).poolUsed ≠ [] ∨ pas.any (fun a => frameState s (frameOf a) == 3) = true
     let dirty := pas.any (fun a => frameState s (frameOf a) != 2) = true
     (wrong → Completed i s c s .format) ∧ (¬wrong → busy → Completed i s c s .busy) ∧
     (¬wrong → ¬busy → dirty → Completed i s c s .dirty) ∧
     (¬wrong → ¬busy → ¬dirty →
       ∃ s1, Completed i s c s1 .done ∧ s1.mem = s.mem ∧ getPart s1 p = { getPart s p with pool := pas.map frameOf }))

/-- R62, R73, R368, R369, R371: LAUNCH, QPUT, QCLOSE and QGET of a function complete with the status of their first
failed check, or DONE with their effect; the doorbell and the command registers take what is written while the ring
allows it. In a replay a QPUT whose turn in the log has not come is BUSY: the model's choice (log entry 63). -/
def Obligations.LaunchAndQueueCommandsComplete : Prop :=
  (∀ (c : CmdSrc) (p a1 lid q a2 : Nat) (s : State),
    let cmds : List Instr := [.launchCommand c p a1, .qput c lid q a2, .qclose c lid q, .qget c lid q a2]
    (s.ready = false → ∀ i ∈ cmds, exec i s = .next s) ∧
    (s.ready = true → c.fn = 1 → ∀ i ∈ cmds, Completed i s c s .denied) ∧
    (s.ready = true → c.fn ≠ 1 →
      (smGet s.launches lid = none → ∀ i ∈ [Instr.qput c lid q a2, .qclose c lid q, .qget c lid q a2], Completed i s c s .format) ∧
      (∀ l, smGet s.launches lid = some l →
        (l.fn ≠ c.fn → ∀ i ∈ [Instr.qput c lid q a2, .qclose c lid q, .qget c lid q a2], Completed i s c s .denied) ∧
        (l.fn = c.fn → ∀ x, l.queues[q]? = some x →
          (external l q = false → Completed (.qput c lid q a2) s c s .format ∧ Completed (.qclose c lid q) s c s .format) ∧
          (external l q = true → x.closed = true →
            Completed (.qput c lid q a2) s c s .closed ∧ Completed (.qclose c lid q) s c s .closed) ∧
          (external l q = true → x.closed = false →
            (x.depth ≤ x.entries.length → Completed (.qput c lid q a2) s c s .full) ∧
            (x.entries.length < x.depth →
              let bs := hostRead s a2 x.esize
              let turn := replayTurn s lid 1 q 0xFFFF (bytesOf bs)
              (turn = false → Completed (.qput c lid q a2) s c s .busy) ∧
              (turn = true →
                ∃ s1, Completed (.qput c lid q a2) s c s1 .done ∧ s1.mem = s.mem ∧
                  launchQueueAt s1 lid q = some { x with entries := x.entries ++ [bs], puts := x.puts + 1 })) ∧
            ∃ s1, Completed (.qclose c lid q) s c s1 .done ∧ ∀ y, launchQueueAt s1 lid q = some y → y.closed = true) ∧
          (hostDrained l q = false → Completed (.qget c lid q a2) s c s .format) ∧
          (hostDrained l q = true → x.entries = [] → Completed (.qget c lid q a2) s c s (if x.closed then .closed else .empty)) ∧
          (∀ bs rest, hostDrained l q = true → x.entries = bs :: rest →
            ∃ s1, Completed (.qget c lid q a2) s c s1 .done ∧ ∀ y, launchQueueAt s1 lid q = some y →
              y.entries = rest ∧ ∀ j b, bs[j]? = some b → memByte s1 (hostPa a2 + j) = b.1))) ∧
      (let i := Instr.launchCommand c p a1
       let mine := (vfOf c.fn).any fun v => !partOfVf s p v
       let rec_ := sysLoad s p anyTenant .ls (natW (a1 / 64 * 64)) 512
       (mine = true → Completed i s c s .denied) ∧
       (mine = false → (∀ bs, rec_ ≠ .ok bs) → Completed i s c (putRd c 0 s) .format) ∧
       (∀ bs, mine = false → rec_ = .ok bs →
         let r := launchRec bs
         let other := (vfOf c.fn).any fun v => !ofVf s r.tenant v
         (other = true → Completed i s c s .denied) ∧
         (other = false → mapReadable s p r = true →
           let k : Launcher := { part := p, fn := c.fn, ceil := if c.fn = 0 then 127 else 119 }
           (launchCheck s k r ≠ 0 → Completed i s c (putRd c (launchCheck s k r) s) .done) ∧
           (∀ n, launchCheck s k r = 0 → freeLaunch s = some n →
             ∃ s1, Completed i s c (putRd c (n * 65536) s1) .done ∧ s1.mem = s.mem ∧ s1.ctxs = s.ctxs ∧
               ∃ x, smGet s1.launches n = some x ∧ x.fn = c.fn ∧ x.part = p ∧ x.tenant = r.tenant ∧ x.stages = r.stages)))))) ∧
  (∀ (fn : Nat) (v : Word) (s : State),
    (66 ≤ fn → exec (.cqtailDoorbell fn v) s = .next s) ∧
    (fn < 66 → ∃ t, exec (.cqtailDoorbell fn v) s = .next t ∧ t = { s with fns := t.fns } ∧
      ∀ k, getFn t k = if k = fn then { getFn s fn with tail := fld v 0 12 } else getFn s k)) ∧
  ∀ (fn off : Nat) (v : Word) (s : State),
    (66 ≤ fn ∨ (getFn s fn).head ≠ (getFn s fn).tail ∨ (off ≠ 0 ∧ off ≠ 8) → exec (.registerWrite fn off v) s = .next s) ∧
    (fn < 66 → (getFn s fn).head = (getFn s fn).tail → off = 0 ∨ off = 8 →
      ∃ t, exec (.registerWrite fn off v) s = .next t ∧ t = { s with fns := t.fns } ∧
        ∀ k, getFn t k =
          if k = fn then (if off = 0 then { getFn s fn with base := v.toNat } else { getFn s fn with size := ringSize v }) else getFn s k)

-- Schedulers, the supervisor, the Docent.

/-- R63, R65, R67: a stopped package schedules nothing, and a pass without launches and images changes nothing. A pass
whose one entitled claim on the die is a PENDING instance with room starts every member of it, on the clusters found.
-/
def Obligations.SchedulerPlacesInstances : Prop :=
  ∀ (die : Nat) (s : State),
    (s.fatal = true → exec (.schedulerPass die) s = .next s) ∧
    (s.fatal = false → s.launches = [] → lightImages s die = [] → exec (.schedulerPass die) s = .next s) ∧
    (s.fatal = false →
      let s1 := wantInsts ((lightImages s die).foldl resumeLight s)
      ∀ a l k i cls, (granted s1 (claims s1)).filter (fun b => b.2 == die && b.1.kind != 0 && tryable s1 b.1) = [(a, die)] →
        claimInst s1 a = some (l, k, i) → a.kind = 2 → i.st = .pending →
        heldClusters s1 l.part + a.w ≤ (getPart s1 l.part).clshare →
        findRoom s1 die l.part k.width (freeFor s1 l.part l.tenant) = some cls → cls.Nodup →
        ∃ t, exec (.schedulerPass die) s = .next t ∧ ∀ j cl, cls[j]? = some cl →
          (getCtx t (8 * cl)).run = .runnable ∧ (getCtx t (8 * cl)).pc = k.entry ∧ sread (getCtx t (8 * cl)) 1 = k.arg ∧
            (getCtx t (8 * cl)).tenant = BitVec.ofNat 12 l.tenant ∧ (getCluster t cl).part = some l.part ∧
            (getCtx t (8 * cl)).member = some { lid := a.lid, stage := i.stage, serial := i.serial, index := j })

/-- R66, R69, R71, R342, R348: what the supervisor does to places and images: a place table is reloaded where no live
context uses it, and otherwise refused with BUSY; a disabled place strands the instances suspended there; a discarded instance has no image left, a
re-queued image is tried again; the oldest waiting report goes into a ring with room, with a signal. Which target a discard takes
is the model's reading (log entry 56), and the ring at a physical address its choice (log entry 11). -/
def Obligations.SupervisorActsOnPlacesAndImages : Prop :=
  (∀ (part die : Nat) (s : State),
    let live := s.ctxs.any fun e => dieOf e.1 == die && partOf s e.1 == part && (e.2.run == .runnable || e.2.run == .waiting)
    (live = true → exec (.placeTableReload part die) s = .next { s with replies := s.replies ++ [.status 2] }) ∧
    (live = false →
      ∃ t, exec (.placeTableReload part die) s = .next t ∧ t = { s with dies := t.dies, replies := s.replies ++ [.status 0] } ∧ part ∈ (getDie t die).loaded ∧
        ∀ o, o % 2 = 0 → o < 16384 →
          smGetD (getDie t die).place (16384 * part + o) 0 = memNat s ((getPart s part).place + 16384 * die + o) 2)) ∧
  (∀ (k : PlaceKind) (n : Nat) (s : State),
    ((k, n) ∈ s.deadPlaces → exec (.placeDisable k n) s = .next s) ∧
    ((k, n) ∉ s.deadPlaces →
      ∃ t, exec (.placeDisable k n) s = .next t ∧ (k, n) ∈ t.deadPlaces ∧ (k = .peer → n ∈ t.disabled) ∧
        ∀ e ∈ s.launches, ∀ i ∈ e.2.insts, i.st = .suspended → (∃ m ∈ i.members, m.2 = .saved ∧ atPlace k n m.1 = true) →
          ∀ l, smGet t.launches e.1 = some l → ∀ j ∈ l.insts, j.serial = i.serial → j.st = .stranded ∨ j.st = .exited)) ∧
  (∀ (ctx : Nat) (restart : Bool) (s : State),
    (∀ lid i, discardTarget s ctx = some (lid, i) →
      ∃ t, exec (.imageDiscard ctx restart) s = .next t ∧
        ∀ x ∈ t.images, ∀ m, x.member = some m → ¬(m.lid = lid ∧ m.serial = i.serial)) ∧
    (∀ x, discardTarget s ctx = none → s.images.find? (fun x => x.place == ctx && x.member.isNone) = some x →
      ∃ t, exec (.imageDiscard ctx restart) s = .next t ∧ t.images = s.images.filter (· ≠ x)) ∧
    (discardTarget s ctx = none → s.images.find? (fun x => x.place == ctx && x.member.isNone) = none →
      exec (.imageDiscard ctx restart) s = .next s)) ∧
  (∀ (ctx : Nat) (s : State),
    ((∀ x ∈ s.images, x.place = ctx → x.refused = 0) → exec (.imageRequeue ctx) s = .next s) ∧
    ((∃ x ∈ s.images, x.place = ctx ∧ x.refused ≠ 0) →
      ∃ t, exec (.imageRequeue ctx) s = .next t ∧ t.mem = s.mem ∧ t.ctxs = s.ctxs ∧
        t.images = s.images.map fun x => if x.place = ctx then { x with refused := 0 } else x)) ∧
  ∀ (part : Nat) (s : State),
    let p := getPart s part
    (p.waiting = [] ∨ p.ringLen ≤ p.ringUsed → exec (.reportAppend part) s = .next s) ∧
    (∀ r rest, p.waiting = r :: rest → p.ringUsed < p.ringLen →
      ∃ t, exec (.reportAppend part) s = .next t ∧
        (∀ a, memByte t a = if p.ring + 32 * p.ringAt ≤ a ∧ a < p.ring + 32 * p.ringAt + 32
          then BitVec.ofNat 8 (r.toNat / 256 ^ (a - (p.ring + 32 * p.ringAt))) else memByte s a) ∧
        getPart t part = { p with waiting := rest, ringAt := (p.ringAt + 1) % p.ringLen, ringUsed := p.ringUsed + 1 } ∧
        (getFn t 0).msi1 = (getFn s 0).msi1 + 1)

-- Encoding, steps, reset, memory, traps.

/-- R27, R29, R36, R92, R96: words written out from the layouts decode to what they stand for. -/
def Obligations.WordsDecode : Prop :=
  decode [0x40060840] = .ok (.add true 3 1 2) ∧ decode [0x198A37F8] = .ok (.ld64 false 5 6 0x7F8) ∧
  decode [0x4C85FFFF] = .ok (.bbc true 2 63 0x7FF) ∧ decode [0x09045083] = .ok (.cmplt false 1 5 2 3) ∧
  decode [0x73180000] = .ok (.ago true 12 false 0) ∧
  decode [0xA000001C, 0x00002000, 0x01800008] =
    .ok (.vadd { h := { e := true, s := false, guard := { gk := false, reg := 0, bit := 0, neg := false }, ty := 7, rnd := 0 },
                 sat := false, d := .vreg 1 0 0 0, a := .vreg 2 0 0 0, b := .vreg 3 0 0 0 }) ∧
  decode [0xE0200008, 0xFFF20000, 0x00400020, 0, 0, 0] =
    .ok (.tzero { e := true, s := false, guard := { gk := false, reg := 0, bit := 0, neg := false }, level := 1, place := 0xFFF, acc := 2,
                  aRing := 0, bRing := 0, group := 0, side := false, sparse := false, out := 0, n := 64, m := 32, hold := 0, fmode := 0,
                  floop := 0, fbase := 0, k := 0, rnd := 0, ovf := false, sat := false, scl := 0, slot := 0, epi := 0, btab := 0, w5 := 0 }) ∧
  decodeAae 4 1 0x04C97FF000000000 = some (.agen 4 1 { q := 3, base := 2, pitch := 5, rows := 15, bytes := 63 }) ∧
  decodeAae 4 1 0 = some (.aend 4 1)

/-- R27 to R43, R92: the encoding of every well-formed word, with whatever follows it, decodes to that word, with
every operand at every value that the encoding admits; so does an engine command's. The three forms of XWR that the
table lists apart decode to XWR. -/
def Obligations.EncodedWordsDecodeToThemselves : Prop :=
  (∀ (i : Instr) (rest : List Nat), wellFormed i = true → encode i ≠ [] → encodeAae i = none →
    (∀ e d, i ≠ .xloopStart e d ∧ i ≠ .xloopAbandon e d ∧ i ≠ .xtenantWrite e d) → decode (encode i ++ rest) = .ok i) ∧
  (∀ (e : Bool) (d : SReg) (rest : List Nat),
    decode (encode (.xloopStart e d) ++ rest) = .ok (.xwr e d 0x20) ∧
    decode (encode (.xloopAbandon e d) ++ rest) = .ok (.xwr e d 0x20) ∧
    decode (encode (.xtenantWrite e d) ++ rest) = .ok (.xwr e d 0x05)) ∧
  ∀ (cl eng : Nat) (g : AGenF) (f : ALoopF) (a b : BitVec 4) (c : BitVec 3),
    ∀ i ∈ [Instr.aend cl eng, .agen cl eng g, .aloop cl eng f, .astep cl eng a b, .awaitCmd cl eng c a], wellFormed i = true →
      decodeAae cl eng ((encode i).getD 0 0 + (encode i).getD 1 0 * 2 ^ 32) = some i

/-- R44: a decoded word is well-formed, and its units are its encoding: no bit of a word is dropped or ignored. -/
def Obligations.DecodedWordsEncodeToThemselves : Prop :=
  ∀ (us : List Nat) (i : Instr), (∀ u ∈ us, u < 2 ^ 32) → decode us = .ok i →
    wellFormed i = true ∧ us.take (encode i).length = encode i

/-- R22 to R26, R297, R372, R378: a step of a context inside its issue slot, with nothing ahead of it, is the execution of the
word at its PC, its fetch made, its loop buffer having captured the word, its stall at it over; then a cycle passes. What the word
asks of the ports it waits for first; a word that asks for nothing there goes on at once. An event that has come about, and an
event of the agenda, run as their own meanings, an engine's with what it asks of the ports. -/
def Obligations.StepRunsTheDecodedInstruction : Prop :=
  (∀ (s : State) (ws : List Nat) (i : Instr), s.busy = true → (∀ e rest, s.agenda ≠ .auto e :: rest) →
    let ag := PortAgent.ctx s.cur
    let s0 := beginTurn ag s
    boundaryEvent s0 s.cur = none → dbgHit (me s) = none → fetchWord s0 s.cur (me s).pc = .ok ws → decode ws = .ok i →
    let f := framing s0 s.cur (me s).pc
    (me s).mid = true ∨ (f.legal = true ∧ f.need = none ∧ (f.synced = false ∨ (me s).syncGo = true ∨ (syncGroup s s.cur).length ≤ 1)) →
    let s1 := onMe (noteFetch s0 s.cur ws.length (me s).pc) fun c => { dropQadv (capture c c.pc ws) with wait := none }
    (∀ t, exec i s1 = .next t → step s = .next (settle (tick (afterAsks ag s t)))) ∧
    (∀ t, s.cut = [] → newAsks s t = [] → exec i s1 = .next t → step s = .next (settle (tick t))) ∧
    (∀ x, exec i s1 = .fault x → step s = .fault x) ∧ ∀ x, exec i s1 = .refused x → step s = .refused x) ∧
  (∀ (s : State) (i : Instr) (rest : List Move), s.busy = false → s.agenda = .run i :: rest →
    (wellFormed i = false → step s = .fault .noSuchUnit) ∧
    (wellFormed i = true → ∀ t, exec i { s with agenda := rest } = .next t → step s = .next (settle (tick t)))) ∧
  ∀ (s : State) (e : Event) (rest : List Move), s.agenda = .auto e :: rest →
    let s0 : State := { s with agenda := rest }
    (eventAgent e = none → ∀ t, runEvent e s0 = .next t → step s = .next (settle t)) ∧
    ∀ a, eventAgent e = some a →
      (portHeld s a = true → step s = .next (settle s0)) ∧
      (portHeld s a = false → ∀ t, runEvent e (beginTurn a s0) = .next t → step s = .next (settle (afterAsks a s0 t)))

/-- R23, R56: from any state, a step that goes on leaves an issue slot that is kept only by a context of the package
that is RUNNABLE and inside a bundle. -/
def Obligations.EveryStepKeepsTheIssueSlot : Prop := ∀ s t : State, s.SlotOk → step s = .next t → t.SlotOk

/-- R13, R55, R254, R287, R290, R368, R378 to R380: what reset leaves, in the state right after it: the invariants; no
context runs; every frame is DIRTY, every key slot FREE; no partition, tenant or launch exists; the SRAM is all home;
the cycle count is 0; and the state registers of a context hold what their rules give. -/
def Obligations.ResetState : Prop :=
  let s := State.reset
  s.SlotOk ∧ s.MemOk ∧ s.cycle = 0 ∧ s.ready = false ∧ s.fatal = false ∧ (∀ a, memByte s a = 0) ∧
  (∀ id, (getCtx s id).run = if isLight id then .dormant else .free) ∧ (∀ f, frameState s f = 0) ∧
  (∀ k, smGet s.keys k = none) ∧ (∀ p, (getPart s p).valid = false) ∧ (∀ t, smGet s.tenants t = none) ∧
  (∀ l, smGet s.launches l = none) ∧ (∀ fn, getFn s fn = {}) ∧
  (∀ p n, (getNode (getPart s p) n).st = if n = 0 then .opened else .free) ∧
  (∀ d, (getDie s d).home = 128 ∧ (getDie s d).herb = 0 ∧ (getDie s d).stage = 0 ∧ (getDie s d).queue = 0) ∧
  ∀ id, (getCtx s id).xstat = 0 ∧ (getCtx s id).xdeadline = 0x10000 ∧ (getCtx s id).xhyp = 0 ∧ (getCtx s id).xovec = 0 ∧
    (getCtx s id).xhypwait = 0x4000 ∧ (getCtx s id).xfmt = 0 ∧ (getCtx s id).xloop = 0 ∧ (getCtx s id).xstagep = 0 ∧
    (getCtx s id).xlpos = 0 ∧ (getCtx s id).xrrb = 0 ∧ ∀ c n, tcDone (tcOf (getCtx s id) c) = 0 ∧ sread (getCtx s id) 0 = BitVec.allOnes 64 ∧
      lget (getCtx s id) c n = 0

/-- R329: taking a trap: outside a handler it saves the cause, the PC, the address and the map, sets TH and goes to
the handler; DBG, and a trap without a handler, stop the context; inside a handler the trap is SYS and stops it. No
scalar register changes, and nothing of another context but that the report of a stop may fire its watch. -/
def Obligations.TrapsAreTaken : Prop :=
  ∀ (id : Nat) (x : Trap) (s : State),
    let c := getCtx s id
    let t := takeTrap id x s
    let c' := getCtx t id
    (∀ k, k ≠ id → { getCtx t k with watchFired := (getCtx s k).watchFired } = getCtx s k) ∧ c'.s = c.s ∧ c'.v = c.v ∧ c'.xtrappc = c.pc ∧ c'.wait = none ∧ c'.xtrapva = x.va ∧
    (bitAt c.xstat 0 = false →
      c'.xtrapc = trapcWord x.cause x.src x.w x.orig ∧ c'.xtrapmap = x.map ∧
      if x.cause = 18 ∨ fld c.xstat 8 56 = 0 then c'.run = .stopped ∧ c'.pc = c.pc ∧ c'.xstat = c.xstat
      else c'.run = .runnable ∧ c'.pc = BitVec.ofNat 64 (256 * fld c.xstat 8 56) ∧ c'.xstat = setBit c.xstat 0 true ∧ t = { s with ctxs := t.ctxs, snapArmed := t.snapArmed, snapFired := t.snapFired }) ∧
    (bitAt c.xstat 0 = true →
      c'.xtrapc = trapcWord 19 x.src x.w x.cause ∧ c'.xtrapmap = c.xtrapmap ∧ c'.run = .stopped ∧ c'.pc = c.pc ∧ c'.xstat = c.xstat)

/-- Every word that stores to memory, trapping or not, keeps memory in its canonical form (log entry 2: an unlisted byte reads as
0): the plain stores, STL and ST.H, the atomics and the words of exact cells. -/
def Obligations.StoresKeepMemoryCanonical : Prop :=
  ∀ (e : Bool) (d a b : SReg) (x : BitVec 11) (p : BitVec 2) (z : BitVec 2) (y : Bool) (o : BitVec 4) (k : BitVec 3) (s t : State), s.MemOk →
    (∀ i ∈ (storeForms e d a b x p z s).map (·.1), exec i s = .next t → t.MemOk) ∧
    ∀ i ∈ [Instr.stl e d a z k, .stH e d a z, .amo e d a b y o, .cas e d a b y, .amoBins e d a b y, .axadd e d a b, .axrd e d a,
        .axclr e d a], exec i s = .next t → t.MemOk
end

