-- ==== Sys2Proof/Laws/Exec.lean ====
section
/-! SUPPORT. exec of each instruction and event is its own meaning: one equation per constructor of Instr. -/

namespace Sys2Proof.Machine

variable (s : State)

@[simp] theorem exec_add {e d a b} : exec (.add e d a b) s = execAdd e d a b s := rfl
@[simp] theorem exec_sub {e d a b} : exec (.sub e d a b) s = execSub e d a b s := rfl
@[simp] theorem exec_and {e d a b} : exec (.and e d a b) s = execAnd e d a b s := rfl
@[simp] theorem exec_or {e d a b} : exec (.or e d a b) s = execOr e d a b s := rfl
@[simp] theorem exec_xor {e d a b} : exec (.xor e d a b) s = execXor e d a b s := rfl
@[simp] theorem exec_andn {e d a b} : exec (.andn e d a b) s = execAndn e d a b s := rfl
@[simp] theorem exec_shl {e d a b} : exec (.shl e d a b) s = execShl e d a b s := rfl
@[simp] theorem exec_shr {e d a b} : exec (.shr e d a b) s = execShr e d a b s := rfl
@[simp] theorem exec_sra {e d a b} : exec (.sra e d a b) s = execSra e d a b s := rfl
@[simp] theorem exec_ror {e d a b} : exec (.ror e d a b) s = execRor e d a b s := rfl
@[simp] theorem exec_mul {e d a b} : exec (.mul e d a b) s = execMul e d a b s := rfl
@[simp] theorem exec_mulhs {e d a b} : exec (.mulhs e d a b) s = execMulhs e d a b s := rfl
@[simp] theorem exec_mulhu {e d a b} : exec (.mulhu e d a b) s = execMulhu e d a b s := rfl
@[simp] theorem exec_divs {e d a b} : exec (.divs e d a b) s = execDivs e d a b s := rfl
@[simp] theorem exec_divu {e d a b} : exec (.divu e d a b) s = execDivu e d a b s := rfl
@[simp] theorem exec_rems {e d a b} : exec (.rems e d a b) s = execRems e d a b s := rfl
@[simp] theorem exec_remu {e d a b} : exec (.remu e d a b) s = execRemu e d a b s := rfl
@[simp] theorem exec_min {e d a b} : exec (.min e d a b) s = execMin e d a b s := rfl
@[simp] theorem exec_max {e d a b} : exec (.max e d a b) s = execMax e d a b s := rfl
@[simp] theorem exec_minu {e d a b} : exec (.minu e d a b) s = execMinu e d a b s := rfl
@[simp] theorem exec_maxu {e d a b} : exec (.maxu e d a b) s = execMaxu e d a b s := rfl
@[simp] theorem exec_clz {e d a} : exec (.clz e d a) s = execClz e d a s := rfl
@[simp] theorem exec_ctz {e d a} : exec (.ctz e d a) s = execCtz e d a s := rfl
@[simp] theorem exec_popc {e d a} : exec (.popc e d a) s = execPopc e d a s := rfl
@[simp] theorem exec_addi {e d a ix} : exec (.addi e d a ix) s = execAddi e d a ix s := rfl
@[simp] theorem exec_andi {e d a ix} : exec (.andi e d a ix) s = execAndi e d a ix s := rfl
@[simp] theorem exec_ori {e d a ix} : exec (.ori e d a ix) s = execOri e d a ix s := rfl
@[simp] theorem exec_xori {e d a ix} : exec (.xori e d a ix) s = execXori e d a ix s := rfl
@[simp] theorem exec_shli {e d a n} : exec (.shli e d a n) s = execShli e d a n s := rfl
@[simp] theorem exec_shri {e d a n} : exec (.shri e d a n) s = execShri e d a n s := rfl
@[simp] theorem exec_srai {e d a n} : exec (.srai e d a n) s = execSrai e d a n s := rfl
@[simp] theorem exec_movi {e d ix} : exec (.movi e d ix) s = execMovi e d ix s := rfl
@[simp] theorem exec_movhi {e d ix} : exec (.movhi e d ix) s = execMovhi e d ix s := rfl
@[simp] theorem exec_bfxu {e d a l p} : exec (.bfxu e d a l p) s = execBfxu e d a l p s := rfl
@[simp] theorem exec_bfxs {e d a l p} : exec (.bfxs e d a l p) s = execBfxs e d a l p s := rfl
@[simp] theorem exec_bfins {e d a l p} : exec (.bfins e d a l p) s = execBfins e d a l p s := rfl
@[simp] theorem exec_sel {e d a b c} : exec (.sel e d a b c) s = execSel e d a b c s := rfl
@[simp] theorem exec_xrd {e d x} : exec (.xrd e d x) s = execXrd e d x s := rfl
@[simp] theorem exec_xwr {e d x} : exec (.xwr e d x) s = execXwr e d x s := rfl
@[simp] theorem exec_xloopStart {e d} : exec (.xloopStart e d) s = execXloopStart e d s := rfl
@[simp] theorem exec_xloopAbandon {e d} : exec (.xloopAbandon e d) s = execXloopAbandon e d s := rfl
@[simp] theorem exec_xtenantWrite {e d} : exec (.xtenantWrite e d) s = execXtenantWrite e d s := rfl
@[simp] theorem exec_cmpeq {e cx t a b} : exec (.cmpeq e cx t a b) s = execCmpeq e cx t a b s := rfl
@[simp] theorem exec_cmpne {e cx t a b} : exec (.cmpne e cx t a b) s = execCmpne e cx t a b s := rfl
@[simp] theorem exec_cmplt {e cx t a b} : exec (.cmplt e cx t a b) s = execCmplt e cx t a b s := rfl
@[simp] theorem exec_cmple {e cx t a b} : exec (.cmple e cx t a b) s = execCmple e cx t a b s := rfl
@[simp] theorem exec_cmpltu {e cx t a b} : exec (.cmpltu e cx t a b) s = execCmpltu e cx t a b s := rfl
@[simp] theorem exec_cmpleu {e cx t a b} : exec (.cmpleu e cx t a b) s = execCmpleu e cx t a b s := rfl
@[simp] theorem exec_bbs {e a t d} : exec (.bbs e a t d) s = execBbs e a t d s := rfl
@[simp] theorem exec_bbc {e a t d} : exec (.bbc e a t d) s = execBbc e a t d s := rfl
@[simp] theorem exec_jmp {e d} : exec (.jmp e d) s = execJmp e d s := rfl
@[simp] theorem exec_call {e d} : exec (.call e d) s = execCall e d s := rfl
@[simp] theorem exec_jr {e d a} : exec (.jr e d a) s = execJr e d a s := rfl
@[simp] theorem exec_syncb {e} : exec (.syncb e) s = execSyncb e s := rfl
@[simp] theorem exec_yield {e m} : exec (.yield e m) s = execYield e m s := rfl
@[simp] theorem exec_exit {e c} : exec (.exit e c) s = execExit e c s := rfl
@[simp] theorem exec_fadd {e d a b} : exec (.fadd e d a b) s = execFadd e d a b s := rfl
@[simp] theorem exec_fsub {e d a b} : exec (.fsub e d a b) s = execFsub e d a b s := rfl
@[simp] theorem exec_fmul {e d a b} : exec (.fmul e d a b) s = execFmul e d a b s := rfl
@[simp] theorem exec_fdiv {e d a b} : exec (.fdiv e d a b) s = execFdiv e d a b s := rfl
@[simp] theorem exec_fsqrt {e d a} : exec (.fsqrt e d a) s = execFsqrt e d a s := rfl
@[simp] theorem exec_fmin {e d a b} : exec (.fmin e d a b) s = execFmin e d a b s := rfl
@[simp] theorem exec_fmax {e d a b} : exec (.fmax e d a b) s = execFmax e d a b s := rfl
@[simp] theorem exec_fabs {e d a} : exec (.fabs e d a) s = execFabs e d a s := rfl
@[simp] theorem exec_fneg {e d a} : exec (.fneg e d a) s = execFneg e d a s := rfl
@[simp] theorem exec_fmac {e d a b} : exec (.fmac e d a b) s = execFmac e d a b s := rfl
@[simp] theorem exec_fcmpeq {e cx t a b} : exec (.fcmpeq e cx t a b) s = execFcmpeq e cx t a b s := rfl
@[simp] theorem exec_fcmplt {e cx t a b} : exec (.fcmplt e cx t a b) s = execFcmplt e cx t a b s := rfl
@[simp] theorem exec_fcmple {e cx t a b} : exec (.fcmple e cx t a b) s = execFcmple e cx t a b s := rfl
@[simp] theorem exec_fcmpun {e cx t a b} : exec (.fcmpun e cx t a b) s = execFcmpun e cx t a b s := rfl
@[simp] theorem exec_fcvt {e d a t cx x} : exec (.fcvt e d a t cx x) s = execFcvt e d a t cx x s := rfl
@[simp] theorem exec_ld8 {e d a ix} : exec (.ld8 e d a ix) s = execLd8 e d a ix s := rfl
@[simp] theorem exec_ld16 {e d a ix} : exec (.ld16 e d a ix) s = execLd16 e d a ix s := rfl
@[simp] theorem exec_ld32 {e d a ix} : exec (.ld32 e d a ix) s = execLd32 e d a ix s := rfl
@[simp] theorem exec_ld64 {e d a ix} : exec (.ld64 e d a ix) s = execLd64 e d a ix s := rfl
@[simp] theorem exec_ld8s {e d a ix} : exec (.ld8s e d a ix) s = execLd8s e d a ix s := rfl
@[simp] theorem exec_ld16s {e d a ix} : exec (.ld16s e d a ix) s = execLd16s e d a ix s := rfl
@[simp] theorem exec_ld32s {e d a ix} : exec (.ld32s e d a ix) s = execLd32s e d a ix s := rfl
@[simp] theorem exec_ldx {e d a b p cx z} : exec (.ldx e d a b p cx z) s = execLdx e d a b p cx z s := rfl
@[simp] theorem exec_st8 {e d a ix} : exec (.st8 e d a ix) s = execSt8 e d a ix s := rfl
@[simp] theorem exec_st16 {e d a ix} : exec (.st16 e d a ix) s = execSt16 e d a ix s := rfl
@[simp] theorem exec_st32 {e d a ix} : exec (.st32 e d a ix) s = execSt32 e d a ix s := rfl
@[simp] theorem exec_st64 {e d a ix} : exec (.st64 e d a ix) s = execSt64 e d a ix s := rfl
@[simp] theorem exec_stx {e d a b p z} : exec (.stx e d a b p z) s = execStx e d a b p z s := rfl
@[simp] theorem exec_lda {e d a z c} : exec (.lda e d a z c) s = execLda e d a z c s := rfl
@[simp] theorem exec_stl {e d a z c} : exec (.stl e d a z c) s = execStl e d a z c s := rfl
@[simp] theorem exec_stH {e d a z} : exec (.stH e d a z) s = execStH e d a z s := rfl
@[simp] theorem exec_amo {e d a b z o} : exec (.amo e d a b z o) s = execAmo e d a b z o s := rfl
@[simp] theorem exec_cas {e d a b z} : exec (.cas e d a b z) s = execCas e d a b z s := rfl
@[simp] theorem exec_amoBins {e d a b n} : exec (.amoBins e d a b n) s = execAmoBins e d a b n s := rfl
@[simp] theorem exec_axadd {e d a b} : exec (.axadd e d a b) s = execAxadd e d a b s := rfl
@[simp] theorem exec_axrd {e d a} : exec (.axrd e d a) s = execAxrd e d a s := rfl
@[simp] theorem exec_axclr {e d a} : exec (.axclr e d a) s = execAxclr e d a s := rfl
@[simp] theorem exec_fence {e g cx} : exec (.fence e g cx) s = execFence e g cx s := rfl
@[simp] theorem exec_tlwait {e d a cx c} : exec (.tlwait e d a cx c) s = execTlwait e d a cx c s := rfl
@[simp] theorem exec_tlget {e d v c} : exec (.tlget e d v c) s = execTlget e d v c s := rfl
@[simp] theorem exec_monitor {e a} : exec (.monitor e a) s = execMonitor e a s := rfl
@[simp] theorem exec_mwait {e d a} : exec (.mwait e d a) s = execMwait e d a s := rfl
@[simp] theorem exec_bar {e d ix cx} : exec (.bar e d ix cx) s = execBar e d ix cx s := rfl
@[simp] theorem exec_xcopyLin {e d a} : exec (.xcopyLin e d a) s = execXcopyLin e d a s := rfl
@[simp] theorem exec_xcopyNest {e d a} : exec (.xcopyNest e d a) s = execXcopyNest e d a s := rfl
@[simp] theorem exec_xcopyMap {e d a} : exec (.xcopyMap e d a) s = execXcopyMap e d a s := rfl
@[simp] theorem exec_xcopyUnmap {e d a} : exec (.xcopyUnmap e d a) s = execXcopyUnmap e d a s := rfl
@[simp] theorem exec_xcopyWb {e d a} : exec (.xcopyWb e d a) s = execXcopyWb e d a s := rfl
@[simp] theorem exec_xcopyHLin {e d a} : exec (.xcopyHLin e d a) s = execXcopyHLin e d a s := rfl
@[simp] theorem exec_xcopyHNest {e d a} : exec (.xcopyHNest e d a) s = execXcopyHNest e d a s := rfl
@[simp] theorem exec_put {e d a} : exec (.put e d a) s = execPut e d a s := rfl
@[simp] theorem exec_famo {e d a b z o} : exec (.famo e d a b z o) s = execFamo e d a b z o s := rfl
@[simp] theorem exec_req {e d a} : exec (.req e d a) s = execReq e d a s := rfl
@[simp] theorem exec_hopen {e d n} : exec (.hopen e d n) s = execHopen e d n s := rfl
@[simp] theorem exec_hset {e d a} : exec (.hset e d a) s = execHset e d a s := rfl
@[simp] theorem exec_hget {e d cx} : exec (.hget e d cx) s = execHget e d cx s := rfl
@[simp] theorem exec_hstat {e d a} : exec (.hstat e d a) s = execHstat e d a s := rfl
@[simp] theorem exec_hvec {e d a p} : exec (.hvec e d a p) s = execHvec e d a p s := rfl
@[simp] theorem exec_hresCf {e d a} : exec (.hresCf e d a) s = execHresCf e d a s := rfl
@[simp] theorem exec_hresRf {e d a} : exec (.hresRf e d a) s = execHresRf e d a s := rfl
@[simp] theorem exec_spawn {e d a b c} : exec (.spawn e d a b c) s = execSpawn e d a b c s := rfl
@[simp] theorem exec_launch {e d a} : exec (.launch e d a) s = execLaunch e d a s := rfl
@[simp] theorem exec_ttask {e d a} : exec (.ttask e d a) s = execTtask e d a s := rfl
@[simp] theorem exec_sqpush {e d a n q} : exec (.sqpush e d a n q) s = execSqpush e d a n q s := rfl
@[simp] theorem exec_sqpop {e d a n q} : exec (.sqpop e d a n q) s = execSqpop e d a n q s := rfl
@[simp] theorem exec_lset {e a cx l} : exec (.lset e a cx l) s = execLset e a cx l s := rfl
@[simp] theorem exec_ago {e d m g} : exec (.ago e d m g) s = execAgo e d m g s := rfl
@[simp] theorem exec_oclaim {e d a q} : exec (.oclaim e d a q) s = execOclaim e d a q s := rfl
@[simp] theorem exec_orelease {e q} : exec (.orelease e q) s = execOrelease e q s := rfl
@[simp] theorem exec_admitRq {e d a} : exec (.admitRq e d a) s = execAdmitRq e d a s := rfl
@[simp] theorem exec_apin {e d a} : exec (.apin e d a) s = execApin e d a s := rfl
@[simp] theorem exec_aunpin {e d a} : exec (.aunpin e d a) s = execAunpin e d a s := rfl
@[simp] theorem exec_apage {e d a b} : exec (.apage e d a b) s = execApage e d a b s := rfl
@[simp] theorem exec_apub {e d a b} : exec (.apub e d a b) s = execApub e d a b s := rfl
@[simp] theorem exec_ctxsv {d a b} : exec (.ctxsv d a b) s = execCtxsv d a b s := rfl
@[simp] theorem exec_ctxrs {d a} : exec (.ctxrs d a) s = execCtxrs d a s := rfl
@[simp] theorem exec_snap {e d t} : exec (.snap e d t) s = execSnap e d t s := rfl
@[simp] theorem exec_tret {e p cx} : exec (.tret e p cx) s = execTret e p cx s := rfl
@[simp] theorem exec_nop {e ops} : exec (.nop e ops) s = execNop e ops s := rfl
@[simp] theorem exec_hintp {e ops} : exec (.hintp e ops) s = execHintp e ops s := rfl
@[simp] theorem exec_hintb {e ops} : exec (.hintb e ops) s = execHintb e ops s := rfl
@[simp] theorem exec_hintx {e ops} : exec (.hintx e ops) s = execHintx e ops s := rfl
@[simp] theorem exec_vadd {w} : exec (.vadd w) s = execVadd w s := rfl
@[simp] theorem exec_vsub {w} : exec (.vsub w) s = execVsub w s := rfl
@[simp] theorem exec_vmul {w} : exec (.vmul w) s = execVmul w s := rfl
@[simp] theorem exec_vfma {w} : exec (.vfma w) s = execVfma w s := rfl
@[simp] theorem exec_vfms {w} : exec (.vfms w) s = execVfms w s := rfl
@[simp] theorem exec_vmin {w} : exec (.vmin w) s = execVmin w s := rfl
@[simp] theorem exec_vmax {w} : exec (.vmax w) s = execVmax w s := rfl
@[simp] theorem exec_vabs {w} : exec (.vabs w) s = execVabs w s := rfl
@[simp] theorem exec_vneg {w} : exec (.vneg w) s = execVneg w s := rfl
@[simp] theorem exec_vmov {w} : exec (.vmov w) s = execVmov w s := rfl
@[simp] theorem exec_vdiv {w} : exec (.vdiv w) s = execVdiv w s := rfl
@[simp] theorem exec_vmulh {w} : exec (.vmulh w) s = execVmulh w s := rfl
@[simp] theorem exec_vminu {w} : exec (.vminu w) s = execVminu w s := rfl
@[simp] theorem exec_vmaxu {w} : exec (.vmaxu w) s = execVmaxu w s := rfl
@[simp] theorem exec_vand {w} : exec (.vand w) s = execVand w s := rfl
@[simp] theorem exec_vor {w} : exec (.vor w) s = execVor w s := rfl
@[simp] theorem exec_vxor {w} : exec (.vxor w) s = execVxor w s := rfl
@[simp] theorem exec_vandn {w} : exec (.vandn w) s = execVandn w s := rfl
@[simp] theorem exec_vnot {w} : exec (.vnot w) s = execVnot w s := rfl
@[simp] theorem exec_vshl {w} : exec (.vshl w) s = execVshl w s := rfl
@[simp] theorem exec_vshr {w} : exec (.vshr w) s = execVshr w s := rfl
@[simp] theorem exec_vsra {w} : exec (.vsra w) s = execVsra w s := rfl
@[simp] theorem exec_vaddi {w} : exec (.vaddi w) s = execVaddi w s := rfl
@[simp] theorem exec_vmuli {w} : exec (.vmuli w) s = execVmuli w s := rfl
@[simp] theorem exec_vmini {w} : exec (.vmini w) s = execVmini w s := rfl
@[simp] theorem exec_vmaxi {w} : exec (.vmaxi w) s = execVmaxi w s := rfl
@[simp] theorem exec_vshli {w} : exec (.vshli w) s = execVshli w s := rfl
@[simp] theorem exec_vshri {w} : exec (.vshri w) s = execVshri w s := rfl
@[simp] theorem exec_vsrai {w} : exec (.vsrai w) s = execVsrai w s := rfl
@[simp] theorem exec_vmovi {w} : exec (.vmovi w) s = execVmovi w s := rfl
@[simp] theorem exec_vcmpEq {w} : exec (.vcmpEq w) s = execVcmpEq w s := rfl
@[simp] theorem exec_vcmpNe {w} : exec (.vcmpNe w) s = execVcmpNe w s := rfl
@[simp] theorem exec_vcmpLt {w} : exec (.vcmpLt w) s = execVcmpLt w s := rfl
@[simp] theorem exec_vcmpLe {w} : exec (.vcmpLe w) s = execVcmpLe w s := rfl
@[simp] theorem exec_vcmpGt {w} : exec (.vcmpGt w) s = execVcmpGt w s := rfl
@[simp] theorem exec_vcmpGe {w} : exec (.vcmpGe w) s = execVcmpGe w s := rfl
@[simp] theorem exec_vcmpUn {w} : exec (.vcmpUn w) s = execVcmpUn w s := rfl
@[simp] theorem exec_vcmpLtu {w} : exec (.vcmpLtu w) s = execVcmpLtu w s := rfl
@[simp] theorem exec_vcmpLeu {w} : exec (.vcmpLeu w) s = execVcmpLeu w s := rfl
@[simp] theorem exec_vkcmpEq {w} : exec (.vkcmpEq w) s = execVkcmpEq w s := rfl
@[simp] theorem exec_vkcmpNe {w} : exec (.vkcmpNe w) s = execVkcmpNe w s := rfl
@[simp] theorem exec_vkcmpLt {w} : exec (.vkcmpLt w) s = execVkcmpLt w s := rfl
@[simp] theorem exec_vkcmpLe {w} : exec (.vkcmpLe w) s = execVkcmpLe w s := rfl
@[simp] theorem exec_vkcmpGt {w} : exec (.vkcmpGt w) s = execVkcmpGt w s := rfl
@[simp] theorem exec_vkcmpGe {w} : exec (.vkcmpGe w) s = execVkcmpGe w s := rfl
@[simp] theorem exec_vkcmpUn {w} : exec (.vkcmpUn w) s = execVkcmpUn w s := rfl
@[simp] theorem exec_kand {w} : exec (.kand w) s = execKand w s := rfl
@[simp] theorem exec_kor {w} : exec (.kor w) s = execKor w s := rfl
@[simp] theorem exec_kxor {w} : exec (.kxor w) s = execKxor w s := rfl
@[simp] theorem exec_kandn {w} : exec (.kandn w) s = execKandn w s := rfl
@[simp] theorem exec_knot {w} : exec (.knot w) s = execKnot w s := rfl
@[simp] theorem exec_kmov {w} : exec (.kmov w) s = execKmov w s := rfl
@[simp] theorem exec_vselk {k w} : exec (.vselk k w) s = execVselk k w s := rfl
@[simp] theorem exec_vcvt {w} : exec (.vcvt w) s = execVcvt w s := rfl
@[simp] theorem exec_vpack4 {w} : exec (.vpack4 w) s = execVpack4 w s := rfl
@[simp] theorem exec_vunpk4 {w} : exec (.vunpk4 w) s = execVunpk4 w s := rfl
@[simp] theorem exec_vrotr {w} : exec (.vrotr w) s = execVrotr w s := rfl
@[simp] theorem exec_vrotc {w} : exec (.vrotc w) s = execVrotc w s := rfl
@[simp] theorem exec_vbcr {w} : exec (.vbcr w) s = execVbcr w s := rfl
@[simp] theorem exec_vbcc {w} : exec (.vbcc w) s = execVbcc w s := rfl
@[simp] theorem exec_vredrAdd {w} : exec (.vredrAdd w) s = execVredrAdd w s := rfl
@[simp] theorem exec_vredrMax {w} : exec (.vredrMax w) s = execVredrMax w s := rfl
@[simp] theorem exec_vredrMin {w} : exec (.vredrMin w) s = execVredrMin w s := rfl
@[simp] theorem exec_vredcAdd {w} : exec (.vredcAdd w) s = execVredcAdd w s := rfl
@[simp] theorem exec_vredcMax {w} : exec (.vredcMax w) s = execVredcMax w s := rfl
@[simp] theorem exec_vredcMin {w} : exec (.vredcMin w) s = execVredcMin w s := rfl
@[simp] theorem exec_vxpose {w} : exec (.vxpose w) s = execVxpose w s := rfl
@[simp] theorem exec_vshuf {w} : exec (.vshuf w) s = execVshuf w s := rfl
@[simp] theorem exec_vexp2 {w} : exec (.vexp2 w) s = execVexp2 w s := rfl
@[simp] theorem exec_vlog2 {w} : exec (.vlog2 w) s = execVlog2 w s := rfl
@[simp] theorem exec_vrcp {w} : exec (.vrcp w) s = execVrcp w s := rfl
@[simp] theorem exec_vrsq {w} : exec (.vrsq w) s = execVrsq w s := rfl
@[simp] theorem exec_vsqrt {w} : exec (.vsqrt w) s = execVsqrt w s := rfl
@[simp] theorem exec_vsin {w} : exec (.vsin w) s = execVsin w s := rfl
@[simp] theorem exec_vcos {w} : exec (.vcos w) s = execVcos w s := rfl
@[simp] theorem exec_vtanh {w} : exec (.vtanh w) s = execVtanh w s := rfl
@[simp] theorem exec_vsigm {w} : exec (.vsigm w) s = execVsigm w s := rfl
@[simp] theorem exec_vgelu {w} : exec (.vgelu w) s = execVgelu w s := rfl
@[simp] theorem exec_vsilu {w} : exec (.vsilu w) s = execVsilu w s := rfl
@[simp] theorem exec_qadv {w c} : exec (.qadv w c) s = execQadv w c s := rfl
@[simp] theorem exec_qclr {w} : exec (.qclr w) s = execQclr w s := rfl
@[simp] theorem exec_qflush {w} : exec (.qflush w) s = execQflush w s := rfl
@[simp] theorem exec_tmma {w} : exec (.tmma w) s = execTmma w s := rfl
@[simp] theorem exec_tmmas {w} : exec (.tmmas w) s = execTmmas w s := rfl
@[simp] theorem exec_tzero {w} : exec (.tzero w) s = execTzero w s := rfl
@[simp] theorem exec_tacc {w} : exec (.tacc w) s = execTacc w s := rfl
@[simp] theorem exec_tepi {w} : exec (.tepi w) s = execTepi w s := rfl
@[simp] theorem exec_tbind {w} : exec (.tbind w) s = execTbind w s := rfl
@[simp] theorem exec_txpose {w} : exec (.txpose w) s = execTxpose w s := rfl
@[simp] theorem exec_tsmld {w} : exec (.tsmld w) s = execTsmld w s := rfl
@[simp] theorem exec_tstage {w} : exec (.tstage w) s = execTstage w s := rfl
@[simp] theorem exec_tqred {w} : exec (.tqred w) s = execTqred w s := rfl
@[simp] theorem exec_tresume {task} : exec (.tresume task) s = execTresume task s := rfl
@[simp] theorem exec_aend {cl eng} : exec (.aend cl eng) s = execAend cl eng s := rfl
@[simp] theorem exec_agen {cl eng f} : exec (.agen cl eng f) s = execAgen cl eng f s := rfl
@[simp] theorem exec_aloop {cl eng f} : exec (.aloop cl eng f) s = execAloop cl eng f s := rfl
@[simp] theorem exec_astep {cl eng a b} : exec (.astep cl eng a b) s = execAstep cl eng a b s := rfl
@[simp] theorem exec_awaitCmd {cl eng c r} : exec (.awaitCmd cl eng c r) s = execAwaitCmd cl eng c r s := rfl
@[simp] theorem exec_aaeBlock {cl eng} : exec (.aaeBlock cl eng) s = execAaeBlock cl eng s := rfl
@[simp] theorem exec_syncedBundleIssue {core lid serial} : exec (.syncedBundleIssue core lid serial) s = execSyncedBundleIssue core lid serial s := rfl
@[simp] theorem exec_loopPassEnd {ctx} : exec (.loopPassEnd ctx) s = execLoopPassEnd ctx s := rfl
@[simp] theorem exec_kStep {ctx num} : exec (.kStep ctx num) s = execKStep ctx num s := rfl
@[simp] theorem exec_tstageSlot {ctx num} : exec (.tstageSlot ctx num) s = execTstageSlot ctx num s := rfl
@[simp] theorem exec_copyLine {ctx num} : exec (.copyLine ctx num) s = execCopyLine ctx num s := rfl
@[simp] theorem exec_mapFill {ctx region granule} : exec (.mapFill ctx region granule) s = execMapFill ctx region granule s := rfl
@[simp] theorem exec_waitSatisfied {ctx} : exec (.waitSatisfied ctx) s = execWaitSatisfied ctx s := rfl
@[simp] theorem exec_waitTimeout {ctx} : exec (.waitTimeout ctx) s = execWaitTimeout ctx s := rfl
@[simp] theorem exec_hypcapTimeout {ctx} : exec (.hypcapTimeout ctx) s = execHypcapTimeout ctx s := rfl
@[simp] theorem exec_orphan {ctx} : exec (.orphan ctx) s = execOrphan ctx s := rfl
@[simp] theorem exec_ckpt {ctx} : exec (.ckpt ctx) s = execCkpt ctx s := rfl
@[simp] theorem exec_deadlineExpiry {ctx} : exec (.deadlineExpiry ctx) s = execDeadlineExpiry ctx s := rfl
@[simp] theorem exec_imageWritten {ctx} : exec (.imageWritten ctx) s = execImageWritten ctx s := rfl
@[simp] theorem exec_schedulerPass {die} : exec (.schedulerPass die) s = execSchedulerPass die s := rfl
@[simp] theorem exec_handlerWake {cl} : exec (.handlerWake cl) s = execHandlerWake cl s := rfl
@[simp] theorem exec_fabricArrival {p} : exec (.fabricArrival p) s = execFabricArrival p s := rfl
@[simp] theorem exec_fabricAck {a} : exec (.fabricAck a) s = execFabricAck a s := rfl
@[simp] theorem exec_gatewaySlotGrant {ctx num} : exec (.gatewaySlotGrant ctx num) s = execGatewaySlotGrant ctx num s := rfl
@[simp] theorem exec_linkReplay {link} : exec (.linkReplay link) s = execLinkReplay link s := rfl
@[simp] theorem exec_portRequestPass {core tenant} : exec (.portRequestPass core tenant) s = execPortRequestPass core tenant s := rfl
@[simp] theorem exec_tokenRefill : exec .tokenRefill s = execTokenRefill s := rfl
@[simp] theorem exec_signatureRotation : exec .signatureRotation s = execSignatureRotation s := rfl
@[simp] theorem exec_taskSelect {u} : exec (.taskSelect u) s = execTaskSelect u s := rfl
@[simp] theorem exec_childComplete {task child} : exec (.childComplete task child) s = execChildComplete task child s := rfl
@[simp] theorem exec_childFault {task child} : exec (.childFault task child) s = execChildFault task child s := rfl
@[simp] theorem exec_herbariumFill {die k} : exec (.herbariumFill die k) s = execHerbariumFill die k s := rfl
@[simp] theorem exec_catalogueRecordArrival {r} : exec (.catalogueRecordArrival r) s = execCatalogueRecordArrival r s := rfl
@[simp] theorem exec_resolveApply {part} : exec (.resolveApply part) s = execResolveApply part s := rfl
@[simp] theorem exec_sweep {part node} : exec (.sweep part node) s = execSweep part node s := rfl
@[simp] theorem exec_vitrineFrameBegin {core} : exec (.vitrineFrameBegin core) s = execVitrineFrameBegin core s := rfl
@[simp] theorem exec_vitrineGrace {core} : exec (.vitrineGrace core) s = execVitrineGrace core s := rfl
@[simp] theorem exec_vitrineEdge {core} : exec (.vitrineEdge core) s = execVitrineEdge core s := rfl
@[simp] theorem exec_scrubStart {frame} : exec (.scrubStart frame) s = execScrubStart frame s := rfl
@[simp] theorem exec_scrubComplete {frame} : exec (.scrubComplete frame) s = execScrubComplete frame s := rfl
@[simp] theorem exec_frameReleaseComplete {frame} : exec (.frameReleaseComplete frame) s = execFrameReleaseComplete frame s := rfl
@[simp] theorem exec_keySlotProgram {slot kind tenant key} : exec (.keySlotProgram slot kind tenant key) s = execKeySlotProgram slot kind tenant key s := rfl
@[simp] theorem exec_keyRetire {slot pos} : exec (.keyRetire slot pos) s = execKeyRetire slot pos s := rfl
@[simp] theorem exec_peerLost {peer r} : exec (.peerLost peer r) s = execPeerLost peer r s := rfl
@[simp] theorem exec_packageFailure {link} : exec (.packageFailure link) s = execPackageFailure link s := rfl
@[simp] theorem exec_annexLinkDown {port} : exec (.annexLinkDown port) s = execAnnexLinkDown port s := rfl
@[simp] theorem exec_vfFlr {vf} : exec (.vfFlr vf) s = execVfFlr vf s := rfl
@[simp] theorem exec_coldReset : exec .coldReset s = execColdReset s := rfl
@[simp] theorem exec_packageReset : exec .packageReset s = execPackageReset s := rfl
@[simp] theorem exec_bringUpComplete : exec .bringUpComplete s = execBringUpComplete s := rfl
@[simp] theorem exec_powerThrottle {core} : exec (.powerThrottle core) s = execPowerThrottle core s := rfl
@[simp] theorem exec_softError {loc fixable} : exec (.softError loc fixable) s = execSoftError loc fixable s := rfl
@[simp] theorem exec_cqtailDoorbell {fn v} : exec (.cqtailDoorbell fn v) s = execCqtailDoorbell fn v s := rfl
@[simp] theorem exec_registerWrite {fn off v} : exec (.registerWrite fn off v) s = execRegisterWrite fn off v s := rfl
@[simp] theorem exec_part {c p rec save ring entries} : exec (.part c p rec save ring entries) s = execPart c p rec save ring entries s := rfl
@[simp] theorem exec_tenant {c rec} : exec (.tenant c rec) s = execTenant c rec s := rfl
@[simp] theorem exec_assign {c pa p owner} : exec (.assign c pa p owner) s = execAssign c pa p owner s := rfl
@[simp] theorem exec_release {c pa p owner} : exec (.release c pa p owner) s = execRelease c pa p owner s := rfl
@[simp] theorem exec_catnew {c rec} : exec (.catnew c rec) s = execCatnew c rec s := rfl
@[simp] theorem exec_catdel {c p handle} : exec (.catdel c p handle) s = execCatdel c p handle s := rfl
@[simp] theorem exec_pool {c p list count} : exec (.pool c p list count) s = execPool c p list count s := rfl
@[simp] theorem exec_launchCommand {c p rec} : exec (.launchCommand c p rec) s = execLaunchCommand c p rec s := rfl
@[simp] theorem exec_qput {c lid q addr} : exec (.qput c lid q addr) s = execQput c lid q addr s := rfl
@[simp] theorem exec_qclose {c lid q} : exec (.qclose c lid q) s = execQclose c lid q s := rfl
@[simp] theorem exec_qget {c lid q addr} : exec (.qget c lid q addr) s = execQget c lid q addr s := rfl
@[simp] theorem exec_quiesce {c p} : exec (.quiesce c p) s = execQuiesce c p s := rfl
@[simp] theorem exec_resumeCmd {c p} : exec (.resumeCmd c p) s = execResumeCmd c p s := rfl
@[simp] theorem exec_vitrine {c core table} : exec (.vitrine c core table) s = execVitrine c core table s := rfl
@[simp] theorem exec_region {c die home herb stage queue} : exec (.region c die home herb stage queue) s = execRegion c die home herb stage queue s := rfl
@[simp] theorem exec_resetCmd {c} : exec (.resetCmd c) s = execResetCmd c s := rfl
@[simp] theorem exec_placeTableReload {part die} : exec (.placeTableReload part die) s = execPlaceTableReload part die s := rfl
@[simp] theorem exec_placeDisable {k n} : exec (.placeDisable k n) s = execPlaceDisable k n s := rfl
@[simp] theorem exec_supervisorResume {ctx} : exec (.supervisorResume ctx) s = execSupervisorResume ctx s := rfl
@[simp] theorem exec_supervisorDiscard {ctx} : exec (.supervisorDiscard ctx) s = execSupervisorDiscard ctx s := rfl
@[simp] theorem exec_imageDiscard {ctx restart} : exec (.imageDiscard ctx restart) s = execImageDiscard ctx restart s := rfl
@[simp] theorem exec_reportAppend {part} : exec (.reportAppend part) s = execReportAppend part s := rfl
@[simp] theorem exec_snapshotArm {mask src} : exec (.snapshotArm mask src) s = execSnapshotArm mask src s := rfl
@[simp] theorem exec_snapshotFire : exec .snapshotFire s = execSnapshotFire s := rfl
@[simp] theorem exec_snapshotLatch : exec .snapshotLatch s = execSnapshotLatch s := rfl
@[simp] theorem exec_replayDelivery {r} : exec (.replayDelivery r) s = execReplayDelivery r s := rfl
@[simp] theorem exec_debugSession {tenant cert} : exec (.debugSession tenant cert) s = execDebugSession tenant cert s := rfl
@[simp] theorem exec_debugStateAccess {ctx reg wr} : exec (.debugStateAccess ctx reg wr) s = execDebugStateAccess ctx reg wr s := rfl
@[simp] theorem exec_debugArm {ctx c} : exec (.debugArm ctx c) s = execDebugArm ctx c s := rfl
@[simp] theorem exec_getMeasurements {requester} : exec (.getMeasurements requester) s = execGetMeasurements requester s := rfl
@[simp] theorem exec_firmwareUpdateStage {f} : exec (.firmwareUpdateStage f) s = execFirmwareUpdateStage f s := rfl
@[simp] theorem exec_updateAck {tenant} : exec (.updateAck tenant) s = execUpdateAck tenant s := rfl
@[simp] theorem exec_updateWithdraw : exec .updateWithdraw s = execUpdateWithdraw s := rfl
@[simp] theorem exec_usageLogSignRequest {tenant} : exec (.usageLogSignRequest tenant) s = execUsageLogSignRequest tenant s := rfl
@[simp] theorem exec_usageLogSignPeriodic {tenant} : exec (.usageLogSignPeriodic tenant) s = execUsageLogSignPeriodic tenant s := rfl
@[simp] theorem exec_imageRequeue {ctx} : exec (.imageRequeue ctx) s = execImageRequeue ctx s := rfl
@[simp] theorem exec_annexLinkRetrained {port} : exec (.annexLinkRetrained port) s = execAnnexLinkRetrained port s := rfl
@[simp] theorem exec_delvelPortFailure {port} : exec (.delvelPortFailure port) s = execDelvelPortFailure port s := rfl
@[simp] theorem exec_tenantCertificateEnrol {tenant cert} : exec (.tenantCertificateEnrol tenant cert) s = execTenantCertificateEnrol tenant cert s := rfl

end Sys2Proof.Machine
end

