-- ==== Sys2Proof/Laws/Sparse.lean ====
section
/-! SUPPORT. What reading, listing and dropping a key of a sparse map do, on every list, and that they keep the
canonical form. -/

namespace Sys2Proof.Machine

variable {α : Type}

/-- Reading after listing a key. -/
theorem smGet_smPut (m : List (Nat × α)) (k j : Nat) (v : α) :
    smGet (smPut m k v) j = if j = k then some v else smGet m j := by
  induction m with
  | nil => simp [smPut, smGet]
  | cons e m ih =>
    obtain ⟨k₀, w⟩ := e
    simp only [smPut]
    split
    · simp only [smGet]; split <;> simp_all
    · split
      · simp only [smGet]
      · simp only [smGet, ih]
        by_cases h₁ : j = k <;> by_cases h₂ : j = k₀ <;> simp_all

/-- Reading after dropping a key. -/
theorem smGet_smDel (m : List (Nat × α)) (k j : Nat) : smGet (smDel m k) j = if j = k then none else smGet m j := by
  induction m with
  | nil => simp [smDel, smGet]
  | cons e m ih =>
    obtain ⟨k₀, w⟩ := e
    simp only [smDel]
    split
    · subst_vars
      simp only [ih, smGet]
      by_cases h : j = k₀ <;> simp_all
    · simp only [smGet, ih]
      by_cases h₁ : j = k <;> by_cases h₂ : j = k₀ <;> simp_all

@[simp] theorem smGetD_smPut (m : List (Nat × α)) (k j : Nat) (v d : α) :
    smGetD (smPut m k v) j d = if j = k then v else smGetD m j d := by
  simp only [smGetD, smGet_smPut]; by_cases h : j = k <;> simp [h]

/-- Reading after a canonical write. -/
@[simp] theorem smGetD_smSet [DecidableEq α] (m : List (Nat × α)) (k j : Nat) (v d : α) :
    smGetD (smSet m k v d) j d = if j = k then v else smGetD m j d := by
  simp only [smSet]
  split
  · simp only [smGetD, smGet_smDel]; by_cases h : j = k <;> simp_all
  · simp

theorem smSorted_mono {lo hi : Nat} {m : List (Nat × α)} (h : lo ≤ hi) (hs : smSorted hi m = true) :
    smSorted lo m = true := by
  cases m with
  | nil => rfl
  | cons e m => simp_all [smSorted]; omega

theorem smSorted_smPut {lo k : Nat} {m : List (Nat × α)} (v : α) (hk : lo ≤ k) (h : smSorted lo m = true) :
    smSorted lo (smPut m k v) = true := by
  induction m generalizing lo with
  | nil => simp [smPut, smSorted, hk]
  | cons e m ih =>
    obtain ⟨k₀, w⟩ := e
    simp only [smSorted, Bool.and_eq_true, decide_eq_true_eq] at h
    simp only [smPut]
    split
    · subst_vars; simp [smSorted, h]
    · split
      · simp only [smSorted, Bool.and_eq_true, decide_eq_true_eq]; exact ⟨hk, by omega, h.2⟩
      · simp only [smSorted, Bool.and_eq_true, decide_eq_true_eq]; exact ⟨h.1, ih (by omega) h.2⟩

theorem smSorted_smDel {lo k : Nat} {m : List (Nat × α)} (h : smSorted lo m = true) : smSorted lo (smDel m k) = true := by
  induction m generalizing lo with
  | nil => rfl
  | cons e m ih =>
    obtain ⟨k₀, w⟩ := e
    simp only [smSorted, Bool.and_eq_true, decide_eq_true_eq] at h
    simp only [smDel]
    split
    · exact smSorted_mono (by omega) (ih h.2)
    · simp only [smSorted, Bool.and_eq_true, decide_eq_true_eq]; exact ⟨h.1, ih h.2⟩

theorem smProper_smPut [DecidableEq α] {d v : α} (k : Nat) {m : List (Nat × α)} (hv : v ≠ d) (h : smProper d m = true) :
    smProper d (smPut m k v) = true := by
  induction m with
  | nil => simp [smPut, smProper, hv]
  | cons e m ih =>
    obtain ⟨k₀, w⟩ := e
    simp only [smProper, Bool.and_eq_true, decide_eq_true_eq] at h
    simp only [smPut]
    split
    · simp [smProper, hv, h.2]
    · split
      · simp [smProper, hv, h.1, h.2]
      · simp [smProper, h.1, ih h.2]

theorem smProper_smDel [DecidableEq α] {d : α} (k : Nat) {m : List (Nat × α)} (h : smProper d m = true) :
    smProper d (smDel m k) = true := by
  induction m with
  | nil => rfl
  | cons e m ih =>
    obtain ⟨k₀, w⟩ := e
    simp only [smProper, Bool.and_eq_true, decide_eq_true_eq] at h
    simp only [smDel]
    split
    · exact ih h.2
    · simp [smProper, h.1, ih h.2]

/-- A canonical write keeps the canonical form. -/
theorem smWf_smSet [DecidableEq α] {d : α} (k : Nat) (v : α) {m : List (Nat × α)} (h : smWf d m = true) :
    smWf d (smSet m k v d) = true := by
  simp only [smWf, Bool.and_eq_true] at h ⊢
  simp only [smSet]
  split
  · exact ⟨smSorted_smDel h.1, smProper_smDel k h.2⟩
  · next hv => exact ⟨smSorted_smPut v (Nat.zero_le k) h.1, smProper_smPut k hv h.2⟩

end Sys2Proof.Machine
end

