-- ==== Sys2Proof/Laws/State.lean ====
section
/-! SUPPORT. What each update of a unit leaves in each field of State, and what reading a unit gives after it. -/

namespace Sys2Proof.Machine

variable (s : State)

-- setCtx

@[simp] theorem setCtx_cur (id : Nat) (c : Ctx) : (setCtx s id c).cur = s.cur := rfl
@[simp] theorem setCtx_busy (id : Nat) (c : Ctx) : (setCtx s id c).busy = s.busy := rfl
@[simp] theorem setCtx_agenda (id : Nat) (c : Ctx) : (setCtx s id c).agenda = s.agenda := rfl
@[simp] theorem setCtx_fresh (id : Nat) (c : Ctx) : (setCtx s id c).fresh = s.fresh := rfl
@[simp] theorem setCtx_cycle (id : Nat) (c : Ctx) : (setCtx s id c).cycle = s.cycle := rfl
@[simp] theorem setCtx_mem (id : Nat) (c : Ctx) : (setCtx s id c).mem = s.mem := rfl
@[simp] theorem setCtx_poison (id : Nat) (c : Ctx) : (setCtx s id c).poison = s.poison := rfl
@[simp] theorem setCtx_ctxs (id : Nat) (c : Ctx) : (setCtx s id c).ctxs = smPut s.ctxs id c := rfl
@[simp] theorem setCtx_clusters (id : Nat) (c : Ctx) : (setCtx s id c).clusters = s.clusters := rfl
@[simp] theorem setCtx_cores (id : Nat) (c : Ctx) : (setCtx s id c).cores = s.cores := rfl
@[simp] theorem setCtx_dies (id : Nat) (c : Ctx) : (setCtx s id c).dies = s.dies := rfl
@[simp] theorem setCtx_parts (id : Nat) (c : Ctx) : (setCtx s id c).parts = s.parts := rfl
@[simp] theorem setCtx_tenants (id : Nat) (c : Ctx) : (setCtx s id c).tenants = s.tenants := rfl
@[simp] theorem setCtx_frames (id : Nat) (c : Ctx) : (setCtx s id c).frames = s.frames := rfl
@[simp] theorem setCtx_frameWork (id : Nat) (c : Ctx) : (setCtx s id c).frameWork = s.frameWork := rfl
@[simp] theorem setCtx_keys (id : Nat) (c : Ctx) : (setCtx s id c).keys = s.keys := rfl
@[simp] theorem setCtx_scnt (id : Nat) (c : Ctx) : (setCtx s id c).scnt = s.scnt := rfl
@[simp] theorem setCtx_launches (id : Nat) (c : Ctx) : (setCtx s id c).launches = s.launches := rfl
@[simp] theorem setCtx_images (id : Nat) (c : Ctx) : (setCtx s id c).images = s.images := rfl
@[simp] theorem setCtx_saved (id : Nat) (c : Ctx) : (setCtx s id c).saved = s.saved := rfl
@[simp] theorem setCtx_tasks (id : Nat) (c : Ctx) : (setCtx s id c).tasks = s.tasks := rfl
@[simp] theorem setCtx_taskSeq (id : Nat) (c : Ctx) : (setCtx s id c).taskSeq = s.taskSeq := rfl
@[simp] theorem setCtx_nextId (id : Nat) (c : Ctx) : (setCtx s id c).nextId = s.nextId := rfl
@[simp] theorem setCtx_barriers (id : Nat) (c : Ctx) : (setCtx s id c).barriers = s.barriers := rfl
@[simp] theorem setCtx_catalogue (id : Nat) (c : Ctx) : (setCtx s id c).catalogue = s.catalogue := rfl
@[simp] theorem setCtx_admissions (id : Nat) (c : Ctx) : (setCtx s id c).admissions = s.admissions := rfl
@[simp] theorem setCtx_gen (id : Nat) (c : Ctx) : (setCtx s id c).gen = s.gen := rfl
@[simp] theorem setCtx_logs (id : Nat) (c : Ctx) : (setCtx s id c).logs = s.logs := rfl
@[simp] theorem setCtx_gwCur (id : Nat) (c : Ctx) : (setCtx s id c).gwCur = s.gwCur := rfl
@[simp] theorem setCtx_gwPrv (id : Nat) (c : Ctx) : (setCtx s id c).gwPrv = s.gwPrv := rfl
@[simp] theorem setCtx_gwSlots (id : Nat) (c : Ctx) : (setCtx s id c).gwSlots = s.gwSlots := rfl
@[simp] theorem setCtx_outbox (id : Nat) (c : Ctx) : (setCtx s id c).outbox = s.outbox := rfl
@[simp] theorem setCtx_fabSeq (id : Nat) (c : Ctx) : (setCtx s id c).fabSeq = s.fabSeq := rfl
@[simp] theorem setCtx_arrived (id : Nat) (c : Ctx) : (setCtx s id c).arrived = s.arrived := rfl
@[simp] theorem setCtx_acks (id : Nat) (c : Ctx) : (setCtx s id c).acks = s.acks := rfl
@[simp] theorem setCtx_catOut (id : Nat) (c : Ctx) : (setCtx s id c).catOut = s.catOut := rfl
@[simp] theorem setCtx_catNum (id : Nat) (c : Ctx) : (setCtx s id c).catNum = s.catNum := rfl
@[simp] theorem setCtx_ownPeer (id : Nat) (c : Ctx) : (setCtx s id c).ownPeer = s.ownPeer := rfl
@[simp] theorem setCtx_populated (id : Nat) (c : Ctx) : (setCtx s id c).populated = s.populated := rfl
@[simp] theorem setCtx_disabled (id : Nat) (c : Ctx) : (setCtx s id c).disabled = s.disabled := rfl
@[simp] theorem setCtx_deadPlaces (id : Nat) (c : Ctx) : (setCtx s id c).deadPlaces = s.deadPlaces := rfl
@[simp] theorem setCtx_portsDown (id : Nat) (c : Ctx) : (setCtx s id c).portsDown = s.portsDown := rfl
@[simp] theorem setCtx_annexDown (id : Nat) (c : Ctx) : (setCtx s id c).annexDown = s.annexDown := rfl
@[simp] theorem setCtx_cut (id : Nat) (c : Ctx) : (setCtx s id c).cut = s.cut := rfl
@[simp] theorem setCtx_cutNow (id : Nat) (c : Ctx) : (setCtx s id c).cutNow = s.cutNow := rfl
@[simp] theorem setCtx_fns (id : Nat) (c : Ctx) : (setCtx s id c).fns = s.fns := rfl
@[simp] theorem setCtx_ready (id : Nat) (c : Ctx) : (setCtx s id c).ready = s.ready := rfl
@[simp] theorem setCtx_fatal (id : Nat) (c : Ctx) : (setCtx s id c).fatal = s.fatal := rfl
@[simp] theorem setCtx_svnFuses (id : Nat) (c : Ctx) : (setCtx s id c).svnFuses = s.svnFuses := rfl
@[simp] theorem setCtx_firmware (id : Nat) (c : Ctx) : (setCtx s id c).firmware = s.firmware := rfl
@[simp] theorem setCtx_staged (id : Nat) (c : Ctx) : (setCtx s id c).staged = s.staged := rfl
@[simp] theorem setCtx_measured (id : Nat) (c : Ctx) : (setCtx s id c).measured = s.measured := rfl
@[simp] theorem setCtx_sessions (id : Nat) (c : Ctx) : (setCtx s id c).sessions = s.sessions := rfl
@[simp] theorem setCtx_certs (id : Nat) (c : Ctx) : (setCtx s id c).certs = s.certs := rfl
@[simp] theorem setCtx_replies (id : Nat) (c : Ctx) : (setCtx s id c).replies = s.replies := rfl
@[simp] theorem setCtx_snapArmed (id : Nat) (c : Ctx) : (setCtx s id c).snapArmed = s.snapArmed := rfl
@[simp] theorem setCtx_snapFired (id : Nat) (c : Ctx) : (setCtx s id c).snapFired = s.snapFired := rfl
@[simp] theorem setCtx_snapshot (id : Nat) (c : Ctx) : (setCtx s id c).snapshot = s.snapshot := rfl
@[simp] theorem setCtx_recorded (id : Nat) (c : Ctx) : (setCtx s id c).recorded = s.recorded := rfl
@[simp] theorem setCtx_replaying (id : Nat) (c : Ctx) : (setCtx s id c).replaying = s.replaying := rfl

-- modCtx

@[simp] theorem modCtx_cur (id : Nat) (f : Ctx → Ctx) : (modCtx s id f).cur = s.cur := rfl
@[simp] theorem modCtx_busy (id : Nat) (f : Ctx → Ctx) : (modCtx s id f).busy = s.busy := rfl
@[simp] theorem modCtx_agenda (id : Nat) (f : Ctx → Ctx) : (modCtx s id f).agenda = s.agenda := rfl
@[simp] theorem modCtx_fresh (id : Nat) (f : Ctx → Ctx) : (modCtx s id f).fresh = s.fresh := rfl
@[simp] theorem modCtx_cycle (id : Nat) (f : Ctx → Ctx) : (modCtx s id f).cycle = s.cycle := rfl
@[simp] theorem modCtx_mem (id : Nat) (f : Ctx → Ctx) : (modCtx s id f).mem = s.mem := rfl
@[simp] theorem modCtx_poison (id : Nat) (f : Ctx → Ctx) : (modCtx s id f).poison = s.poison := rfl
@[simp] theorem modCtx_ctxs (id : Nat) (f : Ctx → Ctx) : (modCtx s id f).ctxs = smPut s.ctxs id (f (getCtx s id)) := rfl
@[simp] theorem modCtx_clusters (id : Nat) (f : Ctx → Ctx) : (modCtx s id f).clusters = s.clusters := rfl
@[simp] theorem modCtx_cores (id : Nat) (f : Ctx → Ctx) : (modCtx s id f).cores = s.cores := rfl
@[simp] theorem modCtx_dies (id : Nat) (f : Ctx → Ctx) : (modCtx s id f).dies = s.dies := rfl
@[simp] theorem modCtx_parts (id : Nat) (f : Ctx → Ctx) : (modCtx s id f).parts = s.parts := rfl
@[simp] theorem modCtx_tenants (id : Nat) (f : Ctx → Ctx) : (modCtx s id f).tenants = s.tenants := rfl
@[simp] theorem modCtx_frames (id : Nat) (f : Ctx → Ctx) : (modCtx s id f).frames = s.frames := rfl
@[simp] theorem modCtx_frameWork (id : Nat) (f : Ctx → Ctx) : (modCtx s id f).frameWork = s.frameWork := rfl
@[simp] theorem modCtx_keys (id : Nat) (f : Ctx → Ctx) : (modCtx s id f).keys = s.keys := rfl
@[simp] theorem modCtx_scnt (id : Nat) (f : Ctx → Ctx) : (modCtx s id f).scnt = s.scnt := rfl
@[simp] theorem modCtx_launches (id : Nat) (f : Ctx → Ctx) : (modCtx s id f).launches = s.launches := rfl
@[simp] theorem modCtx_images (id : Nat) (f : Ctx → Ctx) : (modCtx s id f).images = s.images := rfl
@[simp] theorem modCtx_saved (id : Nat) (f : Ctx → Ctx) : (modCtx s id f).saved = s.saved := rfl
@[simp] theorem modCtx_tasks (id : Nat) (f : Ctx → Ctx) : (modCtx s id f).tasks = s.tasks := rfl
@[simp] theorem modCtx_taskSeq (id : Nat) (f : Ctx → Ctx) : (modCtx s id f).taskSeq = s.taskSeq := rfl
@[simp] theorem modCtx_nextId (id : Nat) (f : Ctx → Ctx) : (modCtx s id f).nextId = s.nextId := rfl
@[simp] theorem modCtx_barriers (id : Nat) (f : Ctx → Ctx) : (modCtx s id f).barriers = s.barriers := rfl
@[simp] theorem modCtx_catalogue (id : Nat) (f : Ctx → Ctx) : (modCtx s id f).catalogue = s.catalogue := rfl
@[simp] theorem modCtx_admissions (id : Nat) (f : Ctx → Ctx) : (modCtx s id f).admissions = s.admissions := rfl
@[simp] theorem modCtx_gen (id : Nat) (f : Ctx → Ctx) : (modCtx s id f).gen = s.gen := rfl
@[simp] theorem modCtx_logs (id : Nat) (f : Ctx → Ctx) : (modCtx s id f).logs = s.logs := rfl
@[simp] theorem modCtx_gwCur (id : Nat) (f : Ctx → Ctx) : (modCtx s id f).gwCur = s.gwCur := rfl
@[simp] theorem modCtx_gwPrv (id : Nat) (f : Ctx → Ctx) : (modCtx s id f).gwPrv = s.gwPrv := rfl
@[simp] theorem modCtx_gwSlots (id : Nat) (f : Ctx → Ctx) : (modCtx s id f).gwSlots = s.gwSlots := rfl
@[simp] theorem modCtx_outbox (id : Nat) (f : Ctx → Ctx) : (modCtx s id f).outbox = s.outbox := rfl
@[simp] theorem modCtx_fabSeq (id : Nat) (f : Ctx → Ctx) : (modCtx s id f).fabSeq = s.fabSeq := rfl
@[simp] theorem modCtx_arrived (id : Nat) (f : Ctx → Ctx) : (modCtx s id f).arrived = s.arrived := rfl
@[simp] theorem modCtx_acks (id : Nat) (f : Ctx → Ctx) : (modCtx s id f).acks = s.acks := rfl
@[simp] theorem modCtx_catOut (id : Nat) (f : Ctx → Ctx) : (modCtx s id f).catOut = s.catOut := rfl
@[simp] theorem modCtx_catNum (id : Nat) (f : Ctx → Ctx) : (modCtx s id f).catNum = s.catNum := rfl
@[simp] theorem modCtx_ownPeer (id : Nat) (f : Ctx → Ctx) : (modCtx s id f).ownPeer = s.ownPeer := rfl
@[simp] theorem modCtx_populated (id : Nat) (f : Ctx → Ctx) : (modCtx s id f).populated = s.populated := rfl
@[simp] theorem modCtx_disabled (id : Nat) (f : Ctx → Ctx) : (modCtx s id f).disabled = s.disabled := rfl
@[simp] theorem modCtx_deadPlaces (id : Nat) (f : Ctx → Ctx) : (modCtx s id f).deadPlaces = s.deadPlaces := rfl
@[simp] theorem modCtx_portsDown (id : Nat) (f : Ctx → Ctx) : (modCtx s id f).portsDown = s.portsDown := rfl
@[simp] theorem modCtx_annexDown (id : Nat) (f : Ctx → Ctx) : (modCtx s id f).annexDown = s.annexDown := rfl
@[simp] theorem modCtx_cut (id : Nat) (f : Ctx → Ctx) : (modCtx s id f).cut = s.cut := rfl
@[simp] theorem modCtx_cutNow (id : Nat) (f : Ctx → Ctx) : (modCtx s id f).cutNow = s.cutNow := rfl
@[simp] theorem modCtx_fns (id : Nat) (f : Ctx → Ctx) : (modCtx s id f).fns = s.fns := rfl
@[simp] theorem modCtx_ready (id : Nat) (f : Ctx → Ctx) : (modCtx s id f).ready = s.ready := rfl
@[simp] theorem modCtx_fatal (id : Nat) (f : Ctx → Ctx) : (modCtx s id f).fatal = s.fatal := rfl
@[simp] theorem modCtx_svnFuses (id : Nat) (f : Ctx → Ctx) : (modCtx s id f).svnFuses = s.svnFuses := rfl
@[simp] theorem modCtx_firmware (id : Nat) (f : Ctx → Ctx) : (modCtx s id f).firmware = s.firmware := rfl
@[simp] theorem modCtx_staged (id : Nat) (f : Ctx → Ctx) : (modCtx s id f).staged = s.staged := rfl
@[simp] theorem modCtx_measured (id : Nat) (f : Ctx → Ctx) : (modCtx s id f).measured = s.measured := rfl
@[simp] theorem modCtx_sessions (id : Nat) (f : Ctx → Ctx) : (modCtx s id f).sessions = s.sessions := rfl
@[simp] theorem modCtx_certs (id : Nat) (f : Ctx → Ctx) : (modCtx s id f).certs = s.certs := rfl
@[simp] theorem modCtx_replies (id : Nat) (f : Ctx → Ctx) : (modCtx s id f).replies = s.replies := rfl
@[simp] theorem modCtx_snapArmed (id : Nat) (f : Ctx → Ctx) : (modCtx s id f).snapArmed = s.snapArmed := rfl
@[simp] theorem modCtx_snapFired (id : Nat) (f : Ctx → Ctx) : (modCtx s id f).snapFired = s.snapFired := rfl
@[simp] theorem modCtx_snapshot (id : Nat) (f : Ctx → Ctx) : (modCtx s id f).snapshot = s.snapshot := rfl
@[simp] theorem modCtx_recorded (id : Nat) (f : Ctx → Ctx) : (modCtx s id f).recorded = s.recorded := rfl
@[simp] theorem modCtx_replaying (id : Nat) (f : Ctx → Ctx) : (modCtx s id f).replaying = s.replaying := rfl

-- onMe

@[simp] theorem onMe_cur (f : Ctx → Ctx) : (onMe s f).cur = s.cur := rfl
@[simp] theorem onMe_busy (f : Ctx → Ctx) : (onMe s f).busy = s.busy := rfl
@[simp] theorem onMe_agenda (f : Ctx → Ctx) : (onMe s f).agenda = s.agenda := rfl
@[simp] theorem onMe_fresh (f : Ctx → Ctx) : (onMe s f).fresh = s.fresh := rfl
@[simp] theorem onMe_cycle (f : Ctx → Ctx) : (onMe s f).cycle = s.cycle := rfl
@[simp] theorem onMe_mem (f : Ctx → Ctx) : (onMe s f).mem = s.mem := rfl
@[simp] theorem onMe_poison (f : Ctx → Ctx) : (onMe s f).poison = s.poison := rfl
@[simp] theorem onMe_ctxs (f : Ctx → Ctx) : (onMe s f).ctxs = smPut s.ctxs s.cur (f (me s)) := rfl
@[simp] theorem onMe_clusters (f : Ctx → Ctx) : (onMe s f).clusters = s.clusters := rfl
@[simp] theorem onMe_cores (f : Ctx → Ctx) : (onMe s f).cores = s.cores := rfl
@[simp] theorem onMe_dies (f : Ctx → Ctx) : (onMe s f).dies = s.dies := rfl
@[simp] theorem onMe_parts (f : Ctx → Ctx) : (onMe s f).parts = s.parts := rfl
@[simp] theorem onMe_tenants (f : Ctx → Ctx) : (onMe s f).tenants = s.tenants := rfl
@[simp] theorem onMe_frames (f : Ctx → Ctx) : (onMe s f).frames = s.frames := rfl
@[simp] theorem onMe_frameWork (f : Ctx → Ctx) : (onMe s f).frameWork = s.frameWork := rfl
@[simp] theorem onMe_keys (f : Ctx → Ctx) : (onMe s f).keys = s.keys := rfl
@[simp] theorem onMe_scnt (f : Ctx → Ctx) : (onMe s f).scnt = s.scnt := rfl
@[simp] theorem onMe_launches (f : Ctx → Ctx) : (onMe s f).launches = s.launches := rfl
@[simp] theorem onMe_images (f : Ctx → Ctx) : (onMe s f).images = s.images := rfl
@[simp] theorem onMe_saved (f : Ctx → Ctx) : (onMe s f).saved = s.saved := rfl
@[simp] theorem onMe_tasks (f : Ctx → Ctx) : (onMe s f).tasks = s.tasks := rfl
@[simp] theorem onMe_taskSeq (f : Ctx → Ctx) : (onMe s f).taskSeq = s.taskSeq := rfl
@[simp] theorem onMe_nextId (f : Ctx → Ctx) : (onMe s f).nextId = s.nextId := rfl
@[simp] theorem onMe_barriers (f : Ctx → Ctx) : (onMe s f).barriers = s.barriers := rfl
@[simp] theorem onMe_catalogue (f : Ctx → Ctx) : (onMe s f).catalogue = s.catalogue := rfl
@[simp] theorem onMe_admissions (f : Ctx → Ctx) : (onMe s f).admissions = s.admissions := rfl
@[simp] theorem onMe_gen (f : Ctx → Ctx) : (onMe s f).gen = s.gen := rfl
@[simp] theorem onMe_logs (f : Ctx → Ctx) : (onMe s f).logs = s.logs := rfl
@[simp] theorem onMe_gwCur (f : Ctx → Ctx) : (onMe s f).gwCur = s.gwCur := rfl
@[simp] theorem onMe_gwPrv (f : Ctx → Ctx) : (onMe s f).gwPrv = s.gwPrv := rfl
@[simp] theorem onMe_gwSlots (f : Ctx → Ctx) : (onMe s f).gwSlots = s.gwSlots := rfl
@[simp] theorem onMe_outbox (f : Ctx → Ctx) : (onMe s f).outbox = s.outbox := rfl
@[simp] theorem onMe_fabSeq (f : Ctx → Ctx) : (onMe s f).fabSeq = s.fabSeq := rfl
@[simp] theorem onMe_arrived (f : Ctx → Ctx) : (onMe s f).arrived = s.arrived := rfl
@[simp] theorem onMe_acks (f : Ctx → Ctx) : (onMe s f).acks = s.acks := rfl
@[simp] theorem onMe_catOut (f : Ctx → Ctx) : (onMe s f).catOut = s.catOut := rfl
@[simp] theorem onMe_catNum (f : Ctx → Ctx) : (onMe s f).catNum = s.catNum := rfl
@[simp] theorem onMe_ownPeer (f : Ctx → Ctx) : (onMe s f).ownPeer = s.ownPeer := rfl
@[simp] theorem onMe_populated (f : Ctx → Ctx) : (onMe s f).populated = s.populated := rfl
@[simp] theorem onMe_disabled (f : Ctx → Ctx) : (onMe s f).disabled = s.disabled := rfl
@[simp] theorem onMe_deadPlaces (f : Ctx → Ctx) : (onMe s f).deadPlaces = s.deadPlaces := rfl
@[simp] theorem onMe_portsDown (f : Ctx → Ctx) : (onMe s f).portsDown = s.portsDown := rfl
@[simp] theorem onMe_annexDown (f : Ctx → Ctx) : (onMe s f).annexDown = s.annexDown := rfl
@[simp] theorem onMe_cut (f : Ctx → Ctx) : (onMe s f).cut = s.cut := rfl
@[simp] theorem onMe_cutNow (f : Ctx → Ctx) : (onMe s f).cutNow = s.cutNow := rfl
@[simp] theorem onMe_fns (f : Ctx → Ctx) : (onMe s f).fns = s.fns := rfl
@[simp] theorem onMe_ready (f : Ctx → Ctx) : (onMe s f).ready = s.ready := rfl
@[simp] theorem onMe_fatal (f : Ctx → Ctx) : (onMe s f).fatal = s.fatal := rfl
@[simp] theorem onMe_svnFuses (f : Ctx → Ctx) : (onMe s f).svnFuses = s.svnFuses := rfl
@[simp] theorem onMe_firmware (f : Ctx → Ctx) : (onMe s f).firmware = s.firmware := rfl
@[simp] theorem onMe_staged (f : Ctx → Ctx) : (onMe s f).staged = s.staged := rfl
@[simp] theorem onMe_measured (f : Ctx → Ctx) : (onMe s f).measured = s.measured := rfl
@[simp] theorem onMe_sessions (f : Ctx → Ctx) : (onMe s f).sessions = s.sessions := rfl
@[simp] theorem onMe_certs (f : Ctx → Ctx) : (onMe s f).certs = s.certs := rfl
@[simp] theorem onMe_replies (f : Ctx → Ctx) : (onMe s f).replies = s.replies := rfl
@[simp] theorem onMe_snapArmed (f : Ctx → Ctx) : (onMe s f).snapArmed = s.snapArmed := rfl
@[simp] theorem onMe_snapFired (f : Ctx → Ctx) : (onMe s f).snapFired = s.snapFired := rfl
@[simp] theorem onMe_snapshot (f : Ctx → Ctx) : (onMe s f).snapshot = s.snapshot := rfl
@[simp] theorem onMe_recorded (f : Ctx → Ctx) : (onMe s f).recorded = s.recorded := rfl
@[simp] theorem onMe_replaying (f : Ctx → Ctx) : (onMe s f).replaying = s.replaying := rfl

-- modCluster

@[simp] theorem modCluster_cur (n : Nat) (f : Cluster → Cluster) : (modCluster s n f).cur = s.cur := rfl
@[simp] theorem modCluster_busy (n : Nat) (f : Cluster → Cluster) : (modCluster s n f).busy = s.busy := rfl
@[simp] theorem modCluster_agenda (n : Nat) (f : Cluster → Cluster) : (modCluster s n f).agenda = s.agenda := rfl
@[simp] theorem modCluster_fresh (n : Nat) (f : Cluster → Cluster) : (modCluster s n f).fresh = s.fresh := rfl
@[simp] theorem modCluster_cycle (n : Nat) (f : Cluster → Cluster) : (modCluster s n f).cycle = s.cycle := rfl
@[simp] theorem modCluster_mem (n : Nat) (f : Cluster → Cluster) : (modCluster s n f).mem = s.mem := rfl
@[simp] theorem modCluster_poison (n : Nat) (f : Cluster → Cluster) : (modCluster s n f).poison = s.poison := rfl
@[simp] theorem modCluster_ctxs (n : Nat) (f : Cluster → Cluster) : (modCluster s n f).ctxs = s.ctxs := rfl
@[simp] theorem modCluster_clusters (n : Nat) (f : Cluster → Cluster) : (modCluster s n f).clusters = smPut s.clusters n (f (getCluster s n)) := rfl
@[simp] theorem modCluster_cores (n : Nat) (f : Cluster → Cluster) : (modCluster s n f).cores = s.cores := rfl
@[simp] theorem modCluster_dies (n : Nat) (f : Cluster → Cluster) : (modCluster s n f).dies = s.dies := rfl
@[simp] theorem modCluster_parts (n : Nat) (f : Cluster → Cluster) : (modCluster s n f).parts = s.parts := rfl
@[simp] theorem modCluster_tenants (n : Nat) (f : Cluster → Cluster) : (modCluster s n f).tenants = s.tenants := rfl
@[simp] theorem modCluster_frames (n : Nat) (f : Cluster → Cluster) : (modCluster s n f).frames = s.frames := rfl
@[simp] theorem modCluster_frameWork (n : Nat) (f : Cluster → Cluster) : (modCluster s n f).frameWork = s.frameWork := rfl
@[simp] theorem modCluster_keys (n : Nat) (f : Cluster → Cluster) : (modCluster s n f).keys = s.keys := rfl
@[simp] theorem modCluster_scnt (n : Nat) (f : Cluster → Cluster) : (modCluster s n f).scnt = s.scnt := rfl
@[simp] theorem modCluster_launches (n : Nat) (f : Cluster → Cluster) : (modCluster s n f).launches = s.launches := rfl
@[simp] theorem modCluster_images (n : Nat) (f : Cluster → Cluster) : (modCluster s n f).images = s.images := rfl
@[simp] theorem modCluster_saved (n : Nat) (f : Cluster → Cluster) : (modCluster s n f).saved = s.saved := rfl
@[simp] theorem modCluster_tasks (n : Nat) (f : Cluster → Cluster) : (modCluster s n f).tasks = s.tasks := rfl
@[simp] theorem modCluster_taskSeq (n : Nat) (f : Cluster → Cluster) : (modCluster s n f).taskSeq = s.taskSeq := rfl
@[simp] theorem modCluster_nextId (n : Nat) (f : Cluster → Cluster) : (modCluster s n f).nextId = s.nextId := rfl
@[simp] theorem modCluster_barriers (n : Nat) (f : Cluster → Cluster) : (modCluster s n f).barriers = s.barriers := rfl
@[simp] theorem modCluster_catalogue (n : Nat) (f : Cluster → Cluster) : (modCluster s n f).catalogue = s.catalogue := rfl
@[simp] theorem modCluster_admissions (n : Nat) (f : Cluster → Cluster) : (modCluster s n f).admissions = s.admissions := rfl
@[simp] theorem modCluster_gen (n : Nat) (f : Cluster → Cluster) : (modCluster s n f).gen = s.gen := rfl
@[simp] theorem modCluster_logs (n : Nat) (f : Cluster → Cluster) : (modCluster s n f).logs = s.logs := rfl
@[simp] theorem modCluster_gwCur (n : Nat) (f : Cluster → Cluster) : (modCluster s n f).gwCur = s.gwCur := rfl
@[simp] theorem modCluster_gwPrv (n : Nat) (f : Cluster → Cluster) : (modCluster s n f).gwPrv = s.gwPrv := rfl
@[simp] theorem modCluster_gwSlots (n : Nat) (f : Cluster → Cluster) : (modCluster s n f).gwSlots = s.gwSlots := rfl
@[simp] theorem modCluster_outbox (n : Nat) (f : Cluster → Cluster) : (modCluster s n f).outbox = s.outbox := rfl
@[simp] theorem modCluster_fabSeq (n : Nat) (f : Cluster → Cluster) : (modCluster s n f).fabSeq = s.fabSeq := rfl
@[simp] theorem modCluster_arrived (n : Nat) (f : Cluster → Cluster) : (modCluster s n f).arrived = s.arrived := rfl
@[simp] theorem modCluster_acks (n : Nat) (f : Cluster → Cluster) : (modCluster s n f).acks = s.acks := rfl
@[simp] theorem modCluster_catOut (n : Nat) (f : Cluster → Cluster) : (modCluster s n f).catOut = s.catOut := rfl
@[simp] theorem modCluster_catNum (n : Nat) (f : Cluster → Cluster) : (modCluster s n f).catNum = s.catNum := rfl
@[simp] theorem modCluster_ownPeer (n : Nat) (f : Cluster → Cluster) : (modCluster s n f).ownPeer = s.ownPeer := rfl
@[simp] theorem modCluster_populated (n : Nat) (f : Cluster → Cluster) : (modCluster s n f).populated = s.populated := rfl
@[simp] theorem modCluster_disabled (n : Nat) (f : Cluster → Cluster) : (modCluster s n f).disabled = s.disabled := rfl
@[simp] theorem modCluster_deadPlaces (n : Nat) (f : Cluster → Cluster) : (modCluster s n f).deadPlaces = s.deadPlaces := rfl
@[simp] theorem modCluster_portsDown (n : Nat) (f : Cluster → Cluster) : (modCluster s n f).portsDown = s.portsDown := rfl
@[simp] theorem modCluster_annexDown (n : Nat) (f : Cluster → Cluster) : (modCluster s n f).annexDown = s.annexDown := rfl
@[simp] theorem modCluster_cut (n : Nat) (f : Cluster → Cluster) : (modCluster s n f).cut = s.cut := rfl
@[simp] theorem modCluster_cutNow (n : Nat) (f : Cluster → Cluster) : (modCluster s n f).cutNow = s.cutNow := rfl
@[simp] theorem modCluster_fns (n : Nat) (f : Cluster → Cluster) : (modCluster s n f).fns = s.fns := rfl
@[simp] theorem modCluster_ready (n : Nat) (f : Cluster → Cluster) : (modCluster s n f).ready = s.ready := rfl
@[simp] theorem modCluster_fatal (n : Nat) (f : Cluster → Cluster) : (modCluster s n f).fatal = s.fatal := rfl
@[simp] theorem modCluster_svnFuses (n : Nat) (f : Cluster → Cluster) : (modCluster s n f).svnFuses = s.svnFuses := rfl
@[simp] theorem modCluster_firmware (n : Nat) (f : Cluster → Cluster) : (modCluster s n f).firmware = s.firmware := rfl
@[simp] theorem modCluster_staged (n : Nat) (f : Cluster → Cluster) : (modCluster s n f).staged = s.staged := rfl
@[simp] theorem modCluster_measured (n : Nat) (f : Cluster → Cluster) : (modCluster s n f).measured = s.measured := rfl
@[simp] theorem modCluster_sessions (n : Nat) (f : Cluster → Cluster) : (modCluster s n f).sessions = s.sessions := rfl
@[simp] theorem modCluster_certs (n : Nat) (f : Cluster → Cluster) : (modCluster s n f).certs = s.certs := rfl
@[simp] theorem modCluster_replies (n : Nat) (f : Cluster → Cluster) : (modCluster s n f).replies = s.replies := rfl
@[simp] theorem modCluster_snapArmed (n : Nat) (f : Cluster → Cluster) : (modCluster s n f).snapArmed = s.snapArmed := rfl
@[simp] theorem modCluster_snapFired (n : Nat) (f : Cluster → Cluster) : (modCluster s n f).snapFired = s.snapFired := rfl
@[simp] theorem modCluster_snapshot (n : Nat) (f : Cluster → Cluster) : (modCluster s n f).snapshot = s.snapshot := rfl
@[simp] theorem modCluster_recorded (n : Nat) (f : Cluster → Cluster) : (modCluster s n f).recorded = s.recorded := rfl
@[simp] theorem modCluster_replaying (n : Nat) (f : Cluster → Cluster) : (modCluster s n f).replaying = s.replaying := rfl

-- modCore

@[simp] theorem modCore_cur (n : Nat) (f : Core → Core) : (modCore s n f).cur = s.cur := rfl
@[simp] theorem modCore_busy (n : Nat) (f : Core → Core) : (modCore s n f).busy = s.busy := rfl
@[simp] theorem modCore_agenda (n : Nat) (f : Core → Core) : (modCore s n f).agenda = s.agenda := rfl
@[simp] theorem modCore_fresh (n : Nat) (f : Core → Core) : (modCore s n f).fresh = s.fresh := rfl
@[simp] theorem modCore_cycle (n : Nat) (f : Core → Core) : (modCore s n f).cycle = s.cycle := rfl
@[simp] theorem modCore_mem (n : Nat) (f : Core → Core) : (modCore s n f).mem = s.mem := rfl
@[simp] theorem modCore_poison (n : Nat) (f : Core → Core) : (modCore s n f).poison = s.poison := rfl
@[simp] theorem modCore_ctxs (n : Nat) (f : Core → Core) : (modCore s n f).ctxs = s.ctxs := rfl
@[simp] theorem modCore_clusters (n : Nat) (f : Core → Core) : (modCore s n f).clusters = s.clusters := rfl
@[simp] theorem modCore_cores (n : Nat) (f : Core → Core) : (modCore s n f).cores = smPut s.cores n (f (getCore s n)) := rfl
@[simp] theorem modCore_dies (n : Nat) (f : Core → Core) : (modCore s n f).dies = s.dies := rfl
@[simp] theorem modCore_parts (n : Nat) (f : Core → Core) : (modCore s n f).parts = s.parts := rfl
@[simp] theorem modCore_tenants (n : Nat) (f : Core → Core) : (modCore s n f).tenants = s.tenants := rfl
@[simp] theorem modCore_frames (n : Nat) (f : Core → Core) : (modCore s n f).frames = s.frames := rfl
@[simp] theorem modCore_frameWork (n : Nat) (f : Core → Core) : (modCore s n f).frameWork = s.frameWork := rfl
@[simp] theorem modCore_keys (n : Nat) (f : Core → Core) : (modCore s n f).keys = s.keys := rfl
@[simp] theorem modCore_scnt (n : Nat) (f : Core → Core) : (modCore s n f).scnt = s.scnt := rfl
@[simp] theorem modCore_launches (n : Nat) (f : Core → Core) : (modCore s n f).launches = s.launches := rfl
@[simp] theorem modCore_images (n : Nat) (f : Core → Core) : (modCore s n f).images = s.images := rfl
@[simp] theorem modCore_saved (n : Nat) (f : Core → Core) : (modCore s n f).saved = s.saved := rfl
@[simp] theorem modCore_tasks (n : Nat) (f : Core → Core) : (modCore s n f).tasks = s.tasks := rfl
@[simp] theorem modCore_taskSeq (n : Nat) (f : Core → Core) : (modCore s n f).taskSeq = s.taskSeq := rfl
@[simp] theorem modCore_nextId (n : Nat) (f : Core → Core) : (modCore s n f).nextId = s.nextId := rfl
@[simp] theorem modCore_barriers (n : Nat) (f : Core → Core) : (modCore s n f).barriers = s.barriers := rfl
@[simp] theorem modCore_catalogue (n : Nat) (f : Core → Core) : (modCore s n f).catalogue = s.catalogue := rfl
@[simp] theorem modCore_admissions (n : Nat) (f : Core → Core) : (modCore s n f).admissions = s.admissions := rfl
@[simp] theorem modCore_gen (n : Nat) (f : Core → Core) : (modCore s n f).gen = s.gen := rfl
@[simp] theorem modCore_logs (n : Nat) (f : Core → Core) : (modCore s n f).logs = s.logs := rfl
@[simp] theorem modCore_gwCur (n : Nat) (f : Core → Core) : (modCore s n f).gwCur = s.gwCur := rfl
@[simp] theorem modCore_gwPrv (n : Nat) (f : Core → Core) : (modCore s n f).gwPrv = s.gwPrv := rfl
@[simp] theorem modCore_gwSlots (n : Nat) (f : Core → Core) : (modCore s n f).gwSlots = s.gwSlots := rfl
@[simp] theorem modCore_outbox (n : Nat) (f : Core → Core) : (modCore s n f).outbox = s.outbox := rfl
@[simp] theorem modCore_fabSeq (n : Nat) (f : Core → Core) : (modCore s n f).fabSeq = s.fabSeq := rfl
@[simp] theorem modCore_arrived (n : Nat) (f : Core → Core) : (modCore s n f).arrived = s.arrived := rfl
@[simp] theorem modCore_acks (n : Nat) (f : Core → Core) : (modCore s n f).acks = s.acks := rfl
@[simp] theorem modCore_catOut (n : Nat) (f : Core → Core) : (modCore s n f).catOut = s.catOut := rfl
@[simp] theorem modCore_catNum (n : Nat) (f : Core → Core) : (modCore s n f).catNum = s.catNum := rfl
@[simp] theorem modCore_ownPeer (n : Nat) (f : Core → Core) : (modCore s n f).ownPeer = s.ownPeer := rfl
@[simp] theorem modCore_populated (n : Nat) (f : Core → Core) : (modCore s n f).populated = s.populated := rfl
@[simp] theorem modCore_disabled (n : Nat) (f : Core → Core) : (modCore s n f).disabled = s.disabled := rfl
@[simp] theorem modCore_deadPlaces (n : Nat) (f : Core → Core) : (modCore s n f).deadPlaces = s.deadPlaces := rfl
@[simp] theorem modCore_portsDown (n : Nat) (f : Core → Core) : (modCore s n f).portsDown = s.portsDown := rfl
@[simp] theorem modCore_annexDown (n : Nat) (f : Core → Core) : (modCore s n f).annexDown = s.annexDown := rfl
@[simp] theorem modCore_cut (n : Nat) (f : Core → Core) : (modCore s n f).cut = s.cut := rfl
@[simp] theorem modCore_cutNow (n : Nat) (f : Core → Core) : (modCore s n f).cutNow = s.cutNow := rfl
@[simp] theorem modCore_fns (n : Nat) (f : Core → Core) : (modCore s n f).fns = s.fns := rfl
@[simp] theorem modCore_ready (n : Nat) (f : Core → Core) : (modCore s n f).ready = s.ready := rfl
@[simp] theorem modCore_fatal (n : Nat) (f : Core → Core) : (modCore s n f).fatal = s.fatal := rfl
@[simp] theorem modCore_svnFuses (n : Nat) (f : Core → Core) : (modCore s n f).svnFuses = s.svnFuses := rfl
@[simp] theorem modCore_firmware (n : Nat) (f : Core → Core) : (modCore s n f).firmware = s.firmware := rfl
@[simp] theorem modCore_staged (n : Nat) (f : Core → Core) : (modCore s n f).staged = s.staged := rfl
@[simp] theorem modCore_measured (n : Nat) (f : Core → Core) : (modCore s n f).measured = s.measured := rfl
@[simp] theorem modCore_sessions (n : Nat) (f : Core → Core) : (modCore s n f).sessions = s.sessions := rfl
@[simp] theorem modCore_certs (n : Nat) (f : Core → Core) : (modCore s n f).certs = s.certs := rfl
@[simp] theorem modCore_replies (n : Nat) (f : Core → Core) : (modCore s n f).replies = s.replies := rfl
@[simp] theorem modCore_snapArmed (n : Nat) (f : Core → Core) : (modCore s n f).snapArmed = s.snapArmed := rfl
@[simp] theorem modCore_snapFired (n : Nat) (f : Core → Core) : (modCore s n f).snapFired = s.snapFired := rfl
@[simp] theorem modCore_snapshot (n : Nat) (f : Core → Core) : (modCore s n f).snapshot = s.snapshot := rfl
@[simp] theorem modCore_recorded (n : Nat) (f : Core → Core) : (modCore s n f).recorded = s.recorded := rfl
@[simp] theorem modCore_replaying (n : Nat) (f : Core → Core) : (modCore s n f).replaying = s.replaying := rfl

-- modDie

@[simp] theorem modDie_cur (n : Nat) (f : Die → Die) : (modDie s n f).cur = s.cur := rfl
@[simp] theorem modDie_busy (n : Nat) (f : Die → Die) : (modDie s n f).busy = s.busy := rfl
@[simp] theorem modDie_agenda (n : Nat) (f : Die → Die) : (modDie s n f).agenda = s.agenda := rfl
@[simp] theorem modDie_fresh (n : Nat) (f : Die → Die) : (modDie s n f).fresh = s.fresh := rfl
@[simp] theorem modDie_cycle (n : Nat) (f : Die → Die) : (modDie s n f).cycle = s.cycle := rfl
@[simp] theorem modDie_mem (n : Nat) (f : Die → Die) : (modDie s n f).mem = s.mem := rfl
@[simp] theorem modDie_poison (n : Nat) (f : Die → Die) : (modDie s n f).poison = s.poison := rfl
@[simp] theorem modDie_ctxs (n : Nat) (f : Die → Die) : (modDie s n f).ctxs = s.ctxs := rfl
@[simp] theorem modDie_clusters (n : Nat) (f : Die → Die) : (modDie s n f).clusters = s.clusters := rfl
@[simp] theorem modDie_cores (n : Nat) (f : Die → Die) : (modDie s n f).cores = s.cores := rfl
@[simp] theorem modDie_dies (n : Nat) (f : Die → Die) : (modDie s n f).dies = smPut s.dies n (f (getDie s n)) := rfl
@[simp] theorem modDie_parts (n : Nat) (f : Die → Die) : (modDie s n f).parts = s.parts := rfl
@[simp] theorem modDie_tenants (n : Nat) (f : Die → Die) : (modDie s n f).tenants = s.tenants := rfl
@[simp] theorem modDie_frames (n : Nat) (f : Die → Die) : (modDie s n f).frames = s.frames := rfl
@[simp] theorem modDie_frameWork (n : Nat) (f : Die → Die) : (modDie s n f).frameWork = s.frameWork := rfl
@[simp] theorem modDie_keys (n : Nat) (f : Die → Die) : (modDie s n f).keys = s.keys := rfl
@[simp] theorem modDie_scnt (n : Nat) (f : Die → Die) : (modDie s n f).scnt = s.scnt := rfl
@[simp] theorem modDie_launches (n : Nat) (f : Die → Die) : (modDie s n f).launches = s.launches := rfl
@[simp] theorem modDie_images (n : Nat) (f : Die → Die) : (modDie s n f).images = s.images := rfl
@[simp] theorem modDie_saved (n : Nat) (f : Die → Die) : (modDie s n f).saved = s.saved := rfl
@[simp] theorem modDie_tasks (n : Nat) (f : Die → Die) : (modDie s n f).tasks = s.tasks := rfl
@[simp] theorem modDie_taskSeq (n : Nat) (f : Die → Die) : (modDie s n f).taskSeq = s.taskSeq := rfl
@[simp] theorem modDie_nextId (n : Nat) (f : Die → Die) : (modDie s n f).nextId = s.nextId := rfl
@[simp] theorem modDie_barriers (n : Nat) (f : Die → Die) : (modDie s n f).barriers = s.barriers := rfl
@[simp] theorem modDie_catalogue (n : Nat) (f : Die → Die) : (modDie s n f).catalogue = s.catalogue := rfl
@[simp] theorem modDie_admissions (n : Nat) (f : Die → Die) : (modDie s n f).admissions = s.admissions := rfl
@[simp] theorem modDie_gen (n : Nat) (f : Die → Die) : (modDie s n f).gen = s.gen := rfl
@[simp] theorem modDie_logs (n : Nat) (f : Die → Die) : (modDie s n f).logs = s.logs := rfl
@[simp] theorem modDie_gwCur (n : Nat) (f : Die → Die) : (modDie s n f).gwCur = s.gwCur := rfl
@[simp] theorem modDie_gwPrv (n : Nat) (f : Die → Die) : (modDie s n f).gwPrv = s.gwPrv := rfl
@[simp] theorem modDie_gwSlots (n : Nat) (f : Die → Die) : (modDie s n f).gwSlots = s.gwSlots := rfl
@[simp] theorem modDie_outbox (n : Nat) (f : Die → Die) : (modDie s n f).outbox = s.outbox := rfl
@[simp] theorem modDie_fabSeq (n : Nat) (f : Die → Die) : (modDie s n f).fabSeq = s.fabSeq := rfl
@[simp] theorem modDie_arrived (n : Nat) (f : Die → Die) : (modDie s n f).arrived = s.arrived := rfl
@[simp] theorem modDie_acks (n : Nat) (f : Die → Die) : (modDie s n f).acks = s.acks := rfl
@[simp] theorem modDie_catOut (n : Nat) (f : Die → Die) : (modDie s n f).catOut = s.catOut := rfl
@[simp] theorem modDie_catNum (n : Nat) (f : Die → Die) : (modDie s n f).catNum = s.catNum := rfl
@[simp] theorem modDie_ownPeer (n : Nat) (f : Die → Die) : (modDie s n f).ownPeer = s.ownPeer := rfl
@[simp] theorem modDie_populated (n : Nat) (f : Die → Die) : (modDie s n f).populated = s.populated := rfl
@[simp] theorem modDie_disabled (n : Nat) (f : Die → Die) : (modDie s n f).disabled = s.disabled := rfl
@[simp] theorem modDie_deadPlaces (n : Nat) (f : Die → Die) : (modDie s n f).deadPlaces = s.deadPlaces := rfl
@[simp] theorem modDie_portsDown (n : Nat) (f : Die → Die) : (modDie s n f).portsDown = s.portsDown := rfl
@[simp] theorem modDie_annexDown (n : Nat) (f : Die → Die) : (modDie s n f).annexDown = s.annexDown := rfl
@[simp] theorem modDie_cut (n : Nat) (f : Die → Die) : (modDie s n f).cut = s.cut := rfl
@[simp] theorem modDie_cutNow (n : Nat) (f : Die → Die) : (modDie s n f).cutNow = s.cutNow := rfl
@[simp] theorem modDie_fns (n : Nat) (f : Die → Die) : (modDie s n f).fns = s.fns := rfl
@[simp] theorem modDie_ready (n : Nat) (f : Die → Die) : (modDie s n f).ready = s.ready := rfl
@[simp] theorem modDie_fatal (n : Nat) (f : Die → Die) : (modDie s n f).fatal = s.fatal := rfl
@[simp] theorem modDie_svnFuses (n : Nat) (f : Die → Die) : (modDie s n f).svnFuses = s.svnFuses := rfl
@[simp] theorem modDie_firmware (n : Nat) (f : Die → Die) : (modDie s n f).firmware = s.firmware := rfl
@[simp] theorem modDie_staged (n : Nat) (f : Die → Die) : (modDie s n f).staged = s.staged := rfl
@[simp] theorem modDie_measured (n : Nat) (f : Die → Die) : (modDie s n f).measured = s.measured := rfl
@[simp] theorem modDie_sessions (n : Nat) (f : Die → Die) : (modDie s n f).sessions = s.sessions := rfl
@[simp] theorem modDie_certs (n : Nat) (f : Die → Die) : (modDie s n f).certs = s.certs := rfl
@[simp] theorem modDie_replies (n : Nat) (f : Die → Die) : (modDie s n f).replies = s.replies := rfl
@[simp] theorem modDie_snapArmed (n : Nat) (f : Die → Die) : (modDie s n f).snapArmed = s.snapArmed := rfl
@[simp] theorem modDie_snapFired (n : Nat) (f : Die → Die) : (modDie s n f).snapFired = s.snapFired := rfl
@[simp] theorem modDie_snapshot (n : Nat) (f : Die → Die) : (modDie s n f).snapshot = s.snapshot := rfl
@[simp] theorem modDie_recorded (n : Nat) (f : Die → Die) : (modDie s n f).recorded = s.recorded := rfl
@[simp] theorem modDie_replaying (n : Nat) (f : Die → Die) : (modDie s n f).replaying = s.replaying := rfl

-- modPart

@[simp] theorem modPart_cur (n : Nat) (f : PartRec → PartRec) : (modPart s n f).cur = s.cur := rfl
@[simp] theorem modPart_busy (n : Nat) (f : PartRec → PartRec) : (modPart s n f).busy = s.busy := rfl
@[simp] theorem modPart_agenda (n : Nat) (f : PartRec → PartRec) : (modPart s n f).agenda = s.agenda := rfl
@[simp] theorem modPart_fresh (n : Nat) (f : PartRec → PartRec) : (modPart s n f).fresh = s.fresh := rfl
@[simp] theorem modPart_cycle (n : Nat) (f : PartRec → PartRec) : (modPart s n f).cycle = s.cycle := rfl
@[simp] theorem modPart_mem (n : Nat) (f : PartRec → PartRec) : (modPart s n f).mem = s.mem := rfl
@[simp] theorem modPart_poison (n : Nat) (f : PartRec → PartRec) : (modPart s n f).poison = s.poison := rfl
@[simp] theorem modPart_ctxs (n : Nat) (f : PartRec → PartRec) : (modPart s n f).ctxs = s.ctxs := rfl
@[simp] theorem modPart_clusters (n : Nat) (f : PartRec → PartRec) : (modPart s n f).clusters = s.clusters := rfl
@[simp] theorem modPart_cores (n : Nat) (f : PartRec → PartRec) : (modPart s n f).cores = s.cores := rfl
@[simp] theorem modPart_dies (n : Nat) (f : PartRec → PartRec) : (modPart s n f).dies = s.dies := rfl
@[simp] theorem modPart_parts (n : Nat) (f : PartRec → PartRec) : (modPart s n f).parts = smPut s.parts n (f (getPart s n)) := rfl
@[simp] theorem modPart_tenants (n : Nat) (f : PartRec → PartRec) : (modPart s n f).tenants = s.tenants := rfl
@[simp] theorem modPart_frames (n : Nat) (f : PartRec → PartRec) : (modPart s n f).frames = s.frames := rfl
@[simp] theorem modPart_frameWork (n : Nat) (f : PartRec → PartRec) : (modPart s n f).frameWork = s.frameWork := rfl
@[simp] theorem modPart_keys (n : Nat) (f : PartRec → PartRec) : (modPart s n f).keys = s.keys := rfl
@[simp] theorem modPart_scnt (n : Nat) (f : PartRec → PartRec) : (modPart s n f).scnt = s.scnt := rfl
@[simp] theorem modPart_launches (n : Nat) (f : PartRec → PartRec) : (modPart s n f).launches = s.launches := rfl
@[simp] theorem modPart_images (n : Nat) (f : PartRec → PartRec) : (modPart s n f).images = s.images := rfl
@[simp] theorem modPart_saved (n : Nat) (f : PartRec → PartRec) : (modPart s n f).saved = s.saved := rfl
@[simp] theorem modPart_tasks (n : Nat) (f : PartRec → PartRec) : (modPart s n f).tasks = s.tasks := rfl
@[simp] theorem modPart_taskSeq (n : Nat) (f : PartRec → PartRec) : (modPart s n f).taskSeq = s.taskSeq := rfl
@[simp] theorem modPart_nextId (n : Nat) (f : PartRec → PartRec) : (modPart s n f).nextId = s.nextId := rfl
@[simp] theorem modPart_barriers (n : Nat) (f : PartRec → PartRec) : (modPart s n f).barriers = s.barriers := rfl
@[simp] theorem modPart_catalogue (n : Nat) (f : PartRec → PartRec) : (modPart s n f).catalogue = s.catalogue := rfl
@[simp] theorem modPart_admissions (n : Nat) (f : PartRec → PartRec) : (modPart s n f).admissions = s.admissions := rfl
@[simp] theorem modPart_gen (n : Nat) (f : PartRec → PartRec) : (modPart s n f).gen = s.gen := rfl
@[simp] theorem modPart_logs (n : Nat) (f : PartRec → PartRec) : (modPart s n f).logs = s.logs := rfl
@[simp] theorem modPart_gwCur (n : Nat) (f : PartRec → PartRec) : (modPart s n f).gwCur = s.gwCur := rfl
@[simp] theorem modPart_gwPrv (n : Nat) (f : PartRec → PartRec) : (modPart s n f).gwPrv = s.gwPrv := rfl
@[simp] theorem modPart_gwSlots (n : Nat) (f : PartRec → PartRec) : (modPart s n f).gwSlots = s.gwSlots := rfl
@[simp] theorem modPart_outbox (n : Nat) (f : PartRec → PartRec) : (modPart s n f).outbox = s.outbox := rfl
@[simp] theorem modPart_fabSeq (n : Nat) (f : PartRec → PartRec) : (modPart s n f).fabSeq = s.fabSeq := rfl
@[simp] theorem modPart_arrived (n : Nat) (f : PartRec → PartRec) : (modPart s n f).arrived = s.arrived := rfl
@[simp] theorem modPart_acks (n : Nat) (f : PartRec → PartRec) : (modPart s n f).acks = s.acks := rfl
@[simp] theorem modPart_catOut (n : Nat) (f : PartRec → PartRec) : (modPart s n f).catOut = s.catOut := rfl
@[simp] theorem modPart_catNum (n : Nat) (f : PartRec → PartRec) : (modPart s n f).catNum = s.catNum := rfl
@[simp] theorem modPart_ownPeer (n : Nat) (f : PartRec → PartRec) : (modPart s n f).ownPeer = s.ownPeer := rfl
@[simp] theorem modPart_populated (n : Nat) (f : PartRec → PartRec) : (modPart s n f).populated = s.populated := rfl
@[simp] theorem modPart_disabled (n : Nat) (f : PartRec → PartRec) : (modPart s n f).disabled = s.disabled := rfl
@[simp] theorem modPart_deadPlaces (n : Nat) (f : PartRec → PartRec) : (modPart s n f).deadPlaces = s.deadPlaces := rfl
@[simp] theorem modPart_portsDown (n : Nat) (f : PartRec → PartRec) : (modPart s n f).portsDown = s.portsDown := rfl
@[simp] theorem modPart_annexDown (n : Nat) (f : PartRec → PartRec) : (modPart s n f).annexDown = s.annexDown := rfl
@[simp] theorem modPart_cut (n : Nat) (f : PartRec → PartRec) : (modPart s n f).cut = s.cut := rfl
@[simp] theorem modPart_cutNow (n : Nat) (f : PartRec → PartRec) : (modPart s n f).cutNow = s.cutNow := rfl
@[simp] theorem modPart_fns (n : Nat) (f : PartRec → PartRec) : (modPart s n f).fns = s.fns := rfl
@[simp] theorem modPart_ready (n : Nat) (f : PartRec → PartRec) : (modPart s n f).ready = s.ready := rfl
@[simp] theorem modPart_fatal (n : Nat) (f : PartRec → PartRec) : (modPart s n f).fatal = s.fatal := rfl
@[simp] theorem modPart_svnFuses (n : Nat) (f : PartRec → PartRec) : (modPart s n f).svnFuses = s.svnFuses := rfl
@[simp] theorem modPart_firmware (n : Nat) (f : PartRec → PartRec) : (modPart s n f).firmware = s.firmware := rfl
@[simp] theorem modPart_staged (n : Nat) (f : PartRec → PartRec) : (modPart s n f).staged = s.staged := rfl
@[simp] theorem modPart_measured (n : Nat) (f : PartRec → PartRec) : (modPart s n f).measured = s.measured := rfl
@[simp] theorem modPart_sessions (n : Nat) (f : PartRec → PartRec) : (modPart s n f).sessions = s.sessions := rfl
@[simp] theorem modPart_certs (n : Nat) (f : PartRec → PartRec) : (modPart s n f).certs = s.certs := rfl
@[simp] theorem modPart_replies (n : Nat) (f : PartRec → PartRec) : (modPart s n f).replies = s.replies := rfl
@[simp] theorem modPart_snapArmed (n : Nat) (f : PartRec → PartRec) : (modPart s n f).snapArmed = s.snapArmed := rfl
@[simp] theorem modPart_snapFired (n : Nat) (f : PartRec → PartRec) : (modPart s n f).snapFired = s.snapFired := rfl
@[simp] theorem modPart_snapshot (n : Nat) (f : PartRec → PartRec) : (modPart s n f).snapshot = s.snapshot := rfl
@[simp] theorem modPart_recorded (n : Nat) (f : PartRec → PartRec) : (modPart s n f).recorded = s.recorded := rfl
@[simp] theorem modPart_replaying (n : Nat) (f : PartRec → PartRec) : (modPart s n f).replaying = s.replaying := rfl

-- modFn

@[simp] theorem modFn_cur (n : Nat) (f : Fn → Fn) : (modFn s n f).cur = s.cur := rfl
@[simp] theorem modFn_busy (n : Nat) (f : Fn → Fn) : (modFn s n f).busy = s.busy := rfl
@[simp] theorem modFn_agenda (n : Nat) (f : Fn → Fn) : (modFn s n f).agenda = s.agenda := rfl
@[simp] theorem modFn_fresh (n : Nat) (f : Fn → Fn) : (modFn s n f).fresh = s.fresh := rfl
@[simp] theorem modFn_cycle (n : Nat) (f : Fn → Fn) : (modFn s n f).cycle = s.cycle := rfl
@[simp] theorem modFn_mem (n : Nat) (f : Fn → Fn) : (modFn s n f).mem = s.mem := rfl
@[simp] theorem modFn_poison (n : Nat) (f : Fn → Fn) : (modFn s n f).poison = s.poison := rfl
@[simp] theorem modFn_ctxs (n : Nat) (f : Fn → Fn) : (modFn s n f).ctxs = s.ctxs := rfl
@[simp] theorem modFn_clusters (n : Nat) (f : Fn → Fn) : (modFn s n f).clusters = s.clusters := rfl
@[simp] theorem modFn_cores (n : Nat) (f : Fn → Fn) : (modFn s n f).cores = s.cores := rfl
@[simp] theorem modFn_dies (n : Nat) (f : Fn → Fn) : (modFn s n f).dies = s.dies := rfl
@[simp] theorem modFn_parts (n : Nat) (f : Fn → Fn) : (modFn s n f).parts = s.parts := rfl
@[simp] theorem modFn_tenants (n : Nat) (f : Fn → Fn) : (modFn s n f).tenants = s.tenants := rfl
@[simp] theorem modFn_frames (n : Nat) (f : Fn → Fn) : (modFn s n f).frames = s.frames := rfl
@[simp] theorem modFn_frameWork (n : Nat) (f : Fn → Fn) : (modFn s n f).frameWork = s.frameWork := rfl
@[simp] theorem modFn_keys (n : Nat) (f : Fn → Fn) : (modFn s n f).keys = s.keys := rfl
@[simp] theorem modFn_scnt (n : Nat) (f : Fn → Fn) : (modFn s n f).scnt = s.scnt := rfl
@[simp] theorem modFn_launches (n : Nat) (f : Fn → Fn) : (modFn s n f).launches = s.launches := rfl
@[simp] theorem modFn_images (n : Nat) (f : Fn → Fn) : (modFn s n f).images = s.images := rfl
@[simp] theorem modFn_saved (n : Nat) (f : Fn → Fn) : (modFn s n f).saved = s.saved := rfl
@[simp] theorem modFn_tasks (n : Nat) (f : Fn → Fn) : (modFn s n f).tasks = s.tasks := rfl
@[simp] theorem modFn_taskSeq (n : Nat) (f : Fn → Fn) : (modFn s n f).taskSeq = s.taskSeq := rfl
@[simp] theorem modFn_nextId (n : Nat) (f : Fn → Fn) : (modFn s n f).nextId = s.nextId := rfl
@[simp] theorem modFn_barriers (n : Nat) (f : Fn → Fn) : (modFn s n f).barriers = s.barriers := rfl
@[simp] theorem modFn_catalogue (n : Nat) (f : Fn → Fn) : (modFn s n f).catalogue = s.catalogue := rfl
@[simp] theorem modFn_admissions (n : Nat) (f : Fn → Fn) : (modFn s n f).admissions = s.admissions := rfl
@[simp] theorem modFn_gen (n : Nat) (f : Fn → Fn) : (modFn s n f).gen = s.gen := rfl
@[simp] theorem modFn_logs (n : Nat) (f : Fn → Fn) : (modFn s n f).logs = s.logs := rfl
@[simp] theorem modFn_gwCur (n : Nat) (f : Fn → Fn) : (modFn s n f).gwCur = s.gwCur := rfl
@[simp] theorem modFn_gwPrv (n : Nat) (f : Fn → Fn) : (modFn s n f).gwPrv = s.gwPrv := rfl
@[simp] theorem modFn_gwSlots (n : Nat) (f : Fn → Fn) : (modFn s n f).gwSlots = s.gwSlots := rfl
@[simp] theorem modFn_outbox (n : Nat) (f : Fn → Fn) : (modFn s n f).outbox = s.outbox := rfl
@[simp] theorem modFn_fabSeq (n : Nat) (f : Fn → Fn) : (modFn s n f).fabSeq = s.fabSeq := rfl
@[simp] theorem modFn_arrived (n : Nat) (f : Fn → Fn) : (modFn s n f).arrived = s.arrived := rfl
@[simp] theorem modFn_acks (n : Nat) (f : Fn → Fn) : (modFn s n f).acks = s.acks := rfl
@[simp] theorem modFn_catOut (n : Nat) (f : Fn → Fn) : (modFn s n f).catOut = s.catOut := rfl
@[simp] theorem modFn_catNum (n : Nat) (f : Fn → Fn) : (modFn s n f).catNum = s.catNum := rfl
@[simp] theorem modFn_ownPeer (n : Nat) (f : Fn → Fn) : (modFn s n f).ownPeer = s.ownPeer := rfl
@[simp] theorem modFn_populated (n : Nat) (f : Fn → Fn) : (modFn s n f).populated = s.populated := rfl
@[simp] theorem modFn_disabled (n : Nat) (f : Fn → Fn) : (modFn s n f).disabled = s.disabled := rfl
@[simp] theorem modFn_deadPlaces (n : Nat) (f : Fn → Fn) : (modFn s n f).deadPlaces = s.deadPlaces := rfl
@[simp] theorem modFn_portsDown (n : Nat) (f : Fn → Fn) : (modFn s n f).portsDown = s.portsDown := rfl
@[simp] theorem modFn_annexDown (n : Nat) (f : Fn → Fn) : (modFn s n f).annexDown = s.annexDown := rfl
@[simp] theorem modFn_cut (n : Nat) (f : Fn → Fn) : (modFn s n f).cut = s.cut := rfl
@[simp] theorem modFn_cutNow (n : Nat) (f : Fn → Fn) : (modFn s n f).cutNow = s.cutNow := rfl
@[simp] theorem modFn_fns (n : Nat) (f : Fn → Fn) : (modFn s n f).fns = smPut s.fns n (f (getFn s n)) := rfl
@[simp] theorem modFn_ready (n : Nat) (f : Fn → Fn) : (modFn s n f).ready = s.ready := rfl
@[simp] theorem modFn_fatal (n : Nat) (f : Fn → Fn) : (modFn s n f).fatal = s.fatal := rfl
@[simp] theorem modFn_svnFuses (n : Nat) (f : Fn → Fn) : (modFn s n f).svnFuses = s.svnFuses := rfl
@[simp] theorem modFn_firmware (n : Nat) (f : Fn → Fn) : (modFn s n f).firmware = s.firmware := rfl
@[simp] theorem modFn_staged (n : Nat) (f : Fn → Fn) : (modFn s n f).staged = s.staged := rfl
@[simp] theorem modFn_measured (n : Nat) (f : Fn → Fn) : (modFn s n f).measured = s.measured := rfl
@[simp] theorem modFn_sessions (n : Nat) (f : Fn → Fn) : (modFn s n f).sessions = s.sessions := rfl
@[simp] theorem modFn_certs (n : Nat) (f : Fn → Fn) : (modFn s n f).certs = s.certs := rfl
@[simp] theorem modFn_replies (n : Nat) (f : Fn → Fn) : (modFn s n f).replies = s.replies := rfl
@[simp] theorem modFn_snapArmed (n : Nat) (f : Fn → Fn) : (modFn s n f).snapArmed = s.snapArmed := rfl
@[simp] theorem modFn_snapFired (n : Nat) (f : Fn → Fn) : (modFn s n f).snapFired = s.snapFired := rfl
@[simp] theorem modFn_snapshot (n : Nat) (f : Fn → Fn) : (modFn s n f).snapshot = s.snapshot := rfl
@[simp] theorem modFn_recorded (n : Nat) (f : Fn → Fn) : (modFn s n f).recorded = s.recorded := rfl
@[simp] theorem modFn_replaying (n : Nat) (f : Fn → Fn) : (modFn s n f).replaying = s.replaying := rfl

-- raise

@[simp] theorem raise_cur (es : List Event) : (raise s es).cur = s.cur := rfl
@[simp] theorem raise_busy (es : List Event) : (raise s es).busy = s.busy := rfl
@[simp] theorem raise_agenda (es : List Event) : (raise s es).agenda = es.map Move.auto ++ s.agenda := rfl
@[simp] theorem raise_fresh (es : List Event) : (raise s es).fresh = s.fresh := rfl
@[simp] theorem raise_cycle (es : List Event) : (raise s es).cycle = s.cycle := rfl
@[simp] theorem raise_mem (es : List Event) : (raise s es).mem = s.mem := rfl
@[simp] theorem raise_poison (es : List Event) : (raise s es).poison = s.poison := rfl
@[simp] theorem raise_ctxs (es : List Event) : (raise s es).ctxs = s.ctxs := rfl
@[simp] theorem raise_clusters (es : List Event) : (raise s es).clusters = s.clusters := rfl
@[simp] theorem raise_cores (es : List Event) : (raise s es).cores = s.cores := rfl
@[simp] theorem raise_dies (es : List Event) : (raise s es).dies = s.dies := rfl
@[simp] theorem raise_parts (es : List Event) : (raise s es).parts = s.parts := rfl
@[simp] theorem raise_tenants (es : List Event) : (raise s es).tenants = s.tenants := rfl
@[simp] theorem raise_frames (es : List Event) : (raise s es).frames = s.frames := rfl
@[simp] theorem raise_frameWork (es : List Event) : (raise s es).frameWork = s.frameWork := rfl
@[simp] theorem raise_keys (es : List Event) : (raise s es).keys = s.keys := rfl
@[simp] theorem raise_scnt (es : List Event) : (raise s es).scnt = s.scnt := rfl
@[simp] theorem raise_launches (es : List Event) : (raise s es).launches = s.launches := rfl
@[simp] theorem raise_images (es : List Event) : (raise s es).images = s.images := rfl
@[simp] theorem raise_saved (es : List Event) : (raise s es).saved = s.saved := rfl
@[simp] theorem raise_tasks (es : List Event) : (raise s es).tasks = s.tasks := rfl
@[simp] theorem raise_taskSeq (es : List Event) : (raise s es).taskSeq = s.taskSeq := rfl
@[simp] theorem raise_nextId (es : List Event) : (raise s es).nextId = s.nextId := rfl
@[simp] theorem raise_barriers (es : List Event) : (raise s es).barriers = s.barriers := rfl
@[simp] theorem raise_catalogue (es : List Event) : (raise s es).catalogue = s.catalogue := rfl
@[simp] theorem raise_admissions (es : List Event) : (raise s es).admissions = s.admissions := rfl
@[simp] theorem raise_gen (es : List Event) : (raise s es).gen = s.gen := rfl
@[simp] theorem raise_logs (es : List Event) : (raise s es).logs = s.logs := rfl
@[simp] theorem raise_gwCur (es : List Event) : (raise s es).gwCur = s.gwCur := rfl
@[simp] theorem raise_gwPrv (es : List Event) : (raise s es).gwPrv = s.gwPrv := rfl
@[simp] theorem raise_gwSlots (es : List Event) : (raise s es).gwSlots = s.gwSlots := rfl
@[simp] theorem raise_outbox (es : List Event) : (raise s es).outbox = s.outbox := rfl
@[simp] theorem raise_fabSeq (es : List Event) : (raise s es).fabSeq = s.fabSeq := rfl
@[simp] theorem raise_arrived (es : List Event) : (raise s es).arrived = s.arrived := rfl
@[simp] theorem raise_acks (es : List Event) : (raise s es).acks = s.acks := rfl
@[simp] theorem raise_catOut (es : List Event) : (raise s es).catOut = s.catOut := rfl
@[simp] theorem raise_catNum (es : List Event) : (raise s es).catNum = s.catNum := rfl
@[simp] theorem raise_ownPeer (es : List Event) : (raise s es).ownPeer = s.ownPeer := rfl
@[simp] theorem raise_populated (es : List Event) : (raise s es).populated = s.populated := rfl
@[simp] theorem raise_disabled (es : List Event) : (raise s es).disabled = s.disabled := rfl
@[simp] theorem raise_deadPlaces (es : List Event) : (raise s es).deadPlaces = s.deadPlaces := rfl
@[simp] theorem raise_portsDown (es : List Event) : (raise s es).portsDown = s.portsDown := rfl
@[simp] theorem raise_annexDown (es : List Event) : (raise s es).annexDown = s.annexDown := rfl
@[simp] theorem raise_cut (es : List Event) : (raise s es).cut = s.cut := rfl
@[simp] theorem raise_cutNow (es : List Event) : (raise s es).cutNow = s.cutNow := rfl
@[simp] theorem raise_fns (es : List Event) : (raise s es).fns = s.fns := rfl
@[simp] theorem raise_ready (es : List Event) : (raise s es).ready = s.ready := rfl
@[simp] theorem raise_fatal (es : List Event) : (raise s es).fatal = s.fatal := rfl
@[simp] theorem raise_svnFuses (es : List Event) : (raise s es).svnFuses = s.svnFuses := rfl
@[simp] theorem raise_firmware (es : List Event) : (raise s es).firmware = s.firmware := rfl
@[simp] theorem raise_staged (es : List Event) : (raise s es).staged = s.staged := rfl
@[simp] theorem raise_measured (es : List Event) : (raise s es).measured = s.measured := rfl
@[simp] theorem raise_sessions (es : List Event) : (raise s es).sessions = s.sessions := rfl
@[simp] theorem raise_certs (es : List Event) : (raise s es).certs = s.certs := rfl
@[simp] theorem raise_replies (es : List Event) : (raise s es).replies = s.replies := rfl
@[simp] theorem raise_snapArmed (es : List Event) : (raise s es).snapArmed = s.snapArmed := rfl
@[simp] theorem raise_snapFired (es : List Event) : (raise s es).snapFired = s.snapFired := rfl
@[simp] theorem raise_snapshot (es : List Event) : (raise s es).snapshot = s.snapshot := rfl
@[simp] theorem raise_recorded (es : List Event) : (raise s es).recorded = s.recorded := rfl
@[simp] theorem raise_replaying (es : List Event) : (raise s es).replaying = s.replaying := rfl

-- Reading a unit after an update of it.

@[simp] theorem getCtx_setCtx (id j : Nat) (c : Ctx) : getCtx (setCtx s id c) j = if j = id then c else getCtx s j := by
  simp [getCtx]
@[simp] theorem getCtx_modCtx (id j : Nat) (f : Ctx → Ctx) :
    getCtx (modCtx s id f) j = if j = id then f (getCtx s id) else getCtx s j := by
  simp only [modCtx, getCtx_setCtx]
@[simp] theorem getCtx_onMe (j : Nat) (f : Ctx → Ctx) :
    getCtx (onMe s f) j = if j = s.cur then f (me s) else getCtx s j := by
  simp only [onMe, getCtx_modCtx, me]
@[simp] theorem me_onMe (f : Ctx → Ctx) : me (onMe s f) = f (me s) := by simp [me]
@[simp] theorem getCtx_raise (es : List Event) (j : Nat) : getCtx (raise s es) j = getCtx s j := rfl
@[simp] theorem me_raise (es : List Event) : me (raise s es) = me s := rfl
@[simp] theorem getCluster_modCluster (n j : Nat) (f : Cluster → Cluster) :
    getCluster (modCluster s n f) j = if j = n then f (getCluster s n) else getCluster s j := by
  simp [getCluster]
@[simp] theorem getCluster_modCtx (id : Nat) (f : Ctx → Ctx) (j : Nat) : getCluster (modCtx s id f) j = getCluster s j := rfl
@[simp] theorem getCluster_onMe (f : Ctx → Ctx) (j : Nat) : getCluster (onMe s f) j = getCluster s j := rfl
@[simp] theorem getCluster_raise (es : List Event) (j : Nat) : getCluster (raise s es) j = getCluster s j := rfl
@[simp] theorem getCore_modCore (n j : Nat) (f : Core → Core) :
    getCore (modCore s n f) j = if j = n then f (getCore s n) else getCore s j := by
  simp [getCore]
@[simp] theorem getCore_modCtx (id : Nat) (f : Ctx → Ctx) (j : Nat) : getCore (modCtx s id f) j = getCore s j := rfl
@[simp] theorem getCore_onMe (f : Ctx → Ctx) (j : Nat) : getCore (onMe s f) j = getCore s j := rfl
@[simp] theorem getCore_raise (es : List Event) (j : Nat) : getCore (raise s es) j = getCore s j := rfl
@[simp] theorem getDie_modDie (n j : Nat) (f : Die → Die) :
    getDie (modDie s n f) j = if j = n then f (getDie s n) else getDie s j := by
  simp [getDie]
@[simp] theorem getDie_modCtx (id : Nat) (f : Ctx → Ctx) (j : Nat) : getDie (modCtx s id f) j = getDie s j := rfl
@[simp] theorem getDie_onMe (f : Ctx → Ctx) (j : Nat) : getDie (onMe s f) j = getDie s j := rfl
@[simp] theorem getDie_raise (es : List Event) (j : Nat) : getDie (raise s es) j = getDie s j := rfl
@[simp] theorem getPart_modPart (n j : Nat) (f : PartRec → PartRec) :
    getPart (modPart s n f) j = if j = n then f (getPart s n) else getPart s j := by
  simp [getPart]
@[simp] theorem getPart_modCtx (id : Nat) (f : Ctx → Ctx) (j : Nat) : getPart (modCtx s id f) j = getPart s j := rfl
@[simp] theorem getPart_onMe (f : Ctx → Ctx) (j : Nat) : getPart (onMe s f) j = getPart s j := rfl
@[simp] theorem getPart_raise (es : List Event) (j : Nat) : getPart (raise s es) j = getPart s j := rfl
@[simp] theorem getFn_modFn (n j : Nat) (f : Fn → Fn) :
    getFn (modFn s n f) j = if j = n then f (getFn s n) else getFn s j := by
  simp [getFn]
@[simp] theorem getFn_modCtx (id : Nat) (f : Ctx → Ctx) (j : Nat) : getFn (modCtx s id f) j = getFn s j := rfl
@[simp] theorem getFn_onMe (f : Ctx → Ctx) (j : Nat) : getFn (onMe s f) j = getFn s j := rfl
@[simp] theorem getFn_raise (es : List Event) (j : Nat) : getFn (raise s es) j = getFn s j := rfl

end Sys2Proof.Machine
end

