-- ==== Sys2Proof/Laws/Ops.lean ====
section
/-! SUPPORT. What the shared operations of a word do: the end of a word, register writes, poison, memory, and the
shapes of the register-only words. -/

namespace Sys2Proof.Machine

variable (s : State)

-- Registers (R133).

@[simp] theorem sread_zero (c : Ctx) : sread c 0 = BitVec.allOnes 64 := by simp [sread]

/-- Reading a register after a write of one. -/
theorem sread_swrite (c : Ctx) (d r : SReg) (v : Word) :
    sread (swrite c d v) r = if r = 0 then BitVec.allOnes 64 else if r = d then v else sread c r := by
  have hk : (r.toNat = d.toNat) ↔ r = d := ⟨fun h => BitVec.eq_of_toNat_eq h, fun h => h ▸ rfl⟩
  by_cases hr : r = 0
  · subst hr; rw [if_pos rfl]; exact sread_zero _
  · rw [if_neg hr]
    by_cases hd : d = 0
    · subst hd; rw [if_neg hr]; simp only [swrite, if_true]
    · simp only [sread, swrite, if_neg hr, if_neg hd, smGetD_smSet, hk]

/-- A write of a register is a change of the register file alone. -/
theorem swrite_eq (c : Ctx) (d : SReg) (v : Word) : swrite c d v = { c with s := (swrite c d v).s } := by
  simp only [swrite]; split <;> rfl

-- Poison (R347).

theorem isPoison_setPoison (p q : PLoc) (b : Bool) :
    isPoison (setPoison s p b) q = if q = p then b else isPoison s q := by
  cases b <;> by_cases h : q = p <;> by_cases hp : p ∈ s.poison <;> simp_all [setPoison, isPoison]

theorem setPoison_eq (p : PLoc) (b : Bool) : setPoison s p b = { s with poison := (setPoison s p b).poison } := by
  simp only [setPoison]; split <;> split <;> rfl

-- The end of a word (R24, R88).

theorem finishBundle_place (c : Ctx) : Ctx.PlaceOnly c (finishBundle c) := by
  simp only [finishBundle, enterAt, enterRest]; split <;> rfl

theorem countWord_place (c : Ctx) : Ctx.PlaceOnly c (countWord c) := by
  simp only [countWord]; split <;> rfl

theorem Ctx.PlaceOnly.refl (c : Ctx) : Ctx.PlaceOnly c c := rfl

theorem Ctx.PlaceOnly.trans {a b c : Ctx} (h : Ctx.PlaceOnly a b) (g : Ctx.PlaceOnly b c) : Ctx.PlaceOnly a c := by
  simp only [Ctx.PlaceOnly] at *; rw [g, h]

theorem retireCtx_place (e : Bool) (len : Nat) (c : Ctx) : Ctx.PlaceOnly c (retireCtx e len c) := by
  simp only [retireCtx]
  split
  · exact Ctx.PlaceOnly.trans (b := { c with pc := c.pc + BitVec.ofNat 64 len, mid := true, syncGo := false }) rfl
      (finishBundle_place _)
  · rfl

theorem retired_place (e : Bool) (len : Nat) (c : Ctx) : Ctx.PlaceOnly c (countWord (retireCtx e len c)) :=
  (retireCtx_place e len c).trans (countWord_place _)

/-- The state after a word of the issuing context, in full. -/
theorem retire_eq (e : Bool) (len : Nat) :
    retire e len s =
      { s with ctxs := smPut s.ctxs s.cur (countWord (retireCtx e len (me s))),
               agenda := if e && endsPass len (me s) then .auto (.loopPassEnd s.cur) :: s.agenda else s.agenda } := by
  have hm : getCtx s s.cur = me s := rfl
  cases h : e && endsPass len (me s) <;> simp only [retire, retireAt, hm, h] <;> rfl

@[simp] theorem me_retire (e : Bool) (len : Nat) : me (retire e len s) = countWord (retireCtx e len (me s)) := by
  simp [retire_eq, me, getCtx]

theorem getCtx_retire (e : Bool) (len : Nat) (id : Nat) (h : id ≠ s.cur) : getCtx (retire e len s) id = getCtx s id := by
  simp [retire_eq, getCtx, h]

@[simp] theorem retire_poison (e : Bool) (len : Nat) : (retire e len s).poison = s.poison := by rw [retire_eq]
@[simp] theorem retire_mem (e : Bool) (len : Nat) : (retire e len s).mem = s.mem := by rw [retire_eq]
@[simp] theorem retire_cur (e : Bool) (len : Nat) : (retire e len s).cur = s.cur := by rw [retire_eq]

/-- Registers are read the same across a change of place. -/
theorem sread_place {c c' : Ctx} (h : Ctx.PlaceOnly c c') (r : SReg) : sread c' r = sread c r := by
  rw [h]; rfl

/-- `t` is `s` but for the issuing context and marks of poison. -/
def Touched (s t : State) : Prop :=
  t = { s with ctxs := t.ctxs, poison := t.poison } ∧ ∀ id, id ≠ s.cur → getCtx t id = getCtx s id

theorem Touched.refl : Touched s s := ⟨rfl, fun _ _ => rfl⟩

theorem Touched.cur {s t : State} (h : Touched s t) : t.cur = s.cur := by rw [h.1]
theorem Touched.agenda {s t : State} (h : Touched s t) : t.agenda = s.agenda := by rw [h.1]

theorem Touched.trans {s t u : State} (h : Touched s t) (g : Touched t u) : Touched s u :=
  ⟨by rw [g.1, h.1], fun id hid => (g.2 id (by rw [h.cur]; exact hid)).trans (h.2 id hid)⟩

theorem touched_onMe (f : Ctx → Ctx) : Touched s (onMe s f) := ⟨rfl, fun id h => by simp [h]⟩

theorem touched_setPoison (p : PLoc) (b : Bool) : Touched s (setPoison s p b) := by
  rw [setPoison_eq]; exact ⟨rfl, fun _ _ => rfl⟩

/-- A word that retires after touching its own context alone. -/
theorem Touched.retire {s t : State} (h : Touched s t) (e : Bool) (len : Nat) :
    s.OwnOnly (retire e len t) ∧ Ctx.PlaceOnly (me t) (me (retire e len t)) := by
  refine ⟨⟨?_, ?_, ?_⟩, by simpa using retired_place e len (me t)⟩
  · rw [retire_eq, h.1]
  · intro id hid
    rw [getCtx_retire _ _ _ _ (by rw [h.cur]; exact hid), h.2 id hid]
  · rw [retire_eq]; simp only [h.agenda, h.cur]; split <;> simp

/-- A word that changes nothing but its place. -/
theorem retire_passed (e : Bool) (len : Nat) : PassedOver (me s) s (retire e len s) :=
  ⟨((Touched.refl s).retire e len).1, ((Touched.refl s).retire e len).2, by simp⟩

-- Results.

theorem setReg_cases (d : SReg) (v : Word) :
    setReg s d v = ws s d v ∨ setReg s d v = setPoison (ws s d v) (.sreg s.cur d.toNat) false := by
  cases h : s.poison.isEmpty
  · exact Or.inr (if_neg (by simp [ws, h]))
  · exact Or.inl (if_pos (by simp [ws, h]))

theorem touched_setReg (d : SReg) (v : Word) : Touched s (setReg s d v) := by
  rcases setReg_cases s d v with h | h <;> rw [h]
  · exact touched_onMe s _
  · exact (touched_onMe s _).trans (touched_setPoison _ _ _)

theorem me_setReg (d : SReg) (v : Word) : me (setReg s d v) = swrite (me s) d v := by
  rcases setReg_cases s d v with h | h <;> rw [h]
  · simp [ws]
  · rw [setPoison_eq]; simp [me, getCtx, ws]

theorem isPoison_setReg (d : SReg) (v : Word) (p : PLoc) :
    isPoison (setReg s d v) p = (isPoison s p && decide (p ≠ .sreg s.cur d.toNat)) := by
  simp only [setReg]
  have hw : (ws s d v).poison = s.poison := rfl
  split
  · next h => simp [isPoison, hw, List.isEmpty_iff.1 (hw ▸ h)]
  · rw [isPoison_setPoison]
    by_cases hp : p = .sreg s.cur d.toNat <;> simp [hp, isPoison, ws]

/-- A scalar result of a state in which only the issuing context has moved on, to the context `c`. -/
theorem result_wrote {s t : State} (e : Bool) (d : SReg) (v : Word) (h : Touched s t) (hp : t.poison = s.poison) :
    ∃ u, result e d v t = .next u ∧ WroteOver (me t) s u d v := by
  have hr := (h.trans (touched_setReg t d v)).retire e 4
  refine ⟨_, rfl, hr.1, ?_, ?_, ?_, ?_⟩
  · have := hr.2
    rw [me_setReg, swrite_eq] at this
    simp only [Ctx.PlaceOnly] at this ⊢
    rw [this]
  · intro r; rw [sread_place hr.2, me_setReg, sread_swrite]
  · intro p hn
    have : isPoison (retire e 4 (setReg t d v)) p = isPoison (setReg t d v) p := by simp [isPoison]
    rw [this, isPoison_setReg, h.cur]; simp [isPoison, hp, hn]
  · intro _
    have : isPoison (retire e 4 (setReg t d v)) (.sreg s.cur d.toNat) = isPoison (setReg t d v) (.sreg s.cur d.toNat) := by
      simp [isPoison]
    rw [this, isPoison_setReg, h.cur]; simp

/-- A register-only word writes its value. -/
theorem scalarOp_writes {i : Instr} {e : Bool} {d : SReg} {srcs : List SReg} {f : State → Word}
    (hx : exec i s = scalarOp e d srcs f s) (hs : srcs.any (srcBad s) = false) : Writes i s d (f s) := by
  simp only [Writes, WritesOver, hx, scalarOp, withSrc, hs]
  exact result_wrote e d (f s) (Touched.refl s) rfl

end Sys2Proof.Machine
end

