-- ==== Sys2Proof/Laws/Memory.lean ====
section
/-! SUPPORT. What the operations on memory read back, and that each keeps the canonical form. Memory changes through
these alone: a write of bytes, a frame scrubbed to zero, and what a reset leaves. -/

namespace Sys2Proof.Machine

/-- A byte after a run of bytes is written. -/
theorem smGetD_memSetCells (m : List Host.Cell) (pa : Nat) (bs : List Byte) (a : Nat) :
    smGetD (memSetCells m pa bs) a unwritten =
      if pa ≤ a then (bs[a - pa]?).getD (smGetD m a unwritten) else smGetD m a unwritten := by
  induction bs generalizing m pa with
  | nil => simp [memSetCells]
  | cons b bs ih =>
    simp only [memSetCells, ih, smGetD_smSet]
    by_cases h : pa ≤ a
    · by_cases he : a = pa
      · subst he; simp
      · have h1 : pa + 1 ≤ a := by omega
        have h2 : a - pa = (a - (pa + 1)) + 1 := by omega
        simp [h, h1, he, h2]
    · have h1 : ¬pa + 1 ≤ a := by omega
      have h2 : a ≠ pa := by omega
      simp [h, h1, h2]

/-- Writing a run of bytes keeps the canonical form. -/
theorem memSetCells_wf {m : List Host.Cell} (h : Memory.wf m = true) (pa : Nat) (bs : List Byte) :
    Memory.wf (memSetCells m pa bs) = true := by
  induction bs generalizing m pa with
  | nil => exact h
  | cons b bs ih => exact ih (smWf_smSet pa b h) (pa + 1)

theorem memWrite_mem (s : State) (pa : Nat) (bs : List Byte) : (memWrite s pa bs).mem = memSetCells s.mem pa bs := by
  simp only [memWrite]; split <;> rfl

/-- A read after a write: the byte written at its place, and every other byte as before. -/
theorem memByte_memWrite (s : State) (pa : Nat) (bs : List Byte) (a : Nat) :
    memByte (memWrite s pa bs) a = if pa ≤ a then (bs[a - pa]?).getD (memByte s a) else memByte s a := by
  simp only [memByte, memWrite_mem, smGetD_memSetCells]

/-- A write to memory keeps the canonical form. -/
theorem memWrite_memOk {s : State} (h : s.MemOk) (pa : Nat) (bs : List Byte) : (memWrite s pa bs).MemOk := by
  simp only [State.MemOk, memWrite_mem]; exact memSetCells_wf h pa bs

theorem smSorted_filter {lo : Nat} {m : List Host.Cell} (p : Host.Cell → Bool) (h : smSorted lo m = true) :
    smSorted lo (m.filter p) = true := by
  induction m generalizing lo with
  | nil => rfl
  | cons e m ih =>
    obtain ⟨k, v⟩ := e
    simp only [smSorted, Bool.and_eq_true, decide_eq_true_eq] at h
    simp only [List.filter_cons]
    split
    · simp only [smSorted, Bool.and_eq_true, decide_eq_true_eq]; exact ⟨h.1, ih h.2⟩
    · exact smSorted_mono (by omega) (ih h.2)

theorem smProper_filter {d : Byte} {m : List Host.Cell} (p : Host.Cell → Bool) (h : smProper d m = true) :
    smProper d (m.filter p) = true := by
  induction m with
  | nil => rfl
  | cons e m ih =>
    obtain ⟨k, v⟩ := e
    simp only [smProper, Bool.and_eq_true, decide_eq_true_eq] at h
    simp only [List.filter_cons]
    split
    · simp [smProper, h.1, ih h.2]
    · exact ih h.2

/-- Forgetting listed bytes keeps the canonical form. -/
theorem filter_wf {m : List Host.Cell} (p : Host.Cell → Bool) (h : Memory.wf m = true) : Memory.wf (m.filter p) = true := by
  simp only [Memory.wf, smWf, Bool.and_eq_true] at h ⊢
  exact ⟨smSorted_filter p h.1, smProper_filter p h.2⟩

/-- Scrubbing a frame keeps the canonical form (R288). -/
theorem zeroFrame_memOk {s : State} (h : s.MemOk) (f : Nat) : (zeroFrame s f).MemOk := filter_wf _ h

/-- What a reset leaves keeps the canonical form. -/
theorem afterReset_memOk {s : State} (h : s.MemOk) : (afterReset s).MemOk := filter_wf _ h

/-- Memory after reset is canonical. -/
theorem reset_mem_wf : Memory.wf State.reset.mem = true := rfl

end Sys2Proof.Machine
end

