-- ==== Sys2Proof/Laws/PerInstr.lean ====
section
/-! SUPPORT. The family WordUnits, a statement about every constructor of Instr: the first unit of an encoding tells how
many units the word has (R21), so that no operand reaches the bits that frame the word. -/

open Sys2Proof Sys2Proof.Machine

/-- An event has no word, an engine command has two units (R92), and the first unit of any other word tells how many
units it has (R21). -/
def Sys2Proof.Laws.WordUnits.Statement (i : Instr) : Prop :=
  if (encodeAae i).isSome then (encode i).length = 2
  else encode i = [] ∨ (encode i).length = unitCount ((encode i).getD 0 0)

namespace Sys2Proof.Laws.WordUnits

theorem of_scalar {i : Instr} {e : Bool} {op ops : Nat} (h : encodeScalar i = some [scalarW e op ops])
    (ha : encodeAae i = none) (ho : op < 128) (hs : ops < 2 ^ 23) : Statement i := by
  have hb : natBit (scalarW e op ops) 31 = false := by
    have : scalarW e op ops < 2 ^ 31 := by simp only [scalarW, bitNat]; split <;> omega
    simp only [natBit, beq_eq_false_iff_ne, ne_eq]; omega
  simp [Statement, ha, encode, h, unitCount, hb]

theorem of_vector {i : Instr} {h : VHead} {op d : Nat} (hi : encodeScalar i = none)
    (hv : encodeVector i = some (vectorW h op d)) (ha : encodeAae i = none) (ho : op < 512) : Statement i := by
  have hg : encGuard h.guard < 2 ^ 14 := by
    have : bitNat h.guard.gk ≤ 1 ∧ bitNat h.guard.neg ≤ 1 := by constructor <;> (simp only [bitNat]; split <;> omega)
    simp only [encGuard]; omega
  have he : bitNat h.e ≤ 1 ∧ bitNat h.s ≤ 1 := by constructor <;> (simp only [bitNat]; split <;> omega)
  have h31 : natBit ((vectorW h op d).getD 0 0) 31 = true := by
    simp only [vectorW, List.getD_cons_zero, natBit, beq_iff_eq]; omega
  have h30 : natBit ((vectorW h op d).getD 0 0) 30 = false := by
    simp only [vectorW, List.getD_cons_zero, natBit, beq_eq_false_iff_ne, ne_eq]; omega
  have hl : (vectorW h op d).length = 3 := rfl
  simp only [Statement, ha, encode, hi, hv, unitCount, h31, h30, hl]; simp

theorem of_tile {i : Instr} {op : Nat} {w : TileW} (hi : encodeScalar i = none) (hv : encodeVector i = none)
    (hm : encodeMatrix i = some (tileUnits op w)) (ha : encodeAae i = none) (ho : op < 256) : Statement i := by
  have hg : encGuard w.guard < 2 ^ 14 := by
    have : bitNat w.guard.gk ≤ 1 ∧ bitNat w.guard.neg ≤ 1 := by constructor <;> (simp only [bitNat]; split <;> omega)
    simp only [encGuard]; omega
  have he : bitNat w.e ≤ 1 ∧ bitNat w.s ≤ 1 := by constructor <;> (simp only [bitNat]; split <;> omega)
  have h31 : natBit ((tileUnits op w).getD 0 0) 31 = true := by
    simp only [tileUnits, List.getD_cons_zero, natBit, beq_iff_eq]; omega
  have h30 : natBit ((tileUnits op w).getD 0 0) 30 = true := by
    simp only [tileUnits, List.getD_cons_zero, natBit, beq_iff_eq]; omega
  have hl : (tileUnits op w).length = 6 := rfl
  simp only [Statement, ha, encode, hi, hv, hm, unitCount, h31, h30, hl]; simp

theorem of_event {i : Instr} (h : encode i = []) (ha : encodeAae i = none) : Statement i := by simp [Statement, h, ha]

theorem add (e d a b) : Statement (.add e d a b) := of_scalar rfl rfl (by omega) (by simp only [encSR]; omega)
theorem sub (e d a b) : Statement (.sub e d a b) := of_scalar rfl rfl (by omega) (by simp only [encSR]; omega)
theorem and (e d a b) : Statement (.and e d a b) := of_scalar rfl rfl (by omega) (by simp only [encSR]; omega)
theorem or (e d a b) : Statement (.or e d a b) := of_scalar rfl rfl (by omega) (by simp only [encSR]; omega)
theorem xor (e d a b) : Statement (.xor e d a b) := of_scalar rfl rfl (by omega) (by simp only [encSR]; omega)
theorem andn (e d a b) : Statement (.andn e d a b) := of_scalar rfl rfl (by omega) (by simp only [encSR]; omega)
theorem shl (e d a b) : Statement (.shl e d a b) := of_scalar rfl rfl (by omega) (by simp only [encSR]; omega)
theorem shr (e d a b) : Statement (.shr e d a b) := of_scalar rfl rfl (by omega) (by simp only [encSR]; omega)
theorem sra (e d a b) : Statement (.sra e d a b) := of_scalar rfl rfl (by omega) (by simp only [encSR]; omega)
theorem ror (e d a b) : Statement (.ror e d a b) := of_scalar rfl rfl (by omega) (by simp only [encSR]; omega)
theorem mul (e d a b) : Statement (.mul e d a b) := of_scalar rfl rfl (by omega) (by simp only [encSR]; omega)
theorem mulhs (e d a b) : Statement (.mulhs e d a b) := of_scalar rfl rfl (by omega) (by simp only [encSR]; omega)
theorem mulhu (e d a b) : Statement (.mulhu e d a b) := of_scalar rfl rfl (by omega) (by simp only [encSR]; omega)
theorem divs (e d a b) : Statement (.divs e d a b) := of_scalar rfl rfl (by omega) (by simp only [encSR]; omega)
theorem divu (e d a b) : Statement (.divu e d a b) := of_scalar rfl rfl (by omega) (by simp only [encSR]; omega)
theorem rems (e d a b) : Statement (.rems e d a b) := of_scalar rfl rfl (by omega) (by simp only [encSR]; omega)
theorem remu (e d a b) : Statement (.remu e d a b) := of_scalar rfl rfl (by omega) (by simp only [encSR]; omega)
theorem min (e d a b) : Statement (.min e d a b) := of_scalar rfl rfl (by omega) (by simp only [encSR]; omega)
theorem max (e d a b) : Statement (.max e d a b) := of_scalar rfl rfl (by omega) (by simp only [encSR]; omega)
theorem minu (e d a b) : Statement (.minu e d a b) := of_scalar rfl rfl (by omega) (by simp only [encSR]; omega)
theorem maxu (e d a b) : Statement (.maxu e d a b) := of_scalar rfl rfl (by omega) (by simp only [encSR]; omega)
theorem clz (e d a) : Statement (.clz e d a) := of_scalar rfl rfl (by omega) (by simp only [encSR]; omega)
theorem ctz (e d a) : Statement (.ctz e d a) := of_scalar rfl rfl (by omega) (by simp only [encSR]; omega)
theorem popc (e d a) : Statement (.popc e d a) := of_scalar rfl rfl (by omega) (by simp only [encSR]; omega)
theorem addi (e d a ix) : Statement (.addi e d a ix) := of_scalar rfl rfl (by omega) (by simp only [encSI]; omega)
theorem andi (e d a ix) : Statement (.andi e d a ix) := of_scalar rfl rfl (by omega) (by simp only [encSI]; omega)
theorem ori (e d a ix) : Statement (.ori e d a ix) := of_scalar rfl rfl (by omega) (by simp only [encSI]; omega)
theorem xori (e d a ix) : Statement (.xori e d a ix) := of_scalar rfl rfl (by omega) (by simp only [encSI]; omega)
theorem shli (e d a n) : Statement (.shli e d a n) := of_scalar rfl rfl (by omega) (by simp only [encSI]; omega)
theorem shri (e d a n) : Statement (.shri e d a n) := of_scalar rfl rfl (by omega) (by simp only [encSI]; omega)
theorem srai (e d a n) : Statement (.srai e d a n) := of_scalar rfl rfl (by omega) (by simp only [encSI]; omega)
theorem movi (e d ix) : Statement (.movi e d ix) := of_scalar rfl rfl (by omega) (by simp only [encSU]; omega)
theorem movhi (e d ix) : Statement (.movhi e d ix) := of_scalar rfl rfl (by omega) (by simp only [encSU]; omega)
theorem bfxu (e d a l p) : Statement (.bfxu e d a l p) := of_scalar rfl rfl (by omega) (by simp only [encSI]; omega)
theorem bfxs (e d a l p) : Statement (.bfxs e d a l p) := of_scalar rfl rfl (by omega) (by simp only [encSI]; omega)
theorem bfins (e d a l p) : Statement (.bfins e d a l p) :=
  of_scalar rfl rfl (by omega) (by simp only [encSI]; omega)
theorem sel (e d a b c) : Statement (.sel e d a b c) := of_scalar rfl rfl (by omega) (by simp only [encSR]; omega)
theorem xrd (e d x) : Statement (.xrd e d x) := of_scalar rfl rfl (by omega) (by simp only [encSU]; omega)
theorem xwr (e d x) : Statement (.xwr e d x) := of_scalar rfl rfl (by omega) (by simp only [encSU]; omega)
theorem xloopStart (e d) : Statement (.xloopStart e d) := of_scalar rfl rfl (by omega) (by simp only [encSU]; omega)
theorem xloopAbandon (e d) : Statement (.xloopAbandon e d) :=
  of_scalar rfl rfl (by omega) (by simp only [encSU]; omega)
theorem xtenantWrite (e d) : Statement (.xtenantWrite e d) :=
  of_scalar rfl rfl (by omega) (by simp only [encSU]; omega)
theorem cmpeq (e cx t a b) : Statement (.cmpeq e cx t a b) :=
  of_scalar rfl rfl (by omega) (by simp only [encSC]; omega)
theorem cmpne (e cx t a b) : Statement (.cmpne e cx t a b) :=
  of_scalar rfl rfl (by omega) (by simp only [encSC]; omega)
theorem cmplt (e cx t a b) : Statement (.cmplt e cx t a b) :=
  of_scalar rfl rfl (by omega) (by simp only [encSC]; omega)
theorem cmple (e cx t a b) : Statement (.cmple e cx t a b) :=
  of_scalar rfl rfl (by omega) (by simp only [encSC]; omega)
theorem cmpltu (e cx t a b) : Statement (.cmpltu e cx t a b) :=
  of_scalar rfl rfl (by omega) (by simp only [encSC]; omega)
theorem cmpleu (e cx t a b) : Statement (.cmpleu e cx t a b) :=
  of_scalar rfl rfl (by omega) (by simp only [encSC]; omega)
theorem bbs (e a t d) : Statement (.bbs e a t d) := of_scalar rfl rfl (by omega) (by simp only [encSB]; omega)
theorem bbc (e a t d) : Statement (.bbc e a t d) := of_scalar rfl rfl (by omega) (by simp only [encSB]; omega)
theorem jmp (e d) : Statement (.jmp e d) := of_scalar rfl rfl (by omega) (by simp only [encSJ]; omega)
theorem call (e d) : Statement (.call e d) := of_scalar rfl rfl (by omega) (by simp only [encSJ]; omega)
theorem jr (e d a) : Statement (.jr e d a) := of_scalar rfl rfl (by omega) (by simp only [encSR]; omega)
theorem syncb (e) : Statement (.syncb e) := of_scalar rfl rfl (by omega) (by simp only [encSU]; omega)
theorem yield (e m) : Statement (.yield e m) := of_scalar rfl rfl (by omega) (by simp only [encSU]; omega)
theorem exit (e c) : Statement (.exit e c) := of_scalar rfl rfl (by omega) (by simp only [encSU]; omega)
theorem fadd (e d a b) : Statement (.fadd e d a b) := of_scalar rfl rfl (by omega) (by simp only [encSR]; omega)
theorem fsub (e d a b) : Statement (.fsub e d a b) := of_scalar rfl rfl (by omega) (by simp only [encSR]; omega)
theorem fmul (e d a b) : Statement (.fmul e d a b) := of_scalar rfl rfl (by omega) (by simp only [encSR]; omega)
theorem fdiv (e d a b) : Statement (.fdiv e d a b) := of_scalar rfl rfl (by omega) (by simp only [encSR]; omega)
theorem fsqrt (e d a) : Statement (.fsqrt e d a) := of_scalar rfl rfl (by omega) (by simp only [encSR]; omega)
theorem fmin (e d a b) : Statement (.fmin e d a b) := of_scalar rfl rfl (by omega) (by simp only [encSR]; omega)
theorem fmax (e d a b) : Statement (.fmax e d a b) := of_scalar rfl rfl (by omega) (by simp only [encSR]; omega)
theorem fabs (e d a) : Statement (.fabs e d a) := of_scalar rfl rfl (by omega) (by simp only [encSR]; omega)
theorem fneg (e d a) : Statement (.fneg e d a) := of_scalar rfl rfl (by omega) (by simp only [encSR]; omega)
theorem fmac (e d a b) : Statement (.fmac e d a b) := of_scalar rfl rfl (by omega) (by simp only [encSR]; omega)
theorem fcmpeq (e cx t a b) : Statement (.fcmpeq e cx t a b) :=
  of_scalar rfl rfl (by omega) (by simp only [encSC]; omega)
theorem fcmplt (e cx t a b) : Statement (.fcmplt e cx t a b) :=
  of_scalar rfl rfl (by omega) (by simp only [encSC]; omega)
theorem fcmple (e cx t a b) : Statement (.fcmple e cx t a b) :=
  of_scalar rfl rfl (by omega) (by simp only [encSC]; omega)
theorem fcmpun (e cx t a b) : Statement (.fcmpun e cx t a b) :=
  of_scalar rfl rfl (by omega) (by simp only [encSC]; omega)
theorem fcvt (e d a t cx x) : Statement (.fcvt e d a t cx x) :=
  of_scalar rfl rfl (by omega) (by simp only [encSR, bitNat]; split <;> omega)
theorem ld8 (e d a ix) : Statement (.ld8 e d a ix) := of_scalar rfl rfl (by omega) (by simp only [encSI]; omega)
theorem ld16 (e d a ix) : Statement (.ld16 e d a ix) := of_scalar rfl rfl (by omega) (by simp only [encSI]; omega)
theorem ld32 (e d a ix) : Statement (.ld32 e d a ix) := of_scalar rfl rfl (by omega) (by simp only [encSI]; omega)
theorem ld64 (e d a ix) : Statement (.ld64 e d a ix) := of_scalar rfl rfl (by omega) (by simp only [encSI]; omega)
theorem ld8s (e d a ix) : Statement (.ld8s e d a ix) := of_scalar rfl rfl (by omega) (by simp only [encSI]; omega)
theorem ld16s (e d a ix) : Statement (.ld16s e d a ix) := of_scalar rfl rfl (by omega) (by simp only [encSI]; omega)
theorem ld32s (e d a ix) : Statement (.ld32s e d a ix) := of_scalar rfl rfl (by omega) (by simp only [encSI]; omega)
theorem ldx (e d a b p cx z) : Statement (.ldx e d a b p cx z) :=
  of_scalar rfl rfl (by omega) (by simp only [encSR, bitNat]; split <;> omega)
theorem st8 (e d a ix) : Statement (.st8 e d a ix) := of_scalar rfl rfl (by omega) (by simp only [encSI]; omega)
theorem st16 (e d a ix) : Statement (.st16 e d a ix) := of_scalar rfl rfl (by omega) (by simp only [encSI]; omega)
theorem st32 (e d a ix) : Statement (.st32 e d a ix) := of_scalar rfl rfl (by omega) (by simp only [encSI]; omega)
theorem st64 (e d a ix) : Statement (.st64 e d a ix) := of_scalar rfl rfl (by omega) (by simp only [encSI]; omega)
theorem stx (e d a b p z) : Statement (.stx e d a b p z) :=
  of_scalar rfl rfl (by omega) (by simp only [encSR]; omega)
theorem lda (e d a z c) : Statement (.lda e d a z c) := of_scalar rfl rfl (by omega) (by simp only [encSR]; omega)
theorem stl (e d a z c) : Statement (.stl e d a z c) := of_scalar rfl rfl (by omega) (by simp only [encSR]; omega)
theorem stH (e d a z) : Statement (.stH e d a z) := of_scalar rfl rfl (by omega) (by simp only [encSR]; omega)
theorem amo (e d a b z o) : Statement (.amo e d a b z o) :=
  of_scalar rfl rfl (by omega) (by simp only [encSR, bitNat]; split <;> omega)
theorem cas (e d a b z) : Statement (.cas e d a b z) :=
  of_scalar rfl rfl (by omega) (by simp only [encSR, bitNat]; split <;> omega)
theorem amoBins (e d a b n) : Statement (.amoBins e d a b n) :=
  of_scalar rfl rfl (by omega) (by simp only [encSR, bitNat]; split <;> omega)
theorem axadd (e d a b) : Statement (.axadd e d a b) := of_scalar rfl rfl (by omega) (by simp only [encSR]; omega)
theorem axrd (e d a) : Statement (.axrd e d a) := of_scalar rfl rfl (by omega) (by simp only [encSR]; omega)
theorem axclr (e d a) : Statement (.axclr e d a) := of_scalar rfl rfl (by omega) (by simp only [encSR]; omega)
theorem fence (e g cx) : Statement (.fence e g cx) :=
  of_scalar rfl rfl (by omega) (by simp only [encSU, bitNat]; split <;> omega)
theorem tlwait (e d a cx c) : Statement (.tlwait e d a cx c) :=
  of_scalar rfl rfl (by omega) (by simp only [encSI]; omega)
theorem tlget (e d v c) : Statement (.tlget e d v c) :=
  of_scalar rfl rfl (by omega) (by simp only [encSI, bitNat]; split <;> omega)
theorem monitor (e a) : Statement (.monitor e a) := of_scalar rfl rfl (by omega) (by simp only [encSR]; omega)
theorem mwait (e d a) : Statement (.mwait e d a) := of_scalar rfl rfl (by omega) (by simp only [encSR]; omega)
theorem bar (e d ix cx) : Statement (.bar e d ix cx) := of_scalar rfl rfl (by omega) (by simp only [encSU]; omega)
theorem xcopyLin (e d a) : Statement (.xcopyLin e d a) := of_scalar rfl rfl (by omega) (by simp only [encSR]; omega)
theorem xcopyNest (e d a) : Statement (.xcopyNest e d a) :=
  of_scalar rfl rfl (by omega) (by simp only [encSR]; omega)
theorem xcopyMap (e d a) : Statement (.xcopyMap e d a) := of_scalar rfl rfl (by omega) (by simp only [encSR]; omega)
theorem xcopyUnmap (e d a) : Statement (.xcopyUnmap e d a) :=
  of_scalar rfl rfl (by omega) (by simp only [encSR]; omega)
theorem xcopyWb (e d a) : Statement (.xcopyWb e d a) := of_scalar rfl rfl (by omega) (by simp only [encSR]; omega)
theorem xcopyHLin (e d a) : Statement (.xcopyHLin e d a) :=
  of_scalar rfl rfl (by omega) (by simp only [encSR]; omega)
theorem xcopyHNest (e d a) : Statement (.xcopyHNest e d a) :=
  of_scalar rfl rfl (by omega) (by simp only [encSR]; omega)
theorem put (e d a) : Statement (.put e d a) := of_scalar rfl rfl (by omega) (by simp only [encSR]; omega)
theorem famo (e d a b z o) : Statement (.famo e d a b z o) :=
  of_scalar rfl rfl (by omega) (by simp only [encSR, bitNat]; split <;> omega)
theorem req (e d a) : Statement (.req e d a) := of_scalar rfl rfl (by omega) (by simp only [encSR]; omega)
theorem hopen (e d n) : Statement (.hopen e d n) :=
  of_scalar rfl rfl (by omega) (by simp only [encSU, bitNat]; split <;> omega)
theorem hset (e d a) : Statement (.hset e d a) := of_scalar rfl rfl (by omega) (by simp only [encSR]; omega)
theorem hget (e d cx) : Statement (.hget e d cx) := of_scalar rfl rfl (by omega) (by simp only [encSU]; omega)
theorem hstat (e d a) : Statement (.hstat e d a) := of_scalar rfl rfl (by omega) (by simp only [encSR]; omega)
theorem hvec (e d a p) : Statement (.hvec e d a p) := of_scalar rfl rfl (by omega) (by simp only [encSR]; omega)
theorem hresCf (e d a) : Statement (.hresCf e d a) := of_scalar rfl rfl (by omega) (by simp only [encSR]; omega)
theorem hresRf (e d a) : Statement (.hresRf e d a) := of_scalar rfl rfl (by omega) (by simp only [encSR]; omega)
theorem spawn (e d a b c) : Statement (.spawn e d a b c) :=
  of_scalar rfl rfl (by omega) (by simp only [encSR]; omega)
theorem launch (e d a) : Statement (.launch e d a) := of_scalar rfl rfl (by omega) (by simp only [encSR]; omega)
theorem ttask (e d a) : Statement (.ttask e d a) := of_scalar rfl rfl (by omega) (by simp only [encSR]; omega)
theorem sqpush (e d a n q) : Statement (.sqpush e d a n q) :=
  of_scalar rfl rfl (by omega) (by simp only [encSR, bitNat]; split <;> omega)
theorem sqpop (e d a n q) : Statement (.sqpop e d a n q) :=
  of_scalar rfl rfl (by omega) (by simp only [encSR, bitNat]; split <;> omega)
theorem lset (e a cx l) : Statement (.lset e a cx l) := of_scalar rfl rfl (by omega) (by simp only [encSI]; omega)
theorem ago (e d m g) : Statement (.ago e d m g) :=
  of_scalar rfl rfl (by omega) (by simp only [encSU, bitNat]; split <;> omega)
theorem oclaim (e d a q) : Statement (.oclaim e d a q) := of_scalar rfl rfl (by omega) (by simp only [encSR]; omega)
theorem orelease (e q) : Statement (.orelease e q) := of_scalar rfl rfl (by omega) (by simp only [encSR]; omega)
theorem admitRq (e d a) : Statement (.admitRq e d a) := of_scalar rfl rfl (by omega) (by simp only [encSR]; omega)
theorem apin (e d a) : Statement (.apin e d a) := of_scalar rfl rfl (by omega) (by simp only [encSR]; omega)
theorem aunpin (e d a) : Statement (.aunpin e d a) := of_scalar rfl rfl (by omega) (by simp only [encSR]; omega)
theorem apage (e d a b) : Statement (.apage e d a b) := of_scalar rfl rfl (by omega) (by simp only [encSR]; omega)
theorem apub (e d a b) : Statement (.apub e d a b) := of_scalar rfl rfl (by omega) (by simp only [encSR]; omega)
theorem ctxsv (d a b) : Statement (.ctxsv d a b) := of_scalar rfl rfl (by omega) (by simp only [encSR]; omega)
theorem ctxrs (d a) : Statement (.ctxrs d a) := of_scalar rfl rfl (by omega) (by simp only [encSR]; omega)
theorem snap (e d t) : Statement (.snap e d t) := of_scalar rfl rfl (by omega) (by simp only [encSU]; omega)
theorem tret (e p cx) : Statement (.tret e p cx) :=
  of_scalar rfl rfl (by omega) (by simp only [encSU, bitNat]; split <;> (try split) <;> omega)
theorem nop (e ops) : Statement (.nop e ops) := of_scalar rfl rfl (by omega) (by omega)
theorem hintp (e ops) : Statement (.hintp e ops) := of_scalar rfl rfl (by omega) (by omega)
theorem hintb (e ops) : Statement (.hintb e ops) := of_scalar rfl rfl (by omega) (by omega)
theorem hintx (e ops) : Statement (.hintx e ops) := of_scalar rfl rfl (by omega) (by omega)
theorem vadd (w) : Statement (.vadd w) := of_vector rfl rfl rfl (by omega)
theorem vsub (w) : Statement (.vsub w) := of_vector rfl rfl rfl (by omega)
theorem vmul (w) : Statement (.vmul w) := of_vector rfl rfl rfl (by omega)
theorem vfma (w) : Statement (.vfma w) := of_vector rfl rfl rfl (by omega)
theorem vfms (w) : Statement (.vfms w) := of_vector rfl rfl rfl (by omega)
theorem vmin (w) : Statement (.vmin w) := of_vector rfl rfl rfl (by omega)
theorem vmax (w) : Statement (.vmax w) := of_vector rfl rfl rfl (by omega)
theorem vabs (w) : Statement (.vabs w) := of_vector rfl rfl rfl (by omega)
theorem vneg (w) : Statement (.vneg w) := of_vector rfl rfl rfl (by omega)
theorem vmov (w) : Statement (.vmov w) := of_vector rfl rfl rfl (by omega)
theorem vdiv (w) : Statement (.vdiv w) := of_vector rfl rfl rfl (by omega)
theorem vmulh (w) : Statement (.vmulh w) := of_vector rfl rfl rfl (by omega)
theorem vminu (w) : Statement (.vminu w) := of_vector rfl rfl rfl (by omega)
theorem vmaxu (w) : Statement (.vmaxu w) := of_vector rfl rfl rfl (by omega)
theorem vand (w) : Statement (.vand w) := of_vector rfl rfl rfl (by omega)
theorem vor (w) : Statement (.vor w) := of_vector rfl rfl rfl (by omega)
theorem vxor (w) : Statement (.vxor w) := of_vector rfl rfl rfl (by omega)
theorem vandn (w) : Statement (.vandn w) := of_vector rfl rfl rfl (by omega)
theorem vnot (w) : Statement (.vnot w) := of_vector rfl rfl rfl (by omega)
theorem vshl (w) : Statement (.vshl w) := of_vector rfl rfl rfl (by omega)
theorem vshr (w) : Statement (.vshr w) := of_vector rfl rfl rfl (by omega)
theorem vsra (w) : Statement (.vsra w) := of_vector rfl rfl rfl (by omega)
theorem vaddi (w) : Statement (.vaddi w) := of_vector rfl rfl rfl (by omega)
theorem vmuli (w) : Statement (.vmuli w) := of_vector rfl rfl rfl (by omega)
theorem vmini (w) : Statement (.vmini w) := of_vector rfl rfl rfl (by omega)
theorem vmaxi (w) : Statement (.vmaxi w) := of_vector rfl rfl rfl (by omega)
theorem vshli (w) : Statement (.vshli w) := of_vector rfl rfl rfl (by omega)
theorem vshri (w) : Statement (.vshri w) := of_vector rfl rfl rfl (by omega)
theorem vsrai (w) : Statement (.vsrai w) := of_vector rfl rfl rfl (by omega)
theorem vmovi (w) : Statement (.vmovi w) := of_vector rfl rfl rfl (by omega)
theorem vcmpEq (w) : Statement (.vcmpEq w) := of_vector rfl rfl rfl (by omega)
theorem vcmpNe (w) : Statement (.vcmpNe w) := of_vector rfl rfl rfl (by omega)
theorem vcmpLt (w) : Statement (.vcmpLt w) := of_vector rfl rfl rfl (by omega)
theorem vcmpLe (w) : Statement (.vcmpLe w) := of_vector rfl rfl rfl (by omega)
theorem vcmpGt (w) : Statement (.vcmpGt w) := of_vector rfl rfl rfl (by omega)
theorem vcmpGe (w) : Statement (.vcmpGe w) := of_vector rfl rfl rfl (by omega)
theorem vcmpUn (w) : Statement (.vcmpUn w) := of_vector rfl rfl rfl (by omega)
theorem vcmpLtu (w) : Statement (.vcmpLtu w) := of_vector rfl rfl rfl (by omega)
theorem vcmpLeu (w) : Statement (.vcmpLeu w) := of_vector rfl rfl rfl (by omega)
theorem vkcmpEq (w) : Statement (.vkcmpEq w) := of_vector rfl rfl rfl (by omega)
theorem vkcmpNe (w) : Statement (.vkcmpNe w) := of_vector rfl rfl rfl (by omega)
theorem vkcmpLt (w) : Statement (.vkcmpLt w) := of_vector rfl rfl rfl (by omega)
theorem vkcmpLe (w) : Statement (.vkcmpLe w) := of_vector rfl rfl rfl (by omega)
theorem vkcmpGt (w) : Statement (.vkcmpGt w) := of_vector rfl rfl rfl (by omega)
theorem vkcmpGe (w) : Statement (.vkcmpGe w) := of_vector rfl rfl rfl (by omega)
theorem vkcmpUn (w) : Statement (.vkcmpUn w) := of_vector rfl rfl rfl (by omega)
theorem kand (w) : Statement (.kand w) := of_vector rfl rfl rfl (by omega)
theorem kor (w) : Statement (.kor w) := of_vector rfl rfl rfl (by omega)
theorem kxor (w) : Statement (.kxor w) := of_vector rfl rfl rfl (by omega)
theorem kandn (w) : Statement (.kandn w) := of_vector rfl rfl rfl (by omega)
theorem knot (w) : Statement (.knot w) := of_vector rfl rfl rfl (by omega)
theorem kmov (w) : Statement (.kmov w) := of_vector rfl rfl rfl (by omega)
theorem vselk (k w) : Statement (.vselk k w) := of_vector rfl rfl rfl (by omega)
theorem vcvt (w) : Statement (.vcvt w) := of_vector rfl rfl rfl (by omega)
theorem vpack4 (w) : Statement (.vpack4 w) := of_vector rfl rfl rfl (by omega)
theorem vunpk4 (w) : Statement (.vunpk4 w) := of_vector rfl rfl rfl (by omega)
theorem vrotr (w) : Statement (.vrotr w) := of_vector rfl rfl rfl (by omega)
theorem vrotc (w) : Statement (.vrotc w) := of_vector rfl rfl rfl (by omega)
theorem vbcr (w) : Statement (.vbcr w) := of_vector rfl rfl rfl (by omega)
theorem vbcc (w) : Statement (.vbcc w) := of_vector rfl rfl rfl (by omega)
theorem vredrAdd (w) : Statement (.vredrAdd w) := of_vector rfl rfl rfl (by omega)
theorem vredrMax (w) : Statement (.vredrMax w) := of_vector rfl rfl rfl (by omega)
theorem vredrMin (w) : Statement (.vredrMin w) := of_vector rfl rfl rfl (by omega)
theorem vredcAdd (w) : Statement (.vredcAdd w) := of_vector rfl rfl rfl (by omega)
theorem vredcMax (w) : Statement (.vredcMax w) := of_vector rfl rfl rfl (by omega)
theorem vredcMin (w) : Statement (.vredcMin w) := of_vector rfl rfl rfl (by omega)
theorem vxpose (w) : Statement (.vxpose w) := of_vector rfl rfl rfl (by omega)
theorem vshuf (w) : Statement (.vshuf w) := of_vector rfl rfl rfl (by omega)
theorem vexp2 (w) : Statement (.vexp2 w) := of_vector rfl rfl rfl (by omega)
theorem vlog2 (w) : Statement (.vlog2 w) := of_vector rfl rfl rfl (by omega)
theorem vrcp (w) : Statement (.vrcp w) := of_vector rfl rfl rfl (by omega)
theorem vrsq (w) : Statement (.vrsq w) := of_vector rfl rfl rfl (by omega)
theorem vsqrt (w) : Statement (.vsqrt w) := of_vector rfl rfl rfl (by omega)
theorem vsin (w) : Statement (.vsin w) := of_vector rfl rfl rfl (by omega)
theorem vcos (w) : Statement (.vcos w) := of_vector rfl rfl rfl (by omega)
theorem vtanh (w) : Statement (.vtanh w) := of_vector rfl rfl rfl (by omega)
theorem vsigm (w) : Statement (.vsigm w) := of_vector rfl rfl rfl (by omega)
theorem vgelu (w) : Statement (.vgelu w) := of_vector rfl rfl rfl (by omega)
theorem vsilu (w) : Statement (.vsilu w) := of_vector rfl rfl rfl (by omega)
theorem qadv (w c) : Statement (.qadv w c) := of_vector rfl rfl rfl (by omega)
theorem qclr (w) : Statement (.qclr w) := of_vector rfl rfl rfl (by omega)
theorem qflush (w) : Statement (.qflush w) := of_vector rfl rfl rfl (by omega)
theorem tmma (w) : Statement (.tmma w) := of_tile rfl rfl rfl rfl (by omega)
theorem tmmas (w) : Statement (.tmmas w) := of_tile rfl rfl rfl rfl (by omega)
theorem tzero (w) : Statement (.tzero w) := of_tile rfl rfl rfl rfl (by omega)
theorem tacc (w) : Statement (.tacc w) := of_tile rfl rfl rfl rfl (by omega)
theorem tepi (w) : Statement (.tepi w) := of_tile rfl rfl rfl rfl (by omega)
theorem tbind (w) : Statement (.tbind w) := of_tile rfl rfl rfl rfl (by omega)
theorem txpose (w) : Statement (.txpose w) := of_tile rfl rfl rfl rfl (by omega)
theorem tsmld (w) : Statement (.tsmld w) := of_tile rfl rfl rfl rfl (by omega)
theorem tstage (w) : Statement (.tstage w) := of_tile rfl rfl rfl rfl (by omega)
theorem tqred (w) : Statement (.tqred w) := of_tile rfl rfl rfl rfl (by omega)
theorem tresume (task) : Statement (.tresume task) := of_event rfl rfl
theorem aend (cl eng) : Statement (.aend cl eng) := rfl
theorem agen (cl eng f) : Statement (.agen cl eng f) := rfl
theorem aloop (cl eng f) : Statement (.aloop cl eng f) := rfl
theorem astep (cl eng a b) : Statement (.astep cl eng a b) := rfl
theorem awaitCmd (cl eng c r) : Statement (.awaitCmd cl eng c r) := rfl
theorem aaeBlock (cl eng) : Statement (.aaeBlock cl eng) := of_event rfl rfl
theorem syncedBundleIssue (core lid serial) : Statement (.syncedBundleIssue core lid serial) := of_event rfl rfl
theorem loopPassEnd (ctx) : Statement (.loopPassEnd ctx) := of_event rfl rfl
theorem kStep (ctx num) : Statement (.kStep ctx num) := of_event rfl rfl
theorem tstageSlot (ctx num) : Statement (.tstageSlot ctx num) := of_event rfl rfl
theorem copyLine (ctx num) : Statement (.copyLine ctx num) := of_event rfl rfl
theorem mapFill (ctx region granule) : Statement (.mapFill ctx region granule) := of_event rfl rfl
theorem waitSatisfied (ctx) : Statement (.waitSatisfied ctx) := of_event rfl rfl
theorem waitTimeout (ctx) : Statement (.waitTimeout ctx) := of_event rfl rfl
theorem hypcapTimeout (ctx) : Statement (.hypcapTimeout ctx) := of_event rfl rfl
theorem orphan (ctx) : Statement (.orphan ctx) := of_event rfl rfl
theorem ckpt (ctx) : Statement (.ckpt ctx) := of_event rfl rfl
theorem deadlineExpiry (ctx) : Statement (.deadlineExpiry ctx) := of_event rfl rfl
theorem imageWritten (ctx) : Statement (.imageWritten ctx) := of_event rfl rfl
theorem schedulerPass (die) : Statement (.schedulerPass die) := of_event rfl rfl
theorem handlerWake (cl) : Statement (.handlerWake cl) := of_event rfl rfl
theorem fabricArrival (p) : Statement (.fabricArrival p) := of_event rfl rfl
theorem fabricAck (a) : Statement (.fabricAck a) := of_event rfl rfl
theorem gatewaySlotGrant (ctx num) : Statement (.gatewaySlotGrant ctx num) := of_event rfl rfl
theorem linkReplay (link) : Statement (.linkReplay link) := of_event rfl rfl
theorem portRequestPass (core tenant) : Statement (.portRequestPass core tenant) := of_event rfl rfl
theorem tokenRefill : Statement (.tokenRefill) := of_event rfl rfl
theorem signatureRotation : Statement (.signatureRotation) := of_event rfl rfl
theorem taskSelect (u) : Statement (.taskSelect u) := of_event rfl rfl
theorem childComplete (task child) : Statement (.childComplete task child) := of_event rfl rfl
theorem childFault (task child) : Statement (.childFault task child) := of_event rfl rfl
theorem herbariumFill (die k) : Statement (.herbariumFill die k) := of_event rfl rfl
theorem catalogueRecordArrival (r) : Statement (.catalogueRecordArrival r) := of_event rfl rfl
theorem resolveApply (part) : Statement (.resolveApply part) := of_event rfl rfl
theorem sweep (part node) : Statement (.sweep part node) := of_event rfl rfl
theorem vitrineFrameBegin (core) : Statement (.vitrineFrameBegin core) := of_event rfl rfl
theorem vitrineGrace (core) : Statement (.vitrineGrace core) := of_event rfl rfl
theorem vitrineEdge (core) : Statement (.vitrineEdge core) := of_event rfl rfl
theorem scrubStart (frame) : Statement (.scrubStart frame) := of_event rfl rfl
theorem scrubComplete (frame) : Statement (.scrubComplete frame) := of_event rfl rfl
theorem frameReleaseComplete (frame) : Statement (.frameReleaseComplete frame) := of_event rfl rfl
theorem keySlotProgram (slot kind tenant key) : Statement (.keySlotProgram slot kind tenant key) := of_event rfl rfl
theorem keyRetire (slot pos) : Statement (.keyRetire slot pos) := of_event rfl rfl
theorem peerLost (peer r) : Statement (.peerLost peer r) := of_event rfl rfl
theorem packageFailure (link) : Statement (.packageFailure link) := of_event rfl rfl
theorem annexLinkDown (port) : Statement (.annexLinkDown port) := of_event rfl rfl
theorem vfFlr (vf) : Statement (.vfFlr vf) := of_event rfl rfl
theorem coldReset : Statement (.coldReset) := of_event rfl rfl
theorem packageReset : Statement (.packageReset) := of_event rfl rfl
theorem bringUpComplete : Statement (.bringUpComplete) := of_event rfl rfl
theorem powerThrottle (core) : Statement (.powerThrottle core) := of_event rfl rfl
theorem softError (loc fixable) : Statement (.softError loc fixable) := of_event rfl rfl
theorem cqtailDoorbell (fn v) : Statement (.cqtailDoorbell fn v) := of_event rfl rfl
theorem registerWrite (fn off v) : Statement (.registerWrite fn off v) := of_event rfl rfl
theorem part (c p rec save ring entries) : Statement (.part c p rec save ring entries) := of_event rfl rfl
theorem tenant (c rec) : Statement (.tenant c rec) := of_event rfl rfl
theorem assign (c pa p owner) : Statement (.assign c pa p owner) := of_event rfl rfl
theorem release (c pa p owner) : Statement (.release c pa p owner) := of_event rfl rfl
theorem catnew (c rec) : Statement (.catnew c rec) := of_event rfl rfl
theorem catdel (c p handle) : Statement (.catdel c p handle) := of_event rfl rfl
theorem pool (c p list count) : Statement (.pool c p list count) := of_event rfl rfl
theorem launchCommand (c p rec) : Statement (.launchCommand c p rec) := of_event rfl rfl
theorem qput (c lid q addr) : Statement (.qput c lid q addr) := of_event rfl rfl
theorem qclose (c lid q) : Statement (.qclose c lid q) := of_event rfl rfl
theorem qget (c lid q addr) : Statement (.qget c lid q addr) := of_event rfl rfl
theorem quiesce (c p) : Statement (.quiesce c p) := of_event rfl rfl
theorem resumeCmd (c p) : Statement (.resumeCmd c p) := of_event rfl rfl
theorem vitrine (c core table) : Statement (.vitrine c core table) := of_event rfl rfl
theorem region (c die home herb stage queue) : Statement (.region c die home herb stage queue) := of_event rfl rfl
theorem resetCmd (c) : Statement (.resetCmd c) := of_event rfl rfl
theorem placeTableReload (part die) : Statement (.placeTableReload part die) := of_event rfl rfl
theorem placeDisable (k n) : Statement (.placeDisable k n) := of_event rfl rfl
theorem supervisorResume (ctx) : Statement (.supervisorResume ctx) := of_event rfl rfl
theorem supervisorDiscard (ctx) : Statement (.supervisorDiscard ctx) := of_event rfl rfl
theorem imageDiscard (ctx restart) : Statement (.imageDiscard ctx restart) := of_event rfl rfl
theorem reportAppend (part) : Statement (.reportAppend part) := of_event rfl rfl
theorem snapshotArm (mask src) : Statement (.snapshotArm mask src) := of_event rfl rfl
theorem snapshotFire : Statement (.snapshotFire) := of_event rfl rfl
theorem snapshotLatch : Statement (.snapshotLatch) := of_event rfl rfl
theorem replayDelivery (r) : Statement (.replayDelivery r) := of_event rfl rfl
theorem debugSession (tenant cert) : Statement (.debugSession tenant cert) := of_event rfl rfl
theorem debugStateAccess (ctx reg wr) : Statement (.debugStateAccess ctx reg wr) := of_event rfl rfl
theorem debugArm (ctx c) : Statement (.debugArm ctx c) := of_event rfl rfl
theorem getMeasurements (requester) : Statement (.getMeasurements requester) := of_event rfl rfl
theorem firmwareUpdateStage (f) : Statement (.firmwareUpdateStage f) := of_event rfl rfl
theorem updateAck (tenant) : Statement (.updateAck tenant) := of_event rfl rfl
theorem updateWithdraw : Statement (.updateWithdraw) := of_event rfl rfl
theorem usageLogSignRequest (tenant) : Statement (.usageLogSignRequest tenant) := of_event rfl rfl
theorem usageLogSignPeriodic (tenant) : Statement (.usageLogSignPeriodic tenant) := of_event rfl rfl
theorem imageRequeue (ctx) : Statement (.imageRequeue ctx) := of_event rfl rfl
theorem annexLinkRetrained (port) : Statement (.annexLinkRetrained port) := of_event rfl rfl
theorem delvelPortFailure (port) : Statement (.delvelPortFailure port) := of_event rfl rfl
theorem tenantCertificateEnrol (tenant cert) : Statement (.tenantCertificateEnrol tenant cert) := of_event rfl rfl

end Sys2Proof.Laws.WordUnits
end

