-- ==== Sys2Proof/Tests/Slice0.lean ====
section
/-! SUPPORT. The tests: the checks of WellFormed, instruction words written out from the encoding tables and decoded, one
step or one word on small states, and for every statement states and operands that meet its hypotheses. -/

open Sys2Proof Sys2Proof.Machine
namespace Sys2Proof.Tests
-- Each test is checked before the next one is read: many kernel evaluations at once do not fit in memory.
set_option Elab.async false

-- WellFormed: for each check, terms that it refuses.

def noGuard : Guard := { gk := false, reg := 0, bit := 0, neg := false }
def head5 : VHead := { e := true, s := false, guard := noGuard, ty := 5, rnd := 0 }
def head2 : VHead := { head5 with ty := 2 }
/-- A row guard whose bit is above 48 (R34). -/
def headG : VHead := { head5 with guard := { noGuard with gk := true, bit := 49 } }
def v1 : Desc := .vreg 1 0 0 0
def three (h : VHead) (d a b : Desc) : V3 := { h := h, sat := false, d := d, a := a, b := b }
def two (h : VHead) (d a : Desc) : V2 := { h := h, sat := false, d := d, a := a }
def withImm (h : VHead) (i : BitVec 21) : VI := { h := h, sat := false, d := v1, a := v1, imm := i }
/-- The word of `tmma` at core level over rings q1 and q2, 64 by 64 by 64. -/
def tile : TileW :=
  { e := true, s := false, guard := noGuard, level := 1, place := 0xFFF, acc := 0, aRing := 1, bRing := 2, group := 0, side := false,
    sparse := false, out := 0, n := 64, m := 64, hold := 0, fmode := 0, floop := 0, fbase := 0, k := 64, rnd := 0, ovf := false,
    sat := false, scl := 0, slot := 0, epi := 0, btab := 0, w5 := 0 }
def bare : TileW := { tile with aRing := 0, bRing := 0, k := 0 }

theorem test_wf_scalar :
    wellFormed (.bfxu true 1 2 31 33) = false ∧ wellFormed (.bfins true 1 2 0 63) = true ∧ wellFormed (.xrd true 1 6) = false ∧
    wellFormed (.xwr true 1 128) = false ∧ wellFormed (.cmpeq true 0 0 1 2) = false ∧ wellFormed (.fcmpun true 0 0 1 2) = false ∧
    wellFormed (.fcvt true 1 2 false 10 0) = false ∧ wellFormed (.fcvt true 1 2 false 0 10) = false ∧
    wellFormed (.ldx true 1 2 3 3 false 0) = false ∧ wellFormed (.ldx true 1 2 3 0 true 3) = false ∧
    wellFormed (.stx true 1 2 3 3 0) = false ∧ wellFormed (.lda true 1 2 0 7) = false ∧ wellFormed (.amo true 1 2 3 false 9) = false ∧
    wellFormed (.fence true false 7) = false ∧ wellFormed (.bar true 1 0 6) = false ∧ wellFormed (.hget true 1 3) = false ∧
    wellFormed (.hvec true 1 2 5) = false ∧ wellFormed (.lset true 1 5 0) = false ∧ wellFormed (.ago true 1 false 3) = false ∧
    wellFormed (.ago true 1 true 0) = false := by decide
theorem test_wf_vector :
    wellFormed (.vadd (three headG v1 v1 v1)) = false ∧ wellFormed (.vadd (three head5 (.vreg 1 5 0 0) v1 v1)) = false ∧
    wellFormed (.vadd (three head2 v1 (.vreg 1 0 0 1) v1)) = false ∧ wellFormed (.vadd (three head5 (.sreg 1) v1 v1)) = false ∧
    wellFormed (.vadd (three head5 v1 v1 (.imm 0x3C00))) = true ∧ wellFormed (.vadd (three { head5 with ty := 3 } v1 v1 (.imm 256))) = false ∧
    wellFormed (.vfma (three head5 (.queue 2) v1 v1)) = false ∧ wellFormed (.vfma (three head2 v1 v1 v1)) = false ∧
    wellFormed (.vand (three head5 v1 v1 v1)) = false ∧ wellFormed (.vmov { two head5 v1 v1 with sat := true }) = false ∧
    wellFormed (.vaddi (withImm head5 65536)) = false ∧ wellFormed (.vshli (withImm head2 64)) = false ∧
    wellFormed (.vrotr (withImm head5 128)) = false ∧ wellFormed (.vrotc (withImm head5 16)) = false ∧
    wellFormed (.vbcr (withImm head5 64)) = false ∧ wellFormed (.vcvt (withImm head5 0x2000)) = false ∧
    wellFormed (.vcvt (withImm head5 0x1D)) = false ∧ wellFormed (.vcvt (withImm head5 0x25)) = false ∧
    wellFormed (.vcmpLt { h := head5, regA := 1, bitA := 49, regB := 1, bitB := 0, a := v1, b := v1 }) = false ∧
    wellFormed (.vcmpLt { h := { head5 with rnd := 3 }, regA := 1, bitA := 0, regB := 1, bitB := 1, a := v1, b := v1 }) = false ∧
    wellFormed (.vcmpLtu { h := head5, regA := 1, bitA := 0, regB := 1, bitB := 0, a := v1, b := v1 }) = false ∧
    wellFormed (.vkcmpUn { h := head2, k := 1, a := v1, b := v1 }) = false ∧ wellFormed (.kand { h := headG, d := 1, a := 1, b := 1 }) = false ∧
    wellFormed (.qadv { h := headG, q := 0 } (.imm 1)) = false ∧ wellFormed (.qadv { h := head5, q := 0 } v1) = false := by decide
theorem test_wf_matrix :
    wellFormed (.tmma tile) = true ∧ wellFormed (.tmma { tile with guard := { noGuard with gk := true } }) = false ∧
    wellFormed (.tmma { tile with acc := 4 }) = false ∧ wellFormed (.tmma { tile with fmode := 2 }) = false ∧
    wellFormed (.tmma { tile with floop := 1 }) = false ∧ wellFormed (.tmma { tile with rnd := 6 }) = false ∧
    wellFormed (.tmma { tile with place := 4 }) = false ∧ wellFormed (.tmma { tile with level := 3 }) = false ∧
    wellFormed (.tmma { tile with m := 129 }) = false ∧ wellFormed (.tmma { tile with n := 0 }) = false ∧
    wellFormed (.tmma { tile with k := 0 }) = false ∧ wellFormed (.tmma { tile with sparse := true }) = false ∧
    wellFormed (.tmma { tile with btab := 1 }) = false ∧ wellFormed (.tmma { tile with side := true, btab := 65 }) = false ∧
    wellFormed (.tmmas { tile with sparse := true, k := 66 }) = false ∧ wellFormed (.tzero { bare with k := 1 }) = false ∧
    wellFormed (.tacc { bare with w5 := 2 }) = false ∧ wellFormed (.tepi { bare with epi := 6 }) = false ∧
    wellFormed (.tepi { bare with side := true }) = false ∧ wellFormed (.tbind { bare with n := 0, btab := 65 }) = false ∧
    wellFormed (.txpose { bare with level := 2 }) = false ∧ wellFormed (.tsmld { bare with n := 0, m := 12 }) = false ∧
    wellFormed (.tstage { bare with k := 257 }) = false ∧ wellFormed (.tstage { bare with k := 1, w5 := 65 * 2 ^ 14 }) = false ∧
    wellFormed (.tqred { bare with place := 0, level := 2 }) = false := by decide
theorem test_wf_engines_and_events :
    wellFormed (.aloop 0 0 { dims := 6, l := 0, s := 0, lead := 0, trail := 0, link := false, blocks := 0 }) = false ∧
    wellFormed (.aloop 0 0 { dims := 0, l := 15, s := 0, lead := 0, trail := 0, link := false, blocks := 0 }) = false ∧
    wellFormed (.aloop 0 0 { dims := 0, l := 14, s := 15, lead := 0, trail := 0, link := false, blocks := 0 }) = true ∧
    wellFormed (.aend 512 0) = false ∧ wellFormed (.aend 0 3) = false ∧ wellFormed (.syncedBundleIssue 128 0 0) = false ∧
    wellFormed (.loopPassEnd 4096) = false ∧ wellFormed (.mapFill 0 16 0) = false ∧ wellFormed (.schedulerPass 4) = false ∧
    wellFormed (.linkReplay 22) = false ∧ wellFormed (.portRequestPass 0 4096) = false ∧ wellFormed (.sweep 0 1024) = false ∧
    wellFormed (.resolveApply 16) = false ∧ wellFormed (.scrubStart (2 ^ 36)) = false ∧ wellFormed (.keySlotProgram 8192 1 0 0) = false ∧
    wellFormed (.keySlotProgram 0 4 0 0) = false ∧ wellFormed (.keyRetire 0 2) = false ∧ wellFormed (.packageFailure 6) = false ∧
    wellFormed (.vfFlr 64) = false ∧ wellFormed (.cqtailDoorbell 66 0) = false ∧ wellFormed (.delvelPortFailure 16) = false := by decide

-- Decoding: words of the spec, and words laid out by hand from its tables.

/-- Words that R22's chapter, R82, R96, R138, R232, R234, R241, R248, R272, R277, R312, R331, R341 and R354 print. -/
theorem test_decode_printed_scalar_words :
    decode [0x72120800] = .ok (.sqpop true 9 1 false 0) ∧ decode [0x72804830] = .ok (.lset true 9 0 3) ∧
    decode [0x73180000] = .ok (.ago true 12 false 0) ∧ decode [0x44080123] = .ok (.movi true 4 0x123) ∧
    decode [0x59920808] = .ok (.ld64 true 9 1 8) ∧ decode [0x5E94281C] = .ok (.lda true 10 5 3 4) ∧
    decode [0x5F10281C] = .ok (.stl true 8 5 3 4) ∧ decode [0x638E3024] = .ok (.tlwait true 7 6 4 4) ∧
    decode [0x660C2000] = .ok (.xcopyLin true 6 4) ∧ decode [0x6C0A0001] = .ok (.hopen true 5 true) ∧
    decode [0x6E8E3000] = .ok (.hresCf true 7 6) ∧ decode [0x748A3000] = .ok (.admitRq true 5 6) ∧
    decode [0x768E2120] = .ok (.apub true 7 4 9) ∧ decode [0x78800000] = .ok (.tret true false false) ∧
    decode [0x78800001] = .ok (.tret true false true) ∧ decode [0x78800002] = .ok (.tret true true false) ∧
    decode [0x770A30E0] = .ok (.ctxsv 5 6 7) ∧ decode [0x778A3000] = .ok (.ctxrs 5 6) ∧
    decode [0x780A002A] = .ok (.snap true 5 0x2A) ∧ decode [0x00820801] = .ok (.addi false 1 1 1) := by decide
/-- The VMAX, VCMP, VMOV and VMOVI words that the spec prints. -/
theorem test_decode_printed_vector_words :
    decode [0xA0305334, 0x00004000, 0x4080000C] =
      .ok (.vmax (three { head5 with guard := { gk := false, reg := 5, bit := 12, neg := true } } (.vreg 2 0 0 0) (.vreg 3 0 0 0) (.queue 1))) ∧
    decode [0xA2100015, 0x00050050, 0x02000410] =
      .ok (.vcmpLt { h := { head5 with rnd := 1 }, regA := 10, bitA := 0, regB := 10, bitB := 0, a := .vreg 4 0 0 0, b := .vreg 4 0 0 1 }) ∧
    decode [0xA0487034, 0x0000A000, 0x00000200] =
      .ok (.vmov (two { head5 with guard := { gk := false, reg := 7, bit := 0, neg := true } } (.vreg 5 0 0 0) (.queue 0))) ∧
    decode [0xA0FCD434, 0x0000E000, 0x01F80000] =
      .ok (.vmovi { h := { head5 with guard := { gk := true, reg := 13, bit := 16, neg := true } }, d := .vreg 7 0 0 0, imm := 0x7E00 }) := by
  decide
/-- The TMMA and TEPI words that the spec prints (R129's and R192's chapters), and hint words, whose bits are never checked. -/
theorem test_decode_printed_matrix_words :
    decode [0xE0000008, 0xFFF01200, 0x00800080, 0x00030100, 0x00180000, 0] =
      .ok (.tmma { tile with n := 128, m := 128, k := 256, fbase := 3, scl := 3 }) ∧
    decode [0xE0000008, 0xFFF01260, 0x00100008, 0x00020010, 0, 0] =
      .ok (.tmma { tile with group := 1, side := true, n := 16, m := 8, k := 16, fbase := 2 }) ∧
    decode [0xE0400008, 0xFFF00064, 0x00100008, 0x00020000, 0x01000000, 0] =
      .ok (.tepi { bare with group := 1, side := true, out := 4, n := 16, m := 8, fbase := 2, ovf := true }) ∧
    decode [0x7E000000] = .ok (.nop true 0) ∧ decode [0x3E123456] = .ok (.nop false 0x123456) := by decide
/-- Engine commands laid out from R92's table: AEND, ASTEP, AWAIT, an ALOOP with D - 1 above 5, a reserved bit. -/
theorem test_decode_engine_commands :
    decodeAae 0 0 0 = some (.aend 0 0) ∧ decodeAae 0 2 0x0C44000000000000 = some (.astep 0 2 1 1) ∧
    decodeAae 0 1 0x1228000000000000 = some (.awaitCmd 0 1 4 5) ∧ decodeAae 0 0 0x0B00000000000000 = none ∧ decodeAae 0 0 1 = none := by
  decide
def refused (ws : List Nat) : Bool := match decode ws with | .ok _ => false | _ => true
/-- Illegal words: an fn that no group lists, an unallocated opcode, sd = 0, stride 0b101, an 8-bit immediate above 255. -/
theorem test_decode_refuses :
    refused [0x40000018] = true ∧ refused [0x4B000000] = true ∧ refused [0x48000083] = true ∧
    refused [0xA000001C, 0x00001400, 0x00000000] = true ∧ refused [] = true ∧ refused [0xA000001C] = true := by decide
-- Small worlds: context 0 alone runs, in partition 0, with one page of memory.

/-- A page of 64 KiB at virtual frame 1, every access granted, MATTR and ORD 0. -/
def page1 : TlbEntry := { part := 0, tenant := 0, vframe := 1, lo := 0x3FF, hi := 0, pa := 0x100000, inPage := 0 }
/-- A context of the highest priority at the start of a bundle. -/
def ctx0 : Ctx := { run := .runnable, pc := 0x10000, xprio := 0x7F7F }
/-- The same below supervisor priority. -/
def low0 : Ctx := { ctx0 with xprio := 0x2020 }
def part0 : PartRec := { valid := true, clshare := 512 }
def world (c : Ctx) : State :=
  { State.reset with
    ready := true, ctxs := [(0, c)], clusters := [(0, { part := some 0 })], parts := [(0, part0)], dies := [(0, { tlb := [page1] })],
    tenants := [(0, { part := 0, world := 0, valid := true, tscope := false, vf := 0, slotmin := 0, bwshare := 1024, hblines := 64, fpages := 8 })] }
def w0 : State := world ctx0
/-- The same, with bytes of memory at the page's start. -/
def withMem (s : State) (off : Nat) (bs : List Byte) : State := { s with mem := memSetCells s.mem (0x100000 + off) bs }
def after (i : Instr) (s : State) : Option State := match exec i s with | .next t => some t | _ => none
def stepped (s : State) : Option State := match step s with | .next t => some t | _ => none
theorem w0_clean : w0.OwnClean := fun _ => ⟨rfl, rfl⟩

-- What words write: expected values from the rules' tables.

/-- R135, R136: a sum wraps; divisions by 0 and of -2^63 by -1; MULHS, ROR, CLZ. -/
theorem test_alu_corners :
    let s := world { ctx0 with s := [(1, 0xFFFFFFFFFFFFFFFF), (2, 2), (3, 0x8000000000000000), (4, 0)] }
    let v := fun i => (after i s).map fun t => rs t 9
    v (.add true 9 1 2) = some 1 ∧ v (.divs true 9 2 4) = some (0xFFFFFFFFFFFFFFFF) ∧ v (.remu true 9 2 4) = some 2 ∧
    v (.divs true 9 3 1) = some 0x8000000000000000 ∧ v (.rems true 9 3 1) = some 0 ∧ v (.mulhs true 9 3 2) = some 0xFFFFFFFFFFFFFFFF ∧
    v (.mulhu true 9 3 2) = some 1 ∧ v (.ror true 9 2 2) = some 0x8000000000000000 ∧ v (.clz true 9 4) = some 64 ∧
    v (.sub true 9 0 1) = some 0 := by decide
/-- R149's example: 500.0 to E4M3 is 448 with .sat and NaN without. -/
theorem test_fcvt_example :
    let s := world { ctx0 with s := [(6, 0x43FA0000)] }
    ((after (.fcvt true 5 6 true 0 3) s).map fun t => rs t 5) = some 0x7E ∧
    ((after (.fcvt true 5 6 false 0 3) s).map fun t => rs t 5) = some 0x7F := by decide
/-- R138's example: one MOVI and three MOVHI. -/
theorem test_movhi_example :
    (((after (.movi true 4 0x0123) w0).bind (after (.movhi true 4 0x4567))).map fun t => rs t 4) = some 0x01234567 := by decide
/-- A step fetches the placed word and runs it: ADD of s1 and s2, both 0 here but s0 all ones. -/
theorem test_step_add :
    ((stepped (w0.withFetchWord 32 0x40060020)).map fun t => (rs t 3, (me t).pc, t.cycle)) = some (0xFFFFFFFFFFFFFFFF, windowBase + 4, 1) := by
  decide

-- Witnesses: states and operands that meet the hypotheses of the statements, clause by clause.

theorem witness_scalar_integer_words :
    srcBad w0 1 = false ∧ srcBad w0 63 = false ∧ srcBad w0 ((31 : BitVec 5).setWidth 6) = false ∧
    (32 : BitVec 6).toNat + (31 : BitVec 5).toNat + 1 ≤ 64 ∧ (63 : BitVec 6).toNat + (0 : BitVec 5).toNat + 1 ≤ 64 := by decide
theorem witness_scalar_floating_words :
    let p := { w0 with poison := [.xreg 0 0x18] }
    isPoison w0 (.xreg 0 0x18) = false ∧ rmCode (me w0) ≠ 4 ∧ isPoison p (.xreg 0 0x18) = true ∧ srcBad p 1 = false ∧ srcBad w0 1 = false ∧ srcBad w0 ((31 : BitVec 5).setWidth 6) = false ∧ (9 : BitVec 4).toNat ≤ 9 ∧ (0 : BitVec 4).toNat ≤ 9 := by decide
/-- A context in the body of an active stream loop of one word. -/
def inLoop : Ctx := { ctx0 with xloop := 0x1000000, bodyAt := 0x10000 }
theorem witness_control_transfers :
    (me w0).jump = none ∧ (me w0).back = [] ∧ inBody (me w0) (me w0).pc = false ∧ srcBad w0 1 = false ∧
    (let b := world { ctx0 with jump := some 0x10040, back := [none] }
     (me b).jump = some 0x10040 ∧ (me b).back = none :: []) ∧
    bundleEnd (withMem w0 4 (leBytes 4 0x7E000000)) 0 3 0x10004 = some 0x10008 ∧
    inBody (me (world inLoop)) (me (world inLoop)).pc = true := by decide
theorem witness_calls_past_unfetchable_words :
    let s := world { ctx0 with pc := 0x1FFFC }
    inBody (me s) (me s).pc = false ∧ srcBad s 1 = false ∧ bundleEnd s s.cur 3 ((me s).pc + 4) = none := by decide
theorem witness_state_registers : w0.OwnClean ∧ isLight w0.cur = false ∧ isSupervisor (me w0) = true ∧ myPart w0 < 16 := ⟨w0_clean, by decide⟩
/-- A light context issues. -/
def light0 : State := { world low0 with cur := 1, ctxs := [(1, low0)] }
theorem witness_xwr_denied :
    light0.OwnClean ∧ isLight light0.cur = true ∧ 0x20 ≤ (0x20 : BitVec 17).toNat ∧ isSupervisor (me light0) = false ∧
    fld (me light0).xprio 8 7 < fld (rs light0 0) 0 7 ∧ tenantIn light0 4095 (myPart light0) = false ∧
    ¬fld (me light0).xprio 8 7 < fld (0x20 : Word) 0 7 :=
  ⟨fun _ => ⟨rfl, rfl⟩, by decide⟩
theorem witness_xtenant_write :
    tenantIn w0 (fld (rs w0 1) 0 12) (myPart w0) = true ∧ frameAt w0 (coreOf w0.cur) = none ∧
    (let s := { w0 with cores := [(0, { vitrine := some [8] })] }
     frameAt s 0 = some (8, 0) ∧ worldOf s 0 = frameWorldOf 8) := by decide
theorem witness_loops_start :
    let s := withMem (world { ctx0 with s := [(1, 0x7000)], l := [(16 * 4 + 14, 3)] }) 4 (leBytes 4 0x7E000000)
    let z := withMem (world { ctx0 with s := [(1, 0x7000)] }) 4 (leBytes 4 0x7E000000)
    (let p := { s with poison := [.loopReg 0 78] }
     isPoison p (.loopReg (clusterOf p.cur) (64 + fld (setBit (rs p 1) 24 true) 11 4 + 2 * 0)) = true) ∧
    isIndex s (me s) 4 15 = false ∧ isIndex (world { ctx0 with xloop := 0x1007000 }) { ctx0 with xloop := 0x1007000 } 4 15 = true ∧
    isLight s.cur = false ∧ (me s).jump = none ∧ loopActive (me s) = false ∧
    fld (setBit (rs s 1) 24 true) 8 3 + 1 ≤ 6 ∧ fld (setBit (rs s 1) 24 true) 11 4 + 2 * (fld (setBit (rs s 1) 24 true) 8 3 + 1) ≤ 16 ∧
    (bodyScan s s.cur 1 0x10004 1 matches .ok) = true ∧ lget (me s) 4 14 ≠ 0 ∧ lget (me z) 4 14 = 0 ∧ bitAt (rs s 1) 24 = false ∧
    bitAt (rs s 0) 24 = true := by decide
theorem witness_engines :
    let e (st : EngState) (g : Option AGenF) : Ctx := { ctx0 with eng := [(0, { st := st, gen := g })], q := [(1, .data 0 []), (2, .ring [0] 0 0 0)],
                                                                  l := [(2, 1)], tc := [(4, { issued := 1, pending := [1] })] }
    let g : AGenF := { q := 1, base := 0, pitch := 1, rows := 0, bytes := 0 }
    isLight w0.cur = false ∧ srcBad w0 1 = false ∧ (engOf (me w0) 0).st = .idle ∧ (engOf (e .halted none) 0).st = .halted ∧
    (engOf (e .running none) 0).st = .running ∧ (engOf (e .waiting (some g)) 0).st = .waiting ∧ (engOf (e .running none) 0).gen = none ∧
    (engOf (e .running (some g)) 0).gen = some g ∧ smGet (e .running none).q 0 = none ∧ smGet (e .running none).q 1 = some (.data 0 []) ∧
    (smGet (e .running none).q 2 matches some (.ring _ _ _ _)) = true ∧
    0 ∈ tripsOf (e .running (some g)) 0 0 1 ∧ 0 ∉ tripsOf (e .running (some g)) 0 2 1 ∧
    (lget (e .running none) 0 0).toNat ≤ tcDone (tcOf (e .running none) 4) ∧
    tcDone (tcOf (e .running none) 4) < (lget (e .running none) 0 2).toNat := by decide
theorem witness_spawn_yield :
    spawnTarget { w0 with ctxs := [(0, ctx0), (1, { run := .runnable })] } 1 = none ∧ spawnTarget { w0 with ctxs := [(0, ctx0), (7, { run := .dormant })] } 7 = some 7 ∧
    bitAt (me w0).xsched 0 = false ∧ bitAt (me (world { ctx0 with xsched := 1 })).xsched 0 = true ∧ isLight light0.cur = true ∧ isLight w0.cur = false := by decide
theorem witness_exit :
    (faultDue (restartTold w0 0) 0 anyNumber [4, 5, 6]).isNone = true ∧ regionsLeft (restartTold w0 0) 0 = [] ∧ exitReady (restartTold w0 0) 0 = true ∧
    (let s := world { ctx0 with tc := [(6, { issued := 1, pending := [1] })] }
     (faultDue (restartTold s 0) 0 anyNumber [4, 5, 6]).isNone = true ∧ regionsLeft (restartTold s 0) 0 = [] ∧ exitReady (restartTold s 0) 0 = false) := by decide
/-- A member of a launch of two: after its EXIT the launch is still there. -/
theorem witness_exit_of_a_member :
    let l : Launch := { part := 0, fn := 0, tenant := 0, fuse := false, hprio := 0, map := 0, save := 0, status := 0, deadline := 0, seed := 0, queues := [],
                        stages := [{ entry := 0, width := 2, prio := 0, min := 1, max := 1, inq := none, outq := none, arg := 0, span := 0 }],
                        insts := [{ stage := 0, serial := 1, st := .running, members := [(0, .bound), (8, .bound)] }] }
    let s := { world { ctx0 with member := some ⟨7, 0, 1, 0⟩ } with launches := [(7, l)] }
    let s2 := release (restartTold s 0) 0 4 none
    exitReady (restartTold s 0) 0 = true ∧ taskLaunch s2 0 = some 7 ∧ smGet s2.launches 7 = some l ∧
    (smGet (endContext 0 (recordCode 0 9 s2)).launches 7).isSome = true := by decide +kernel
theorem witness_tret :
    let held := world { ctx0 with ckptHeld := true, xstat := 0x101, xtrappc := 0x10001 }
    w0.OwnClean ∧ held.OwnClean ∧ (me w0).ckptHeld = false ∧ (me held).ckptHeld = true ∧ fld (me held).xstat 8 56 ≠ 0 ∧
    (fetchUnit held 0 0x10000 matches .unit 0) = true ∧ (framesStuck held 0 0x10004 [{}]).isNone = true ∧ (framesStuck w0 0 0 (me w0).held).isNone = true :=
  ⟨w0_clean, fun _ => ⟨rfl, rfl⟩, by decide⟩

def snapWorld : State := { w0 with snapArmed := some (1, .snap), snapFired := some { cycle := 0, tag := 3, place := 0, mask := 1, src := .snap } }
/-- A launch with one external queue of depth 2. -/
def launch1 : Launch :=
  { part := 0, fn := 0, tenant := 0, fuse := false, hprio := 0, map := 0, save := 0, status := 0, deadline := 0, seed := 0, stages := [],
    queues := [{ depth := 2, esize := 4, die := 0 }], insts := [] }
def replayed : BitVec 256 := inputRecord 1 0 0xFFFF 4 5 [1, 2, 3, 4]
def replayWorld (r : BitVec 256) : State := { w0 with launches := [(7, launch1)], replaying := [(7, [r, 0])] }
theorem witness_docent_snapshot_and_replay :
    (let late := { w0 with snapFired := some { cycle := 0, tag := 3, place := 9, mask := 1, src := .snap } }
     snapReady late .snap (myPart late) = true ∧ late.snapArmed.isNone = true ∧ late.cur < 9) ∧
    snapReady w0 .snap (myPart w0) = false ∧ snapReady snapWorld .snap (myPart snapWorld) = true ∧ (snapWorld.snapFired.map fun f => (f.cycle, f.place)) = some (0, 0) ∧
    smGet (replayWorld replayed).replaying 7 = some (replayed :: [0]) ∧ smGet (replayWorld replayed).launches 7 = some launch1 ∧
    diverges replayed 1 0 0xFFFF [1, 2, 3, 4] = false ∧ diverges replayed 1 0 0xFFFF [1, 2, 3, 5] = true ∧
    (let x : StageQueue := { depth := 2, esize := 4, die := 0, entries := [[], []] }
     x.depth ≤ x.entries.length) ∧
    launch1.queues[0]? = some { depth := 2, esize := 4, die := 0 } ∧ external launch1 0 = true := by decide +kernel
/-- Context 8 of tenant 0 stands STOPPED, with a session and a certificate of the tenant; 4,096 records wait for their signature. -/
def debugWorld : State :=
  { w0 with ctxs := [(0, ctx0), (8, { run := .stopped }), (9, { run := .runnable })], sessions := [0], certs := [(0, 9)],
            staged := some { fw := bootFirmware, acks := [] }, logs := [(0, { seq := 4098 }), (1, { seq := 8191, signed := 4096 })] }
theorem witness_docent_sessions :
    smGet debugWorld.certs 0 = some 9 ∧ smGet debugWorld.certs 0 ≠ some 8 ∧ 0 ∈ debugWorld.sessions ∧ 1 ∉ debugWorld.sessions ∧
    debuggable w0 8 = false ∧ debuggable debugWorld 8 = true ∧ debuggable debugWorld 9 = true := by decide +kernel
theorem witness_docent_registers :
    (getCtx debugWorld 9).run ≠ .stopped ∧ (getCtx debugWorld 8).run = .stopped ∧ ofSnap (.sreg 1) = false ∧
    debugHas debugWorld 8 (.sreg 1) = true ∧ debugHas debugWorld 9 (.vrow 0 0 0) = false := by decide +kernel
theorem witness_docent_updates_and_logs :
    let log := fun t => smGetD debugWorld.logs t {}
    w0.staged = none ∧ (debugWorld.staged.map (·.acks)) = some [] ∧ (smGet debugWorld.tenants 0).any (·.valid) = true ∧
    (log 0).signed + 4096 ≤ (log 0).seq ∧ (log 1).seq < (log 1).signed + 4096 := by decide +kernel

/-- Counters: tc.ls 4 issued and all done, tc.cp 5 issued with 5 pending, the command counter's work in flight. -/
def counters : Ctx := { ctx0 with tc := [(0, { issued := 4 }), (4, { issued := 5, pending := [5] })], s := [(1, 4), (2, 5), (3, 6)] }
theorem witness_timeline_words :
    let s := world counters
    let s1 := restartTold s s.cur
    (let h := world { counters with copies := [{ num := 5, kind := .fill 0 0, view := 0, tagged := false, tenant := 0, halt := some ⟨3, 0, false, none⟩ }] }
     (counterDue (restartTold h 0) 0 5 4).isSome = true ∧ (counterDue (restartTold h 0) 0 4 4).isNone = true) ∧
    wideScope s1 s.cur (demote s1 s.cur 2).1 = true ∧ wideScope s1 s.cur (demote s1 s.cur 1).1 = false ∧ srcBad s 1 = false ∧ (counterDue s1 0 4 0).isNone = true ∧ (counterDue s1 0 5 4).isNone = true ∧
    (counterDue s1 0 6 4).isNone = true ∧
    (rs s 1).toNat ≤ tcDone (counterOf s1 0 0) ∧ tcDone (counterOf s1 0 4) < (rs s 2).toNat ∧ (rs s 2).toNat ≤ (counterOf s1 0 4).issued ∧
    (counterOf s1 0 4).issued < (rs s 3).toNat ∧ noMore s1 0 4 = true ∧ bitAt (me s).xsched 0 = false ∧
    noMore (world { counters with eng := [(0, { st := .running })] }) 0 1 = false := by decide +kernel
theorem witness_fences :
    let s := world counters
    (∀ sc, sc ≤ 6 → fabricPending (me w0) sc = false) ∧
    (let f := { ctx0 with tc := [(6, { issued := 1, pending := [1] })] }
     fabricPending f 5 = true ∧ fabricPending f 4 = false) ∧ (faultDue (restartTold w0 0) 0 anyNumber (rangeFrom 0 8)).isNone = true ∧
    allDone (restartTold w0 0) 0 = true ∧ (faultDue (restartTold s 0) 0 anyNumber (rangeFrom 0 8)).isNone = true ∧ allDone (restartTold s 0) 0 = false ∧
    wideScope w0 0 2 = true ∧ wideScope w0 0 3 = true ∧ wideScope w0 0 6 = true ∧ wideScope w0 0 1 = false := by decide +kernel
theorem witness_watches :
    let s := world { ctx0 with s := [(1, 0xFFFFFFFFFFC00040), (2, 0x10040)] }
    let watched (f : Bool) := world { ctx0 with watchKey := some 8, watchFired := f }
    srcBad s 1 = false ∧ xlate s (agentOf s 0) .ls false (rs s 1) = .scratch 0x40 ∧
    xlate s (agentOf s 0) .ls false (rs s 2) = .page 0x3FF 0 0x100040 0x40 ∧ grants 0x3FF .ls false = true ∧ isHost 0x100040 = false ∧
    delayed s (agentOf s 0).part (0x100040 / 64) = false ∧
    (let r : Resolve := { part := 0, node := 1, confirm := true, ctx := 0, uid := 0, num := 1, touched := [1] }
     let v : Version := { line := 0x100040 / 64, node := 1, bytes := [(0, 1, false)] }
     let p := { part0 with nodes := [(1, { st := .opened, aliasOf := 1 })], versions := [v], resolves := [r] }
     let t := { s with parts := [(0, p)] }
     delayed t (agentOf t 0).part (0x100040 / 64) = true) ∧ (me w0).watchKey = none ∧ (me (watched true)).watchKey = some 8 ∧
    (me (watched true)).watchFired = true ∧ (me (watched false)).watchFired = false ∧ bitAt (me (watched false)).xsched 0 = false ∧
    fld (rs w0 1) 0 32 = 0 ∧ fld (rs s 2) 0 32 ≠ 0 := by decide +kernel
/-- A context whose s1 and s2 give barrier counts 1 and 2. -/
def barWorld (bs : List Barrier) : State := { world { ctx0 with s := [(1, 1), (2, 2)] } with barriers := bs, ctxs := [(0, { ctx0 with s := [(1, 1), (2, 2)] }), (1, { run := .waiting })] }
theorem witness_barriers :
    let s := barWorld []
    let k := barKey s 0 1 3
    let t := barWorld [{ key := k, n := 2, arrived := [1] }]
    (1 : SReg) ≠ 0 ∧ srcBad s 1 = false ∧ fabricPending (me s) 1 = false ∧ fld (rs s 1) 0 24 = 1 ∧ fld (rs s 2) 0 24 = 2 ∧ fld (rs s 3) 0 24 = 0 ∧
    (release s 0 1 none).barriers.find? (fun b => b.key == k) = none ∧ (release t 0 1 none).barriers.find? (fun b => b.key == barKey t 0 1 3) = some { key := k, n := 2, arrived := [1] } ∧
    relayed (release s 0 1 none) 1 = false ∧ relayed { s with populated := [5] } 5 = true ∧ (me s).mid = false ∧
    2 ≤ [1].length + 0 + 1 ∧ ([1] ++ [0]).Nodup ∧ (instCount s 0 1).isNone = true ∧ wideScope s 0 2 = true ∧ bitAt (me s).xsched 0 = false ∧ wideScope s 0 1 = false := by decide +kernel
theorem witness_barriers_of_the_pod :
    let b : Barrier := { key := podKey 0 3, n := 2, arrived := [1] }
    ({ barWorld [] with barriers := [b] } : State).barriers.find? (fun x => x.key == podKey 0 3) = some b ∧ 0 < 16 ∧ 3 < 32 ∧ b.n = 2 ∧ b.n ≠ 0 ∧
    b.arrived.Nodup ∧ 2 ≤ b.arrived.length + 1 := by decide +kernel
/-- Contexts 1 and 2 of one instance, at synced bundles or not. -/
def groupWorld (w : Wait) : State :=
  { w0 with ctxs := [(1, { run := .waiting, wait := some .sync, member := some ⟨7, 0, 1, 0⟩ }), (2, { run := .waiting, wait := some w, member := some ⟨7, 0, 1, 1⟩ })],
            launches := [(7, { launch1 with insts := [{ stage := 0, serial := 1, st := .running, members := [(1, .bound), (2, .bound)] }] })] }
theorem witness_synced_groups :
    let s := groupWorld .sync
    (1, getCtx s 1) ∈ s.ctxs ∧ coreOf 1 = 0 ∧ (getCtx s 1).member = some ⟨7, 0, 1, 0⟩ ∧ syncGroup s 1 = [1, 2] ∧ syncGroup s 2 = [1, 2] ∧
    smGet s.ctxs 1 = some (getCtx s 1) ∧ smGet s.ctxs 2 = some (getCtx s 2) ∧ (∀ k ∈ syncGroup s 1, atSync s k = true) ∧ (∃ k ∈ syncGroup (groupWorld .engines) 1, atSync (groupWorld .engines) k = false) := by decide +kernel

/-- Addresses: s1 the last 8 bytes of a line of the scratchpad window, s2 the same of the page, s3 0, s4 two bytes before a
line's end, s5 of no page. -/
def addrs : List (Nat × Word) := [(1, 0xFFFFFFFFFFC00038), (2, 0x10038), (3, 0), (4, 0x1003E), (5, 0x20000)]
def reach : State := world { ctx0 with s := addrs }
/-- A page whose leaf grants no write. -/
def readOnly : State := { reach with dies := [(0, { tlb := [{ page1 with lo := 0x3FB }] })], parts := [(0, part0)] }
theorem reach_clean : ∀ r, srcBad reach r = false := by decide +kernel
theorem reach_pad (off n : Nat) : reach.padReady off n := ⟨rfl, fun _ _ _ => rfl⟩
theorem witness_loads :
    inWindow (rs reach 1) = true ∧ (rs reach 1).toNat % 64 + 8 ≤ 64 ∧ reach.padReady ((rs reach 1).toNat % 2 ^ 22) 8 ∧
    xlate reach (agentOf reach 0) .ls false (rs reach 2) = .page 0x3FF 0 0x100038 0x38 ∧ (rs reach 2).toNat % 64 + 8 ≤ 64 ∧
    xlate reach (agentOf reach 0) .ls true (rs reach 2) = .page 0x3FF 0 0x100038 0x38 ∧
    grants 0x3FF .ls false = true ∧ grants 0x3FF .ls true = true ∧ delayed reach (agentOf reach 0).part (0x100038 / 64) = false ∧
    pagePoint 0x3FF 0x100038 = 0 ∧
    anyBad (readLine (tlbNote reach (agentOf reach 0) (rs reach 2) (.page 0x3FF 0 0x100038 0x38)) (agentOf reach 0) 0 false (0x100038 / 64) 0x38 8).1 = false ∧
    anyBad (readLine (tlbNote reach (agentOf reach 0) (rs reach 2) (.page 0x3FF 0 0x100038 0x38)) (agentOf reach 0) 2 true (0x100038 / 64) 0x38 8).1 = false ∧
    unfilled (getCore reach 0) ((rs reach 1).toNat % 2 ^ 22) 8 = none ∧ (getCore reach (l1Unit reach 0)).pending = [] :=
  ⟨by decide +kernel, by decide +kernel, reach_pad _ _, by decide +kernel⟩
/-- Nothing of the page's lines stands anywhere but at their home. -/
theorem reach_home (line : Nat) : reach.LineAtHome (agentOf reach 0) line :=
  ⟨fun _ h => absurd h List.not_mem_nil, fun _ h => absurd h List.not_mem_nil, fun _ h => absurd h List.not_mem_nil, fun _ h => absurd h List.not_mem_nil⟩
theorem witness_loads_at_home :
    reach.LineAtHome (agentOf reach 0) (0x100038 / 64) ∧ reach.CleanAt 0x100038 8 ∧ 0x100038 % 64 = (rs reach 2).toNat % 64 ∧
    56 + [(1 : Byte), 2].length ≤ 64 ∧ reach.CleanAt (64 * (0x100038 / 64) + 56) 2 :=
  ⟨reach_home _, fun _ _ => rfl, by decide, by decide, fun _ _ => rfl⟩
theorem witness_refused_accesses :
    64 < (rs reach 4).toNat % 64 + 4 ∧ (∃ n, xlate reach (agentOf reach 0) .ls false (rs reach 5) = .bad n) ∧
    (∃ n, xlate reach (agentOf reach 0) .ls true (rs reach 5) = .bad n) := ⟨by decide +kernel, ⟨3, by decide +kernel⟩, ⟨3, by decide +kernel⟩⟩

/-- A context of tenant 0 under node 1, over a table with an OPEN node 1, a REFUTED 2, another tenant's 3. -/
def table : PartRec :=
  { part0 with vstore := [1, 0, 0, 0],
               nodes := [(1, { st := .opened, aliasOf := 1 }), (2, { st := .refuted, aliasOf := 2 }), (3, { st := .opened, aliasOf := 3, tenant := 5 }),
                         (4, { st := .merged, parent := 1, aliasOf := 1 })] }
def underNode : State := { world { ctx0 with xhyp := 1, s := addrs ++ [(6, 1), (7, 2), (8, 9), (10, 4)] } with parts := [(0, table)] }
theorem witness_tagged_stores :
    let s := underNode
    let t := { s with parts := [(0, { table with vstore := [0, 0, 0, 0] })] }
    let ag := agentOf s 0
    let put (u : State) := tagWrite (tlbNote u ag 0x10038 (.page 0x3FF 0 0x100038 0x38)) ag (0x100038 / 64) 0x38 (clean [1])
    viewOf (me s) ≠ 0 ∧ viewOf (me reach) = 0 ∧ rs reach 3 = 0 ∧ inWindow (rs s 1) = true ∧ (rs s 2).toNat % 64 + 8 ≤ 64 ∧
    xlate s ag .ls true 0x10038 = .page 0x3FF 0 0x100038 0x38 ∧ leafPeer 0x3FF = false ∧ isHost 0x100038 = false ∧ pagePoint 0x3FF 0x100038 ≠ 2 ∧
    grants 0x3FF .ls true = true ∧ (put s matches .done _) = true ∧ (put t matches .full) = true ∧
    (put { s with ctxs := [(0, { (me s) with xhyp := 2 })] } matches .done _) = true ∧
    fld (me { world { ctx0 with xhypwait := 0 } with cur := 0 }).xhypwait 0 32 = 0 ∧ leafPeer 0x203FF = true ∧
    (getNode (getPart s 0) 0).st = .opened := by decide +kernel
theorem witness_atomics :
    inWindow (BitVec.ofNat 64 ((rs reach 1).toNat / 8 * 8)) = true ∧ reach.padReady ((rs reach 1).toNat / 8 * 8 % 2 ^ 22) 8 ∧
    (8 : BitVec 4).toNat ≤ 8 ∧ reach.padReady ((rs reach 1).toNat % 2 ^ 22) 1 ∧
    (let ag := { agentOf reach 0 with view := 0 }
     xlate reach ag .ls true (BitVec.ofNat 64 ((rs reach 2).toNat / 8 * 8)) = .page 0x3FF 0 0x100038 0x38 ∧ memPoison reach 0x100038 8 = false ∧
     (∀ w ∈ (getCore reach (l1Unit reach 0)).pending, w.line ≠ 0x100038 / 64)) :=
  ⟨by decide +kernel, reach_pad _ _, by decide, reach_pad _ _, by decide +kernel⟩
theorem witness_exact_cells :
    let s := world { ctx0 with s := [(1, 0x103E0), (2, 0x10400)] }
    let ag := { agentOf s 0 with view := 0 }
    (rs s 1).toNat / 32 % 2048 = 31 ∧ (rs s 2).toNat / 32 % 2048 = 32 ∧ inWindow (rs s 2) = false ∧
    xlate s ag .ls true (rs s 2) = .page 0x3FF 0 0x100400 0x400 ∧ leafPeer 0x3FF = false ∧ isHost 0x100400 = false ∧ grants 0x3FF .ls true = true ∧
    cellBad s 0x100000 32 = false ∧ (∀ w ∈ (getCore s (l1Unit s 0)).pending, w.line / 1024 ≠ 0x100400 / 65536) := by decide +kernel
theorem all_open (n : Nat) (x : Node) (h : 1 ≤ n) (h2 : n < 1024) :
    smGetD ((rangeFrom 1 1023).map fun i => (i, ({ st := .opened } : Node))) n x = { st := .opened } := by
  have key : ∀ k a, a ≤ n → n < a + k → smGetD ((rangeFrom a k).map fun i => (i, ({ st := .opened } : Node))) n x = { st := .opened } := by
    intro k
    induction k with
    | zero => intro a _ _; omega
    | succ k ih =>
      intro a ha hb
      by_cases e : a = n
      · simp [rangeFrom, smGetD, smGet, e]
      · have := ih (a + 1) (by omega) (by omega)
        simpa [rangeFrom, smGetD, smGet, e, Ne.symm e] using this
  exact key 1023 1 h (by omega)
theorem witness_hypothesis_words :
    let s := underNode
    let p := getPart s (myPart s)
    p.resolves = [] ∧ (getNode p 5).st = .free ∧ (∀ j, 1 ≤ j → j < 5 → (getNode p j).st ≠ .free) ∧
    (∀ n, 1 ≤ n → n < 1024 → (getNode { table with nodes := (rangeFrom 1 1023).map fun i => (i, { st := .opened }) } n).st ≠ .free) ∧
    fld (rs s 3) 0 10 = 0 ∧ fld (rs s 6) 0 10 = 1 ∧ (getNode p 1).st = .opened ∧ (getNode p 1).tenant = (me s).tenant.toNat ∧
    fld (rs s 10) 0 10 = 4 ∧ (getNode p 4).st = .merged ∧ fld (rs s 7) 0 10 = 2 ∧ (getNode p 2).st = .refuted ∧
    fld (me s).xhyp 0 10 ≠ 0 ∧ (getNode p 1).parent = 0 ∧ fld (rs s 8) 0 10 = 9 ∧ (getNode p 9).st = .free ∧
    (getNode p 1).aliasOf < 1024 :=
  ⟨by decide, by decide, by decide +kernel, fun n h h2 => by
    have hn : n ≠ 0 := by omega
    rw [show getNode { table with nodes := (rangeFrom 1 1023).map fun i => (i, { st := .opened }) } n = { st := .opened } from all_open n _ h h2]; decide, by decide +kernel⟩
/-- Node 1 under the root has two versions when its confirm is applied. -/
theorem witness_confirm_into_the_root :
    let p : PartRec := { table with resolves := [{ part := 0, node := 1, confirm := true, ctx := 0, uid := 0, num := 1, touched := [1] }],
                                    versions := [{ line := 16384, node := 1, bytes := [(0, 7, false), (63, 8, true)] }, { line := 16385, node := 1, bytes := [(5, 9, false)] }] }
    let vs := nodeVersions p 1
    vs.length = 2 ∧ (getNode p 1).parent = 0 ∧ (getNode p 1).st = .opened ∧ (∀ v ∈ vs, ∀ e ∈ v.bytes, e.1 < 64) ∧
    (∀ v ∈ vs, (v.bytes.map (·.1)).Nodup ∧ ∀ w ∈ vs, w.line = v.line → w = v) := by decide +kernel

/-- An ADD of v1 and q3 into v1, its queue holding one block, and one into a write queue. -/
def addForm (d b : Desc) : VecForm :=
  { i := .vadd (three head5 d v1 b), h := head5, rounds := isFloatTy 5, srcs := [v1, b], d := d, sty := 5, w := tyBits 5, n := fun _ => viewElems 5,
    g := fun _ x y _ md r j => arith2 5 false (fun x y => x + y) (fun m x y => addV (m == .rdn) x y) (md r j) (x.elem (tyBits 5) r j) (y.elem (tyBits 5) r j) }
def blocks : State := world { ctx0 with q := [(3, .data 0 [{ data := 0 }]), (4, .data 2 []), (5, .data 2 [{ data := 0 }])] }
theorem witness_vector_words :
    isLight blocks.cur = false ∧ addForm v1 (.queue 3) ∈ vecForms3 (three head5 v1 v1 (.queue 3)) ∧
    VecClean blocks head5 [v1, .queue 3] (fun _ => false) ∧ QueuesReady (me blocks) [v1, .queue 3] ∧ QueuesReady (me blocks) [v1, v1] ∧
    (three head5 (.queue 4) v1 v1).d.isQueue = true ∧
    descReg (me blocks) v1 = some (1, { stride := strideOf 0, row := 0, col := 0 }) ∧ 16 * 0 % tyBits 5 = 0 ∧
    descQueue (.queue 4) = some 4 ∧ smGet (me blocks).q 4 = some (.data 2 []) ∧ wordOff (me blocks) noGuard = false ∧
    wordOff (me blocks) { noGuard with neg := true } = true ∧ guardRows (me blocks) noGuard ≠ 0 :=
  ⟨by decide, List.mem_cons_self, by unfold VecClean; decide +kernel, fun q h => by
    have : q ∈ [3] := h
    simp at this; subst this
    exact ⟨0, [{ data := 0 }], rfl, by decide, by decide⟩, fun q h => absurd (show q ∈ [] from h) (by simp), by decide, by decide, by decide,
   by decide, by decide +kernel⟩
theorem witness_queue_words :
    let s := world { ctx0 with q := [(3, .data 0 [{ data := 0 }]), (4, .data 2 []), (5, .data 2 [{ data := 0 }]), (6, .ring [0, 1] 1 0 1)], eng := [(0, { st := .running })] }
    isLight s.cur = false ∧ descBad s (.imm 1) = false ∧ (me s).qadvLeft = none ∧ advCount (me s) (.imm 1) = 1 ∧
    smGet (me s).q 3 = some (.data 0 [{ data := 0 }]) ∧ smGet (me s).q 4 = some (.data 2 []) ∧ smGet (me s).q 5 = some (.data 2 [{ data := 0 }]) ∧
    smGet (me s).q 6 = some (.ring [0, 1] 1 0 1) ∧ smGet (me s).q 7 = none ∧ (me s).onMatrix = false ∧ (flushHalt (me s) 4).isNone = true ∧ advCount (me s) (.imm 2) = 2 ∧
    (engOf (me s) 0).st = .running ∧ (engOf (me s) 2).st ≠ .halted ∧ (engOf { (me s) with eng := [(2, { st := .halted })] } 2).st = .halted ∧ bitAt (me s).xsched 0 = false ∧ srcBad s 0 = false ∧
    guardRows (me s) noGuard ≠ 0 ∧ guardRows (me s) { noGuard with neg := true } = 0 := by decide +kernel
/-- Rings q1 and q2 with f filled slots, for the word `tile`: BF16 in format entry 0, core 0 and its clusters in place. -/
def rings (f : Nat) : State :=
  { world { ctx0 with q := [(1, .ring [0, 1] 0 0 f), (2, .ring [2, 3] 0 0 f)], xfte := [(0, 0x80000022)] } with
    cores := [(0, { claims := [(0, 0), (1, 0), (2, 0), (3, 0)] })],
    dies := [(0, { tlb := [page1], place := (placeBase .core, 0x8000) :: (rangeFrom 0 4).map fun n => (placeBase .cluster + 2 * n, 0x8000 + n) })] }
/-- The checks that `tmma tile` and `tzero bare` meet: placed, allowed, and ready or not. -/
def goes (s : State) (k : MxKind) (w : TileW) (ready : Bool) : Bool :=
  match formatOf (me s) k w with
  | none => false
  | some (_, f) =>
    let x : MxWord := { kind := k, w := w, f := f }
    badRing (me s) x == none && (stageHaltOn s s.cur x).isNone && guardRows (me s) w.guard != 0 && !sizeRefused x &&
    (match placeWord s s.cur x with
     | .ok cores => !slotRefused s s.cur x cores && (metaRefused s x (metaCore s.cur x cores)).isNone && !wordBad s s.cur x cores
     | .error _ => false) &&
    (decide ((me s).mx.length + stagesOf (me s) < 8) && x.reads.all (readReady (me s) x) && x.writes.all (writeReady (me s))) == ready
theorem witness_matrix_words :
    goes (restartTold (rings 2) 0) .tmma tile true = true ∧ goes (restartTold (rings 0) 0) .tmma tile false = true ∧
    goes (restartTold (rings 0) 0) .tzero bare true = true ∧ isLight (rings 2).cur = false ∧ srcBad (rings 2) tile.guard.reg = false ∧
    ((formatOf (me (rings 2)) .tmma { tile with aRing := 5 }).bind fun f => badRing (me (rings 2)) ⟨.tmma, { tile with aRing := 5 }, f.2⟩) = some 5 ∧
    guardRows (me (rings 2)) { noGuard with neg := true } = 0 ∧ bitAt (me (rings 2)).xsched 0 = false := by decide +kernel

/-- What a load brings, tested. -/
def loads (a : Acc) (f : List Byte → State → Bool) : Bool := match a with | .done bs t => f (bytesOf bs) t | _ => false
/-- A copy descriptor in the scratchpad: source, destination, length, flags and the bytes after them. -/
def withPad (s : State) (off : Nat) (bs : List Byte) : State := { s with cores := [(0, { (getCore s 0) with scratch := memSetCells (getCore s 0).scratch off bs })] }
def copyBytes (src dst len flags : Nat) (rest : List Byte) : List Byte := (leBytes 8 src ++ leBytes 8 dst ++ leBytes 8 len ++ leBytes 1 flags ++ rest ++ List.replicate 39 0).take 64
def descAt (bs : List Byte) : State := withPad (world { ctx0 with s := [(1, 0xFFFFFFFFFFC00000)] }) 0 bs
def descOf (s : State) (f : State → CopyDesc → Bool) : Bool :=
  loads (loadAt 0 (BitVec.ofNat 64 ((rs s 1).toNat / 64 * 64)) 64 s) fun bs s0 => f (release s0 s0.cur 1 none) (copyDesc bs)
theorem witness_copy_words :
    srcBad (descAt []) 1 = false ∧
    descOf (descAt (copyBytes 0x10000 0x10100 64 0 [])) (fun s1 x => (copyMove s1 false x).isSome) = true ∧
    descOf (descAt (copyBytes 0x10000 0x10100 0 1 [])) (fun s1 x => (copyMove s1 true x).isNone) = true ∧
    descOf (descAt (copyBytes 0x10000 0x20000 65536 0 [])) (fun s1 x => (mapRegion s1 x).isSome) = true ∧
    descOf (descAt (copyBytes 0x10000 0x20001 65536 0 [])) (fun s1 x => (mapRegion s1 x).isNone) = true ∧
    descOf { descAt (copyBytes 0 0x40 64 2 []) with ctxs := [(0, { ctx0 with xhyp := 1, s := [(1, 0xFFFFFFFFFFC00000)] })] }
      (fun s1 x => x.dloc && fld (me s1).xhyp 0 10 != 0) = true ∧
    descOf (descAt (copyBytes 0 0 0 0 [])) (fun s1 x => x.mapOk && (smGet (getCore s1 0).regions (x.at 28)).isNone) = true ∧
    descOf (withPad { descAt [] with cores := [(0, { regions := [(0, { owner := 0, gbase := 0x10000, off := 0x10000, len := 65536, filled := [0] })] })] } 0 (copyBytes 0 0 0 0 []))
      (fun s1 x => x.mapOk && (smGet (getCore s1 0).regions (x.at 28)).isSome) = true := by decide +kernel
/-- A move of 128 bytes inside the page at byte p, its row read. -/
def moving (p : Nat) (h : Option Halt) : State :=
  world { ctx0 with tc := [(4, { issued := 1, pending := [1] })], copies :=
    [{ num := 1, kind := .move 0x10000 0x10100 false false 128 [] [] [] none, view := 0, tagged := false, tenant := 0, pos := p,
       buf := some (List.replicate (128 - p) (7, false), none), halt := h }] }
def writesNext (s : State) : Bool :=
  match copyOf s 0 1 with
  | some o => (match o.buf with
    | some (bs, _) => (match rangeWrite (copyAgent s 0 o) .cw 64 s (0x10100 + BitVec.ofNat 64 o.pos) (bs.take 64) with | .ok _ _ => bs.length + o.pos == 128 | _ => false)
    | none => false)
  | none => false
theorem witness_copy_lines :
    writesNext (moving 0 none) = true ∧ writesNext (moving 64 none) = true ∧ (copyOf (moving 128 none) 0 1).isSome = true ∧
    (getCtx (moving 0 none) 0).run ≠ .saving ∧ ((copyOf (moving 0 (some ⟨3, 0, true, none⟩)) 0 1).bind (·.halt)).isSome = true := by decide +kernel
def mapped : State := { reach with cores := [(0, { regions := [(0, { owner := 0, gbase := 0x10000, off := 0x10000, len := 65536, filled := [0] })] })] }
theorem witness_map_fill :
    (smGet (getCore mapped 0).regions 0).isSome = true ∧ (fillOp mapped 0 0 1).isNone = true ∧ 0 ∈ [0] ∧ 15 < 65536 / 4096 ∧
    (let o : CopyOp := { num := 1, kind := .fill 0 15, view := 0, tagged := false, tenant := 0 }
     let s0 := setCtx mapped 0 { (tcTake (me mapped) 4).2 with copies := [o] }
     match smGet (getCore mapped 0).regions 0 with
     | some reg => (match fillLines (copyAgent s0 0 o) 0 reg 15 64 s0 0 with | (.ok _ _, _) => true | _ => false)
     | none => false) = true := by decide +kernel

/-- A world whose partition 0 maps the first GiB onto itself, the frame at 0x100000 its tenant's, peer 5 in its peer map. -/
def tablesWith (leaf : Nat) : State :=
  { world ctx0 with
    parts := [(0, { part0 with root := 0x200000, peermap := 0x300000, save := 0x100000, ring := 0x310000, ringLen := 4, sram := [[0, 0, 0, 1], [0, 0, 0, 0], [0, 0, 0, 0], [0, 0, 0, 0]] })],
    mem := memSetCells (memSetCells (memSetCells (memSetCells [] 0x200000 (leBytes 8 0x208001)) 0x208000 (leBytes 8 0x20A001)) 0x20A000 (leBytes 8 leaf)) 0x300000 [0x20],
    frames := [(16, 3)], populated := [5] }
def tables : State := tablesWith 0x3FF
/-- Peer 5 is the partition's logical peer 0; its window is page 2. -/
def window : TlbEntry := { page1 with vframe := 2, lo := 0x203FF }
def fabWorld (c : Ctx) (slots : List (Nat × Nat)) : State :=
  { tables with ctxs := [(0, c)], dies := [(0, { tlb := [page1, window, { window with vframe := 4, lo := 0x100203FF }], place := [(placeBase .peer, 0x8005)] })],
                gwSlots := slots }
/-- A fabric descriptor: DVA, SVA, length, flags. -/
def fabBytes (dva sva len fl : Nat) : List Byte := leBytes 8 dva ++ leBytes 8 sva ++ leBytes 4 len ++ [0, 0, BitVec.ofNat 8 fl] ++ List.replicate 9 0
def fabAt (s : State) (bs : List Byte) : State := withPad { s with ctxs := [(0, { ctx0 with s := [(1, 0xFFFFFFFFFFC00000)] })] } 0 bs
def asks (s : State) (isReq : Bool) (f : State → FabAsk → Bool) : Bool :=
  loads (loadAt 0 (BitVec.ofNat 64 ((rs s 1).toNat / 32 * 32)) 32 s) fun bs s1 => match fabDesc isReq bs with | some a => f s1 a | none => false
def goesTo (s : State) (a : FabAsk) (f : Word → Nat → State → Bool) : Bool :=
  match xlate s (agentOf s s.cur) .fg true a.dva with
  | .page lo hi pa off => f lo pa (tlbNote s (agentOf s s.cur) a.dva (.page lo hi pa off))
  | _ => false
theorem witness_fabric_words :
    let s := fabWorld ctx0 []
    let full := fabWorld ctx0 [(0, 100000)]
    asks (fabAt s (fabBytes 0x20000 0x10000 64 0)) false (fun u a => goesTo u a fun lo _ t => leafPeer lo && grants lo .fg true && peerCheck t 0 0 (fld lo 28 13) == some 5 && slotFree t 0) = true ∧
    asks (fabAt full (fabBytes 0x20000 0x10000 64 0)) false (fun u a => goesTo u a fun lo _ t => peerCheck t 0 0 (fld lo 28 13) == some 5 && !slotFree t 0) = true ∧
    asks (fabAt s (fabBytes 0x40000 0x10000 64 0)) false (fun u a => goesTo u a fun lo _ t => leafPeer lo && grants lo .fg true && (peerCheck t 0 0 (fld lo 28 13)).isNone) = true ∧
    asks (fabAt s (fabBytes 0x10000 0x10000 64 0)) false (fun u a => goesTo u a fun lo _ _ => !leafPeer lo) = true ∧
    asks (fabAt { tablesWith 3 with cores := [] } (fabBytes 0x100000 0x10000 64 0)) false (fun u a => goesTo u a fun lo _ _ => !leafPeer lo && !grants lo .fg true && !grants lo .ls false) = true ∧
    asks (fabAt s (fabBytes 0x50000 0x10000 64 0)) false (fun u a => xlate u (agentOf u 0) .fg true a.dva matches .bad _) = true ∧
    asks (fabAt s (fabBytes 0x20000 0x10000 256 1)) true (fun _ _ => true) = true ∧
    loads (loadAt 0 0xFFFFFFFFFFC00000 32 (fabAt s (fabBytes 0x20000 0x10000 0 0))) (fun bs _ => (fabDesc false bs).isNone && (fabDesc true bs).isNone) = true := by
  decide +kernel
/-- A packet of two bytes for 0x100000, and an operation in flight with 64 of its 128 bytes sent. -/
def packet : Packet := { srcPeer := 5, srcCtx := 1, cls := 0, num := 1, seq := 1, part := 0, tenant := 0, va := 0x100000, op := .bytes [(1, false), (2, false)] false none 0x100000 64 }
def fabOp1 : FabOp := { num := 1, seq := 1, order := 1, cls := 0, part := 0, peer := 5, logical := 0, tenant := 0, dva := 0x20000, sva := 0x10000, len := 128, handler := none, atomic := none, sent := 64 }
def flying (o : FabOp) : State := fabWorld { ctx0 with fab := [o], tc := [(6, { issued := 1, pending := [1] })] } []
/-- The same operation with an older one of another context of its die. -/
def flying2 : State := { flying { fabOp1 with order := 2 } with ctxs := [(0, { ctx0 with fab := [{ fabOp1 with order := 2 }] }), (8, { ctx0 with fab := [fabOp1] })] }
theorem witness_fabric_operations :
    fabOp (flying fabOp1) 0 1 = some fabOp1 ∧ fabOp1.halt = none ∧ 64 ≤ fabOp1.sent ∧ 64 ≠ fabOp1.len ∧
    fabOp (flying { fabOp1 with sent := 128 }) 0 1 = some { fabOp1 with sent := 128 } ∧ fabReady (flying fabOp1) 0 fabOp1 = true ∧
    fabReady (flying { fabOp1 with sent := 128 }) 0 { fabOp1 with sent := 128 } = false ∧
    fabReady (flying { fabOp1 with sent := 0, atomic := some (0, 8, 1) }) 0 { fabOp1 with sent := 0, atomic := some (0, 8, 1) } = true ∧
    fabAhead (flying fabOp1) 0 fabOp1 = false ∧ fabAhead flying2 0 { fabOp1 with order := 2 } = true ∧
    (rangeRead { ctx := 0, part := 0, tenant := 0, view := 0 } .fg 64 (flying fabOp1) 0x10040 64 [] matches .ok _ _) = true := by decide +kernel
/-- Launch 7 is being replayed: its next input is a packet of peer 5 with the bytes, or another. -/
def replayingPackets (bs : List Byte) : State :=
  { tables with launches := [(7, launch1)], replaying := [(7, [inputRecord 2 0 (logicalPeer tables 0 5) bs.length 1 bs, 0])] }
theorem witness_fabric_packets :
    let s0 (s : State) := logPacket ((replaysOf s packet).foldl replayNext s) packet
    let goes (s : State) := peerAdmitted s 0 5 && slotFree s 0 && !handlerFull s packet && packetNext s packet &&
      (sysRoute (s0 s) 0 0 .fg true (natW packet.va) matches .ok 0x100000)
    peerAdmitted tables 0 6 = false ∧ segLen (natW packet.va) 2 = 2 ∧ isHost 0x100000 = false ∧ goes tables = true ∧ packetTurn tables packet = true ∧
    goes (replayingPackets [1, 2]) = true ∧ packetTurn (replayingPackets [1, 2]) packet = true ∧ replaysOf (replayingPackets [1, 2]) packet = [7] ∧
    packetTurn (replayingPackets [1, 3]) packet = false := by decide +kernel
/-- A launch record of one source stage of one cluster, in the scratchpad. -/
def launchBytesWith (map prio queues : Nat) : List Byte :=
  leBytes 2 1 ++ [1, BitVec.ofNat 8 queues, 0, 0, 0, 0] ++ leBytes 8 map ++ List.replicate 48 0 ++
    (leBytes 8 0x10000 ++ [1, BitVec.ofNat 8 prio, 1, 0, 1, 0, 0xFF, 0xFF]) ++ List.replicate 432 0
def launchBytes (prio queues : Nat) : List Byte := launchBytesWith 0 prio queues
def launchingWith (map prio queues : Nat) : State :=
  withPad { tables with ctxs := [(0, { ctx0 with s := [(1, 0xFFFFFFFFFFC00000)] })] } 0 (launchBytesWith map prio queues)
def launching (prio queues : Nat) : State := launchingWith 0 prio queues
def launchChecked (s : State) (f : Nat → LaunchRec → State → Bool) : Bool :=
  match linesRead 8 (BitVec.ofNat 64 ((rs s 1).toNat / 64 * 64)) (release s s.cur 4 none) with
  | some (bs, s1) => f (launchCheck s1 { part := myPart s1, fn := 0, ceil := min 119 (fld (me s1).xprio 8 7) } (launchRec bs)) (launchRec bs) s1
  | none => false
theorem witness_launch :
    isSupervisor (me light0) = false ∧ isSupervisor (me (launching 1 0)) = true ∧ srcBad (launching 1 0) 1 = false ∧
    launchChecked (launching 1 0) (fun c r s1 => c == 0 && r.map == 0 && freeLaunch s1 == some 0 && r.stages.length == 1) = true ∧
    launchChecked (launching 127 0) (fun c r _ => c == 3 && r.map == 0) = true ∧
    launchChecked (launchingWith 0x10040 1 0) (fun _ r s0 => r.map == 0x10040 && (match linesRead 1 (BitVec.ofNat 64 r.map) s0 with
      | some (_, s1) => launchCheck s1 { part := myPart s1, fn := 0, ceil := min 119 (fld (me s1).xprio 8 7) } r == 0 && freeLaunch s1 == some 0
      | none => false)) = true ∧
    launchChecked (launchingWith 0x10001 1 0) (fun c r _ => c == 1 && r.map % 64 != 0) = true := by decide +kernel
/-- The record of a TZERO of the own core at cluster level, its tile and fault area in the page, under entry 0 of a format table. -/
def recBytes (level fault : Nat) : List Byte :=
  (encode (.tzero { bare with level := BitVec.ofNat 3 level, m := 32, n := 64, e := false })).flatMap (leBytes 4) ++
    List.replicate 16 0 ++ leBytes 8 0x10100 ++ List.replicate 56 0 ++ leBytes 8 fault ++ List.replicate 12 0 ++ leBytes 4 256
def tasking (bs : List Byte) : State :=
  withPad { tables with ctxs := [(0, { ctx0 with s := [(1, 0xFFFFFFFFFFC00000)], xfte := [(0, 0x80000022)] })],
                        dies := [(0, { tlb := [page1], place := (placeBase .core, 0x8000) :: (rangeFrom 0 4).map fun n => (placeBase .cluster + 2 * n, 0x8000 + n) })] } 0 bs
/-- Lines of an address translate and grant a store. -/
def linesOpen (s : State) (va : Word) (n : Nat) : Bool :=
  (rangeFrom 0 n).all fun i => match xlate s (agentOf s s.cur) .ls true (va + 64 * BitVec.ofNat 64 i) with
    | .bad _ => false
    | .page lo _ _ _ => grants lo .ls true
    | .scratch _ => true
theorem lines_open (s : State) (va : Word) (n : Nat) (h : linesOpen s va n = true) : LinesOpen s va n := by
  have mem : ∀ k a i, i < k → a + i ∈ rangeFrom a k := by
    intro k
    induction k with
    | zero => intro a i h; omega
    | succ k ih =>
      intro a i h
      cases i with
      | zero => exact List.mem_cons_self
      | succ i => exact List.mem_cons_of_mem _ (by rw [show a + (i + 1) = a + 1 + i by omega]; exact ih (a + 1) i (by omega))
  intro i hi
  have := List.all_eq_true.mp h i (by simpa using mem n 0 i hi)
  revert this
  cases xlate s (agentOf s s.cur) .ls true (va + 64 * BitVec.ofNat 64 i) <;> simp
def taskRead (s : State) (f : List Byte → State → Bool) : Bool :=
  match linesRead 2 (BitVec.ofNat 64 ((rs s 1).toNat / 128 * 128)) s with
  | some (bs, s1) => f bs s1
  | none => false
theorem witness_ttask :
    let s := tasking (recBytes 0 0x10000)
    srcBad s 1 = false ∧
    taskRead s (fun bs s1 =>
      decide ((recTile bs).level.toNat ≤ 5) && !fabricPending (me s1) 0 && recShape bs && recOp bs != 0x0A && recDone bs == 0 &&
      (let s2 := release s1 s1.cur 0 none
       linesOpen s2 (BitVec.ofNat 64 (recFault bs)) 6 &&
       match recTask s2 s2.cur 0xFFFFFFFFFFC00000 bs none 0 with | some t => decide ((queuedAt s2 t.unit).length < 256) | none => false)) = true ∧
    taskRead (tasking (recBytes 6 0x10000)) (fun bs _ => decide (5 < (recTile bs).level.toNat)) = true ∧
    taskRead (tasking (recBytes 0 0)) (fun bs _ => !recShape bs) = true ∧
    taskRead { s with dies := [(0, { tlb := [page1] })], tenants := [] } (fun bs s1 =>
      (recTask (release s1 0 0 none) 0 0xFFFFFFFFFFC00000 bs none 0).isNone && recShape bs) = true := by decide +kernel
/-- The record of a TRESUME, its fault area at the page's start: status, ORIGOP, ORIGW5, and NUM. -/
def resuming (st op : Nat) (tasks : List Task) : State :=
  { withMem (tasking (restoreWord (recBytes 0 0x10000) 0x0A 0)) 0
      ([0, 0, 0, BitVec.ofNat 8 op] ++ List.replicate 28 0 ++ leBytes 8 4 ++ List.replicate 8 0 ++ [BitVec.ofNat 8 st] ++ List.replicate 15 0) with tasks := tasks }
/-- What the TRESUME meets: its header read, whether its area is taken, its task, and the faulted task that it takes the area from. -/
def resumes (s : State) (f : State → List Byte → Bool → Option Task → Bool) : Bool :=
  taskRead s fun bs s1 =>
    recShape bs && recOp bs == 0x0A && recDone bs == 0 &&
    (let s2 := release s1 s1.cur 0 none
     linesOpen s2 (BitVec.ofNat 64 (recFault bs)) 6 &&
     match linesRead 1 (BitVec.ofNat 64 (recFault bs)) s2 with
     | some (h, s3) => f s3 h (areaTaken s3 (areaPlace s3 0 0 0 (recFault bs)))
         (recTask s3 0 0xFFFFFFFFFFC00000 (restoreWord bs (fieldAt h 3 1) (fieldAt h 4 4)) (some (fieldAt h 32 8)) 0)
     | none => false)
/-- The task that a TRESUME with a good area makes, as a queue holds it. -/
def resumed : List Task := match taskRead' with | some t => [t] | none => []
where
  taskRead' : Option Task :=
    match linesRead 2 0xFFFFFFFFFFC00000 (resuming 1 2 []) with
    | some (bs, s1) => recTask s1 0 0xFFFFFFFFFFC00000 (restoreWord bs 2 0) (some 4) 0
    | none => none
theorem witness_tresume_queued :
    resumes (resuming 1 2 []) (fun s3 h taken t => fieldAt h 48 1 == 1 && !taken && fieldAt h 3 1 == 2 && t.any fun t =>
      decide ((queuedAt s3 t.unit).length < 256) && (areaFault s3 t).isNone) = true ∧
    resumes (resuming 1 2 (resumed.map fun t => { t with resume := false, st := .faulted, id := 3 })) (fun s3 _ taken t => !taken && t.any fun t =>
      (areaFault s3 t).isSome) = true := by decide +kernel
theorem witness_tresume_refused :
    resumes (resuming 0 2 []) (fun _ h _ _ => fieldAt h 48 1 != 1) = true ∧ resumes (resuming 1 5 []) (fun _ h _ _ => decide (4 < fieldAt h 3 1)) = true ∧
    resumes (resuming 1 2 (resumed.map fun t => { t with id := 3 })) (fun _ _ taken _ => taken) = true ∧
    resumes { resuming 1 2 [] with tenants := [] } (fun _ h taken t => fieldAt h 48 1 == 1 && !taken && t.isNone) = true := by decide +kernel
/-- A member of stage 0 of a launch: it takes queue 0 and gives queue 1, both of 64-byte entries. -/
def queued (x y : StageQueue) : State :=
  { world { ctx0 with s := addrs, member := some ⟨7, 0, 1, 0⟩ } with launches := [(7, { launch1 with
    stages := [{ entry := 0, width := 1, prio := 0, min := 1, max := 1, inq := some 0, outq := some 1, arg := 0, span := 0 }], queues := [x, y] })] }
def q64 (es : List (List PB)) : StageQueue := { depth := 2, esize := 64, die := 0, entries := es }
def two64 : List (List PB) := [clean (List.replicate 64 1), clean (List.replicate 64 2)]
theorem queued_open : LinesOpen (queued (q64 two64) (q64 two64)) 0x10000 1 := lines_open _ _ _ (by decide +kernel)
theorem witness_stage_queues :
    let s := queued (q64 []) (q64 [])
    let t := queued (q64 two64) (q64 two64)
    isLight s.cur = false ∧ srcBad s 2 = false ∧ BitVec.ofNat 64 ((rs s 2).toNat / 64 * 64) = 0x10000 ∧ stageQueueOf s true 0 = none ∧
    stageQueueOf s false 1 = none ∧ stageQueueOf s true 1 = some (7, q64 []) ∧ stageQueueOf t true 1 = some (7, q64 two64) ∧
    stageQueueOf s false 0 = some (7, q64 []) ∧ stageQueueOf t false 0 = some (7, q64 two64) ∧ (q64 []).entries.length < (q64 []).depth ∧
    (q64 two64).depth ≤ (q64 two64).entries.length ∧ (linesRead 1 0x10000 s matches some _) = true ∧
    (linesStored 1 0x10000 (clean (List.replicate 64 1)) (acquireAll t 0 4) matches some _) = true ∧
    stageQueueOf (queued { q64 [] with closed := true } (q64 [])) false 0 = some (7, { q64 [] with closed := true }) ∧
    bitAt (me s).xsched 0 = false := by decide +kernel
theorem witness_rings :
    let s := { world { ctx0 with q := [(1, .ring [0, 1] 0 0 1), (2, .data 0 [])], s := [(1, 1), (2, 28), (3, 29)] } with
               cores := [(0, { claims := [(0, 0), (1, 0)] })] }
    isLight s.cur = false ∧ srcBad s 1 = false ∧ fld (rs s 1) 0 6 = 1 ∧ fld (rs s 2) 0 6 = 28 ∧ fld (rs s 3) 0 6 = 29 ∧ fld (rs s 4) 0 6 = 0 ∧
    (smGet (me s).q 1).isSome = true ∧ smGet (me s).q 3 = none ∧ (freeSlots (getCore s 0)).length < 28 ∧ 1 ≤ (freeSlots (getCore s 0)).length ∧
    ringOf (me s) 2 = none ∧ ringOf (me s) 1 = some ([0, 1], 0, 0, 1) ∧ ringUsed (me s) 1 = false ∧
    (let u := world { (me s) with mx := [{ num := 1, op := 0, w := tile, fte := 0, guardOff := false, key := 0, tenant := 0, cores := [0], stamp := 0 }] }
     ringOf (me u) 1 = some ([0, 1], 0, 0, 1) ∧ ringUsed (me u) 1 = true ∧ bitAt (me u).xsched 0 = false) := by decide +kernel

/-- Entry 5 of tenant 0's Catalogue partition, with its four version records. -/
def entry5 (vs : List VRec) : CatEntry := { part := 0, handle := 5, tenant := 0, pub := 7, home := 0x1FFF, kslot := 9, lastver := 2, vrec := vs }
def current1 : VRec := { ver := 1, st := .current, nsite := 1, npage := 1 }
def staged2 : VRec := { ver := 2, st := .staged, pidx := 1, npage := 1 }
/-- A world of `tables` with a Catalogue, a handle key in slot 9, and a pool of frame 16 and the DIRTY frame 17. -/
def catWorld (en : CatEntry) : State :=
  { tables with
    ctxs := [(0, { ctx0 with s := [(1, 5), (2, 0xFFFFFFFFFFC00000), (3, 1), (4, 6), (6, 9)] })], catalogue := [en]
    keys := [(9, { kind := 1, tenant := 0, key0 := some 0, key1 := none, cur := 0 })]
    parts := [(0, { (getPart tables 0) with pool := [16, 17] })], frames := [(16, 2)] }
/-- An ADMIT's descriptor of a handle with a seal, its token at 0x100 of the scratchpad. -/
def admitBytes (handle sealV tok : Nat) : List Byte := leBytes 4 handle ++ leBytes 4 sealV ++ leBytes 8 0 ++ leBytes 8 tok ++ List.replicate 8 0
def admitting (s : State) (handle sealV tok : Nat) (f : State → AdmitDesc → Bool) : Bool :=
  let s := withPad s 0 (admitBytes handle sealV tok)
  loads (loadAt 0 (BitVec.ofNat 64 ((rs s 2).toNat / 32 * 32)) 32 s) fun bs s1 =>
    (me s).homeAdmit == none && srcBad s 2 == false && f s1 (admitDesc bs)
def token100 : Nat := 0xFFFFFFFFFFC00100
theorem witness_admit :
    let s := catWorld (entry5 [current1, {}, {}, {}])
    let at_ (en : CatEntry) (f : State → CatEntry → AdmitDesc → Bool) :=
      admitting (catWorld en) 5 0 token100 fun u x => match entryOf u 0 x.handle with | some en => x.ok && f u en x | none => false
    admitting s 5 0 (token100 + 1) (fun u x => linesOpen u x.tok 1 && !x.ok) = true ∧
    admitting s 6 0 token100 (fun u x => linesOpen u x.tok 1 && x.ok && (entryOf u 0 x.handle).isNone) = true ∧
    at_ { entry5 [] with home := 3 } (fun u en _ => isReplica en && (peerCheck u 0 0 3).isNone) = true ∧
    at_ { entry5 [] with tenant := 4 } (fun u en x => !isReplica en && homeChecks u en 0 x.sealV x.nonce == (2, none)) = true ∧
    at_ { entry5 [] with kslot := 8 } (fun u en x => homeChecks u en 0 x.sealV x.nonce == (3, none)) = true := by decide +kernel
/-- A good seal: an ADMIT of a CURRENT version passes, and one of an entry without it ends with 4. -/
theorem witness_admit_sealed :
    let goodSeal := sealUnder 0 (sealMessage 5 0 0)
    let at_ (en : CatEntry) (f : State → CatEntry → AdmitDesc → Bool) :=
      admitting (catWorld en) 5 goodSeal token100 fun u x => match entryOf u 0 x.handle with | some en => x.ok && f u en x | none => false
    at_ (entry5 [current1, {}, {}, {}]) (fun u en x => linesOpen u x.tok 1 && !isReplica en && homeChecks u en 0 x.sealV x.nonce == (0, some current1) &&
      !overQuota u 0 (verInfo u current1) && freeAdmission u == some 1 &&
      loads (storeAt 0 x.tok (tokenBytes 1 (nextGen u.gen) 5 1 0) u) fun _ _ => true) = true ∧
    at_ (entry5 []) (fun u en x => homeChecks u en 0 x.sealV x.nonce == (4, none)) = true := by decide +kernel
theorem witness_admit_replica :
    let s := fabWorld { ctx0 with s := [(2, 0xFFFFFFFFFFC00000)] } []
    admitting { s with catalogue := [{ entry5 [] with home := 0 }] } 5 0 token100
      (fun u x => x.ok && (match entryOf u 0 x.handle with | some en => isReplica en && peerCheck u 0 0 en.home == some 5 | none => false)) = true := by
  decide +kernel
theorem witness_admit_over_quota :
    let s := catWorld (entry5 [current1, {}, {}, {}])
    overQuota { s with tenants := [], mem := memSetCells s.mem 0x100000 (leBytes 4 64 ++ leBytes 4 128 ++ leBytes 2 1 ++ leBytes 2 1) } 0
      (verInfo { s with mem := memSetCells s.mem 0x100000 (leBytes 4 64 ++ leBytes 4 128 ++ leBytes 2 1 ++ leBytes 2 1) } current1) = true := by decide +kernel
/-- A table that lists every key from `a` on for `n` keys. -/
theorem all_listed {α : Type} (x : α) : ∀ (n a i : Nat), a ≤ i → i < a + n → smGet ((rangeFrom a n).map fun k => (k, x)) i = some x := by
  intro n
  induction n with
  | zero => intro a i _ _; omega
  | succ n ih =>
    intro a i ha hb
    by_cases e : a = i
    · simp [rangeFrom, smGet, e]
    · have := ih (a + 1) i (by omega) (by omega)
      simpa [rangeFrom, smGet, e, Ne.symm e] using this
theorem mem_range : ∀ (n a i : Nat), i ∈ rangeFrom a n → a ≤ i ∧ i < a + n := by
  intro n
  induction n with
  | zero => intro a i h; simp [rangeFrom] at h
  | succ n ih =>
    intro a i h
    simp only [rangeFrom, List.mem_cons] at h
    rcases h with rfl | h
    · omega
    · have := ih (a + 1) i h; omega
def anAdmission (n : Nat) : Admission := { part := 0, tenant := 0, handle := 5, ver := 1, gen := 3, refs := n }
/-- Every admission record is in use. -/
theorem witness_admissions_full : freeAdmission { w0 with admissions := (rangeFrom 1 16383).map fun k => (k, anAdmission 1) } = none := by
  unfold freeAdmission
  rw [List.find?_eq_none]
  intro i hi
  have := mem_range _ _ _ hi
  simp [all_listed (anAdmission 1) 16383 1 i (by omega) (by omega)]
theorem witness_pins :
    let s (n : Nat) := { withPad (catWorld (entry5 [current1, {}, {}, {}])) 0 (tokenBytes 1 3 5 1 0) with admissions := [(1, anAdmission n)] }
    let at_ (n : Nat) (f : State → Token → Bool) := loads (loadAt 0 (BitVec.ofNat 64 ((rs (s n) 2).toNat / 16 * 16)) 16 (s n)) fun bs u => f u (tokenOf bs)
    srcBad (s 1) 2 = false ∧
    at_ 1 (fun u k => tokenAdmission u 0 0 k == some (anAdmission 1) && tenantIn u 0 0) = true ∧
    at_ 2 (fun u k => tokenAdmission u 0 0 k == some (anAdmission 2)) = true ∧
    at_ 65535 (fun u k => tokenAdmission u 0 0 k == some (anAdmission 65535)) = true ∧
    at_ 1 (fun u k => (tokenAdmission u 0 0 { k with gen := 4 }).isNone) = true ∧
    isSupervisor (me (s 1)) = true := by decide +kernel

theorem witness_apage :
    let s (en : CatEntry) := catWorld en
    let h (en : CatEntry) := (entryFor (s en) (myPart (s en)) 0 5) == some en
    let one := s (entry5 [{}, {}, {}, {}])
    srcBad one 1 = false ∧ fld (rs one 1) 0 20 = 5 ∧ fld (rs one 3) 0 24 = 1 ∧ fld (rs one 7) 0 24 = 0 ∧ fld (rs one 6) 0 24 = 9 ∧
    (entryFor one 0 0 (fld (rs one 4) 0 20)).isNone = true ∧ h { entry5 [] with home := 3 } = true ∧ h { entry5 [] with tenant := 4 } = true ∧
    h (entry5 [staged2]) = true ∧ recIn (entry5 [staged2]) .staged = some staged2 ∧ recIn (entry5 [{}]) .staged = none ∧
    factorPages one 0 < pagesCharged one 0 + 9 ∧ pagesCharged one 0 + 1 ≤ factorPages one 0 ∧ recIn (entry5 []) .free = none ∧
    recIn (entry5 [{}, {}]) .free = some {} ∧
    ((getPart one 0).pool[0]? = some 16 ∧ 0 ∉ (getPart one 0).poolUsed ∧ frameState one 16 = 2) ∧ frameState one 17 ≠ 2 := by decide +kernel
/-- No run of one free page: the pool's only page is DIRTY. -/
theorem witness_apage_no_run (k : Nat) :
    ∃ j, k ≤ j ∧ j < k + 1 ∧ ¬∃ f, ([17] : List Nat)[j]? = some f ∧ j ∉ (getPart (catWorld (entry5 [])) 0).poolUsed ∧ frameState (catWorld (entry5 [])) f = 2 := by
  refine ⟨k, Nat.le_refl _, by omega, ?_⟩
  rintro ⟨f, hf, -, h2⟩
  cases k with
  | zero =>
    simp at hf
    subst hf
    exact absurd h2 (by decide +kernel)
  | succ k => simp at hf
theorem witness_apub :
    let pub (flags : Nat) := [0, BitVec.ofNat 8 flags, 1, 0] ++ List.replicate 12 0
    let at_ (en : CatEntry) (flags : Nat) (dir : List Byte) (f : State → CatEntry → VRec → List Byte → Bool) :=
      let s := withPad (catWorld en) 0 (pub flags)
      let s := { s with mem := memSetCells s.mem (65536 * 17) dir }
      loads (loadAt 0 (BitVec.ofNat 64 ((rs s 2).toNat / 16 * 16)) 16 (release s 0 4 none)) fun bs u =>
        match entryFor u 0 0 (fld (rs s 1) 0 20) with
        | some en => (match recIn en .staged with | some v => f u en v bs | none => false)
        | none => false
    let ok (u : State) (v : VRec) (bs : List Byte) := match pubDesc bs with
      | some x => slabOk u { v with rank := x.rank, ffmt := x.ffmt, fscl := x.fscl, nsite := x.nsite, alpha := x.alpha }
      | none => false
    at_ (entry5 [{ current1 with pins := 1 }, staged2]) 2 [] (fun u en v bs => ok u v bs && (recIn en .current).any fun o => o.pins != 0) = true ∧
    at_ (entry5 [current1, staged2]) 2 [] (fun u en v bs => ok u v bs && (recIn en .current).any fun o => o.pins == 0) = true ∧
    at_ (entry5 [staged2]) 2 [] (fun u _ v _ => !anyBad (runBytes u { v with nsite := 1 } 0 16)) = true ∧
    at_ (entry5 [staged2]) 2 (List.replicate 8 0 ++ [0, 0x80]) (fun u _ v bs => !ok u v bs && (pubDesc bs).isSome) = false ∧
    at_ (entry5 [staged2]) 2 [1] (fun u _ v bs => !ok u v bs && (pubDesc bs).isSome) = true ∧
    at_ (entry5 [staged2]) 0 [] (fun _ _ _ bs => (pubDesc bs).isNone) = true ∧
    recIn (entry5 [current1]) .staged = none ∧
    anyBad (runBytes { catWorld (entry5 [staged2]) with poison := [.mem (65536 * 17 / 8)] } { staged2 with nsite := 1 } 0 16) = true := by decide +kernel

/-- A light context 1 whose image of count 3, with nothing in it, stands at the page's start under a tag that matches. -/
def head1 : ImageHead := { light := true, flags := 2, cnt := 3, place := 1, tenant := 0, live := 0, qtrs := 0, slots := 0, meta_ := 0, off := 0, span := 0, inst := 0 }
def saver (c : Ctx) : State :=
  { tables with
    cur := 1, ctxs := [(1, { c with s := [(1, 0x100000), (2, 0x1000), (3, 0x1001)], ckcnt := 3 })], scnt := [(1, 3)]
    keys := [(8176, { kind := 3, tenant := 0, key0 := some 0, key1 := none, cur := 0 })]
    saved := [((1, 3), { ctx := { low0 with pc := 0x10040 }, part := {} })] }
def imaged : State :=
  let tag := gcmTag (roundKeys (kdf 0 (leBytes 2 1 ++ leBytes 2 0)).toNat) (imageIv 1 3) (headBytes head1) (List.replicate 1024 0)
  { saver low0 with mem := memSetCells (saver low0).mem 0x100000 (headBytes head1 ++ tag) }
/-- What writing the image of context 1 with count 4 answers, after the count is taken. -/
def writesImage (s : State) (f : SaveRes → Bool) : Bool :=
  f (writeImage 1 4 2 0 0 (2 ^ 32) 0x100000 { (me s) with ckcnt := 4 } { onMe s rewound with scnt := smPut s.scnt 1 4 })
theorem witness_save_conditions :
    let s := saver low0
    srcBad s 1 = false ∧ (me s).mid = false ∧ spanOk (fld (rs s 3) 32 32) (fld (rs s 3) 0 32) = false ∧
    spanOk (fld (rs s 2) 32 32) (fld (rs s 2) 0 32) = true ∧ spanOk (fld (rs s 4) 32 32) (fld (rs s 4) 0 32) = true ∧
    saveReady s 1 = true ∧ saveReady (saver { low0 with tc := [(7, { issued := 1, pending := [1] })] }) 1 = false ∧
    (me s).run = .runnable := by decide +kernel
theorem witness_saves : writesImage (saver low0) (fun r => match r with | .ok n _ => n == 4 | _ => false) = true := by decide +kernel
theorem witness_saves_poisoned :
    writesImage { saver low0 with poison := [.sreg 1 5] } (fun r => match r with | .bad 6 0 _ => true | _ => false) = true := by decide +kernel
def loaded (s : State) (f : LoadRes → Bool) : Bool := f (loadImage s 1 0 0 (me s).ckcnt.toNat 0x100000)
theorem witness_restores :
    loaded imaged (fun r => match r with | .ok _ p => !p.ctx.refill && p.ctx.pc == 0x10040 | _ => false) = true := by decide +kernel
theorem witness_restore_conditions :
    (match imageRead imaged 1 (myPart imaged) 0 0x100000 256 with | .ok _ => true | _ => false) = true ∧
    loaded (saver low0) (fun r => match r with | .refused 3 => true | _ => false) = true ∧ myPart imaged = 0 ∧
    saveReady imaged 1 = true ∧ srcBad imaged 1 = false := by decide +kernel

/-- A loop of one word, of two stages or one, at its end: index `n` of 3, the predicates `p`. -/
def loopEnd (stages n p drn : Nat) (cut : Bool) : State :=
  world { ctx0 with xloop := BitVec.ofNat 64 (2 ^ 24 + drn * 2 ^ 25 + (stages - 1) * 2 ^ 15 + 5 * 2 ^ 18), bodyAt := 0x10000, pc := 0x10004, xstagep := BitVec.ofNat 64 p,
                    bodyTrips := [3], l := [(64, 3), (65, BitVec.ofNat 64 n)], drainCut := cut }
theorem witness_loop_passes :
    let at_ (s : State) (f : Ctx → Nat → Nat → Option (List Nat) → Bool) :=
      let c := me s
      let stages := fld c.xloop 15 3 + 1
      let dims := fld c.xloop 8 3 + 1
      let base := fld c.xloop 11 4
      bitAt c.xloop 24 && !c.mid && c.pc == c.bodyAt + BitVec.ofNat 64 (4 * (fld c.xloop 0 8 + 1)) && decide (base + 2 * dims ≤ 16) &&
        f c stages dims (stepTuple c.bodyTrips ((rangeFrom 0 dims).map fun d => (lget c 4 (base + 2 * d + 1)).toNat))
    let p (c : Ctx) (stages : Nat) (next : Option (List Nat)) := (fld c.xstagep 0 8 * 2 + (if next.isSome then 1 else 0)) % 2 ^ stages
    at_ (loopEnd 2 1 1 0 false) (fun c st _ n => !bitAt c.xloop 25 && n == some [2] && p c st n != 0 && fld c.xloop 18 6 == 5) = true ∧
    at_ (loopEnd 2 2 2 0 false) (fun c st _ n => n == none && p c st n == 0) = true ∧
    at_ (loopEnd 1 1 1 0 false) (fun c st _ n => n.isSome && st == 1 && p c st n == 1) = true ∧
    at_ (loopEnd 2 1 2 1 false) (fun c st _ _ => bitAt c.xloop 25 && !c.drainCut && fld c.xstagep 0 8 * 2 % 2 ^ st == 0) = true ∧
    at_ (loopEnd 2 1 2 1 true) (fun c st _ n => bitAt c.xloop 25 && c.drainCut && fld c.xstagep 0 8 * 2 % 2 ^ st == 0 && n.isSome) = true ∧
    at_ (loopEnd 2 2 2 1 true) (fun c st _ n => c.drainCut && fld c.xstagep 0 8 * 2 % 2 ^ st == 0 && n.isNone) = true := by decide +kernel

/-- A nest of one block of two bytes at an address, its first or only position a pad or not, into q1. -/
def nest1 (a : Word) (lead : Nat) : Nest :=
  { f := { dims := 0, l := 0, s := 0, lead := lead, trail := 0, link := false, blocks := 0 }, base := a, pitch := 0, trips := [1], strides := [0], pos := 0 }
def gen1 : AGenF := { q := 1, base := 0, pitch := 1, rows := 0, bytes := 0 }
def nesting (n : Nat) (x : Option Nest) (bs : List QBlock) : State :=
  world { ctx0 with eng := [(n, { st := .running, gen := some gen1, nest := x, cmd := 0x10000 })], q := [(1, .data n bs)] }
theorem witness_engine_blocks :
    let ok (n : Nat) (a : Word) (bad : Bool) :=
      let s := nesting n (some (nest1 a 0)) []
      let num := (takeEngNum (me s) n).1
      match (readRows (engAgent s 0 n num) (genBytes gen1) 0 (genRows gen1) (setCtx s 0 (showTuple (takeEngNum (me s) n).2 n (nest1 a 0) 0)) ((nest1 a 0).addr 1 0) []) with
      | (.ok _ _, _) => !bad
      | (.fault 3 _ _, _) => bad
      | _ => false
    let wr (b : QBlock) :=
      let s := nesting 2 (some (nest1 0x10000 0)) [b]
      match writeRows (engAgent s 0 2 1) (genBytes gen1) 0 b (genRows gen1) 0 (setCtx s 0 (showTuple (takeEngNum (me s) 2).2 2 (nest1 0x10000 0) 0)) 0x10000 with
      | .ok _ _ => true
      | _ => false
    let cmd (s : State) (f : Option Instr → Bool) :=
      match rangeRead (engAgent s 0 0 0) .ar 8 s 0x10000 8 [] with | .ok bs _ => !anyBad bs && f (decodeAae 0 0 (valueOf bs)) | _ => false
    (engOf (me (nesting 0 none [])) 1).st = .idle ∧ (engOf (me (nesting 0 none [])) 0).st = .running ∧ (engOf (me (nesting 0 none [])) 0).redo = [] ∧
    (nest1 0 1).pos < (nest1 0 1).total ∧ (nest1 0 1).realAt = none ∧ (nest1 0 0).pos < (nest1 0 0).total ∧ (nest1 0 0).realAt = some 0 ∧
    (qblocks (me (nesting 0 none [])) 1).length < 4 ∧ ok 0 0x10000 false = true ∧ ok 1 0x20000 true = true ∧
    qblocks (me (nesting 2 none [{ data := 0 }])) 1 = [{ data := 0 }] ∧ wr { data := 0 } = true ∧ ({ data := 0, skipped := true } : QBlock).skipped = true ∧
    (engOf (me (nesting 0 none [])) 0).nest = none ∧ cmd (nesting 0 none []) (fun i => i == some (.aend 0 0)) = true ∧
    cmd (withMem (nesting 0 none []) 0 [1]) (fun i => i.isNone) = true ∧
    (engOf { ctx0 with eng := [(0, { st := .halted })] } 0).st = .halted ∧
    (engOf { ctx0 with eng := [(0, { st := .halted, cause := 3, redo := [(1, { data := 0 })], redoNum := some 4 })] } 0).redoNum.isSome = true := by decide +kernel

/-- The array of core 0 with a word in flight. -/
def arraying (f : Nat) (o : MxOp) : State :=
  let s := rings f
  setCtx s 0 { (me s) with mx := [o], tc := [(5, { issued := 1, pending := [1] })] }
def mxOp (op : Nat) (w : TileW) : MxOp := { num := 1, op := op, w := w, fte := 0x80000022, guardOff := false, key := 0, tenant := 0, cores := [0], stamp := 0 }
/-- A TEPI of the side path over one group of 8 rows, bound to an entry in a state. -/
def correcting (st : BindState) : State :=
  let s := arraying 0 (mxOp 4 { bare with side := true, group := 3, m := 8, out := 2 })
  { s with cores := [(0, { (getCore s 0) with bind := [(0, { st := st, key := { part := 0, tenant := 0, handle := 5, ver := 1, site := 0 }, rank := 3, alpha := 0, ffmt := 0, fscl := false, aoff := 0, boff := 0, kd := 64, nd := 64 })] })] }
theorem witness_matrix_steps :
    let held (s : State) := match (getCtx s 0).mx.find? (fun x => x.num == 1) with
      | some o => !o.guardOff && tepiOpen 0 o (mxWord o) && (panels 0 (mxWord o) o.cores).any fun p =>
          (groupsLeft o (mxWord o) p).any fun g => (groupOf (mxWord o) p g).any fun r => rowHeld (getCore s p.core) (mxWord o) p r
      | none => false
    let at_ (s : State) (f : MxOp → Bool) := match (getCtx s 0).mx.find? (fun x => x.num == 1) with | some o => f o | none => false
    at_ (arraying 0 (mxOp 0 tile)) (fun o => !stepReady (arraying 0 o) 0 o) = true ∧
    at_ (arraying 2 (mxOp 0 tile)) (fun o => stepReady (arraying 2 o) 0 o && (mxWord o).kind == .tmma && decide ((mxWord o).level ≤ 1) && !(mxWord o).w.side &&
      decide ((mxWord o).steps ≤ o.step + 1) && (panels 0 (mxWord o) o.cores).any fun p => decide (0 < p.rows ∧ p.cols ≤ 128)) = true ∧
    at_ (arraying 2 (mxOp 0 { tile with k := 256 })) (fun o => stepReady (arraying 2 o) 0 o && decide (o.step + 1 < (mxWord o).steps)) = true ∧
    at_ (arraying 0 (mxOp 2 bare)) (fun o => stepReady (arraying 0 o) 0 o && (mxWord o).kind == .tzero &&
      (panels 0 (mxWord o) o.cores).any fun p => decide (0 < p.rows ∧ 0 < p.cols)) = true ∧
    at_ (correcting .resident) (fun o => stepReady (correcting .resident) 0 o && (mxWord o).kind == .tepi) = true ∧ held (correcting .resident) = false ∧
    at_ (correcting .missing) (fun o => !stepReady (correcting .missing) 0 o) = true ∧ held (correcting .missing) = true := by decide +kernel
/-- Two groups of 4 rows, the second of them held: the word steps and stays. -/
theorem witness_matrix_step_stays :
    let s := correcting .missing
    let w := { bare with side := true, group := 2, m := 8, out := 2 }
    let s := setCtx s 0 { (me s) with mx := [mxOp 4 w] }
    let s := { s with cores := [(0, { (getCore s 0) with bind := (getCore s 0).bind.map fun e => (1, e.2) })] }
    (match (getCtx s 0).mx.find? (fun x => x.num == 1) with
    | some o => stepReady s 0 o && tepiOpen 0 o (mxWord o) && decide ((mxWord o).m ≤ 128)
    | none => false) = true := by decide +kernel

/-- A TSTAGE of two slots of ring q1, one row of 64 bytes each: a fill, or a drain. -/
def stageW (drain : Bool) : TileW := { tile with aRing := 1, bRing := 0, m := 1, n := 2, k := 64, w5 := if drain then 0x1000 else 0 }
def staging (drain off : Bool) (pos f : Nat) : State :=
  let s := rings f
  setCtx s 0 { (me s) with l := [(48, 0x10000)], tc := [(4, { issued := 1, pending := [1] })], copies :=
    [{ num := 1, kind := .stage (stageW drain) 64 off 0, view := 0, tagged := false, tenant := 0, pos := pos }] }
theorem witness_staging :
    let at_ (s : State) (f : CopyOp → Bool) := match copyOf s 0 1 with | some o => f o | none => false
    let ready (d : Bool) (s : State) := at_ s fun o => stageReady s 0 o (stageW d) 0
    let fills (s : State) := at_ s fun o => match fillRows (copyAgent s 0 o) (getCtx s 0) (stageW false) 64 1 0 [] s with | .ok _ _ => true | _ => false
    let drains (s : State) := at_ s fun o =>
      let ag := copyAgent s 0 o
      let c := getCtx s 0
      let later := slotBlocks (stageW true) 64 ((stageW true).n.toNat - o.pos - 1) (stepBase (stageW true) c)
      let ps := (o.kept ++ drainRows s 0 (stageW true) 64 (ringSlot c 1 0)).filter fun p => !pieceWaits s ag later p
      match drainPieces ag ps [] ps s with | .ok _ _ => true | _ => false
    stageDrains (stageW false) = false ∧ stageDrains (stageW true) = true ∧ (stageW true).n.toNat = 2 ∧ (stageW false).m.toNat = 1 ∧ (stageW false).row0 = 0 ∧
    ready false (staging false false 0 0) = true ∧ ready false (staging false true 1 0) = true ∧ ready false (staging false false 0 2) = false ∧
    ready true (staging true false 0 1) = true ∧ ready true (staging true false 0 0) = false ∧
    ringOf (getCtx (staging false false 0 0) 0) 1 = some ([0, 1], 0, 0, 0) ∧ fills (staging false false 0 0) = true ∧ drains (staging true false 1 1) = true := by
  decide +kernel

/-- Context 0 in a state of running and waiting, of a partition with a refuted node 2. -/
def turning (c : Ctx) : State := { world c with parts := [(0, table)] }
def waiting (w : Wait) (due : Option Nat) (fired : Bool) : State :=
  { turning { ctx0 with run := .waiting, wait := some w, due := due, watchFired := fired } with cycle := 10 }
theorem witness_waits :
    let mon := Wait.monitor true 3
    (getCtx (waiting mon (some 10) true) 0).run = .waiting ∧ waitMet (waiting mon none true) 0 = true ∧ waitMet (waiting mon none false) 0 = false ∧
    (getCtx (waiting mon (some 10) false) 0).due = some 10 ∧ reached (waiting mon (some 11) false) 11 = false ∧ reached (waiting mon (some 10) false) 10 = true ∧
    waitMet (waiting (.versionSpace 0x4000 0) (some 10) false) 0 = true ∧
    waitMet { waiting (.versionSpace 0x4000 0) (some 10) false with parts := [(0, { table with vstore := [0, 0, 0, 0] })] } 0 = false := by decide +kernel
theorem witness_boundaries :
    let c : Ctx := { ctx0 with xhyp := 2, xovec := 0x8004 }
    let s := turning c
    let loop : Ctx := { ctx0 with xloop := 2 ^ 24, bodyAt := 0x10000, prqDue := some 10 }
    (me s).run = .runnable ∧ inBundle (me s) = false ∧ exitsHere (me s) = false ∧ (getNode (getPart s (partOf s 0)) (viewOf (me s))).st = .refuted ∧
    (getNode (getPart (turning { c with run := .waiting, wait := some .engines }) 0) 2).st = .refuted ∧
    BitVec.ofNat 64 ((me s).xovec.toNat / 4 * 4) ≠ 0 ∧ (me w0).xovec = 0 ∧
    ({ ctx0 with exiting := some 0x10000 } : Ctx).exiting = some ctx0.pc ∧ ctx0.mid = false ∧ bitAt ctx0.xstat 0 = false ∧
    bitAt ({ ctx0 with xstat := 0x101 } : Ctx).xstat 0 = true ∧ fld (0x101 : Word) 8 56 ≠ 0 ∧ fld ctx0.xstat 8 56 = 0 ∧
    inBundle loop = false ∧ draining loop = false ∧ inBody loop loop.pc = true ∧ inBody { loop with pc := 0x10004 } 0x10004 = false := by decide +kernel

theorem witness_stopped_contexts :
    let c : Ctx := { ctx0 with run := .stopped, xtrappc := 0x20004 }
    let s := world c
    let h : HeldBundle := { next := 0x20004, jump := some 0x30000, back := [] }
    (getCtx s 0).run = .stopped ∧ s.fatal = false ∧ c.refill = false ∧ c.stopHeld = none ∧ c.trapped = false ∧ requestPending s 0 = false ∧
    requestPending (world { c with xsched := 1 }) 0 = true ∧
    restFrom s 0 0x20004 none = none ∧ restFrom (world { c with trapped := true, stopHeld := some h }) 0 0x20004 (some h) = some h ∧
    restFrom (world { c with stopHeld := some h }) 0 0x40000 (some h) = none ∧
    requestPending (world { c with refill := true, xloop := 2 ^ 24 + 2 ^ 25 }) 0 = false ∧ ({ s with fatal := true } : State).fatal = true := by decide +kernel
def arrival : HandlerReq := { pc := 0x10000, addr := 0x20000, len := 64, src := 5, tenant := 0 }
theorem witness_handlers :
    let s := { w0 with clusters := [(0, { part := some 0, handlers := [arrival] })] }
    s.fatal = false ∧ firstDormant s 0 = some 1 ∧
    (takeRequest (fun r => coreAdmits s 0 (worldOf s r.tenant)) (getCluster s 0).handlers == some (arrival, [])) = true := by decide +kernel
/-- A light context that is being saved: no save area, or one whose header counts two cells of 4,096 bytes. -/
def savingTo (area : Nat) : State :=
  let s := saver { low0 with run := .saving }
  { s with parts := [(0, { (getPart s 0) with save := area })], mem := memSetCells s.mem 0x100000 (leBytes 4 4096 ++ leBytes 4 2), frames := [(16, 3), (17, 3)] }
theorem witness_image_written :
    let s0 (a : Nat) := setCtx (savingTo a) 1 (rewound (getCtx (savingTo a) 1))
    let s1 (a : Nat) := (takeCnt (s0 a) 1).2
    (getCtx (savingTo 0) 1).run = .saving ∧ saveReady (savingTo 0) 1 = true ∧ (saveArea (s1 0) 1).1 = 0 ∧
    saveArea (s1 0x100000) 1 = (0x100000, 0) ∧ (takeCnt (s0 0x100000) 1).1 = 4 ∧
    (freeCell (s1 0x100000) 0 0 0x100000 matches .ok (some (0, 4096))) = true ∧ cellAddr 0x100000 4096 0 = 0x110000 := by decide +kernel
def storesImage (s : State) : Bool :=
  let s := (takeCnt (setCtx s 1 (rewound (getCtx s 1))) 1).2
  match writeImage 1 4 0 0 0 4096 0x110000 (getCtx s 1) s with | .ok n _ => n == 4 | _ => false
theorem witness_image_stored : storesImage (savingTo 0x100000) = true := by decide +kernel
/-- The USED bit is written, and is not where the area's header cannot be. -/
theorem witness_used_bit :
    (setUsed (savingTo 0x100000) 0 0 0x100000 0 true matches .ok _) = true ∧
    (setUsed { savingTo 0x100000 with poison := [.mem (0x100040 / 8)] } 0 0 0x100000 0 true matches .error _) = true := by decide +kernel

/-- A request of 64 bytes of tenant 3 behind one of tenant 2 at core 0's port. -/
def porting (b : Nat) : State :=
  { w0 with cores := [(0, { portWait := [⟨2, 64, some (.ctx 0)⟩, ⟨3, 64, none⟩], buckets := [(3, b)], portSeen := [3] })] }
theorem witness_ports :
    (headRequest 3 (getCore (porting 64) 0).portWait).map (fun (r : PortReq × List PortReq) => (r.1.bytes, r.2.length)) = some (64, 1) ∧
    smGetD (getCore (porting 63) 0).buckets 3 0 < 64 ∧ 64 ≤ smGetD (getCore (porting 64) 0).buckets 3 0 ∧ 15 < 16 := by decide +kernel

/-- A task of quad 0 over a TZERO of two column blocks, its place given, its queue's unit, its tile at an address. -/
def quad0 : UnitId := { level := 2, n := 0, part := 0 }
def taskBytes (tileAt : Nat) : List Byte :=
  (encode (.tzero { bare with level := 2, m := 8, n := 256, e := false })).flatMap (leBytes 4) ++
    List.replicate 16 0 ++ leBytes 8 tileAt ++ List.replicate 56 0 ++ leBytes 8 0x10000 ++ List.replicate 12 0 ++ leBytes 4 512
def task7 : Task :=
  { id := 7, unit := quad0, seq := 1, prio := 0, bytes := taskBytes 0x110000, addr := 0, ctx := 0, num := 1, tenant := 0, view := 0, fte := 0x80000022,
    key := 0, lid := none, owner := 0, full := 0, itenant := 0, inst := 0, fuse := true, place := some (0, 0), waits := [], resume := false }
def tasked (ts : List Task) : State := { tasking [] with tasks := ts, frames := [(16, 3), (17, 3)] }
/-- Whether what a task's end writes lies in filled granules. -/
theorem area_filled (s : State) (t : Task) (va n : Nat) (h : (inWindow (natW va) && (unfilled (getCore s (coreOf t.ctx)) (va % 2 ^ 22) n).isSome) = false) :
    AreaFilled s t va n := by
  intro hw
  simpa [hw] using h
theorem witness_area_filled : AreaFilled (tasked [task7]) task7 (recFault task7.bytes) 384 ∧ AreaFilled (tasked [task7]) task7 0xFFFFFFFFFFC00000 8 :=
  ⟨area_filled _ _ _ _ (by decide +kernel), area_filled _ _ _ _ (by decide +kernel)⟩
/-- A task whose fault area lies in a granule of a map region that is not filled yet. -/
def windowed : Task :=
  { task7 with place := none, bytes := (taskBytes 0x110000).take 104 ++ leBytes 8 0xFFFFFFFFFFC00000 ++ (taskBytes 0x110000).drop 112 }
def unfilledArea : State :=
  { tasked [windowed] with cores := [(0, { regions := [(0, { owner := 0, gbase := 0x10000, off := 0, len := 65536 })] })] }
theorem witness_area_not_filled :
    inWindow (natW (recFault windowed.bytes)) = true ∧ unfilled (getCore unfilledArea 0) (recFault windowed.bytes % 2 ^ 22) 384 ≠ none ∧
    taskPick unfilledArea quad0 = some windowed ∧ windowed.place = none ∧ windowed.resume = false := by decide +kernel
theorem witness_tasks_selected :
    let s := tasked [task7]
    (getPart s 0).quiesced = false ∧ taskBusy s quad0 < 4 ∧ taskPick s quad0 = some task7 ∧ stageNeed task7 ≤ stagingShare s 0 (taskDie task7) ∧
    kidsLeft (kidCount task7) task7.done ≠ [] ∧ kidCount task7 = 2 ∧ taskPick (tasked [{ task7 with resume := true }]) quad0 = some { task7 with resume := true } ∧
    taskPick (tasked [{ task7 with place := none }]) quad0 = some { task7 with place := none } ∧ taskPick (tasked []) quad0 = none ∧
    4 ≤ taskBusy (tasked ((rangeFrom 1 4).map fun i => { task7 with id := i, st := .running })) quad0 ∧
    (getPart { s with parts := [(0, { part0 with quiesced := true })] } 0).quiesced = true := by decide +kernel
theorem witness_tasks_resumed :
    let k := { task7 with st := .taken, resume := true, mapAt := 128 }
    let s := tasked [k]
    let s1 := issuerPut k (recFault k.bytes + 48) [2] s
    let map := issuerRead s k (recFault k.bytes + k.mapAt) 256
    s.tasks.find? (fun t => t.id == 7 && t.st == .taken) = some k ∧ k.place ≠ none ∧ stageNeed k ≤ stagingShare s1 0 (taskDie k) ∧
    (readWait map).isNone = true ∧ (readWait (issuerRead s k (recFault k.bytes + 64) 64)).isNone = true ∧
    (readWait (issuerRead s k (recFault k.bytes) 64)).isNone = true ∧
    kidsLeft (kidCount k) ((rangeFrom 0 (kidCount k)).filter (natBit (leNat (areaBytes map 256)))) ≠ [] := by decide +kernel
theorem witness_tasks_resume_waits :
    let k := { windowed with place := some (0, 0), st := .taken, resume := true, mapAt := 128 }
    let s := { unfilledArea with tasks := [k] }
    (issuerRead s k (recFault k.bytes + k.mapAt) 256 matches .error (.wait _)) = true := by decide +kernel
/-- What running child 0 of task 7 brings, tested. -/
def running (k : Task) : Task := { k with st := .running, order := 2, pass := if k.pass.isEmpty then [(0, 0)] else k.pass }
def kidEnds (k : Task) (others : List Task) (f : State → Task → Got → Bool) : Bool :=
  let s := tasked (k :: others)
  runningTask s 7 == some k &&
    match withPass k s with
    | .ok (k, s1) => (match childUnit k 0 with
      | some p => !unitAhead s k p && (match runKid k 0 p s1 with | .got g => decide (2 ≤ k.unit.level) && f s1 k g | .wait _ => false)
      | none => false)
    | .error _ => false
def endsPass (k : Task) : Bool := k.pass.all fun q => k.done.contains q.1 || k.flt.any fun f => f.1 == q.1
def aFault : ChildFault := { flv := 0, cause := 3, opnd := 2, addr := 0, path := [] }
def kidOk (k : Task) (f : Task → Bool) : Bool :=
  kidEnds k [] fun _ k g => g.flt.isNone && f { k with done := k.done ++ [0], sums := k.sums.add g.sums }
theorem witness_child_complete_in_pass : kidOk (running { task7 with pass := [(0, 0), (1, 1)] }) (fun k => !endsPass k) = true := by decide +kernel
theorem witness_child_ends_pass :
    kidOk (running task7) (fun k => endsPass k && k.flt.isEmpty && !(kidsLeft (kidCount k) k.done).isEmpty) = true := by decide +kernel
theorem witness_child_ends_task :
    kidOk (running { task7 with done := [1] }) (fun k => endsPass k && k.flt.isEmpty && (kidsLeft (kidCount k) k.done).isEmpty && !(taskTile k).ovf) = true := by
  decide +kernel
theorem witness_child_ends_failed_pass :
    kidOk (running { task7 with pass := [(0, 0), (1, 1)], flt := [(1, aFault)] }) (fun k => endsPass k && !k.flt.isEmpty) = true := by decide +kernel
theorem witness_children_fault :
    let bad (k : Task) (f : Task → Bool) := kidEnds { k with bytes := taskBytes 0x7F000000 } [] fun _ k g => match g.flt with
      | some x => f { k with flt := k.flt ++ [(0, { x with path := 0 :: x.path })] }
      | none => false
    bad (running task7) endsPass = true ∧ bad (running { task7 with pass := [(0, 0), (1, 1)] }) (fun k => !endsPass k) = true := by decide +kernel
theorem witness_children_wait :
    let k := running task7
    let first := { running { task7 with id := 8 } with order := 1 }
    let s := tasked [k, first]
    (match withPass k s with | .ok (k, _) => childUnit k 0 == some 0 && unitAhead s k 0 | .error _ => false) = true ∧
    (let k := { task7 with st := .running, place := some (5, 5) }
     runningTask (tasked [k]) 7 == some k && (withPass k (tasked [k]) matches .error _)) = true := by decide +kernel

/-- A fill of site 0 of version 1 of entry 5 on die 0. -/
def site5 : SiteKey := { part := 0, tenant := 0, handle := 5, ver := 1, site := 0 }
def fill5 (n : Nat) (asked : Bool) : Fill := { key := site5, lines := n, asked := asked }
def fillWorld (en : List CatEntry) (f : Fill) : State :=
  let s := catWorld (entry5 [])
  { s with catalogue := en, dies := [(0, { (getDie s 0) with fills := [f], place := [(placeBase .peer, 0x8005)] })],
           parts := [(0, { (getPart s 0) with sram := [[0, 1, 0, 0], [0, 0, 0, 0], [0, 0, 0, 0], [0, 0, 0, 0]] })] }
/-- The fill of a state, and the room for lines of its site. -/
def fillOf (s : State) : Option Fill := (getDie s 0).fills.find? fun f => f.key == site5
def roomFor (s : State) (n : Nat) : Option State := makeRoom 0 site5 (n - (linesOf (getDie s 0) site5).length) ((getDie s 0).lines.length + 1) s
theorem witness_fills :
    let s := fillWorld [entry5 [current1]] (fill5 0 false)
    let u := { s with mem := memSetCells s.mem 0x100000 (leBytes 4 64 ++ leBytes 4 128 ++ leBytes 2 1 ++ leBytes 2 1) }
    let held (s : State) := (entryOf s site5.part site5.handle).bind fun e => recOf e site5.ver
    fillOf w0 = none ∧ fillOf s = some (fill5 0 false) ∧ siteHome s 0 site5 = 0x1FFF ∧ held s = some current1 ∧
    held (fillWorld [entry5 []] (fill5 0 false)) = none ∧ siteHome (fillWorld [entry5 []] (fill5 0 false)) 0 site5 = 0x1FFF ∧
    anyBad (siteRun u current1 0) = false ∧ (siteRun u current1 0).length = 128 ∧ (roomFor u 1).isSome = true ∧ (roomFor u 65).isNone = true ∧
    anyBad (siteRun { u with poison := [.mem (0x100040 / 8)] } current1 0) = true := by decide +kernel
theorem witness_fills_of_replicas :
    let t (home n : Nat) (asked : Bool) := fillWorld [{ entry5 [] with home := home }] (fill5 n asked)
    siteHome (t 0 1 false) 0 site5 = 0 ∧ siteHome (t 3 1 false) 0 site5 = 3 ∧ peerCheck (t 0 1 false) 0 0 0 = some 5 ∧ peerCheck (t 3 1 false) 0 0 3 = none ∧
    (roomFor (t 0 1 false) 1).isSome = true ∧ (roomFor (t 0 65 false) 65).isNone = true ∧ fillOf (t 0 1 true) = some (fill5 1 true) := by decide +kernel
theorem witness_records_arrive :
    let s := catWorld (entry5 [{ current1 with pins := 1 }])
    peerAdmitted s 0 5 = true ∧ peerAdmitted s 0 6 = false ∧ slotFree s 0 = true ∧ slotFree { s with gwSlots := [(0, 100000)] } 0 = false ∧ peerOk s 0 5 = true ∧
    entryOf s 0 6 = none ∧ isReplica (entry5 [{ current1 with pins := 1 }]) = false ∧
    (homeChecks (catWorld { entry5 [] with tenant := 4 }) { entry5 [] with tenant := 4 } 0 0 0 == (2, none)) = true := by decide +kernel
theorem witness_record_answered :
    let s := catWorld (entry5 [current1])
    (homeChecks s (entry5 [current1]) 0 (sealUnder 0 (sealMessage 5 0 0)) 0 == (0, some current1)) = true := by decide +kernel

/-- Core 0 under a table of one frame of world 1. -/
def vitrined (graced edge : Bool) (c : Ctx) : State :=
  { world c with cores := [(0, { vitrine := some (0x3019 :: List.replicate 15 0), graced := graced, edge := edge })] }
theorem witness_vitrine :
    let s := vitrined false false ctx0
    (getCore w0 0).vitrine = none ∧ (getCore s 0).vitrine ≠ none ∧ (frameAt s 0).isSome = true ∧ (getCore s 0).graced = false ∧ (getCore s 0).edge = false ∧
    (getCtx s 0).run = .runnable ∧ coreOf 0 = 0 ∧ (getCtx (vitrined false false { ctx0 with run := .waiting, wait := some .engines }) 0).run = .waiting := by
  decide +kernel
theorem witness_frames :
    let s (e : BitVec 32) := { w0 with frames := [(16, e)] }
    let w (src : Option CmdSrc) := { w0 with frameWork := [(16, { src := src, charge := none })] }
    frameState (s 2) 16 ≠ 0 ∧ frameState w0 16 = 0 ∧ releasing w0 16 = false ∧ populatedPa (65536 * 16) = true ∧ linkUp w0 (65536 * 16) = true ∧
    frameState (s 1) 16 = 1 ∧ smGet w0.frameWork 16 = none ∧ smGet (w none).frameWork 16 = some { src := none, charge := none } ∧
    (smGet (w (some { fn := 0, entry := 64 })).frameWork 16).isSome = true := by decide +kernel
theorem witness_key_slots :
    let k : KeySlot := { kind := 1, tenant := 0, key0 := some 0, key1 := none, cur := 0 }
    let s (k : KeySlot) := { w0 with keys := [(9, k)] }
    9 < 8192 ∧ smGet w0.keys 9 = none ∧ smGet (s k).keys 9 = some k ∧ k.kind ≠ 2 ∧ k.key0 ≠ none ∧ k.key1 = none ∧ ({ k with key0 := none } : KeySlot).key0 = none ∧
    ({ k with key1 := some 1 } : KeySlot).key1 ≠ none ∧ 0 = k.cur ∧ 1 ≠ k.cur := by decide +kernel
theorem witness_failures :
    let c (loc : PLoc) := correctedOn w0 loc
    (getPart tables 0).valid = true ∧ mapHolds tables 0 5 = true ∧ 5 < 6 ∧ w0.fatal = false ∧ 1 ∉ w0.annexDown ∧ (getCore w0 127).vitrine = none ∧
    (getCore (vitrined false false ctx0) 0).vitrine ≠ none ∧ (c (.scratch 40 0)) = some 1 ∧ (c (.sreg 0 1)) = none ∧
    (getCore { w0 with cores := [(0, { l1 := [{ line := 1, tag := none, filled := 1, bytes := [] }] })] } 0).l1[0]?.isSome = true := by decide +kernel
/-- Accesses of context 0 and of its copy engine are in flight when a link goes down. -/
theorem witness_accesses_in_flight :
    let s := { w0 with cores := [(0, { portWait := [⟨0, 64, some (.ctx 0)⟩], portPaid := [.eng 0 4] })] }
    1 < 2 ∧ 1 ∉ s.annexDown ∧ PortAgent.ctx 0 ∈ atPorts s ∧ PortAgent.eng 0 4 ∈ atPorts s := by decide +kernel
theorem witness_resets :
    let u : Staged := { fw := bootFirmware, acks := [] }
    let s := { w0 with staged := some u }
    awaited s u = [] ∧ w0.staged = none ∧ awaited { s with launches := [(0, launch1)] } u ≠ [] ∧ w0.ready = true ∧ State.reset.ready = false ∧
    State.reset.svnFuses ≤ State.reset.firmware.svn ∧ ({ State.reset with svnFuses := 1 } : State).firmware.svn < 1 ∧ 63 < 64 := by
  refine ⟨?_, rfl, ?_, rfl, rfl, ?_, ?_, ?_⟩ <;> decide +kernel

/-- Bytes of host memory. -/
def hosting (s : State) (a : Nat) (bs : List Byte) : State := { s with mem := memSetCells s.mem (hostPa a) bs }
def docentCmd : CmdSrc := { fn := 0, entry := 0x1000 }
/-- A partition record of clusters and of a die's SRAM, and a tenant record of a slot minimum, a bandwidth share and a VF. -/
def partBytes (clshare herb : Nat) : List Byte := List.replicate 24 0 ++ leBytes 2 clshare ++ List.replicate 10 0 ++ [0, BitVec.ofNat 8 herb] ++ List.replicate 26 0
def tenantBytes (slots bw : Nat) : List Byte := leBytes 2 3 ++ [0, 1, 255, BitVec.ofNat 8 slots] ++ leBytes 2 bw ++ List.replicate 8 0
theorem witness_setup_commands :
    let share (bs : List Byte) := (rangeFrom 0 4).any (sharesOver w0 (partRecord bs (getPart w0 1) :: otherParts w0 1))
    let ten (bs : List Byte) (s : State) := (tenantsWith s (tenantRecord bs).1 (tenantRecord bs).2).map (·.bwshare)
    State.reset.ready = false ∧ w0.ready = true ∧ docentCmd.fn = 0 ∧ ({ docentCmd with fn := 2 } : CmdSrc).fn ≠ 0 ∧
    hostBytes (hosting w0 0x2000 (partBytes 512 0)) 0x2000 64 = partBytes 512 0 ∧
    partFieldsOk (partRecord (partBytes 512 0) (getPart w0 1)) = true ∧ partFieldsOk (partRecord (partBytes 513 0) (getPart w0 1)) = false ∧
    share (partBytes 512 0) = false ∧ share (partBytes 512 1) = true ∧ partBusy w0 0 = true ∧ partBusy w0 1 = false ∧
    tenantFieldsOk (tenantRecord (tenantBytes 64 0)).2 = true ∧ tenantFieldsOk (tenantRecord (tenantBytes 65 0)).2 = false ∧
    1024 < (ten (tenantBytes 0 1) w0).sum ∧ (ten (tenantBytes 0 1) State.reset).sum ≤ 1024 ∧
    (getPart w0 1).valid = false ∧ (getPart w0 0).valid = true ∧
    tableOk (frameTable ([0x19, 0x30] ++ List.replicate 30 0)) = true ∧ tableOk (frameTable ([0x1F, 0x30] ++ List.replicate 30 0)) = false ∧
    usedFrames (frameTable (List.replicate 32 0)) = [] ∧ tableOk (frameTable (List.replicate 32 0)) = true ∧
    (let t := frameTable ([0x19, 0x30] ++ List.replicate 30 0)
     usedFrames t ≠ [] ∧ (∃ x ∈ quadTables (vitrined false false ctx0) 0, x = t) ∧
     ∃ x ∈ quadTables { w0 with cores := [(1, { vitrine := some [8] })] } 0, x ≠ t) ∧
    launchOn w0 3 = false ∧ launchOn { w0 with launches := [(7, launch1)] } 0 = true := by decide +kernel
theorem witness_frame_commands :
    let s (e : BitVec 32) := { w0 with frames := [(16, e)] }
    let en := entry5 [{}, {}, {}, {}]
    let image : List Byte := leBytes 4 (2 ^ 24 + 5) ++ List.replicate 124 0
    let pool (s : State) := poolList (hosting s 0x2000 (leBytes 8 0x100000)) 0x2000 1
    namesFrame 0x100000 = true ∧ frameOf 0x100000 = 16 ∧ namesFrame 0x100001 = false ∧ frameState (s 2) 16 = 2 ∧ frameState (s 3) 16 = 3 ∧
    frameState (s 1) 16 < 2 ∧ entryImage (List.replicate 128 0) = none ∧ (entryImage image).isSome = true ∧
    ((entryImage image).map fun x => [en].any fun y => y.handle == x.handle && (y.part == x.part || y.pub == x.pub)) = some true ∧
    ((entryImage image).map fun x => ([] : List CatEntry).any fun y => y.handle == x.handle) = some false ∧
    entryOf (catWorld en) 0 6 = none ∧ entryOf (catWorld en) 0 5 = some en ∧ (en.vrec.any fun v => decide (0 < v.pins) || v.st == .staged) = false ∧
    ((entry5 [staged2]).vrec.any fun v => decide (0 < v.pins) || v.st == .staged) = true ∧
    pool (s 2) = [0x100000] ∧ (getPart (s 2) 0).poolUsed = [] ∧ (pool (s 2)).any (fun a => frameState (s 2) (frameOf a) == 3) = false ∧
    (pool (s 2)).any (fun a => frameState (s 2) (frameOf a) != 2) = false ∧ (pool (s 3)).any (fun a => frameState (s 3) (frameOf a) == 3) = true ∧
    (pool w0).any (fun a => frameState w0 (frameOf a) != 2) = true := by decide +kernel
/-- 65,536 entries in the Catalogue. -/
theorem witness_catalogue_full : 65536 ≤ ({ w0 with catalogue := List.replicate 65536 (entry5 []) } : State).catalogue.length :=
  Nat.le_of_eq List.length_replicate.symm

/-- A launch of function 3 with an input queue and an output queue of the host's. -/
def hostQueues (x y : StageQueue) : State :=
  { w0 with launches := [(7, { launch1 with
      fn := 3, stages := [{ entry := 0, width := 1, prio := 0, min := 1, max := 1, inq := some 0, outq := some 1, arg := 0, span := 0 }], queues := [x, y] })] }
theorem witness_queue_commands :
    let s := hostQueues (q64 []) (q64 two64)
    let q (s : State) (n : Nat) (f : Launch → StageQueue → Bool) := match smGet s.launches 7 with
      | some l => (match l.queues[n]? with | some x => f l x | none => false)
      | none => false
    State.reset.ready = false ∧ s.ready = true ∧ smGet s.launches 6 = none ∧
    replayTurn s 7 1 0 0xFFFF (List.replicate 64 1) = true ∧ replayTurn { s with replaying := [(7, [0])] } 7 1 0 0xFFFF (List.replicate 64 1) = false ∧
    q s 0 (fun l x => l.fn == 3 && external l 0 && !x.closed && decide (x.entries.length < x.depth)) = true ∧
    q s 1 (fun l x => !external l 1 && hostDrained l 1 && x.entries == two64) = true ∧ q s 0 (fun l _ => !hostDrained l 0) = true ∧
    q (hostQueues (q64 two64) (q64 [])) 0 (fun l x => external l 0 && decide (x.depth ≤ x.entries.length)) = true ∧
    q (hostQueues { q64 [] with closed := true } (q64 [])) 0 (fun l x => external l 0 && x.closed) = true ∧
    q (hostQueues (q64 []) { q64 [] with closed := true }) 1 (fun l x => hostDrained l 1 && x.entries.isEmpty && x.closed) = true ∧
    (getFn w0 65).head = (getFn w0 65).tail ∧ (getFn { w0 with fns := [(2, { tail := 1 })] } 2).head ≠ (getFn { w0 with fns := [(2, { tail := 1 })] } 2).tail ∧
    65 < 66 := by decide +kernel
/-- A launch record in the page of partition 0. -/
def recorded (prio : Nat) : State := { tables with mem := memSetCells tables.mem 0x100000 (launchBytes prio 0) }
def recordAt (s : State) (va : Nat) (f : LaunchRec → Bool) : Bool := match sysLoad s 0 anyTenant .ls (natW (va / 64 * 64)) 512 with | .ok bs => f (launchRec bs) | .error _ => false
theorem witness_launch_command :
    let k : Launcher := { part := 0, fn := 1, ceil := 119 }
    ((vfOf 3).any fun v => !partOfVf (recorded 1) 0 v) = true ∧ ((vfOf 0).any fun v => !partOfVf (recorded 1) 0 v) = false ∧
    recordAt (recorded 1) 0x100000 (fun r => !((vfOf 0).any fun v => !ofVf (recorded 1) r.tenant v) && mapReadable (recorded 1) 0 r &&
      launchCheck (recorded 1) k r == 0 && freeLaunch (recorded 1) == some 0) = true ∧
    recordAt (recorded 127) 0x100000 (fun r => launchCheck (recorded 127) k r == 3) = true ∧
    (sysLoad (recorded 1) 0 anyTenant .ls 0x7FFF0000 512 matches .error _) = true ∧
    (let s := { recorded 1 with tenants := [(0, { part := 0, world := 0, valid := true, tscope := false, vf := 1, slotmin := 0, bwshare := 0, hblines := 0, fpages := 0 }),
                                            (9, { part := 0, world := 0, valid := true, tscope := false, vf := 2, slotmin := 0, bwshare := 0, hblines := 0, fpages := 0 })] }
     ((vfOf 4).any fun v => !partOfVf s 0 v) = false ∧ recordAt s 0x100000 (fun r => (vfOf 4).any fun v => !ofVf s r.tenant v) = true) := by decide +kernel

/-- One launch of one stage of one cluster with an instance of a state, on a die whose clusters 0 to 3 are in place. -/
def scheduling (st : InstState) (ms : List (Nat × MemState)) (imgs : List Image) : State :=
  { w0 with
    ctxs := [], clusters := [], images := imgs
    dies := [(0, { place := (placeBase .core, 0x8000) :: (rangeFrom 0 4).map fun n => (placeBase .cluster + 2 * n, 0x8000 + n) })]
    launches := [(7, { launch1 with
      queues := [], stages := [{ entry := 0x10000, width := 1, prio := 0, min := 1, max := 1, inq := none, outq := none, arg := 0, span := 0 }]
      insts := [{ stage := 0, serial := 0, st := st, members := ms }] })] }
def image0 : Image := { place := 0, cnt := 1, part := 0, tenant := 0, member := some ⟨7, 0, 0, 0⟩, area := 0x100000, cell := 0, refused := 1 }
theorem witness_scheduler :
    let s1 := wantInsts (scheduling .pending [] [])
    w0.launches = [] ∧ lightImages w0 0 = [] ∧ w0.fatal = false ∧ (lightImages (scheduling .pending [] []) 0).isEmpty = true ∧
    (match (granted s1 (claims s1)).filter (fun b => b.2 == 0 && b.1.kind != 0 && tryable s1 b.1) with
     | [(a, 0)] => (match claimInst s1 a with
       | some (l, k, i) => a.kind == 2 && i.st == .pending && decide (heldClusters s1 l.part + a.w ≤ (getPart s1 l.part).clshare) &&
           (findRoom s1 0 l.part k.width (freeFor s1 l.part l.tenant) == some [0])
       | none => false)
     | _ => false) = true := by decide +kernel
theorem witness_supervisor :
    let live (s : State) (die : Nat) := s.ctxs.any fun e => dieOf e.1 == die && partOf s e.1 == 0 && (e.2.run == .runnable || e.2.run == .waiting)
    let s := scheduling .suspended [(0, .saved)] [image0]
    let lone : Image := { image0 with place := 1, member := none }
    live w0 0 = true ∧ live w0 1 = false ∧ (PlaceKind.core, 5) ∉ w0.deadPlaces ∧ (PlaceKind.core, 5) ∈ ({ w0 with deadPlaces := [(.core, 5)] } : State).deadPlaces ∧
    atPlace .core 0 0 = true ∧ (discardTarget s 0).isSome = true ∧ (discardTarget w0 0).isNone = true ∧
    (discardTarget { s with images := [lone] } 1).isNone = true ∧ [lone].find? (fun x => x.place == 1 && x.member.isNone) = some lone ∧
    image0.refused ≠ 0 ∧ (getPart w0 0).waiting = [] ∧
    (let t := { w0 with parts := [(0, { part0 with ring := 0x310000, ringLen := 4, ringUsed := 3, waiting := [0] })] }
     (getPart t 0).ringUsed < (getPart t 0).ringLen ∧ (getPart t 0).waiting = [0]) ∧
    (getPart { w0 with parts := [(0, { part0 with ringLen := 4, ringUsed := 4, waiting := [0] })] } 0).ringLen ≤ 4 := by decide +kernel

-- Words, steps, memory.

theorem witness_encodings :
    wellFormed (.add true 3 1 2) = true ∧ encode (.add true 3 1 2) ≠ [] ∧ encodeAae (.add true 3 1 2) = none ∧ wellFormed (.aend 511 2) = true ∧
    wellFormed (.agen 4 1 { q := 3, base := 2, pitch := 5, rows := 15, bytes := 63 }) = true ∧
    (∀ u ∈ [0x40060840], u < 2 ^ 32) ∧ decode [0x40060840] = .ok (.add true 3 1 2) := by decide +kernel
/-- A bundle of an ADD at the page's start, its context inside the issue slot. -/
def addWorld (c : Ctx) : State := { withMem (world c) 0 [0x40, 0x08, 0x06, 0x40] with busy := true }
theorem witness_step :
    let s := addWorld ctx0
    let t := addWorld { ctx0 with mid := true }
    let f := framing s 0 (me s).pc
    let ready (s : State) := s.busy && s.agenda.isEmpty && s.cut.isEmpty && (boundaryEvent s s.cur).isNone && (dbgHit (me s)).isNone &&
      (fetchWord s s.cur (me s).pc matches .ok [0x40060840])
    ready s = true ∧ ready t = true ∧ (me s).mid = false ∧ (me t).mid = true ∧
    f.legal = true ∧ f.need.isNone = true ∧ f.synced = false ∧
    (newAsks s ((after (.add true 3 1 2) s).getD s)).isEmpty = true := by decide +kernel
theorem witness_step_of_events :
    let s := { addWorld ctx0 with busy := false, agenda := [.run (.add true 3 1 2)] }
    let e := Event.copyLine 0 1
    let held := { moving 0 none with cores := [(0, { portWait := [⟨0, 64, some (.eng 0 4)⟩] })] }
    s.busy = false ∧ wellFormed (.add true 3 1 2) = true ∧ wellFormed (.schedulerPass 4) = false ∧ eventAgent (.tokenRefill) = none ∧
    eventAgent e = some (.eng 0 4) ∧ portHeld held (.eng 0 4) = true ∧ portHeld (moving 0 none) (.eng 0 4) = false ∧
    (match runEvent e (beginTurn (.eng 0 4) (moving 0 none)) with | .next _ => true | _ => false) = true := by decide +kernel
theorem witness_issue_slot :
    let s := { withMem w0 0 [0x40, 0x08, 0x06, 0x40] with busy := true, ctxs := [(0, { ctx0 with mid := true })] }
    s.SlotOk ∧ (stepped s).isSome = true := ⟨fun _ => by decide +kernel, by decide +kernel⟩
theorem witness_stores_canonical : reach.MemOk ∧ (after (.st64 true 2 2 0) reach).isSome = true :=
  ⟨show Memory.wf reach.mem = true by decide +kernel, by decide +kernel⟩
theorem witness_other_stores_canonical :
    (∀ i ∈ [Instr.stl true 1 2 3 1, .stH true 1 2 3, .amo true 1 2 3 true 0, .cas true 1 2 3 true, .amoBins true 1 2 3 false], (after i reach).isSome = true) ∧
    (∀ i ∈ [Instr.axadd true 1 2 3, .axrd true 1 2, .axclr true 1 2], (after i (world { ctx0 with s := [(2, 0x10400)] })).isSome = true) := by decide +kernel


-- Further clauses of statements above.

/-- The line at 0x10038 under the view of a node, in a partition's table, time 10. -/
def under (view : Nat) (p : PartRec) (due : Option Nat) : State :=
  { world { ctx0 with xhyp := BitVec.ofNat 64 view, s := addrs, due := due } with parts := [(0, p)], cycle := 10 }
def merged0 : PartRec := { table with nodes := [(1, { st := .merged, parent := 0, aliasOf := 0 })] }
def oneResolve (touched : List Nat) : Resolve := { part := 0, node := 1, confirm := true, ctx := 0, uid := 0, num := 1, touched := touched }
theorem witness_tagged_store_ends :
    let line := 0x100038 / 64
    let v : Version := { line := line, node := 1, bytes := [(0, 1, false)] }
    let late (s : State) := delayed s 0 line || (getPart s 0).resolves.any fun r => r.touched.contains (viewOf (me s))
    let room (s : State) := decide (versionUse s 0 (homeDie line) + 64 ≤ versionSpace s 0 (homeDie line))
    let full := { table with vstore := [0, 0, 0, 0] }
    let waits (due : Option Nat) := let s := under 1 full due; reached s (due.getD (cycleIn s (fld (me s).xhypwait 0 32)))
    late (under 1 { table with resolves := [oneResolve [1]] } none) = true ∧ late (under 1 table none) = false ∧
    (getNode table 2).st = .refuted ∧ late (under 2 table none) = false ∧ (getNode table 1).st ≠ .refuted ∧
    resolveN merged0 1 = 0 ∧ resolveN table 1 = 1 ∧ room (under 1 table none) = true ∧ room (under 1 full none) = false ∧
    ({ full with versions := [v] }.versions.any fun x => x.line == line && resolveN full x.node == 1 && !x.bytes.isEmpty) = true ∧
    waits none = false ∧ waits (some 10) = true ∧ bitAt (me (under 1 full none)).xsched 0 = false := by decide +kernel
theorem witness_hopen_waits : ({ table with resolves := [oneResolve []] } : PartRec).resolves ≠ [] := by decide
/-- A NEST of one dimension that reads l(0), l(2) and l(4) of sequencer 3, the first poisoned. -/
theorem witness_copy_poisoned :
    descOf { descAt (copyBytes 0x10000 0x10100 64 0 [0, 2, 4]) with poison := [.loopReg 0 48] }
      (fun s1 x => x.nestOk && loopBad s1 0 3 ((rangeFrom 0 x.dims).flatMap fun i => [x.base + 2 * i, x.at 26 + i, x.at 27 + i])) = true := by decide +kernel
theorem witness_record_acknowledged :
    let m : CatMsg := { num := 3, peer := 5, tenant := 0, cls := 2, rec_ := .slab 1 0 site5, sent := true }
    let s := { tables with catOut := [m] }
    (s.catOut.find? fun x => x.num == 3 && x.sent) = some m ∧ (s.catOut.filter fun x => x.num == 3) = [m] := by decide +kernel
theorem witness_packet_faults :
    let p := { packet with va := 0x7F000000 }
    (sysRoute (logPacket ((replaysOf tables p).foldl replayNext tables) p) 0 0 .fg true (natW p.va) matches .error 3) = true ∧ packetTurn tables p = true ∧ packetNext tables packet = true ∧ packetNext tables { packet with seq := 2 } = false := by
  decide +kernel

end Sys2Proof.Tests
end

section
/-! SUPPORT. Fields of words, the state registers as XRD reads them (R20, R59, R97, R143, R144, R282), and what reset
leaves in each unit. -/

namespace Sys2Proof.Machine

-- Fields of a word that is put together from numbers (R4).

/-- A field of a word is that field of the number it is made from: reduction to 64 bits drops none of its bits. -/
theorem fld_ofNat (x : Nat) {lo n : Nat} (h : lo + n ≤ 64) : fld (BitVec.ofNat 64 x) lo n = x / 2 ^ lo % 2 ^ n := by
  have hsplit : (2 : Nat) ^ 64 = 2 ^ lo * 2 ^ (64 - lo) := by rw [← pow_add]; congr 1; omega
  rw [fld, natField, BitVec.toNat_ofNat, hsplit, Nat.mod_mul_right_div_self]
  exact Nat.mod_mod_of_dvd _ (pow_dvd_pow 2 (by omega))

theorem bitNat_le_one (b : Bool) : bitNat b ≤ 1 := by cases b <;> decide

/-- One bit of a word, as the field of that one bit. -/
theorem bitAt_eq_iff (w : Word) (i : Nat) (b : Bool) : bitAt w i = b ↔ fld w i 1 = bitNat b := by
  have hbit := Nat.mod_two_eq_zero_or_one (w.toNat / 2 ^ i)
  rw [bitAt, natBit, fld, natField, pow_one]
  rcases hbit with h | h <;> cases b <;> simp [h, bitNat]

-- The state registers that are put together.

/-- The fields of XIDENT (R20). -/
theorem xident_fields :
    fld xident 48 16 = 0x4800 ∧ fld xident 44 4 = Config.fusedStep.toNat ∧ fld xident 40 4 = 15 ∧
      fld xident 32 8 = Config.quads ∧ fld xident 24 8 = Config.cores ∧ fld xident 0 24 = 0 := by
  have hstep : Config.fusedStep.toNat < 16 := Config.fusedStep.isLt
  have hquads : Config.quads ≤ 32 := by simp only [Config.quads]; omega
  have hcores : Config.cores ≤ 128 := by simp only [Config.cores]; omega
  unfold xident
  simp only [fld_ofNat, Nat.reduceAdd, Nat.reduceLeDiff]
  omega

/-- The fields of XSCHED, for any context `id` (R59). -/
theorem xschedWord_fields (c : Ctx) (id : Nat) :
    fld (xschedWord c id) 0 3 = fld c.xsched 0 3 ∧ fld (xschedWord c id) 3 5 = 0 ∧
      fld (xschedWord c id) 8 3 = id % 8 ∧ fld (xschedWord c id) 11 5 = 0 ∧
      fld (xschedWord c id) 16 16 = instOf c % 2 ^ 16 ∧ fld (xschedWord c id) 32 32 = 0 := by
  have hold : fld c.xsched 0 3 = c.xsched.toNat % 8 := by simp [fld, natField]
  rw [hold]
  simp only [xschedWord, ctxNum, fld_ofNat, Nat.reduceAdd, Nat.reduceLeDiff]
  omega

/-- The fields of XTENANT; those above TENANT for a partition of the package (R282). -/
theorem xtenantWord_fields (s : State) (id : Nat) :
    fld (xtenantWord s id) 0 12 = (getCtx s id).tenant.toNat ∧ fld (xtenantWord s id) 12 4 = 0 ∧
      (partOf s id < 16 → fld (xtenantWord s id) 16 4 = partOf s id ∧
        fld (xtenantWord s id) 20 8 = worldOf s (getCtx s id).tenant.toNat % 256 ∧
        bitAt (xtenantWord s id) 28 = tscope s id ∧ fld (xtenantWord s id) 29 35 = 0) := by
  have htenant : (getCtx s id).tenant.toNat < 2 ^ 12 := (getCtx s id).tenant.isLt
  have hscope := bitNat_le_one (tscope s id)
  simp only [bitAt_eq_iff, xtenantWord, fld_ofNat, Nat.reduceAdd, Nat.reduceLeDiff]
  omega

theorem engCode_lt (e : Engine) : engCode e < 256 := by
  simp only [engCode]; split <;> omega

/-- XASTAT holds the code of each engine in a byte of its own: ST in its low two bits, CA above (R97). -/
theorem xastat_fields (c : Ctx) :
    fld (xastat c) 24 40 = 0 ∧ ∀ n, n < 3 →
      fld (xastat c) (8 * n) 2 = engCode (engOf c n) % 4 ∧ fld (xastat c) (8 * n + 2) 6 = engCode (engOf c n) / 4 := by
  have h0 := engCode_lt (engOf c 0)
  have h1 := engCode_lt (engOf c 1)
  have h2 := engCode_lt (engOf c 2)
  refine ⟨by simp only [xastat, fld_ofNat, Nat.reduceAdd, Nat.reduceLeDiff]; omega, fun n hn => ?_⟩
  simp only [xastat]
  rw [fld_ofNat _ (by omega), fld_ofNat _ (by omega)]
  interval_cases n <;> omega

-- XRD.

/-- XRD of a register that the issuing context has writes the value of that register where none holds poison
(R143, R144). -/
theorem xrd_writes {e : Bool} {d : SReg} {s : State} (x : BitVec 17) (hclean : s.OwnClean)
    (hhas : fullReg x.toNat = true → isLight s.cur = false) : Writes (.xrd e d x) s d (xread s s.cur x.toNat) := by
  have hlight : (fullReg x.toNat && isLight s.cur) = false := by
    cases hfull : fullReg x.toNat
    · rfl
    · exact hhas hfull
  simp only [Writes, WritesOver, exec_xrd, execXrd, hlight, (hclean x.toNat).2, Bool.and_false, Bool.false_eq_true, if_false]
  exact result_wrote e d _ (Touched.refl s) rfl

/-- The format registers are the state registers from 0x40 on (R127, R144). -/
theorem xread_format (s : State) (id : Nat) (k : BitVec 6) :
    xread s id (BitVec.ofNat 17 (0x40 + k.toNat)).toNat = smGetD (getCtx s id).xfte k.toNat 0 := by
  have hk : (BitVec.ofNat 17 (0x40 + k.toNat)).toNat = k.toNat + 0x40 := by
    rw [BitVec.toNat_ofNat]; omega
  rw [hk]; rfl

/-- Settles O4: each register reads as `xread` says, and the registers that are put together have the fields of their
rules. -/
theorem xrdReadsEveryStateRegister : Obligations.XrdReadsEveryStateRegister := by
  intro e d s hclean c R
  have hR : ∀ x : BitVec 17, x.toNat < 0x20 → R x (xread s s.cur x.toNat) := fun x hx =>
    xrd_writes x hclean fun hfull => absurd (of_decide_eq_true hfull) (by omega)
  refine ⟨⟨_, hR 0x00 (by decide), xident_fields⟩, hR 0x01 (by decide), hR 0x02 (by decide), hR 0x03 (by decide),
    ⟨_, hR 0x04 (by decide), xschedWord_fields c s.cur⟩, ⟨_, hR 0x05 (by decide), xtenantWord_fields s s.cur⟩,
    hR 0x08 (by decide), hR 0x09 (by decide), hR 0x0A (by decide), hR 0x0B (by decide), hR 0x10 (by decide),
    hR 0x11 (by decide), hR 0x12 (by decide), hR 0x18 (by decide), hR 0x19 (by decide), fun hfull => ?_⟩
  have hF : ∀ x : BitVec 17, R x (xread s s.cur x.toNat) := fun x => xrd_writes x hclean fun _ => hfull
  refine ⟨hF 0x20, hF 0x21, hF 0x22, hF 0x23, ⟨xastat c, hF 0x24, (xastat_fields c).1, fun n hn => ?_⟩, fun k => ?_⟩
  · obtain ⟨hst, hca⟩ := (xastat_fields c).2 n hn
    rw [hst, hca]
    cases h : (engOf c n).st with
    | halted => simp only [engCode, h, if_true]; omega
    | _ => simp [engCode, h]
  · exact xread_format s s.cur k ▸ hF _

-- Reset: no unit is listed, so each reads as one that nothing has touched (R13, R55, R254, R287, R368, R379).

@[simp] theorem getCtx_reset (id : Nat) : getCtx State.reset id = idleCtx id := rfl
@[simp] theorem getDie_reset (n : Nat) : getDie State.reset n = {} := rfl
@[simp] theorem getPart_reset (n : Nat) : getPart State.reset n = {} := rfl
@[simp] theorem getFn_reset (n : Nat) : getFn State.reset n = {} := rfl
@[simp] theorem memByte_reset (a : Nat) : memByte State.reset a = 0 := rfl
@[simp] theorem frameState_reset (f : Nat) : frameState State.reset f = 0 := by
  simp [frameState, frameEntry, State.reset, smGetD, smGet, natField]

/-- The issue slot is empty after reset. -/
theorem reset_slotOk : State.reset.SlotOk := fun hbusy => absurd hbusy Bool.false_ne_true

/-- Of a partition's nodes only the root is open at first (R254). -/
theorem getNode_default_st (n : Nat) : (getNode {} n).st = if n = 0 then .opened else .free := by
  by_cases h : n = 0 <;> simp [getNode, smGetD, smGet, h]

/-- No operation of a context that nothing has started is counted, and its registers hold their reset values. -/
theorem idleCtx_registers (id c n : Nat) :
    tcDone (tcOf (idleCtx id) c) = 0 ∧ sread (idleCtx id) 0 = BitVec.allOnes 64 ∧ lget (idleCtx id) c n = 0 :=
  ⟨rfl, sread_zero _, rfl⟩

/-- Settles O56: every unit reads as one that nothing has touched. -/
theorem resetState : Obligations.ResetState := by
  refine ⟨reset_slotOk, reset_mem_wf, rfl, rfl, rfl, memByte_reset, fun id => ?_, frameState_reset, fun _ => rfl,
    fun p => ?_, fun _ => rfl, fun _ => rfl, getFn_reset, fun p n => ?_, fun d => ?_, fun id => ?_⟩
  · rw [getCtx_reset, idleCtx]
  · rw [getPart_reset]
  · rw [getPart_reset, getNode_default_st]
  · rw [getDie_reset]; exact ⟨rfl, rfl, rfl, rfl⟩
  · rw [getCtx_reset]
    exact ⟨rfl, rfl, rfl, rfl, rfl, rfl, rfl, rfl, rfl, rfl, idleCtx_registers id⟩

end Sys2Proof.Machine
end

section
namespace Sys2Proof.Machine

/-- A settled state keeps the issue slot as R23 and R56 ask. -/
theorem slotOk_settle (s : State) : (settle s).SlotOk := by
  intro hbusy
  simp only [settle, Bool.and_eq_true, beq_iff_eq, decide_eq_true_eq] at hbusy
  obtain ⟨⟨⟨⟨hmid, hrun⟩, -⟩, hcur⟩, -⟩ := hbusy
  exact ⟨hcur, hrun, hmid⟩

/-- What a move leads to is settled. -/
theorem finish_next {o : Out} {t : State} (h : finish o = .next t) : ∃ s, t = settle s := by
  cases o with
  | next s => exact ⟨_, (Host.Outcome.next.inj h).symm⟩
  | fault f => cases h
  | refused r => cases h

/-- What an event leads to is settled. -/
theorem finishEvent_next {o : Out} {t : State} (h : finishEvent o = .next t) : ∃ s, t = settle s := by
  cases o with
  | next s => exact ⟨_, (Host.Outcome.next.inj h).symm⟩
  | fault f => cases h
  | refused r => cases h

/-- Every step that goes on ends in a settled state. -/
theorem step_next {s t : State} (h : step s = .next t) : ∃ u, t = settle u := by
  simp only [step, advance] at h
  split at h
  · exact finishEvent_next h
  · split at h <;> exact finish_next h
  · split at h <;> exact finish_next h

/-- Settles O55: the end of every step gives the issue slot anew. -/
theorem everyStepKeepsTheIssueSlot : Obligations.EveryStepKeepsTheIssueSlot := by
  intro s t _ h
  obtain ⟨u, rfl⟩ := step_next h
  exact slotOk_settle u

end Sys2Proof.Machine
end

section
/-! SUPPORT. The encoder and the decoder of scalar words are inverse (R27, R40, R41, R44): every field as a number, each
sub-format of R27 as its field equations, then the two directions instruction by instruction. -/

namespace Sys2Proof

/-- A bit as a one-bit vector, whose bound `omega` knows. -/
theorem bitNat_eq_toNat (b : Bool) : bitNat b = (BitVec.ofBool b).toNat := by cases b <;> rfl

theorem need_eq_some {c : Prop} [Decidable c] {i j : Instr} : need c i = some j ↔ c ∧ i = j := by
  simp only [need]; split <;> simp_all

theorem forall_mem_need {c : Prop} [Decidable c] {j : Instr} {P : Instr → Prop} :
    (∀ i ∈ need c j, P i) ↔ (c → P j) := by
  simp only [need]; split <;> simp_all

theorem toNat_bf (n w lo : Nat) : (bf n w lo).toNat = natField w lo n := BitVec.toNat_ofNat ..

theorem bf_eq_iff {n w lo : Nat} {x : BitVec n} : bf n w lo = x ↔ natField w lo n = x.toNat := by
  rw [← toNat_bf, BitVec.toNat_inj]

theorem toNat_natBit (x i : Nat) : (BitVec.ofBool (natBit x i)).toNat = natField x i 1 := by
  rcases Nat.mod_two_eq_zero_or_one (x / 2 ^ i) with h | h <;> simp [natBit, natField, h]

theorem natBit_eq_iff {w i : Nat} {b : Bool} : natBit w i = b ↔ natField w i 1 = (BitVec.ofBool b).toNat := by
  rw [← toNat_natBit]; cases natBit w i <;> cases b <;> simp

theorem natField_lt (x lo n : Nat) : natField x lo n < 2 ^ n := Nat.mod_lt _ (by positivity)

theorem natField_low {w n m f : Nat} (h : natField w 0 n = f) (hm : m ≤ n) : natField w 0 m = f % 2 ^ m := by
  rw [← h]
  simp only [natField, pow_zero, Nat.div_one]
  exact (Nat.mod_mod_of_dvd _ (pow_dvd_pow 2 hm)).symm

theorem encSR_zero (d a f : Nat) : encSR d a 0 f = encSI d a f := by
  simp only [encSR, encSI, Nat.zero_mul, Nat.add_zero]

section
variable {e : Bool} {op w : Nat} (hw : w < 2 ^ 31) (hop : op < 128)
include hw hop

theorem scalarW_eq_iff {ops : Nat} (hops : ops < 2 ^ 23) :
    scalarW e op ops = w ↔ natBit w 30 = e ∧ natField w 23 7 = op ∧ natField w 0 23 = ops := by
  simp only [natBit_eq_iff, scalarW, natField, bitNat_eq_toNat]; omega

theorem scalarW_encSR_iff {d a b f : Nat} (hd : d < 64) (ha : a < 64) (hb : b < 64) (hf : f < 32) :
    scalarW e op (encSR d a b f) = w ↔ natBit w 30 = e ∧ natField w 23 7 = op ∧
      natField w 17 6 = d ∧ natField w 11 6 = a ∧ natField w 5 6 = b ∧ natField w 0 5 = f := by
  rw [scalarW_eq_iff hw hop (by simp only [encSR]; omega)]
  refine and_congr_right fun _ => and_congr_right fun _ => ?_
  simp only [encSR, natField, pow_zero, Nat.div_one]; omega

theorem scalarW_encSI_iff {d a f : Nat} (hd : d < 64) (ha : a < 64) (hf : f < 2 ^ 11) :
    scalarW e op (encSI d a f) = w ↔ natBit w 30 = e ∧ natField w 23 7 = op ∧
      natField w 17 6 = d ∧ natField w 11 6 = a ∧ natField w 0 11 = f := by
  rw [scalarW_eq_iff hw hop (by simp only [encSI]; omega)]
  refine and_congr_right fun _ => and_congr_right fun _ => ?_
  simp only [encSI, natField, pow_zero, Nat.div_one]; omega

theorem scalarW_encSB_iff {d a f : Nat} (hd : d < 64) (ha : a < 64) (hf : f < 2 ^ 11) :
    scalarW e op (encSB d a f) = w ↔ natBit w 30 = e ∧ natField w 23 7 = op ∧
      natField w 17 6 = d ∧ natField w 11 6 = a ∧ natField w 0 11 = f :=
  scalarW_encSI_iff hw hop hd ha hf

theorem scalarW_encSU_iff {d f : Nat} (hd : d < 64) (hf : f < 2 ^ 17) :
    scalarW e op (encSU d f) = w ↔ natBit w 30 = e ∧ natField w 23 7 = op ∧
      natField w 17 6 = d ∧ natField w 0 17 = f := by
  rw [scalarW_eq_iff hw hop (by simp only [encSU]; omega)]
  refine and_congr_right fun _ => and_congr_right fun _ => ?_
  simp only [encSU, natField, pow_zero, Nat.div_one]; omega

theorem scalarW_encSJ_iff {d : Nat} (hd : d < 2 ^ 23) :
    scalarW e op (encSJ d) = w ↔ natBit w 30 = e ∧ natField w 23 7 = op ∧ natField w 0 23 = d :=
  scalarW_eq_iff hw hop hd

theorem scalarW_encSC_iff {d a b f : Nat} (hd : d < 32) (ha : a < 64) (hb : b < 64) (hf : f < 64) :
    scalarW e op (encSC d a b f) = w ↔ natBit w 30 = e ∧ natField w 23 7 = op ∧
      natField w 18 5 = d ∧ natField w 12 6 = a ∧ natField w 6 6 = b ∧ natField w 0 6 = f := by
  rw [scalarW_eq_iff hw hop (by simp only [encSC]; omega)]
  refine and_congr_right fun _ => and_congr_right fun _ => ?_
  simp only [encSC, natField, pow_zero, Nat.div_one]; omega

end

/-- R44 for scalar words: the unit's fields are the decoded instruction's, and the rest of the unit is zero. -/
theorem encodeScalar_of_decodeScalar {w : Nat} (hw : w < 2 ^ 31) :
    ∀ i ∈ decodeScalar w, encodeScalar i = some [w] := by
  unfold decodeScalar
  split
  case' h_1 => unfold decodeAlu; split
  case' h_31 => unfold decodeFp; split
  case' h_65 => unfold decodeXcopy; split
  case' h_66 => unfold decodeXcopyH; split
  all_goals
    simp only [forall_mem_need, Option.mem_some_iff, forall_eq', Option.not_mem_none, false_imp_iff, implies_true]
  all_goals
    intros
    refine congrArg (fun x => some [x]) (?_ : scalarW _ _ _ = w)
    simp (disch := omega) only [bitNat_eq_toNat, encSR_zero, scalarW_encSR_iff hw, scalarW_encSI_iff hw,
      scalarW_encSB_iff hw, scalarW_encSU_iff hw, scalarW_encSC_iff hw, scalarW_encSJ_iff hw, scalarW_eq_iff hw]
    try simp only [toNat_bf, toNat_natBit, *, and_self, true_and]
  all_goals
    simp only [natField, pow_zero, Nat.div_one] at *
    omega

/-- R27, R40, R41: the unit's fields pick the instruction out of the tables; an XWR form decodes to XWR. -/
theorem decodeScalar_encodeScalar {i : Instr} {w : Nat} (h : encodeScalar i = some [w]) (hw : w < 2 ^ 31)
    (hx : ∀ e d, i ≠ .xloopStart e d ∧ i ≠ .xloopAbandon e d ∧ i ≠ .xtenantWrite e d) : decodeScalar w = some i := by
  cases i
  all_goals first | (cases h; done) | replace h := List.head_eq_of_cons_eq (Option.some.inj h)
  case xloopStart e d => exact absurd rfl (hx e d).1
  case xloopAbandon e d => exact absurd rfl (hx e d).2.1
  case xtenantWrite e d => exact absurd rfl (hx e d).2.2
  all_goals
    clear hx
    simp (disch := omega) only [bitNat_eq_toNat, encSR_zero, scalarW_encSR_iff hw, scalarW_encSI_iff hw,
      scalarW_encSB_iff hw, scalarW_encSC_iff hw, scalarW_encSU_iff hw, scalarW_encSJ_iff hw, scalarW_eq_iff hw] at h
    rw [decodeScalar, h.2.1]
  case' add | sub | and | or | xor | andn | shl | shr | sra | ror | mul | mulhs | mulhu | divs | divu | rems | remu |
      min | max | minu | maxu =>
    change decodeAlu w = _
    rw [decodeAlu, h.2.2.2.2.2]
  case' clz | ctz | popc =>
    change decodeAlu w = _
    rw [decodeAlu, natField_low h.2.2.2.2 (by decide)]
  case' fadd | fsub | fmul | fdiv | fmin | fmax | fmac =>
    change decodeFp w = _
    rw [decodeFp, h.2.2.2.2.2]
  case' fsqrt | fabs | fneg =>
    change decodeFp w = _
    rw [decodeFp, natField_low h.2.2.2.2 (by decide)]
  case' xcopyLin | xcopyNest | xcopyMap | xcopyUnmap | xcopyWb =>
    change decodeXcopy w = _
    rw [decodeXcopy, natField_low h.2.2.2.2 (by decide)]
  case' xcopyHLin | xcopyHNest =>
    change decodeXcopyH w = _
    rw [decodeXcopyH, natField_low h.2.2.2.2 (by decide)]
  all_goals first | refine congrArg some ?_ | refine need_eq_some.2 ?_
  all_goals simp [-BitVec.toNat_ofBool, bf_eq_iff, natBit_eq_iff, h]
  all_goals
    replace h := h.2.2
    simp only [natField, pow_zero, Nat.div_one] at h ⊢
    omega

end Sys2Proof
end

section
/-! SUPPORT. The encoder and the decoder of vector words are inverse (R29, R31 to R34, R42, R44): descriptors, the shared
fields of W0, then D of each shape of vector word. -/

namespace Sys2Proof

theorem encDesc_lt (d : Desc) : encDesc d < 2 ^ 21 := by
  cases d <;> simp only [encDesc] <;> omega

/-- The two parts of an immediate's descriptor (R32). -/
theorem imm_parts (v : BitVec 16) : ∃ hi lo, hi < 2 ^ 6 ∧ lo < 2 ^ 10 ∧ v.toNat = hi * 2 ^ 10 + lo ∧
    encDesc (.imm v) = 3 * 2 ^ 19 + hi * 2 ^ 13 + 7 * 2 ^ 10 + lo :=
  ⟨v.toNat / 2 ^ 10, v.toNat % 2 ^ 10, by omega, by omega, by omega, rfl⟩

theorem decodeDesc_encDesc (d : Desc) : decodeDesc (encDesc d) = some d := by
  cases d with
  | vreg i st r c =>
    have hcls : natField (encDesc (.vreg i st r c)) 19 2 = 0 := by simp only [encDesc, natField]; omega
    rw [decodeDesc, hcls]
    simp only [Option.some.injEq, Desc.vreg.injEq, bf_eq_iff, encDesc, natField]; omega
  | rot i st r c =>
    have hcls : natField (encDesc (.rot i st r c)) 19 2 = 1 := by simp only [encDesc, natField]; omega
    have hres : natField (encDesc (.rot i st r c)) 18 1 = 0 := by simp only [encDesc, natField]; omega
    rw [decodeDesc, hcls]
    refine (if_pos hres).trans ?_
    simp only [Option.some.injEq, Desc.rot.injEq, bf_eq_iff, encDesc, natField]; omega
  | queue q =>
    have hcls : natField (encDesc (.queue q)) 19 2 = 2 := by simp only [encDesc, natField]; omega
    have hres : natField (encDesc (.queue q)) 17 2 = 0 ∧ natField (encDesc (.queue q)) 0 13 = 0 := by
      simp only [encDesc, natField]; omega
    rw [decodeDesc, hcls]
    refine (if_pos hres).trans ?_
    simp only [Option.some.injEq, Desc.queue.injEq, bf_eq_iff, encDesc, natField]; omega
  | sreg i =>
    have hcls : natField (encDesc (.sreg i)) 19 2 = 3 := by simp only [encDesc, natField]; omega
    have hst : natField (encDesc (.sreg i)) 10 3 = 0 := by simp only [encDesc, natField]; omega
    have hres : natField (encDesc (.sreg i)) 0 10 = 0 := by simp only [encDesc, natField]; omega
    rw [decodeDesc, hcls, hst]
    refine (if_pos hres).trans ?_
    simp only [Option.some.injEq, Desc.sreg.injEq, bf_eq_iff, encDesc, natField]; omega
  | imm v =>
    obtain ⟨hi, lo, hhi, hlo, hv, henc⟩ := imm_parts v
    have hcls : natField (encDesc (.imm v)) 19 2 = 3 := by
      have hdiv : encDesc (.imm v) / 2 ^ 19 = 3 := by omega
      rw [natField, hdiv]; rfl
    have hst : natField (encDesc (.imm v)) 10 3 = 7 := by simp only [henc, natField]; omega
    rw [decodeDesc, hcls, hst]
    refine congrArg (fun v => some (Desc.imm v)) (BitVec.eq_of_toNat_eq ?_)
    simp only [BitVec.toNat_ofNat, henc, hv, natField]; omega

theorem encDesc_of_decodeDesc {x : Nat} {d : Desc} (hx : x < 2 ^ 21) (h : decodeDesc x = some d) : encDesc d = x := by
  unfold decodeDesc at h
  split at h
  case h_1 =>
    obtain rfl := Option.some.inj h
    simp only [encDesc, toNat_bf, natField] at *; omega
  case h_2 =>
    obtain ⟨hres, h⟩ := Option.ite_none_right_eq_some.1 h
    obtain rfl := Option.some.inj h
    simp only [encDesc, toNat_bf, natField] at *; omega
  case h_3 =>
    obtain ⟨hres, h⟩ := Option.ite_none_right_eq_some.1 h
    obtain rfl := Option.some.inj h
    simp only [encDesc, toNat_bf, natField] at *; omega
  case h_4 h0 h1 h2 =>
    have hcls : natField x 19 2 = 3 := by
      have := natField_lt x 19 2
      simp only [imp_false] at h0 h1 h2; omega
    clear h0 h1 h2
    split at h
    case h_1 =>
      obtain ⟨hres, h⟩ := Option.ite_none_right_eq_some.1 h
      obtain rfl := Option.some.inj h
      simp only [encDesc, toNat_bf, natField] at *; omega
    case h_2 hst =>
      obtain rfl := Option.some.inj h
      simp only [encDesc, BitVec.toNat_ofNat, natField] at *; omega
    case h_3 => cases h

theorem encGuard_lt (g : Guard) : encGuard g < 2 ^ 14 := by
  simp only [encGuard, bitNat_eq_toNat]; omega

theorem decodeGuard_eq_iff {x : Nat} {g : Guard} (hx : x < 2 ^ 14) : decodeGuard x = g ↔ encGuard g = x := by
  obtain ⟨gk, reg, bit, neg⟩ := g
  simp only [decodeGuard, encGuard, Guard.mk.injEq, natBit_eq_iff, bf_eq_iff, natField, bitNat_eq_toNat]; omega

/-- W0 of a vector word from its shared fields and opcode (R29). -/
def vectorW0 (h : VHead) (op : Nat) : Nat :=
  2 ^ 31 + bitNat h.e * 2 ^ 29 + bitNat h.s * 2 ^ 28 + op * 2 ^ 19 + encGuard h.guard * 2 ^ 5 + h.ty.toNat * 2 ^ 2 + h.rnd.toNat

theorem vectorW_eq (h : VHead) (op d : Nat) : vectorW h op d = [vectorW0 h op, d % 2 ^ 32, d / 2 ^ 32] := rfl

theorem vectorW0_eq_iff {h : VHead} {op w : Nat} (hop : op < 2 ^ 9) (hw : w < 2 ^ 32) :
    vectorW0 h op = w ↔ natField w 30 2 = 2 ∧ natField w 19 9 = op ∧ decodeVHead w = h := by
  obtain ⟨e, s, g, ty, rnd⟩ := h
  have hg := encGuard_lt g
  simp only [decodeVHead, VHead.mk.injEq, natBit_eq_iff, bf_eq_iff, decodeGuard_eq_iff (natField_lt w 5 14)]
  simp only [vectorW0, bitNat_eq_toNat, natField]
  omega

end Sys2Proof
end

section
/-! SUPPORT. D of each shape of vector word (R31, R33, R101, R155, R157, R158): the word's encoding reads back, and D reads
as the encoding of what it decodes to. -/

namespace Sys2Proof

theorem natField_natField {x k m lo n : Nat} (h : lo + n ≤ m) :
    natField (natField x k m) lo n = natField x (k + lo) n := by
  obtain ⟨r, rfl⟩ := Nat.exists_eq_add_of_le h
  simp only [natField]
  rw [Nat.add_assoc, pow_add 2 lo, Nat.mod_mul_right_div_self, Nat.mod_mod_of_dvd _ (pow_dvd_pow 2 (Nat.le_add_right n r)),
    Nat.div_div_eq_div_mul, pow_add]

/-- D as the saturate bit and three operand fields (R31). -/
def dWord (s z y x : Nat) : Nat := ((s * 2 ^ 21 + z) * 2 ^ 21 + y) * 2 ^ 21 + x

section
variable {s x y z : Nat} (hx : x < 2 ^ 21) (hy : y < 2 ^ 21) (hz : z < 2 ^ 21) (hs : s < 2)

include hx in
theorem natField_dWord_0 : natField (dWord s z y x) 0 21 = x := by simp only [dWord, natField]; omega

include hx in
theorem natField_dWord_low {lo n : Nat} (hn : lo + n ≤ 21) : natField (dWord s z y x) lo n = natField x lo n := by
  have hlow := natField_natField (x := dWord s z y x) (k := 0) hn
  rwa [natField_dWord_0 hx, Nat.zero_add, eq_comm] at hlow

include hx hy in
theorem natField_dWord_21 : natField (dWord s z y x) 21 21 = y := by simp only [dWord, natField]; omega

include hx hy hz in
theorem natField_dWord_42 : natField (dWord s z y x) 42 21 = z := by simp only [dWord, natField]; omega

include hx hy hz hs in
theorem natField_dWord_63 : natField (dWord s z y x) 63 1 = s := by simp only [dWord, natField]; omega

end

theorem dWord_natField {d : Nat} (h : d < 2 ^ 64) :
    dWord (natField d 63 1) (natField d 42 21) (natField d 21 21) (natField d 0 21) = d := by
  simp only [dWord, natField]; omega

theorem encV3_eq (w : V3) : encV3 w = dWord (BitVec.ofBool w.sat).toNat (encDesc w.b) (encDesc w.a) (encDesc w.d) := by
  simp only [encV3, dWord, bitNat_eq_toNat]; omega

theorem encV2_eq (w : V2) : encV2 w = dWord (BitVec.ofBool w.sat).toNat 0 (encDesc w.a) (encDesc w.d) := by
  simp only [encV2, dWord, bitNat_eq_toNat]; omega

theorem encVI_eq (w : VI) : encVI w = dWord (BitVec.ofBool w.sat).toNat w.imm.toNat (encDesc w.a) (encDesc w.d) := by
  simp only [encVI, dWord, bitNat_eq_toNat]; omega

theorem encVM_eq (w : VM) : encVM w = dWord 0 w.imm.toNat 0 (encDesc w.d) := by
  simp only [encVM, dWord]; omega

/-- Operand 0 of a VC word: its destinations (R33). -/
def vcDests (w : VC) : Nat := w.regA.toNat * 2 ^ 15 + w.bitA.toNat * 2 ^ 9 + w.regB.toNat * 2 ^ 3 + w.bitB.toNat % 8

theorem vcDests_lt (w : VC) : vcDests w < 2 ^ 21 := by simp only [vcDests]; omega

theorem encVC_eq (w : VC) : encVC w = dWord (w.bitB.toNat / 8) (encDesc w.b) (encDesc w.a) (vcDests w) := by
  simp only [encVC, dWord, vcDests]; omega

theorem encVK_eq (w : VK) : encVK w = dWord 0 (encDesc w.b) (encDesc w.a) (w.k.toNat * 2 ^ 13) := by
  simp only [encVK, dWord]; omega

theorem encKB_eq (w : KB) : encKB w = dWord 0 (w.b.toNat * 2 ^ 13) (w.a.toNat * 2 ^ 13) (w.d.toNat * 2 ^ 13) := by
  simp only [encKB, dWord]; omega

theorem encKU_eq (w : KU) : encKU w = dWord 0 0 (w.a.toNat * 2 ^ 13) (w.d.toNat * 2 ^ 13) := by
  simp only [encKU, dWord]; omega

theorem encVQ_eq (w : VQ) : encVQ w = dWord 0 0 0 (2 * 2 ^ 19 + w.q.toNat * 2 ^ 13) := by
  simp only [encVQ, dWord]; omega

theorem encQadv_eq (w : VQ) (c : Desc) : encQadv w c = dWord 0 0 (encDesc c) (2 * 2 ^ 19 + w.q.toNat * 2 ^ 13) := by
  simp only [encQadv, dWord]; omega

variable {w0 d : Nat} {i : Instr}

theorem decV3_encV3 (mk : V3 → Instr) {w : V3} (h : decodeVHead w0 = w.h) (hD : encV3 w = d) :
    decV3 mk w0 d = some (mk w) := by
  subst hD
  have hd := encDesc_lt w.d; have ha := encDesc_lt w.a; have hb := encDesc_lt w.b
  have hs := natBit_eq_iff.2 (natField_dWord_63 hd ha hb (BitVec.ofBool w.sat).isLt)
  rw [encV3_eq, decV3, natField_dWord_0 hd, natField_dWord_21 hd ha, natField_dWord_42 hd ha hb, hs, h,
    decodeDesc_encDesc, decodeDesc_encDesc, decodeDesc_encDesc]

theorem decV2_encV2 (mk : V2 → Instr) {w : V2} (h : decodeVHead w0 = w.h) (hD : encV2 w = d) :
    decV2 mk w0 d = some (mk w) := by
  subst hD
  have hd := encDesc_lt w.d; have ha := encDesc_lt w.a; have hb : 0 < 2 ^ 21 := by decide
  have hs := natBit_eq_iff.2 (natField_dWord_63 hd ha hb (BitVec.ofBool w.sat).isLt)
  rw [encV2_eq, decV2, natField_dWord_0 hd, natField_dWord_21 hd ha, natField_dWord_42 hd ha hb, hs, h,
    decodeDesc_encDesc, decodeDesc_encDesc]
  rfl

theorem decVI_encVI (mk : VI → Instr) {w : VI} (h : decodeVHead w0 = w.h) (hD : encVI w = d) :
    decVI mk w0 d = some (mk w) := by
  subst hD
  have hd := encDesc_lt w.d; have ha := encDesc_lt w.a
  have hi := bf_eq_iff.2 (natField_dWord_42 (s := (BitVec.ofBool w.sat).toNat) hd ha w.imm.isLt)
  have hs := natBit_eq_iff.2 (natField_dWord_63 hd ha w.imm.isLt (BitVec.ofBool w.sat).isLt)
  rw [encVI_eq, decVI, natField_dWord_0 hd, natField_dWord_21 hd ha, hi, hs, h, decodeDesc_encDesc, decodeDesc_encDesc]

theorem decVM_encVM (mk : VM → Instr) {w : VM} (h : decodeVHead w0 = w.h) (hD : encVM w = d) :
    decVM mk w0 d = some (mk w) := by
  subst hD
  have hd := encDesc_lt w.d; have ha : 0 < 2 ^ 21 := by decide
  have hi := bf_eq_iff.2 (natField_dWord_42 (s := 0) hd ha w.imm.isLt)
  rw [encVM_eq, decVM, natField_dWord_0 hd, natField_dWord_21 hd ha, natField_dWord_63 hd ha w.imm.isLt Nat.two_pos, hi, h,
    decodeDesc_encDesc]
  rfl

theorem decVC_encVC (mk : VC → Instr) {w : VC} (h : decodeVHead w0 = w.h) (hD : encVC w = d) :
    decVC mk w0 d = some (mk w) := by
  subst hD
  have hd := vcDests_lt w; have ha := encDesc_lt w.a; have hb := encDesc_lt w.b
  have hregA : bf 6 (encVC w) 15 = w.regA := by
    rw [bf_eq_iff, encVC_eq, natField_dWord_low hd (by decide)]; simp only [vcDests, natField]; omega
  have hbitA : bf 6 (encVC w) 9 = w.bitA := by
    rw [bf_eq_iff, encVC_eq, natField_dWord_low hd (by decide)]; simp only [vcDests, natField]; omega
  have hregB : bf 6 (encVC w) 3 = w.regB := by
    rw [bf_eq_iff, encVC_eq, natField_dWord_low hd (by decide)]; simp only [vcDests, natField]; omega
  have hbitB : BitVec.ofNat 4 (natField (encVC w) 63 1 * 8 + natField (encVC w) 0 3) = w.bitB := by
    rw [encVC_eq, natField_dWord_63 hd ha hb (by omega), natField_dWord_low hd (by decide)]
    refine BitVec.eq_of_toNat_eq ?_
    simp only [BitVec.toNat_ofNat, vcDests, natField]; omega
  rw [decVC, hregA, hbitA, hregB, hbitB, encVC_eq, natField_dWord_21 hd ha, natField_dWord_42 hd ha hb, h,
    decodeDesc_encDesc, decodeDesc_encDesc]

theorem decVK_encVK (mk : VK → Instr) {w : VK} (h : decodeVHead w0 = w.h) (hD : encVK w = d) :
    decVK mk w0 d = some (mk w) := by
  subst hD
  have hd : w.k.toNat * 2 ^ 13 < 2 ^ 21 := by omega
  have ha := encDesc_lt w.a; have hb := encDesc_lt w.b
  have hk : bf 3 (encVK w) 13 = w.k := by rw [bf_eq_iff, encVK_eq, natField_dWord_low hd (by decide)]; simp only [natField]; omega
  have hres : natField (encVK w) 0 13 = 0 ∧ natField (encVK w) 16 5 = 0 ∧ natField (encVK w) 63 1 = 0 := by
    rw [encVK_eq, natField_dWord_low hd (by decide), natField_dWord_low hd (by decide)]
    exact ⟨by simp only [natField]; omega, by simp only [natField]; omega, natField_dWord_63 hd ha hb Nat.two_pos⟩
  rw [decVK, hk, encVK_eq, natField_dWord_21 hd ha, natField_dWord_42 hd ha hb, h, decodeDesc_encDesc, decodeDesc_encDesc]
  exact need_eq_some.2 ⟨encVK_eq w ▸ hres, rfl⟩

theorem decKB_encKB (mk : KB → Instr) {w : KB} (h : decodeVHead w0 = w.h) (hD : encKB w = d) :
    decKB mk w0 d = some (mk w) := by
  subst hD
  refine need_eq_some.2 ⟨by simp only [encKB, natField]; omega, congrArg mk ?_⟩
  obtain ⟨h', d, a, b⟩ := w
  simp only [KB.mk.injEq, bf_eq_iff, encKB, natField]
  exact ⟨h, by omega, by omega, by omega⟩

theorem decKU_encKU (mk : KU → Instr) {w : KU} (h : decodeVHead w0 = w.h) (hD : encKU w = d) :
    decKU mk w0 d = some (mk w) := by
  subst hD
  refine need_eq_some.2 ⟨by simp only [encKU, natField]; omega, congrArg mk ?_⟩
  obtain ⟨h', d, a⟩ := w
  simp only [KU.mk.injEq, bf_eq_iff, encKU, natField]
  exact ⟨h, by omega, by omega⟩

theorem decVQ_encVQ (mk : VQ → Instr) {w : VQ} (h : decodeVHead w0 = w.h) (hD : encVQ w = d) :
    decVQ mk w0 d = some (mk w) := by
  subst hD
  refine need_eq_some.2 ⟨by simp only [encVQ, natField]; omega, congrArg mk ?_⟩
  obtain ⟨h', q⟩ := w
  simp only [VQ.mk.injEq, bf_eq_iff, encVQ, natField]
  exact ⟨h, by omega⟩

theorem decQadv_encQadv {w : VQ} {c : Desc} (h : decodeVHead w0 = w.h) (hD : encQadv w c = d) :
    decQadv w0 d = some (.qadv w c) := by
  subst hD
  have hd : 2 * 2 ^ 19 + w.q.toNat * 2 ^ 13 < 2 ^ 21 := by omega
  have hc := encDesc_lt c
  have hq : bf 4 (encQadv w c) 13 = w.q := by
    rw [bf_eq_iff, encQadv_eq, natField_dWord_low hd (by decide)]; simp only [natField]; omega
  have hcls : natField (encQadv w c) 0 13 = 0 ∧ natField (encQadv w c) 17 4 = 8 := by
    rw [encQadv_eq, natField_dWord_low hd (by decide), natField_dWord_low hd (by decide)]; simp only [natField]; omega
  have hcount : natField (encQadv w c) 21 21 = encDesc c := by rw [encQadv_eq, natField_dWord_21 hd hc]
  have hres : natField (encQadv w c) 42 22 = 0 := by simp only [encQadv, natField]; omega
  rw [decQadv, hcount, decodeDesc_encDesc, hq, h]
  exact need_eq_some.2 ⟨⟨hcls.1, hcls.2, hres⟩, rfl⟩

theorem exists_of_decV3 {mk : V3 → Instr} (hd : d < 2 ^ 64) (h : decV3 mk w0 d = some i) :
    ∃ w, i = mk w ∧ decodeVHead w0 = w.h ∧ encV3 w = d := by
  unfold decV3 at h
  split at h
  case h_1 x y z hx hy hz =>
    refine ⟨_, (Option.some.inj h).symm, rfl, ?_⟩
    rw [encV3_eq, encDesc_of_decodeDesc (natField_lt ..) hx, encDesc_of_decodeDesc (natField_lt ..) hy,
      encDesc_of_decodeDesc (natField_lt ..) hz, toNat_natBit, dWord_natField hd]
  case h_2 => cases h

theorem exists_of_decV2 {mk : V2 → Instr} (hd : d < 2 ^ 64) (h : decV2 mk w0 d = some i) :
    ∃ w, i = mk w ∧ decodeVHead w0 = w.h ∧ encV2 w = d := by
  unfold decV2 at h
  split at h
  case h_1 x y hx hy =>
    obtain ⟨hres, h⟩ := need_eq_some.1 h
    refine ⟨_, h.symm, rfl, ?_⟩
    conv_rhs => rw [← dWord_natField hd, hres]
    rw [encV2_eq, encDesc_of_decodeDesc (natField_lt ..) hx, encDesc_of_decodeDesc (natField_lt ..) hy, toNat_natBit]
  case h_2 => cases h

theorem exists_of_decVI {mk : VI → Instr} (hd : d < 2 ^ 64) (h : decVI mk w0 d = some i) :
    ∃ w, i = mk w ∧ decodeVHead w0 = w.h ∧ encVI w = d := by
  unfold decVI at h
  split at h
  case h_1 x y hx hy =>
    refine ⟨_, (Option.some.inj h).symm, rfl, ?_⟩
    rw [encVI_eq, encDesc_of_decodeDesc (natField_lt ..) hx, encDesc_of_decodeDesc (natField_lt ..) hy, toNat_natBit, toNat_bf,
      dWord_natField hd]
  case h_2 => cases h

theorem exists_of_decVM {mk : VM → Instr} (hd : d < 2 ^ 64) (h : decVM mk w0 d = some i) :
    ∃ w, i = mk w ∧ decodeVHead w0 = w.h ∧ encVM w = d := by
  unfold decVM at h
  split at h
  case h_1 x hx =>
    obtain ⟨⟨hres, hsat⟩, h⟩ := need_eq_some.1 h
    refine ⟨_, h.symm, rfl, ?_⟩
    rw [encVM_eq, encDesc_of_decodeDesc (natField_lt ..) hx, toNat_bf]
    conv_rhs => rw [← dWord_natField hd, hres, hsat]
  case h_2 => cases h

theorem exists_of_decVC {mk : VC → Instr} (hd : d < 2 ^ 64) (h : decVC mk w0 d = some i) :
    ∃ w, i = mk w ∧ decodeVHead w0 = w.h ∧ encVC w = d := by
  unfold decVC at h
  split at h
  case h_1 x y hx hy =>
    refine ⟨_, (Option.some.inj h).symm, rfl, ?_⟩
    have hbitB : (BitVec.ofNat 4 (natField d 63 1 * 8 + natField d 0 3)).toNat = natField d 63 1 * 8 + natField d 0 3 := by
      have := natField_lt d 63 1; have := natField_lt d 0 3
      rw [BitVec.toNat_ofNat]; omega
    have hdests : natField d 15 6 * 2 ^ 15 + natField d 9 6 * 2 ^ 9 + natField d 3 6 * 2 ^ 3 + natField d 0 3 = natField d 0 21 := by
      simp only [natField]; omega
    have hlow := natField_lt d 0 3
    conv_rhs => rw [← dWord_natField hd, ← hdests]
    rw [encVC_eq, encDesc_of_decodeDesc (natField_lt ..) hx, encDesc_of_decodeDesc (natField_lt ..) hy]
    simp only [vcDests, hbitB, toNat_bf]
    rw [show (natField d 63 1 * 8 + natField d 0 3) / 8 = natField d 63 1 by omega,
      show (natField d 63 1 * 8 + natField d 0 3) % 8 = natField d 0 3 by omega]
  case h_2 => cases h

theorem exists_of_decVK {mk : VK → Instr} (hd : d < 2 ^ 64) (h : decVK mk w0 d = some i) :
    ∃ w, i = mk w ∧ decodeVHead w0 = w.h ∧ encVK w = d := by
  unfold decVK at h
  split at h
  case h_1 x y hx hy =>
    obtain ⟨⟨hlow, hhigh, hsat⟩, h⟩ := need_eq_some.1 h
    refine ⟨_, h.symm, rfl, ?_⟩
    have hdest : natField d 13 3 * 2 ^ 13 = natField d 0 21 := by simp only [natField] at hlow hhigh ⊢; omega
    conv_rhs => rw [← dWord_natField hd, hsat]
    rw [encVK_eq, encDesc_of_decodeDesc (natField_lt ..) hx, encDesc_of_decodeDesc (natField_lt ..) hy, toNat_bf, hdest]
  case h_2 => cases h

theorem exists_of_decKB {mk : KB → Instr} (hd : d < 2 ^ 64) (h : decKB mk w0 d = some i) :
    ∃ w, i = mk w ∧ decodeVHead w0 = w.h ∧ encKB w = d := by
  obtain ⟨hres, h⟩ := need_eq_some.1 h
  refine ⟨_, h.symm, rfl, ?_⟩
  simp only [encKB, toNat_bf, natField] at hres ⊢
  omega

theorem exists_of_decKU {mk : KU → Instr} (hd : d < 2 ^ 64) (h : decKU mk w0 d = some i) :
    ∃ w, i = mk w ∧ decodeVHead w0 = w.h ∧ encKU w = d := by
  obtain ⟨hres, h⟩ := need_eq_some.1 h
  refine ⟨_, h.symm, rfl, ?_⟩
  simp only [encKU, toNat_bf, natField] at hres ⊢
  omega

theorem exists_of_decVQ {mk : VQ → Instr} (hd : d < 2 ^ 64) (h : decVQ mk w0 d = some i) :
    ∃ w, i = mk w ∧ decodeVHead w0 = w.h ∧ encVQ w = d := by
  obtain ⟨hres, h⟩ := need_eq_some.1 h
  refine ⟨_, h.symm, rfl, ?_⟩
  simp only [encVQ, toNat_bf, natField] at hres ⊢
  omega

theorem exists_of_decQadv (hd : d < 2 ^ 64) (h : decQadv w0 d = some i) :
    ∃ w c, i = .qadv w c ∧ decodeVHead w0 = w.h ∧ encQadv w c = d := by
  unfold decQadv at h
  split at h
  case h_1 c hc =>
    obtain ⟨⟨hlow, hcls, hres⟩, h⟩ := need_eq_some.1 h
    refine ⟨_, c, h.symm, rfl, ?_⟩
    have hdest : 2 * 2 ^ 19 + natField d 13 4 * 2 ^ 13 = natField d 0 21 := by simp only [natField] at hlow hcls ⊢; omega
    have hhigh : natField d 63 1 = 0 ∧ natField d 42 21 = 0 := by simp only [natField] at hres ⊢; omega
    conv_rhs => rw [← dWord_natField hd, hhigh.1, hhigh.2]
    rw [encQadv_eq, encDesc_of_decodeDesc (natField_lt ..) hc, toNat_bf, hdest]
  case h_2 => cases h

end Sys2Proof
end

section
/-! SUPPORT. The encoder and the decoder of vector and matrix words are inverse (R29, R36, R42 to R44). -/

namespace Sys2Proof

theorem vectorW0_lt {h : VHead} {op : Nat} (hop : op < 2 ^ 9) : vectorW0 h op < 2 ^ 32 := by
  have hg := encGuard_lt h.guard
  simp only [vectorW0, bitNat_eq_toNat]; omega

/-- The units of a vector word tell its opcode, its shared fields and D (R29). -/
theorem of_vectorW_eq {h : VHead} {op D w0 w1 w2 : Nat} (hop : op < 2 ^ 9) (he : some (vectorW h op D) = some [w0, w1, w2]) :
    w0 < 2 ^ 32 ∧ natField w0 30 2 = 2 ∧ natField w0 19 9 = op ∧ decodeVHead w0 = h ∧ D = w1 + 2 ^ 32 * w2 := by
  rw [vectorW_eq, Option.some.injEq, List.cons.injEq, List.cons.injEq, List.cons.injEq] at he
  obtain ⟨h0, h1, h2, -⟩ := he
  have hw := h0 ▸ vectorW0_lt (h := h) hop
  obtain ⟨hkind, hopc, hhead⟩ := (vectorW0_eq_iff hop hw).1 h0
  exact ⟨hw, hkind, hopc, hhead, by rw [← h1, ← h2, Nat.mod_add_div]⟩

/-- R29, R31, R33, R42: the opcode picks the shape, and D reads back. -/
theorem decodeVector_encodeVector {i : Instr} {w0 w1 w2 : Nat} (h : encodeVector i = some [w0, w1, w2]) :
    w0 < 2 ^ 32 ∧ natField w0 30 2 = 2 ∧ decodeVector w0 (w1 + 2 ^ 32 * w2) = some i := by
  cases i
  all_goals first | (cases h; done) | obtain ⟨hw, hk, hop, hh, hD⟩ := of_vectorW_eq (by first | decide | omega) h
  all_goals refine ⟨hw, hk, ?_⟩
  case vselk k w =>
    have hk : ∀ k : BitVec 3, k = 0 ∨ k = 1 ∨ k = 2 ∨ k = 3 ∨ k = 4 ∨ k = 5 ∨ k = 6 ∨ k = 7 := by decide
    rcases hk k with rfl | rfl | rfl | rfl | rfl | rfl | rfl | rfl <;>
    · rw [decodeVector, hop]
      exact decV3_encV3 _ hh hD
  all_goals rw [decodeVector, hop]
  case vadd | vsub | vmul | vfma | vfms | vmin | vmax | vdiv | vmulh | vminu | vmaxu | vand | vor | vxor | vandn | vshl |
      vshr | vsra | vshuf => exact decV3_encV3 _ hh hD
  case vaddi | vmuli | vmini | vmaxi | vshli | vshri | vsrai | vcvt | vrotr | vrotc | vbcr | vbcc => exact decVI_encVI _ hh hD
  case vmovi => exact decVM_encVM _ hh hD
  case vcmpEq | vcmpNe | vcmpLt | vcmpLe | vcmpGt | vcmpGe | vcmpUn | vcmpLtu | vcmpLeu => exact decVC_encVC _ hh hD
  case vkcmpEq | vkcmpNe | vkcmpLt | vkcmpLe | vkcmpGt | vkcmpGe | vkcmpUn => exact decVK_encVK _ hh hD
  case kand | kor | kxor | kandn => exact decKB_encKB _ hh hD
  case knot | kmov => exact decKU_encKU _ hh hD
  case qadv => exact decQadv_encQadv hh hD
  case qclr | qflush => exact decVQ_encVQ _ hh hD
  all_goals exact decV2_encV2 _ hh hD

section
variable {w0 d : Nat} {P : Instr → Prop} (hd : d < 2 ^ 64)
include hd

theorem forall_mem_decV3 {mk : V3 → Instr} :
    (∀ i ∈ decV3 mk w0 d, P i) ↔ ∀ w, decodeVHead w0 = w.h → encV3 w = d → P (mk w) :=
  ⟨fun h w hh he => h _ (decV3_encV3 mk hh he), fun h i hi => by
    obtain ⟨w, rfl, hh, he⟩ := exists_of_decV3 hd hi; exact h w hh he⟩

theorem forall_mem_decV2 {mk : V2 → Instr} :
    (∀ i ∈ decV2 mk w0 d, P i) ↔ ∀ w, decodeVHead w0 = w.h → encV2 w = d → P (mk w) :=
  ⟨fun h w hh he => h _ (decV2_encV2 mk hh he), fun h i hi => by
    obtain ⟨w, rfl, hh, he⟩ := exists_of_decV2 hd hi; exact h w hh he⟩

theorem forall_mem_decVI {mk : VI → Instr} :
    (∀ i ∈ decVI mk w0 d, P i) ↔ ∀ w, decodeVHead w0 = w.h → encVI w = d → P (mk w) :=
  ⟨fun h w hh he => h _ (decVI_encVI mk hh he), fun h i hi => by
    obtain ⟨w, rfl, hh, he⟩ := exists_of_decVI hd hi; exact h w hh he⟩

theorem forall_mem_decVM {mk : VM → Instr} :
    (∀ i ∈ decVM mk w0 d, P i) ↔ ∀ w, decodeVHead w0 = w.h → encVM w = d → P (mk w) :=
  ⟨fun h w hh he => h _ (decVM_encVM mk hh he), fun h i hi => by
    obtain ⟨w, rfl, hh, he⟩ := exists_of_decVM hd hi; exact h w hh he⟩

theorem forall_mem_decVC {mk : VC → Instr} :
    (∀ i ∈ decVC mk w0 d, P i) ↔ ∀ w, decodeVHead w0 = w.h → encVC w = d → P (mk w) :=
  ⟨fun h w hh he => h _ (decVC_encVC mk hh he), fun h i hi => by
    obtain ⟨w, rfl, hh, he⟩ := exists_of_decVC hd hi; exact h w hh he⟩

theorem forall_mem_decVK {mk : VK → Instr} :
    (∀ i ∈ decVK mk w0 d, P i) ↔ ∀ w, decodeVHead w0 = w.h → encVK w = d → P (mk w) :=
  ⟨fun h w hh he => h _ (decVK_encVK mk hh he), fun h i hi => by
    obtain ⟨w, rfl, hh, he⟩ := exists_of_decVK hd hi; exact h w hh he⟩

theorem forall_mem_decKB {mk : KB → Instr} :
    (∀ i ∈ decKB mk w0 d, P i) ↔ ∀ w, decodeVHead w0 = w.h → encKB w = d → P (mk w) :=
  ⟨fun h w hh he => h _ (decKB_encKB mk hh he), fun h i hi => by
    obtain ⟨w, rfl, hh, he⟩ := exists_of_decKB hd hi; exact h w hh he⟩

theorem forall_mem_decKU {mk : KU → Instr} :
    (∀ i ∈ decKU mk w0 d, P i) ↔ ∀ w, decodeVHead w0 = w.h → encKU w = d → P (mk w) :=
  ⟨fun h w hh he => h _ (decKU_encKU mk hh he), fun h i hi => by
    obtain ⟨w, rfl, hh, he⟩ := exists_of_decKU hd hi; exact h w hh he⟩

theorem forall_mem_decVQ {mk : VQ → Instr} :
    (∀ i ∈ decVQ mk w0 d, P i) ↔ ∀ w, decodeVHead w0 = w.h → encVQ w = d → P (mk w) :=
  ⟨fun h w hh he => h _ (decVQ_encVQ mk hh he), fun h i hi => by
    obtain ⟨w, rfl, hh, he⟩ := exists_of_decVQ hd hi; exact h w hh he⟩

theorem forall_mem_decQadv :
    (∀ i ∈ decQadv w0 d, P i) ↔ ∀ w c, decodeVHead w0 = w.h → encQadv w c = d → P (.qadv w c) :=
  ⟨fun h w c hh he => h _ (decQadv_encQadv hh he), fun h i hi => by
    obtain ⟨w, c, rfl, hh, he⟩ := exists_of_decQadv hd hi; exact h w c hh he⟩

/-- R44 for vector words. -/
theorem encodeVector_of_decodeVector (hw : w0 < 2 ^ 32) (hk : natField w0 30 2 = 2) :
    ∀ i ∈ decodeVector w0 d, encodeVector i = some [w0, d % 2 ^ 32, d / 2 ^ 32] := by
  have hunits : ∀ {h op D}, natField w0 19 9 = op → decodeVHead w0 = h → D = d →
      some (vectorW h op D) = some [w0, d % 2 ^ 32, d / 2 ^ 32] := fun {h op D} hop hh hD => by
    rw [vectorW_eq, (vectorW0_eq_iff (hop ▸ natField_lt ..) hw).2 ⟨hk, hop, hh⟩, hD]
  unfold decodeVector
  split
  all_goals simp only [forall_mem_decV3 hd, forall_mem_decV2 hd, forall_mem_decVI hd, forall_mem_decVM hd, forall_mem_decVC hd,
    forall_mem_decVK hd, forall_mem_decKB hd, forall_mem_decKU hd, forall_mem_decVQ hd, forall_mem_decQadv hd,
    Option.not_mem_none, false_imp_iff, implies_true]
  all_goals
    intros
    exact hunits ‹natField w0 19 9 = _› ‹decodeVHead w0 = _› ‹_ = d›

end

/-- The units of a word as one number. -/
def unitsNat : List Nat → Nat
  | [] => 0
  | w :: us => w + 2 ^ 32 * unitsNat us

/-- A field inside one unit is that unit's. -/
theorem natField_unitsNat {us : List Nat} (hus : ∀ u ∈ us, u < 2 ^ 32) {p n : Nat} (h : p % 32 + n ≤ 32) :
    natField (unitsNat us) p n = natField (us.getD (p / 32) 0) (p % 32) n := by
  induction us generalizing p with
  | nil => simp [unitsNat, natField]
  | cons w us ih =>
    have hw := hus w List.mem_cons_self
    rcases Nat.lt_or_ge p 32 with hp | hp
    · rw [Nat.div_eq_of_lt hp, Nat.mod_eq_of_lt hp, List.getD_cons_zero, unitsNat]
      have hin : natField (w + 2 ^ 32 * unitsNat us) 0 32 = w := by simp only [natField]; omega
      rw [Nat.mod_eq_of_lt hp] at h
      rw [← Nat.zero_add p, ← natField_natField (m := 32) h, hin, Nat.zero_add]
    · obtain ⟨q, rfl⟩ := Nat.exists_eq_add_of_le hp
      rw [Nat.add_mod_left] at h
      rw [Nat.add_mod_left, Nat.add_div_left _ (by decide), List.getD_cons_succ,
        ← ih (fun u hu => hus u (List.mem_cons_of_mem _ hu)) h]
      have hdiv : (w + 2 ^ 32 * unitsNat us) / 2 ^ 32 = unitsNat us := by omega
      rw [unitsNat, natField, natField, pow_add, ← Nat.div_div_eq_div_mul, hdiv]

end Sys2Proof
end

section
/-! SUPPORT. The encoder and the decoder of matrix words are inverse (R36, R43, R44). -/

namespace Sys2Proof
section
variable {op u0 u1 u2 u3 u4 u5 : Nat} (hus : ∀ u ∈ [u0, u1, u2, u3, u4, u5], u < 2 ^ 32)
include hus

theorem natField_tile {p n : Nat} (h : p % 32 + n ≤ 32) :
    natField (unitsNat [u0, u1, u2, u3, u4, u5]) p n = natField ([u0, u1, u2, u3, u4, u5].getD (p / 32) 0) (p % 32) n :=
  natField_unitsNat hus h

theorem bf_tile {p n : Nat} (h : p % 32 + n ≤ 32) :
    bf n (unitsNat [u0, u1, u2, u3, u4, u5]) p = bf n ([u0, u1, u2, u3, u4, u5].getD (p / 32) 0) (p % 32) :=
  bf_eq_iff.2 ((natField_tile hus h).trans (toNat_bf ..).symm)

theorem natBit_tile (p : Nat) :
    natBit (unitsNat [u0, u1, u2, u3, u4, u5]) p = natBit ([u0, u1, u2, u3, u4, u5].getD (p / 32) 0) (p % 32) :=
  natBit_eq_iff.2 ((natField_tile hus (by omega)).trans (toNat_natBit ..).symm)

/-- The fields of a matrix word, each from its own unit (R36). -/
theorem decTile_unitsNat : decTile (unitsNat [u0, u1, u2, u3, u4, u5]) =
    { e := natBit u0 29, s := natBit u0 28, guard := decodeGuard (natField u0 6 14), level := bf 3 u0 3,
      place := bf 12 u1 20, acc := bf 4 u1 16, aRing := bf 4 u1 12, bRing := bf 4 u1 8, group := bf 2 u1 6,
      side := natBit u1 5, sparse := natBit u1 4, out := bf 4 u1 0,
      n := bf 16 u2 16, m := bf 16 u2 0,
      hold := bf 4 u3 28, fmode := bf 2 u3 26, floop := bf 4 u3 22, fbase := bf 6 u3 16, k := bf 16 u3 0,
      rnd := bf 3 u4 25, ovf := natBit u4 24, sat := natBit u4 23, scl := bf 4 u4 19, slot := bf 4 u4 15,
      epi := bf 8 u4 7, btab := bf 7 u4 0, w5 := bf 32 u5 0 } := by
  rw [decTile, TileW.mk.injEq]
  simp only [natBit_tile hus]
  exact ⟨rfl, rfl, congrArg decodeGuard (natField_tile hus (by decide)), bf_tile hus (by decide),
    bf_tile hus (by decide), bf_tile hus (by decide), bf_tile hus (by decide), bf_tile hus (by decide), bf_tile hus (by decide),
    rfl, rfl, bf_tile hus (by decide), bf_tile hus (by decide), bf_tile hus (by decide),
    bf_tile hus (by decide), bf_tile hus (by decide), bf_tile hus (by decide), bf_tile hus (by decide), bf_tile hus (by decide),
    bf_tile hus (by decide), rfl, rfl, bf_tile hus (by decide), bf_tile hus (by decide), bf_tile hus (by decide), bf_tile hus (by decide),
    bf_tile hus (by decide)⟩
end

theorem tileUnits_lt {op : Nat} (w : TileW) (hop : op < 2 ^ 8) : ∀ u ∈ tileUnits op w, u < 2 ^ 32 := by
  have hg := encGuard_lt w.guard
  simp only [tileUnits, List.forall_mem_cons, bitNat_eq_toNat]
  exact ⟨by omega, by omega, by omega, by omega, by omega, by omega, by simp⟩

theorem decTile_tileUnits {op : Nat} (w : TileW) (hop : op < 2 ^ 8) : decTile (unitsNat (tileUnits op w)) = w := by
  rw [tileUnits, decTile_unitsNat (tileUnits_lt w hop)]
  obtain ⟨e, s, guard⟩ := w
  have hg := encGuard_lt guard
  rw [TileW.mk.injEq]
  simp only [natBit_eq_iff, bf_eq_iff, decodeGuard_eq_iff (natField_lt ..)]
  simp only [bitNat_eq_toNat, natField]
  refine ⟨?_, ?_, ?_, ?_, ?_, ?_, ?_, ?_, ?_, ?_, ?_, ?_, ?_, ?_, ?_, ?_, ?_, ?_, ?_, ?_, ?_, ?_, ?_, ?_, ?_, ?_, ?_⟩ <;> omega

section
variable {u : Nat} (hu : u < 2 ^ 32)
include hu

theorem tileUnit0_of_fields (hk : natField u 30 2 = 3) (h0 : natField u 0 3 = 0) :
    3 * 2 ^ 30 + natField u 29 1 * 2 ^ 29 + natField u 28 1 * 2 ^ 28 + natField u 20 8 * 2 ^ 20 + natField u 6 14 * 2 ^ 6 +
      natField u 3 3 * 2 ^ 3 = u := by
  simp only [natField] at *; omega

theorem tileUnit1_of_fields :
    natField u 20 12 * 2 ^ 20 + natField u 16 4 * 2 ^ 16 + natField u 12 4 * 2 ^ 12 + natField u 8 4 * 2 ^ 8 + natField u 6 2 * 2 ^ 6 +
      natField u 5 1 * 2 ^ 5 + natField u 4 1 * 2 ^ 4 + natField u 0 4 = u := by
  simp only [natField]; omega

theorem tileUnit2_of_fields : natField u 16 16 * 2 ^ 16 + natField u 0 16 = u := by
  simp only [natField]; omega

theorem tileUnit3_of_fields :
    natField u 28 4 * 2 ^ 28 + natField u 26 2 * 2 ^ 26 + natField u 22 4 * 2 ^ 22 + natField u 16 6 * 2 ^ 16 + natField u 0 16 = u := by
  simp only [natField]; omega

theorem tileUnit4_of_fields (h4 : natField u 28 4 = 0) :
    natField u 25 3 * 2 ^ 25 + natField u 24 1 * 2 ^ 24 + natField u 23 1 * 2 ^ 23 + natField u 19 4 * 2 ^ 19 + natField u 15 4 * 2 ^ 15 +
      natField u 7 8 * 2 ^ 7 + natField u 0 7 = u := by
  simp only [natField] at *; omega

theorem tileUnit5_of_fields : natField u 0 32 = u := by
  simp only [natField]; omega

end

theorem tileUnits_decTile {u0 u1 u2 u3 u4 u5 : Nat} (hus : ∀ u ∈ [u0, u1, u2, u3, u4, u5], u < 2 ^ 32) (hk : natField u0 30 2 = 3)
    (h0 : natField u0 0 3 = 0) (h4 : natField u4 28 4 = 0) :
    tileUnits (natField u0 20 8) (decTile (unitsNat [u0, u1, u2, u3, u4, u5])) = [u0, u1, u2, u3, u4, u5] := by
  have hg := (decodeGuard_eq_iff (natField_lt u0 6 14)).1 rfl
  rw [decTile_unitsNat hus, tileUnits]
  simp only [List.forall_mem_cons] at hus
  obtain ⟨l0, l1, l2, l3, l4, l5, -⟩ := hus
  simp only [hg, bitNat_eq_toNat, toNat_natBit, toNat_bf, tileUnit0_of_fields l0 hk h0, tileUnit1_of_fields l1, tileUnit2_of_fields l2,
    tileUnit3_of_fields l3, tileUnit4_of_fields l4 h4, tileUnit5_of_fields l5]

/-- The opcode, the kind and the reserved bits of a matrix word's units (R36). -/
theorem tileUnits_head {op : Nat} (w : TileW) (hop : op < 2 ^ 8) :
    natField ((tileUnits op w).getD 0 0) 30 2 = 3 ∧ natField (unitsNat (tileUnits op w)) 20 8 = op ∧
    natField (unitsNat (tileUnits op w)) 0 3 = 0 ∧ natField (unitsNat (tileUnits op w)) 156 4 = 0 := by
  have hg := encGuard_lt w.guard
  have hlt := tileUnits_lt w hop
  rw [natField_unitsNat hlt (by decide), natField_unitsNat hlt (by decide), natField_unitsNat hlt (by decide)]
  simp only [tileUnits, Nat.reduceDiv, Nat.reduceMod, List.getD_cons_zero, List.getD_cons_succ, natField, bitNat_eq_toNat]
  omega

/-- R36, R43: the opcode and the fields of a matrix word read back. -/
theorem decodeMatrix_encodeMatrix {i : Instr} {us : List Nat} (h : encodeMatrix i = some us) :
    us.length = 6 ∧ (∀ u ∈ us, u < 2 ^ 32) ∧ natField (us.getD 0 0) 30 2 = 3 ∧ decodeMatrix (unitsNat us) = some i := by
  have hread : ∀ {op : Nat} {w : TileW}, op < 2 ^ 8 → tileUnits op w = us →
      us.length = 6 ∧ (∀ u ∈ us, u < 2 ^ 32) ∧ decTile (unitsNat us) = w ∧ natField (us.getD 0 0) 30 2 = 3 ∧
      natField (unitsNat us) 20 8 = op ∧ natField (unitsNat us) 0 3 = 0 ∧ natField (unitsNat us) 156 4 = 0 := by
    rintro op w hop rfl
    exact ⟨rfl, tileUnits_lt w hop, decTile_tileUnits w hop, tileUnits_head w hop⟩
  cases i
  all_goals
    first
    | (cases h; done)
    | obtain ⟨hlen, hlt, hw, hk, hop, h0, h4⟩ := hread (by decide) (Option.some.inj h)
  all_goals
    refine ⟨hlen, hlt, hk, ?_⟩
    rw [decodeMatrix, if_pos ⟨h0, h4⟩, decodeMatrixOp, hop, hw]
    rfl

/-- R44 for matrix words. -/
theorem encodeMatrix_of_decodeMatrix {u0 u1 u2 u3 u4 u5 : Nat} (hus : ∀ u ∈ [u0, u1, u2, u3, u4, u5], u < 2 ^ 32)
    (hk : natField u0 30 2 = 3) {i : Instr} (h : decodeMatrix (unitsNat [u0, u1, u2, u3, u4, u5]) = some i) :
    encodeMatrix i = some [u0, u1, u2, u3, u4, u5] := by
  obtain ⟨⟨h0, h4⟩, h⟩ := Option.ite_none_right_eq_some.1 h
  rw [natField_tile hus (by decide)] at h0 h4
  have hw := tileUnits_decTile hus hk h0 h4
  unfold decodeMatrixOp at h
  rw [natField_tile hus (by decide)] at h
  split at h
  case h_11 => cases h
  all_goals
    obtain rfl := Option.some.inj h
    refine congrArg some (Eq.trans (congrArg (fun op => tileUnits op _) ?_) hw)
    exact Eq.symm ‹_›

end Sys2Proof
end

section
/-! SUPPORT. Whole words: the encoder and the decoder are inverse (R21, R44), and an engine command's 64 bits read back (R92). -/

namespace Sys2Proof

/-- A scalar instruction has one unit, of kind 0 (R21, R27). -/
theorem encodeScalar_unit {i : Instr} {us : List Nat} (h : encodeScalar i = some us) : ∃ w, us = [w] ∧ w < 2 ^ 31 := by
  have hlt : ∀ {e op ops}, op < 2 ^ 7 → ops < 2 ^ 23 → some [scalarW e op ops] = some us → ∃ w, us = [w] ∧ w < 2 ^ 31 := by
    rintro e op ops hop hops h
    exact ⟨_, (Option.some.inj h).symm, by simp only [scalarW, bitNat_eq_toNat]; omega⟩
  cases i
  case nop | hintp | hintb | hintx => exact hlt (by decide) (by omega) h
  all_goals first
    | (cases h; done)
    | exact hlt (by decide) (by simp only [encSR, encSI, encSU, encSB, encSJ, encSC, bitNat_eq_toNat]; omega) h

/-- The encoder's tables do not overlap: scalar and vector words. -/
theorem encodeScalar_eq_none_of_vector {i : Instr} {us : List Nat} (h : encodeVector i = some us) : encodeScalar i = none := by
  cases i
  all_goals first | rfl | cases h

/-- The encoder's tables do not overlap: a matrix word is no other. -/
theorem encode_eq_of_matrix {i : Instr} {us : List Nat} (h : encodeMatrix i = some us) : encode i = us := by
  cases i
  all_goals first | (cases h; done) | exact Option.some.inj h

theorem encode_eq_of_scalar {i : Instr} {us : List Nat} (h : encodeScalar i = some us) : encode i = us := by
  rw [encode, h]

theorem encode_eq_of_vector {i : Instr} {us : List Nat} (h : encodeVector i = some us) : encode i = us := by
  rw [encode, encodeScalar_eq_none_of_vector h, h]

/-- An instruction with a word that is no engine command has it in one of three tables. -/
theorem encode_cases {i : Instr} (ha : encodeAae i = none) (hne : encode i ≠ []) :
    encodeScalar i = some (encode i) ∨ encodeVector i = some (encode i) ∨ encodeMatrix i = some (encode i) := by
  unfold encode at hne ⊢
  split
  case h_1 us hs => exact .inl hs
  case h_2 hs =>
    split
    case h_1 us hv => exact .inr (.inl hv)
    case h_2 hv =>
      split
      case h_1 us hm => exact .inr (.inr hm)
      case h_2 hm => simp only [hs, hv, hm, ha, ne_eq, not_true_eq_false] at hne

theorem natBit_eq_false_iff {w p : Nat} : natBit w p = false ↔ natField w p 1 = 0 := natBit_eq_iff

theorem natBit_eq_true_iff {w p : Nat} : natBit w p = true ↔ natField w p 1 = 1 := natBit_eq_iff

/-- R21: bits 31 and 30 of the first unit. -/
theorem wordUnits_scalar {w : Nat} (hw : w < 2 ^ 31) : natBit w 31 = false ∧ wordUnits w = 1 := by
  have h : natBit w 31 = false := natBit_eq_false_iff.2 (by simp only [natField]; omega)
  exact ⟨h, by rw [wordUnits, h]; rfl⟩

theorem wordUnits_vector {w : Nat} (hk : natField w 30 2 = 2) : natBit w 31 = true ∧ natBit w 30 = false ∧ wordUnits w = 3 := by
  have h1 : natBit w 31 = true := natBit_eq_true_iff.2 (by simp only [natField] at *; omega)
  have h0 : natBit w 30 = false := natBit_eq_false_iff.2 (by simp only [natField] at *; omega)
  exact ⟨h1, h0, by rw [wordUnits, h1, h0]; rfl⟩

theorem wordUnits_matrix {w : Nat} (hk : natField w 30 2 = 3) : natBit w 31 = true ∧ natBit w 30 = true ∧ wordUnits w = 6 := by
  have h1 : natBit w 31 = true := natBit_eq_true_iff.2 (by simp only [natField] at *; omega)
  have h0 : natBit w 30 = true := natBit_eq_true_iff.2 (by simp only [natField] at *; omega)
  exact ⟨h1, h0, by rw [wordUnits, h1, h0]; rfl⟩

theorem unitsNat_six (w0 w1 w2 w3 w4 w5 : Nat) : unitsNat [w0, w1, w2, w3, w4, w5] =
    w0 + 2 ^ 32 * w1 + 2 ^ 64 * w2 + 2 ^ 96 * w3 + 2 ^ 128 * w4 + 2 ^ 160 * w5 := by
  simp only [unitsNat]; ring

/-- Every word's units are as many as their first one says, and the tables read them back. -/
theorem decodeRaw_encode {i : Instr} (ha : encodeAae i = none) (hne : encode i ≠ [])
    (hx : ∀ e d, i ≠ .xloopStart e d ∧ i ≠ .xloopAbandon e d ∧ i ≠ .xtenantWrite e d) :
    (encode i).length = wordUnits ((encode i).getD 0 0) ∧ decodeRaw (encode i) = some i := by
  rcases encode_cases ha hne with h | h | h
  · obtain ⟨w, hus, hw⟩ := encodeScalar_unit h
    rw [hus] at h ⊢
    obtain ⟨h31, hn⟩ := wordUnits_scalar hw
    exact ⟨hn.symm, by rw [decodeRaw, h31]; exact decodeScalar_encodeScalar h hw hx⟩
  · obtain ⟨w0, w1, w2, hus⟩ : ∃ w0 w1 w2, encode i = [w0, w1, w2] := by
      generalize encode i = us at h
      clear hne hx ha
      cases i
      all_goals first | (cases h; done) | exact ⟨_, _, _, (Option.some.inj h).symm⟩
    rw [hus] at h ⊢
    obtain ⟨-, hk, hdec⟩ := decodeVector_encodeVector h
    obtain ⟨h31, h30, hn⟩ := wordUnits_vector hk
    exact ⟨hn.symm, by rw [decodeRaw, h31, h30]; exact hdec⟩
  · obtain ⟨hlen, -, hk, hdec⟩ := decodeMatrix_encodeMatrix h
    obtain ⟨h31, h30, hn⟩ := wordUnits_matrix hk
    refine ⟨hlen.trans hn.symm, ?_⟩
    obtain ⟨w0, w1, w2, w3, w4, w5, hus⟩ : ∃ w0 w1 w2 w3 w4 w5, encode i = [w0, w1, w2, w3, w4, w5] := by
      generalize encode i = us at hlen
      match us, hlen with
      | [w0, w1, w2, w3, w4, w5], _ => exact ⟨_, _, _, _, _, _, rfl⟩
    rw [hus] at h31 h30 hdec ⊢
    rw [unitsNat_six] at hdec
    rw [List.getD_cons_zero] at h31 h30
    rw [decodeRaw, h31, h30]
    exact hdec

theorem decode_encode {i : Instr} (rest : List Nat) (hwf : wellFormed i = true) (hne : encode i ≠ []) (ha : encodeAae i = none)
    (hx : ∀ e d, i ≠ .xloopStart e d ∧ i ≠ .xloopAbandon e d ∧ i ≠ .xtenantWrite e d) : decode (encode i ++ rest) = .ok i := by
  obtain ⟨hlen, hraw⟩ := decodeRaw_encode ha hne hx
  generalize encode i = us at *
  cases us with
  | nil => exact absurd rfl hne
  | cons w0 us =>
    rw [List.getD_cons_zero] at hlen
    have htake : (w0 :: us ++ rest).take (wordUnits w0) = w0 :: us := by rw [← hlen, List.take_left]
    have hlong : ¬ (w0 :: us ++ rest).length < wordUnits w0 := by rw [List.length_append]; omega
    rw [List.cons_append] at htake hlong ⊢
    rw [decode, if_neg hlong, htake, hraw]
    exact if_pos hwf

/-- R44: the units that the tables read are the encoding of what they read. -/
theorem encode_of_decodeRaw {us : List Nat} {i : Instr} (hus : ∀ u ∈ us, u < 2 ^ 32) (h : decodeRaw us = some i) : encode i = us := by
  unfold decodeRaw at h
  split at h
  case h_1 w0 =>
    obtain ⟨h31, h⟩ := Option.ite_none_left_eq_some.1 h
    have hw := hus w0 List.mem_cons_self
    rw [Bool.not_eq_true, natBit_eq_false_iff] at h31
    exact encode_eq_of_scalar (encodeScalar_of_decodeScalar (by simp only [natField] at h31; omega) i h)
  case h_2 w0 w1 w2 =>
    obtain ⟨hk, h⟩ := Option.ite_none_right_eq_some.1 h
    simp only [List.forall_mem_cons] at hus
    obtain ⟨hw0, hw1, hw2, -⟩ := hus
    simp only [Bool.and_eq_true, Bool.not_eq_true', natBit_eq_true_iff, natBit_eq_false_iff, natField] at hk
    have henc := encodeVector_of_decodeVector (d := w1 + 2 ^ 32 * w2) (by omega) hw0 (by simp only [natField]; omega) i h
    rw [encode_eq_of_vector henc, Nat.add_mul_mod_self_left, Nat.mod_eq_of_lt hw1, Nat.add_mul_div_left _ _ (by decide),
      Nat.div_eq_of_lt hw1, Nat.zero_add]
  case h_3 w0 w1 w2 w3 w4 w5 =>
    obtain ⟨hk, h⟩ := Option.ite_none_right_eq_some.1 h
    rw [← unitsNat_six] at h
    simp only [Bool.and_eq_true, natBit_eq_true_iff, natField] at hk
    exact encode_eq_of_matrix (encodeMatrix_of_decodeMatrix hus
      (by have := hus w0 List.mem_cons_self; simp only [natField]; omega) h)
  case h_4 => cases h

/-- Settles O53: a word's tables are its units' fields, so the decoded instruction gives the units back. -/
theorem decodedWordsEncodeToThemselves : Obligations.DecodedWordsEncodeToThemselves := by
  intro us i hus h
  unfold decode at h
  split at h
  case h_1 => cases h
  case h_2 w0 rest =>
    split at h
    case isTrue => cases h
    case isFalse hlong =>
      split at h
      case h_1 => cases h
      case h_2 i' hraw =>
        obtain ⟨hwf, hi⟩ : wellFormed i' = true ∧ i' = i := by
          split at h
          · exact ⟨‹_›, Except.ok.inj h⟩
          · cases h
        subst hi
        have henc := encode_of_decodeRaw (fun u hu => hus u (List.mem_of_mem_take hu)) hraw
        refine ⟨hwf, ?_⟩
        rw [henc, List.length_take, Nat.min_eq_left (by omega)]

/-- The 64 bits of an engine command from its two units (R92). -/
theorem getD_aaeUnits (x : Nat) : (aaeUnits x).getD 0 0 + (aaeUnits x).getD 1 0 * 2 ^ 32 = x := by
  rw [Nat.mul_comm]; exact Nat.mod_add_div x (2 ^ 32)

section
variable {cl eng x : Nat}

theorem decodeAae_aend (hwf : wellFormed (.aend cl eng) = true) (hx : 0 = x) : decodeAae cl eng x = some (.aend cl eng) := by
  subst hx; exact if_pos hwf

theorem decodeAae_agen {f : AGenF} (hwf : wellFormed (.agen cl eng f) = true)
    (hx : 1 * 2 ^ 58 + f.q.toNat * 2 ^ 54 + f.base.toNat * 2 ^ 50 + f.pitch.toNat * 2 ^ 46 + f.rows.toNat * 2 ^ 42 +
      f.bytes.toNat * 2 ^ 36 = x) : decodeAae cl eng x = some (.agen cl eng f) := by
  have hop : natField x 58 6 = 1 := by simp only [natField]; omega
  have hres : natField x 0 36 = 0 := by simp only [natField]; omega
  have hf : { q := bf 4 x 54, base := bf 4 x 50, pitch := bf 4 x 46, rows := bf 4 x 42, bytes := bf 6 x 36 } = f := by
    obtain ⟨⟩ := f
    dsimp only at hx
    simp only [AGenF.mk.injEq, bf_eq_iff, natField]; omega
  clear hx
  rw [decodeAae, hop, hf, need_eq_some.2 ⟨hres, rfl⟩]
  exact if_pos hwf

theorem decodeAae_aloop {f : ALoopF} (hwf : wellFormed (.aloop cl eng f) = true)
    (hx : 2 * 2 ^ 58 + f.dims.toNat * 2 ^ 55 + f.l.toNat * 2 ^ 51 + f.s.toNat * 2 ^ 47 + f.lead.toNat * 2 ^ 44 +
      f.trail.toNat * 2 ^ 41 + bitNat f.link * 2 ^ 40 + f.blocks.toNat * 2 ^ 37 = x) :
    decodeAae cl eng x = some (.aloop cl eng f) := by
  rw [bitNat_eq_toNat] at hx
  have hop : natField x 58 6 = 2 := by simp only [natField]; omega
  have hres : natField x 0 37 = 0 := by simp only [natField]; omega
  have hf : { dims := bf 3 x 55, l := bf 4 x 51, s := bf 4 x 47, lead := bf 3 x 44, trail := bf 3 x 41, link := natBit x 40,
              blocks := bf 3 x 37 } = f := by
    obtain ⟨⟩ := f
    dsimp only at hx
    simp only [ALoopF.mk.injEq, bf_eq_iff, natBit_eq_iff, natField]; omega
  clear hx
  rw [decodeAae, hop, hf, need_eq_some.2 ⟨hres, rfl⟩]
  exact if_pos hwf

theorem decodeAae_astep {a b : BitVec 4} (hwf : wellFormed (.astep cl eng a b) = true)
    (hx : 3 * 2 ^ 58 + a.toNat * 2 ^ 54 + b.toNat * 2 ^ 50 = x) : decodeAae cl eng x = some (.astep cl eng a b) := by
  have hop : natField x 58 6 = 3 := by simp only [natField]; omega
  have hres : natField x 0 50 = 0 := by simp only [natField]; omega
  have ha : bf 4 x 54 = a := by simp only [bf_eq_iff, natField]; omega
  have hb : bf 4 x 50 = b := by simp only [bf_eq_iff, natField]; omega
  clear hx
  rw [decodeAae, hop, ha, hb, need_eq_some.2 ⟨hres, rfl⟩]
  exact if_pos hwf

theorem decodeAae_awaitCmd {c : BitVec 3} {r : BitVec 4} (hwf : wellFormed (.awaitCmd cl eng c r) = true)
    (hx : 4 * 2 ^ 58 + c.toNat * 2 ^ 55 + r.toNat * 2 ^ 51 = x) : decodeAae cl eng x = some (.awaitCmd cl eng c r) := by
  have hop : natField x 58 6 = 4 := by simp only [natField]; omega
  have hres : natField x 0 51 = 0 := by simp only [natField]; omega
  have hc : bf 3 x 55 = c := by simp only [bf_eq_iff, natField]; omega
  have hr : bf 4 x 51 = r := by simp only [bf_eq_iff, natField]; omega
  clear hx
  rw [decodeAae, hop, hc, hr, need_eq_some.2 ⟨hres, rfl⟩]
  exact if_pos hwf

end

/-- A word of XWR decodes to XWR, whatever it starts (R40, R96). -/
theorem decode_encode_xwr (e : Bool) (d : SReg) {x : BitVec 17} (hwf : wellFormed (.xwr e d x) = true) (rest : List Nat) :
    decode (encode (.xwr e d x) ++ rest) = .ok (.xwr e d x) :=
  decode_encode rest hwf (List.cons_ne_nil _ _) rfl fun _ _ => ⟨nofun, nofun, nofun⟩

/-- Settles O52: words by their three tables, XWR's forms as the XWR they are, engine commands field by field. -/
theorem encodedWordsDecodeToThemselves : Obligations.EncodedWordsDecodeToThemselves := by
  refine ⟨fun i rest hwf hne ha hx => decode_encode rest hwf hne ha hx, fun e d rest => ?_, ?_⟩
  · exact ⟨decode_encode_xwr e d (x := 0x20) rfl rest, decode_encode_xwr e d (x := 0x20) rfl rest,
      decode_encode_xwr e d (x := 0x05) rfl rest⟩
  · intro cl eng g f a b c
    simp only [List.forall_mem_cons]
    refine ⟨fun hwf => ?_, fun hwf => ?_, fun hwf => ?_, fun hwf => ?_, fun hwf => ?_, fun _ h => absurd h List.not_mem_nil⟩
    · exact decodeAae_aend hwf (getD_aaeUnits _).symm
    · exact decodeAae_agen hwf (getD_aaeUnits _).symm
    · exact decodeAae_aloop hwf (getD_aaeUnits _).symm
    · exact decodeAae_astep hwf (getD_aaeUnits _).symm
    · exact decodeAae_awaitCmd hwf (getD_aaeUnits _).symm

end Sys2Proof
end

section
namespace Sys2Proof

/-- Settles O51: the decoder evaluated at each of the nine words. -/
theorem wordsDecode : Obligations.WordsDecode := ⟨rfl, rfl, rfl, rfl, rfl, rfl, rfl, rfl, rfl⟩

end Sys2Proof
end

section
/-! SUPPORT. Where a word leaves its context's place: the PC, the bundle and its control transfer after a word retires
(R24, R25), and the control transfers of R142. -/

namespace Sys2Proof.Machine

@[simp] theorem countWord_pc (c : Ctx) : (countWord c).pc = c.pc := by simp only [countWord]; split <;> rfl
@[simp] theorem countWord_mid (c : Ctx) : (countWord c).mid = c.mid := by simp only [countWord]; split <;> rfl
@[simp] theorem countWord_jump (c : Ctx) : (countWord c).jump = c.jump := by simp only [countWord]; split <;> rfl
@[simp] theorem countWord_back (c : Ctx) : (countWord c).back = c.back := by simp only [countWord]; split <;> rfl

theorem finishBundle_pc (c : Ctx) : (finishBundle c).pc = c.jump.getD c.pc := by
  unfold finishBundle
  split
  case h_1 _ h _ => rw [h]; rfl
  case h_2 _ h _ => rw [h]; rfl
  case h_3 h => rw [h]; rfl

theorem finishBundle_of_jump_none {c : Ctx} (h : c.jump = none) : finishBundle c = { c with mid := false } := by
  simp only [finishBundle, h]

theorem finishBundle_of_back_nil {c : Ctx} (h : c.back = []) : (finishBundle c).mid = false ∧ (finishBundle c).jump = none := by
  cases hj : c.jump with
  | none => rw [finishBundle_of_jump_none hj]; exact ⟨rfl, hj⟩
  | some t => simp only [finishBundle, hj, h]; exact ⟨rfl, rfl⟩

theorem finishBundle_of_back_cons {c : Ctx} {a : Word} {j : Option Word} {js : List (Option Word)} (hj : c.jump = some a)
    (hb : c.back = j :: js) : finishBundle c = enterRest { next := a, jump := j, back := js } c := by
  simp only [finishBundle, hj, hb]

/-- A word inside a bundle goes on behind itself; the last word of a bundle ends it (R24). -/
theorem retireCtx_false (len : Nat) (c : Ctx) :
    retireCtx false len c = { c with pc := c.pc + BitVec.ofNat 64 len, mid := true, syncGo := false } := rfl

theorem retireCtx_true (len : Nat) (c : Ctx) :
    retireCtx true len c = finishBundle { c with pc := c.pc + BitVec.ofNat 64 len, mid := true, syncGo := false } := rfl

variable (s : State)

/-- R24: past the word, unless the bundle ends with a control transfer of its own. -/
theorem retire_fallsThrough (e : Bool) (len : Nat) : FallsThrough e len s (retire e len s) := by
  cases e with
  | false => simp [FallsThrough, retireCtx_false]
  | true => simp [FallsThrough, retireCtx_true, finishBundle_pc]

/-- R24: a pending transfer is taken where the bundle ends. -/
theorem retire_goesTo {a : Word} (e : Bool) (len : Nat) (h : (me s).jump = some a) : GoesTo e a (retire e len s) := by
  cases e with
  | false => simp [GoesTo, retireCtx_false, h]
  | true => simp [GoesTo, retireCtx_true, finishBundle_pc, h]

@[simp] theorem me_jumpTo (a : Word) : me (jumpTo a s) = { me s with jump := some a } := by simp [jumpTo]

theorem touched_jumpTo (a : Word) : Touched s (jumpTo a s) := touched_onMe s _

/-- A control transfer without a result: it passes, and its bundle goes to its target. -/
theorem retire_jumpTo (e : Bool) (a : Word) :
    PassedOver (me s) s (retire e 4 (jumpTo a s)) ∧ GoesTo e a (retire e 4 (jumpTo a s)) := by
  obtain ⟨hown, hplace⟩ := (touched_jumpTo s a).retire e 4
  refine ⟨⟨hown, ?_, by simp [jumpTo]⟩, retire_goesTo _ e 4 (by simp)⟩
  exact Ctx.PlaceOnly.trans (by simp [Ctx.PlaceOnly]) hplace

/-- What a word wrote, over a context that it reached by a change of place alone. -/
theorem WroteOver.of_place {c c' : Ctx} {s t : State} {d : SReg} {v : Word} (hc : Ctx.PlaceOnly c c') (h : WroteOver c' s t d v) :
    WroteOver c s t d v := by
  obtain ⟨hown, hplace, hread, hbad, hgood⟩ := h
  refine ⟨hown, ?_, fun r => by rw [hread r, sread_place hc], hbad, hgood⟩
  exact Ctx.PlaceOnly.trans (by rw [hc]; simp [Ctx.PlaceOnly]) hplace

/-- A control transfer with a result (R142): the return address is written, and the bundle goes to the target. -/
theorem result_jumpTo (e : Bool) (d : SReg) (v a : Word) :
    ∃ t, result e d v (jumpTo a s) = .next t ∧ WroteOver (me s) s t d v ∧ GoesTo e a t := by
  obtain ⟨t, ht, hw⟩ := result_wrote e d v (touched_jumpTo s a) (by simp [jumpTo])
  refine ⟨t, ht, hw.of_place (by simp [Ctx.PlaceOnly]), ?_⟩
  obtain rfl := Host.Outcome.next.inj ht
  exact retire_goesTo _ e 4 (by rw [me_setReg, swrite_eq, me_jumpTo])

section
variable {s} {i : Instr} {k : State → Out}

theorem transfer_outside (h : inBody (me s) (me s).pc = false) : transfer i s k = k s := by
  rw [transfer, h]; exact if_neg Bool.false_ne_true

theorem transfer_inside (h : inBody (me s) (me s).pc = true) : transfer i s k = illopOf i s := if_pos h

theorem withSrc_one_good {a : SReg} (h : srcBad s a = false) : withSrc [a] s k = k s := by
  simp only [withSrc, List.any_cons, List.any_nil, h, Bool.or_self]; exact if_neg Bool.false_ne_true

/-- R22: the return address is that of the next bundle, where every later word of this one can be fetched. -/
theorem returnAddr_known {e : Bool} {r : Word} (h : if e then r = (me s).pc + 4 else bundleEnd s s.cur 3 ((me s).pc + 4) = some r) :
    returnAddr e s = (r, s) := by
  cases e with
  | true => obtain rfl : r = _ := h; rfl
  | false =>
    replace h : bundleEnd s s.cur 3 ((me s).pc + 4) = some r := h
    simp only [returnAddr, h]; rfl

/-- Log entry 27: else it is a free value. -/
theorem returnAddr_unknown (h : bundleEnd s s.cur 3 ((me s).pc + 4) = none) :
    returnAddr false s = (Config.freeWord s.fresh, { s with fresh := s.fresh + 1 }) := by
  simp only [returnAddr, h]; rfl

theorem exec_call_of {e : Bool} {r : Word} {s1 : State} (y : BitVec 23) (hbody : inBody (me s) (me s).pc = false)
    (hr : returnAddr e s = (r, s1)) :
    exec (.call e y) s = result e 63 r (jumpTo (target (me s1).pc (y.signExtend 64)) s1) := by
  rw [exec_call, execCall, transfer_outside hbody, hr]

theorem exec_jr_of {e : Bool} {a : SReg} {r : Word} {s1 : State} (d : SReg) (hbody : inBody (me s) (me s).pc = false)
    (hgood : srcBad s a = false) (hr : returnAddr e s = (r, s1)) :
    exec (.jr e d a) s = result e d r (jumpTo (aligned4 (rs s1 a)) s1) := by
  rw [exec_jr, execJr, transfer_outside hbody, withSrc_one_good hgood, hr]

end

/-- Settles O3, by what `retire` makes of a context's place. -/
theorem bundlesAndControlTransfers : Obligations.BundlesAndControlTransfers := by
  refine ⟨fun len s => ?_, fun e a d n x y s hbody hgood => ?_, fun e a d n x y s hbody => ?_, fun e x s => ?_⟩
  · refine ⟨retire_fallsThrough s false len, by simp [retireCtx_false], retire_fallsThrough s true len, fun hj => ?_, fun hb => ?_,
      fun a j js hj hb => ?_⟩
    · rw [me_retire, countWord_mid, retireCtx_true]
      exact congrArg Ctx.mid (finishBundle_of_jump_none
        (c := { me s with pc := (me s).pc + BitVec.ofNat 64 len, mid := true, syncGo := false }) hj)
    · rw [me_retire, countWord_mid, countWord_jump, retireCtx_true]
      exact finishBundle_of_back_nil hb
    · rw [me_retire, countWord_mid, countWord_jump, countWord_back, retireCtx_true]
      have hrest := finishBundle_of_back_cons (c := { me s with pc := (me s).pc + BitVec.ofNat 64 len, mid := true, syncGo := false }) hj hb
      exact ⟨congrArg Ctx.mid hrest, congrArg Ctx.jump hrest, congrArg Ctx.back hrest⟩
  · rw [exec_bbs, execBbs, exec_bbc, execBbc, exec_jmp, execJmp, transfer_outside hbody, transfer_outside hbody,
      transfer_outside hbody, withSrc_one_good hgood, withSrc_one_good hgood]
    refine ⟨⟨_, rfl, ?_⟩, ⟨_, rfl, ?_⟩, ⟨_, rfl, retire_jumpTo s e _⟩, fun r hr => ⟨?_, ?_⟩⟩
    · by_cases hbit : bitAt (rs s a) n.toNat = true
      · rw [if_pos hbit, if_pos hbit]; exact retire_jumpTo s e _
      · rw [if_neg hbit, if_neg hbit]; exact ⟨retire_passed s e 4, retire_fallsThrough s e 4⟩
    · by_cases hbit : bitAt (rs s a) n.toNat = true
      · rw [if_pos hbit, if_pos hbit]; exact ⟨retire_passed s e 4, retire_fallsThrough s e 4⟩
      · rw [if_neg hbit, if_neg hbit]; exact retire_jumpTo s e _
    · have hx := exec_call_of y hbody (returnAddr_known hr)
      exact hx ▸ result_jumpTo s e 63 r _
    · have hx := exec_jr_of d hbody hgood (returnAddr_known hr)
      exact hx ▸ result_jumpTo s e d r _
  · simp only [List.forall_mem_cons]
    refine ⟨?_, ?_, ?_, ?_, ?_, fun i hi => absurd hi List.not_mem_nil⟩
    · rw [TrapsWith, exec_bbs, execBbs, transfer_inside hbody]; rfl
    · rw [TrapsWith, exec_bbc, execBbc, transfer_inside hbody]; rfl
    · rw [TrapsWith, exec_jmp, execJmp, transfer_inside hbody]; rfl
    · rw [TrapsWith, exec_call, execCall, transfer_inside hbody]; rfl
    · rw [TrapsWith, exec_jr, execJr, transfer_inside hbody]; rfl
  · simp only [List.forall_mem_cons]
    have hpass : ∃ t, (.next (retire e 4 s) : Out) = .next t ∧ PassedOver (me s) s t ∧ FallsThrough e 4 s t :=
      ⟨_, rfl, retire_passed s e 4, retire_fallsThrough s e 4⟩
    rw [exec_nop, execNop, exec_hintp, execHintp, exec_hintb, execHintb, exec_hintx, execHintx, exec_syncb, execSyncb]
    exact ⟨hpass, hpass, hpass, hpass, hpass, fun i hi => absurd hi List.not_mem_nil⟩

/-- Settles O59: the return address is drawn, and the word goes on as any other. -/
theorem callsPastUnfetchableWordsComplete : Obligations.CallsPastUnfetchableWordsComplete := by
  intro a d y s hbody hgood hend
  have hcall := exec_call_of y hbody (returnAddr_unknown hend)
  have hjr := exec_jr_of d hbody hgood (returnAddr_unknown hend)
  exact ⟨hcall ▸ result_jumpTo _ false 63 _ _, hjr ▸ result_jumpTo _ false d _ _⟩

end Sys2Proof.Machine
end

section
/-! SUPPORT. What a stream matrix word takes when it issues (R172, R176, R185): the units change in their cores and dies
alone, the quarters become the context's, and its own context gains the operation. -/

namespace Sys2Proof.Machine

/-- `t` is `s` but for its cores and dies, where the context keeps every quarter that it owns. -/
def UnitsTaken (id : Nat) (s t : State) : Prop :=
  t = { s with cores := t.cores, dies := t.dies } ∧
    ∀ k q, smGet (getCore s k).owner q = some id → smGet (getCore t k).owner q = some id

namespace UnitsTaken
variable {id : Nat} {s t u : State}

theorem refl (s : State) : UnitsTaken id s s := ⟨rfl, fun _ _ h => h⟩

theorem trans (h : UnitsTaken id s t) (g : UnitsTaken id t u) : UnitsTaken id s u :=
  ⟨by rw [g.1, h.1], fun k q hq => g.2 k q (h.2 k q hq)⟩

theorem modCore (n : Nat) {f : Core → Core} (hf : ∀ c q, smGet c.owner q = some id → smGet (f c).owner q = some id) :
    UnitsTaken id s (Machine.modCore s n f) := by
  refine ⟨rfl, fun k q hq => ?_⟩
  rw [getCore_modCore]
  by_cases hk : k = n
  · rw [if_pos hk]; exact hf _ q (hk ▸ hq)
  · rw [if_neg hk]; exact hq

theorem modDie (n : Nat) (f : Die → Die) : UnitsTaken id s (Machine.modDie s n f) := ⟨rfl, fun _ _ h => h⟩

theorem foldl {α : Type} {f : State → α → State} (hf : ∀ s a, UnitsTaken id s (f s a)) (l : List α) (s : State) :
    UnitsTaken id s (l.foldl f s) := by
  induction l generalizing s with
  | nil => exact refl s
  | cons a l ih => exact (hf s a).trans (ih (f s a))

theorem ctxs (h : UnitsTaken id s t) : t.ctxs = s.ctxs := by rw [h.1]
theorem cur (h : UnitsTaken id s t) : t.cur = s.cur := by rw [h.1]
theorem mem (h : UnitsTaken id s t) : t.mem = s.mem := by rw [h.1]
theorem nextId (h : UnitsTaken id s t) : t.nextId = s.nextId := by rw [h.1]
theorem getCtx (h : UnitsTaken id s t) (n : Nat) : getCtx t n = Machine.getCtx s n := by rw [Machine.getCtx, h.ctxs]; rfl

end UnitsTaken

/-- The owners of quarters after some of them are given to a context. -/
theorem smGet_foldl_smPut (qs : List Nat) (id q : Nat) (m : List (Nat × Nat)) :
    smGet (qs.foldl (fun m q => smPut m q id) m) q = if q ∈ qs then some id else smGet m q := by
  induction qs generalizing m with
  | nil => simp
  | cons a qs ih =>
    rw [List.foldl_cons, ih, smGet_smPut]
    by_cases hq : q ∈ qs <;> by_cases ha : q = a <;> simp [hq, ha]

variable {id : Nat}

theorem takeQuarters_taken (qs : List Nat) (s : State) (core : Nat) : UnitsTaken id s (takeQuarters id qs s core) :=
  UnitsTaken.modCore core fun c q hq => by rw [smGet_foldl_smPut]; split <;> [rfl; exact hq]

/-- R172: every quarter that the word touches on its cores becomes its context's. -/
theorem takeQuarters_owner {qs cores : List Nat} (s : State) {k q : Nat} (hk : k ∈ cores) (hq : q ∈ qs) :
    smGet (getCore (cores.foldl (takeQuarters id qs) s) k).owner q = some id := by
  induction cores generalizing s with
  | nil => cases hk
  | cons a cores ih =>
    rw [List.foldl_cons]
    rcases List.mem_cons.1 hk with rfl | hk
    · refine (UnitsTaken.foldl (takeQuarters_taken qs) cores _).2 k q ?_
      rw [takeQuarters, getCore_modCore, if_pos rfl, smGet_foldl_smPut, if_pos hq]
    · exact ih _ hk

theorem rankAtIssue_taken (x : MxWord) (s : State) (core : Nat) : UnitsTaken id s (rankAtIssue x s core) := by
  unfold rankAtIssue
  refine UnitsTaken.modCore core fun c q hq => ?_
  split
  · split <;> exact hq
  · split <;> exact hq

theorem smGet_map {α β : Type} (m : List (Nat × α)) (f : Nat → α → β) (k : Nat) :
    smGet (m.map fun e => (e.1, f e.1 e.2)) k = (smGet m k).map (f k) := by
  induction m with
  | nil => rfl
  | cons e m ih =>
    simp only [List.map_cons, smGet]
    split
    · next h => subst h; rfl
    · exact ih

/-- A core with the binding entries of a site changed. -/
def rebind (key : SiteKey) (f : BindEntry → BindEntry) (c : Core) : Core :=
  { c with bind := c.bind.map fun b => if b.2.key == key && b.2.st != .refused then (b.1, f b.2) else b }

theorem mapBinds_cores (s : State) (die : Nat) (key : SiteKey) (f : BindEntry → BindEntry) :
    (mapBinds s die key f).cores = s.cores.map fun e => (e.1, if e.1 / 32 == die then rebind key f e.2 else e.2) :=
  List.map_congr_left fun e _ => by split <;> rfl

theorem mapBinds_taken (s : State) (die : Nat) (key : SiteKey) (f : BindEntry → BindEntry) : UnitsTaken id s (mapBinds s die key f) := by
  refine ⟨rfl, fun k q hq => ?_⟩
  rw [getCore, smGetD, mapBinds_cores, smGet_map s.cores (fun n c => if n / 32 == die then rebind key f c else c)]
  rw [getCore, smGetD] at hq
  cases hc : smGet s.cores k with
  | none => rw [hc] at hq; exact hq
  | some c =>
    rw [hc] at hq
    simp only [Option.map_some]
    split <;> exact hq

theorem startFill_taken (s : State) (die : Nat) (key : SiteKey) (n : Nat) : UnitsTaken id s (startFill s die key n) := by
  rw [startFill]
  split
  · exact UnitsTaken.refl s
  · exact (mapBinds_taken s die key _).trans (UnitsTaken.modDie _ _)

theorem useEntries_taken (x : MxWord) (s : State) (core : Nat) : UnitsTaken id s (useEntries x s core) :=
  UnitsTaken.foldl (fun s b => by
    split
    · exact startFill_taken s _ _ _
    · split
      · exact UnitsTaken.modDie _ _
      · exact UnitsTaken.refl s) _ s

theorem pinEntries_taken (x : MxWord) (qs : List Nat) (s : State) (core : Nat) : UnitsTaken id s (pinEntries x qs s core) :=
  UnitsTaken.modCore core fun _ _ hq => hq

/-- What an enabled word takes, beside its quarters, and the quarters stay its context's. -/
theorem takeUnits_taken (x : MxWord) (cores : List Nat) (s : State) :
    UnitsTaken id (cores.foldl (takeQuarters id (quartersOf id x)) s) (takeUnits id x cores s) := by
  unfold takeUnits
  extract_lets qs sq sr sp
  have hrank : UnitsTaken id sq sr := UnitsTaken.foldl (rankAtIssue_taken x) cores sq
  have hside : UnitsTaken id sq sp := by
    unfold sp
    split
    · exact (hrank.trans (UnitsTaken.foldl (useEntries_taken x) cores _)).trans (UnitsTaken.foldl (pinEntries_taken x qs) cores _)
    · exact hrank
  split
  · exact hside.trans (UnitsTaken.modDie _ _)
  · exact hside

theorem takeUnits_units (x : MxWord) (cores : List Nat) (s : State) : UnitsTaken id s (takeUnits id x cores s) :=
  (UnitsTaken.foldl (takeQuarters_taken _) cores s).trans (takeUnits_taken x cores s)

theorem takeUnits_owner (x : MxWord) {cores : List Nat} (s : State) {k q : Nat} (hk : k ∈ cores) (hq : q ∈ quartersOf id x) :
    smGet (getCore (takeUnits id x cores s) k).owner q = some id :=
  (takeUnits_taken x cores s).2 k q (takeQuarters_owner s hk hq)

/-- A release at P-L1 passes stores on, and performs none (R216). -/
theorem release_l1_taken (s : State) (n : Nat) : UnitsTaken id s (release s n 1 none) := by
  have hwide : wideScope s n 1 = false := rfl
  simp only [release, releaseDrain, hwide, Bool.false_eq_true, if_false]
  split
  · exact UnitsTaken.refl s
  · exact UnitsTaken.modCore _ fun _ _ hq => hq

end Sys2Proof.Machine
end

section
/-! SUPPORT. A stream matrix word from its checks to the array's order (R172 to R176, R185, R330). -/

namespace Sys2Proof.Machine

theorem fullOnly_full {i : Instr} {s : State} {k : State → Out} (h : isLight s.cur = false) : fullOnly i s k = k s := by
  rw [fullOnly, h]; exact if_neg Bool.false_ne_true

-- A trap told at another word is told anew (R186): only the operations of the context change.

theorem restartTold_ctxs (s : State) (id : Nat) : restartTold s id = { s with ctxs := (restartTold s id).ctxs } := by
  unfold restartTold
  dsimp only
  split <;> rfl

@[simp] theorem restartTold_cur (s : State) (id : Nat) : (restartTold s id).cur = s.cur := by rw [restartTold_ctxs]
@[simp] theorem restartTold_mem (s : State) (id : Nat) : (restartTold s id).mem = s.mem := by rw [restartTold_ctxs]
@[simp] theorem restartTold_poison (s : State) (id : Nat) : (restartTold s id).poison = s.poison := by rw [restartTold_ctxs]
@[simp] theorem restartTold_nextId (s : State) (id : Nat) : (restartTold s id).nextId = s.nextId := by rw [restartTold_ctxs]

theorem me_restartTold (s : State) : me (restartTold s s.cur) =
    { me s with copies := (me (restartTold s s.cur)).copies, fab := (me (restartTold s s.cur)).fab } := by
  have hme : me (restartTold s s.cur) = getCtx (restartTold s s.cur) s.cur := by rw [me, restartTold_cur]
  rw [hme]
  unfold restartTold
  dsimp only
  split
  · simp only [getCtx_setCtx, if_true]; rfl
  · rfl

@[simp] theorem restartTold_tc (s : State) : (me (restartTold s s.cur)).tc = (me s).tc := by rw [me_restartTold]
@[simp] theorem restartTold_l (s : State) : (me (restartTold s s.cur)).l = (me s).l := by rw [me_restartTold]
@[simp] theorem restartTold_xseed (s : State) : (me (restartTold s s.cur)).xseed = (me s).xseed := by rw [me_restartTold]
@[simp] theorem restartTold_tenant (s : State) : (me (restartTold s s.cur)).tenant = (me s).tenant := by rw [me_restartTold]

theorem srcBad_restartTold (s : State) (r : SReg) : srcBad (restartTold s s.cur) r = srcBad s r := by
  simp only [srcBad, isPoison, restartTold_poison, restartTold_cur]

/-- The stream matrix words have one meaning (R173). -/
theorem exec_tileForms {w : TileW} (s : State) : ∀ f ∈ tileForms w, exec f.1 s = tileWord f.1 f.2 w s := by
  simp only [tileForms, List.forall_mem_cons]
  exact ⟨rfl, rfl, rfl, rfl, rfl, rfl, rfl, rfl, rfl, rfl, fun f hf => absurd hf List.not_mem_nil⟩

section
variable {i : Instr} {k : MxKind} {w : TileW} {s : State} {fte : Word} {fmt : Option TFmt}
  (hfull : isLight s.cur = false) (hfmt : formatOf (me (restartTold s s.cur)) k w = some (fte, fmt))
include hfull hfmt

/-- R330: the fault of a stage that the word waits on goes first. -/
theorem tileWord_halted {n : Nat} {h : Halt} (hh : stageHaltOn (restartTold s s.cur) s.cur { kind := k, w := w, f := fmt } = some (n, h)) :
    tileWord i k w s = trapNext { cause := h.cause, src := 5, w := h.write, va := h.va }
      (setHalt (restartTold s s.cur) s.cur n (some { h with told := toldHere (restartTold s s.cur) s.cur })) := by
  rw [tileWord, fullOnly_full hfull]
  simp only [hfmt, hh]

theorem tileWord_checked (hh : stageHaltOn (restartTold s s.cur) s.cur { kind := k, w := w, f := fmt } = none) :
    tileWord i k w s = checkedWord i s.cur { kind := k, w := w, f := fmt } fte (restartTold s s.cur) := by
  rw [tileWord, fullOnly_full hfull]
  simp only [hfmt, hh]

end

section
variable {i : Instr} {id : Nat} {x : MxWord} {fte : Word} {s : State} (hgood : srcBad s x.w.guard.reg = false)
include hgood

theorem checkedWord_badRing {q : Nat} (hq : badRing (me s) x = some q) :
    checkedWord i id x fte s = trapNext { cause := 7, va := BitVec.ofNat 64 q } s := by
  rw [checkedWord, hgood, if_neg Bool.false_ne_true]
  simp only [hq]; rfl

/-- R175: a guarded word whose rows are all off checks its rings alone. -/
theorem checkedWord_off (hq : badRing (me s) x = none) (hrows : guardRows (me s) x.w.guard = 0) :
    checkedWord i id x fte s = issueWord id x fte true [coreOf id] s := by
  rw [checkedWord, hgood, if_neg Bool.false_ne_true]
  simp only [hq, hrows, if_true]

theorem checkedWord_on {cores : List Nat} (hq : badRing (me s) x = none) (hrows : guardRows (me s) x.w.guard ≠ 0)
    (hsize : sizeRefused x = false) (hplace : placeWord s id x = .ok cores) (hslot : slotRefused s id x cores = false)
    (hmeta : metaRefused s x (metaCore id x cores) = none) :
    checkedWord i id x fte s = issueWord id x fte false cores s := by
  rw [checkedWord, hgood, if_neg Bool.false_ne_true]
  simp only [hq, if_neg hrows, enabledWord, hsize, hplace, hslot, hmeta, Bool.false_eq_true, if_false]

end

/-- A word's first slots are there and fewer than eight words are in flight (R169, R176). -/
def WordReady (c : Ctx) (x : MxWord) : Prop :=
  c.mx.length + stagesOf c < 8 ∧ (∀ q ∈ x.reads, readReady c x q = true) ∧ ∀ q ∈ x.writes, writeReady c q = true

theorem wordReady_iff (c : Ctx) (x : MxWord) :
    WordReady c x ↔ (decide (8 ≤ c.mx.length + stagesOf c) || !ringsReady c (firstNeeds x) x.writes) = false := by
  simp [WordReady, ringsReady, firstNeeds, readReady]

section
variable {id : Nat} {x : MxWord} {fte : Word} {off : Bool} {cores : List Nat} {s : State}

theorem issueWord_waits (h : ¬ WordReady (getCtx s id) x) : issueWord id x fte off cores s =
    .next (waitHere (.matrix (if x.level = 2 then (cores.map (· / 4)).eraseDups else []) (firstNeeds x) x.writes) s) := by
  rw [wordReady_iff, Bool.not_eq_false] at h
  rw [issueWord]
  exact if_pos h

/-- The state from which a word enters: what an enabled word takes is taken. -/
def unitsFor (id : Nat) (x : MxWord) (off : Bool) (cores : List Nat) (s : State) : State :=
  if off then s else takeUnits id x cores s

theorem unitsFor_taken (id : Nat) (x : MxWord) (off : Bool) (cores : List Nat) (s : State) :
    UnitsTaken id s (unitsFor id x off cores s) := by
  unfold unitsFor
  split
  · exact UnitsTaken.refl s
  · exact takeUnits_units x cores s

theorem issueWord_ready (h : WordReady (getCtx s id) x) (hgood : off = true ∨ wordBad s id x cores = false) :
    issueWord id x fte off cores s = .next (retire x.w.e 24
      (if x.kind = .tstage then enterStage id x off (unitsFor id x off cores s)
       else enterArray id x fte off cores (unitsFor id x off cores s))) := by
  have hbad : (!off && wordBad s id x cores) = false := by rcases hgood with h | h <;> simp [h]
  rw [issueWord]
  refine (if_neg (by rw [(wordReady_iff _ _).1 h]; exact Bool.false_ne_true)).trans ?_
  rw [hbad]; rfl

end

/-- The operation that a word becomes at the array (R172). -/
def arrayOp (c : Ctx) (x : MxWord) (fte : Word) (off : Bool) (cores : List Nat) (stamp : Nat) : MxOp :=
  { num := (tcOf c 5).issued + 1, op := x.kind.code, w := x.w, fte := fte, guardOff := off, key := tileKey c,
    tenant := c.tenant.toNat, cores := cores, stamp := stamp }

/-- The operation that a TSTAGE becomes at the copy engine (R185). -/
def stageOp (c : Ctx) (x : MxWord) (off : Bool) (stamp : Nat) : CopyOp :=
  { num := (tcOf c 4).issued + 1, kind := .stage x.w (lget c 3 (natField x.w.w5.toNat 4 4)) off stamp, view := viewOf c,
    tagged := false, tenant := c.tenant.toNat }

section
variable (x : MxWord) (fte : Word) (off : Bool) (cores : List Nat) (s : State)

theorem me_enterArray : me (enterArray s.cur x fte off cores s) =
    { (tcTake (me s) 5).2 with mx := (me s).mx ++ [arrayOp (me s) x fte off cores s.nextId] } := by
  rw [enterArray, me]
  simp only [tcTake, getCtx_setCtx]
  exact if_pos rfl

theorem enterArray_mem (id : Nat) : (enterArray id x fte off cores s).mem = s.mem := rfl

theorem release_stage_taken (id : Nat) : UnitsTaken id s (if off then s else release s id 1 none) := by
  split
  · exact UnitsTaken.refl s
  · exact release_l1_taken s _

theorem me_enterStage : me (enterStage s.cur x off s) =
    { (tcTake (me s) 4).2 with copies := (me s).copies ++ [stageOp (me s) x off s.nextId] } := by
  have ht := release_stage_taken off s s.cur
  rw [enterStage, me]
  generalize (if off then s else release s s.cur 1 none) = u at ht
  simp only [tcTake, getCtx_setCtx, ht.getCtx, ht.nextId, ht.cur]
  exact if_pos rfl

theorem enterStage_owner {id k q : Nat} (h : smGet (getCore s k).owner q = some id) :
    smGet (getCore (enterStage id x off s) k).owner q = some id :=
  (release_stage_taken off s id).2 k q h

end

end Sys2Proof.Machine
end

section
/-! SUPPORT. O24: the stream matrix words, each through its shared checks (R172 to R176, R185, R330), and the waits at
them (log entry 8). -/

namespace Sys2Proof.Machine

theorem FallsThrough.of_same {e : Bool} {len : Nat} {s s' t : State} (hpc : (me s').pc = (me s).pc) (hj : (me s').jump = (me s).jump)
    (h : FallsThrough e len s' t) : FallsThrough e len s t := by
  rwa [FallsThrough, hpc, hj] at h

/-- A word that waits where it stands: in a bundle as a stall, else as a wait (log entry 8). -/
theorem waitHere_waits {w : Wait} {s : State} (hsave : bitAt (me s).xsched 0 = false) :
    (me (waitHere w s)).run = (if (me s).mid then (me s).run else .waiting) ∧ (me (waitHere w s)).wait = some w ∧
      (me (waitHere w s)).pc = (me s).pc ∧ (me (waitHere w s)).s = (me s).s := by
  have hme : ∀ f, me (modCtx s s.cur f) = f (me s) := me_onMe s
  have hget : getCtx s s.cur = me s := rfl
  unfold waitHere waitCtx
  rw [hget]
  by_cases hmid : (me s).mid = true
  · rw [if_pos hmid, hme, if_pos hmid]; exact ⟨rfl, rfl, rfl, rfl⟩
  · rw [if_neg hmid, hsave, if_neg Bool.false_ne_true, hme, if_neg hmid]; exact ⟨rfl, rfl, rfl, rfl⟩

section
variable {s : State} {x : MxWord} {off : Bool} {cores : List Nat}

theorem unitsFor_cur : (unitsFor s.cur x off cores (restartTold s s.cur)).cur = s.cur := by
  rw [(unitsFor_taken ..).cur, restartTold_cur]

theorem unitsFor_nextId : (unitsFor s.cur x off cores (restartTold s s.cur)).nextId = s.nextId := by
  rw [(unitsFor_taken ..).nextId, restartTold_nextId]

theorem me_unitsFor : me (unitsFor s.cur x off cores (restartTold s s.cur)) = me (restartTold s s.cur) := by
  rw [me, me, unitsFor_cur, restartTold_cur, (unitsFor_taken ..).getCtx]

end

/-- The state in which a ready word retires. -/
def enteredFor (x : MxWord) (fte : Word) (off : Bool) (cores : List Nat) (s : State) : State :=
  let u := unitsFor s.cur x off cores (restartTold s s.cur)
  if x.kind = .tstage then enterStage s.cur x off u else enterArray s.cur x fte off cores u

section
variable {s : State} {x : MxWord} {fte : Word} {off : Bool} {cores : List Nat}

theorem me_enteredFor_array (hk : x.kind ≠ .tstage) : me (enteredFor x fte off cores s) =
    { (tcTake (me (restartTold s s.cur)) 5).2 with
      mx := (me (restartTold s s.cur)).mx ++ [arrayOp (me (restartTold s s.cur)) x fte off cores s.nextId] } := by
  have h := me_enterArray x fte off cores (unitsFor s.cur x off cores (restartTold s s.cur))
  rw [unitsFor_cur, me_unitsFor, unitsFor_nextId] at h
  rw [enteredFor, if_neg hk, h]

theorem me_enteredFor_stage (hk : x.kind = .tstage) : me (enteredFor x fte off cores s) =
    { (tcTake (me (restartTold s s.cur)) 4).2 with
      copies := (me (restartTold s s.cur)).copies ++ [stageOp (me (restartTold s s.cur)) x off s.nextId] } := by
  have h := me_enterStage x off (unitsFor s.cur x off cores (restartTold s s.cur))
  rw [unitsFor_cur, me_unitsFor, unitsFor_nextId] at h
  rw [enteredFor, if_pos hk, h]

/-- Issue leaves the registers and the place of the context. -/
theorem me_enteredFor : ∃ cs fs ts ms, me (enteredFor x fte off cores s) = { me s with copies := cs, fab := fs, tc := ts, mx := ms } := by
  by_cases hk : x.kind = .tstage
  · rw [me_enteredFor_stage hk, tcTake, me_restartTold]; exact ⟨_, _, _, _, rfl⟩
  · rw [me_enteredFor_array hk, tcTake, me_restartTold]; exact ⟨_, _, _, _, rfl⟩

theorem memByte_enteredFor (hk : x.kind ≠ .tstage) (a : Nat) : memByte (enteredFor x fte off cores s) a = memByte s a := by
  rw [enteredFor, if_neg hk, memByte, enterArray_mem, (unitsFor_taken ..).mem, restartTold_mem, memByte]

/-- R172: the quarters of an enabled word are its context's. -/
theorem owner_enteredFor {k q : Nat} (hk : k ∈ cores) (hq : q ∈ quartersOf s.cur x) :
    smGet (getCore (enteredFor x fte false cores s) k).owner q = some s.cur := by
  have hown : smGet (getCore (unitsFor s.cur x false cores (restartTold s s.cur)) k).owner q = some s.cur := takeUnits_owner x _ hk hq
  by_cases hstage : x.kind = .tstage
  · rw [enteredFor, if_pos hstage]; exact enterStage_owner x false _ hown
  · rw [enteredFor, if_neg hstage]; exact hown

end

theorem Ctx.PlaceOnly.mx {c c' : Ctx} (h : Ctx.PlaceOnly c c') : c'.mx = c.mx := by rw [h]
theorem Ctx.PlaceOnly.copies {c c' : Ctx} (h : Ctx.PlaceOnly c c') : c'.copies = c.copies := by rw [h]

theorem getCore_retire (e : Bool) (len : Nat) (s : State) (k : Nat) : getCore (retire e len s) k = getCore s k := by
  rw [retire_eq]; rfl

/-- Settles O24: the checks lead to `issueWord`, which waits, or takes the word's units and enters it. -/
theorem matrixWordsEnterTheArray : Obligations.MatrixWordsEnterTheArray := by
  intro w s hfull hguard s1 c f hf fte fmt hfmt x
  have hgood : srcBad s1 x.w.guard.reg = false := by rw [srcBad_restartTold]; exact hguard
  have hcur : s1.cur = s.cur := restartTold_cur s s.cur
  have hexec : exec f.1 s = tileWord f.1 f.2 w s := exec_tileForms s f hf
  refine ⟨fun n h hh => ?_, fun q hh hq => ?_, fun hq hh off cores hcase => ?_⟩
  · rw [TrapsOver, hexec, tileWord_halted hfull hfmt hh]; rfl
  · rw [TrapsOver, hexec, tileWord_checked hfull hfmt hh, checkedWord_badRing hgood hq]; rfl
  · have hissue : exec f.1 s = issueWord s.cur x fte off cores s1 ∧ (off = true ∨ wordBad s1 s.cur x cores = false) := by
      rw [hexec, tileWord_checked hfull hfmt hh]
      rcases hcase with ⟨rfl, hrows, rfl⟩ | ⟨rfl, hrows, hsize, hplace, hslot, hmeta, hbad⟩
      · exact ⟨checkedWord_off hgood hq hrows, .inl rfl⟩
      · exact ⟨checkedWord_on hgood hq hrows hsize hplace hslot hmeta, .inr hbad⟩
    have hctx : getCtx s1 s.cur = c := by rw [← hcur]; rfl
    have hc : c = { me s with copies := c.copies, fab := c.fab } := me_restartTold s
    refine ⟨fun hready => ?_, fun hready hsave => ?_⟩
    · refine ⟨retire w.e 24 (enteredFor x fte off cores s), ?_, ?_, fun r => ?_, fun hk => ⟨fun a => ?_, ?_⟩, fun hk => ?_, fun hoff k hk q hq => ?_⟩
      · rw [hissue.1, issueWord_ready (by rw [hctx]; exact hready) hissue.2]; rfl
      · obtain ⟨cs, fs, ts, ms, hme⟩ := me_enteredFor (x := x) (fte := fte) (off := off) (cores := cores) (s := s)
        exact (retire_fallsThrough _ w.e 24).of_same (by rw [hme]) (by rw [hme])
      · obtain ⟨cs, fs, ts, ms, hme⟩ := me_enteredFor (x := x) (fte := fte) (off := off) (cores := cores) (s := s)
        rw [rs, me_retire, sread_place (retired_place ..), hme]; rfl
      · rw [memByte, retire_mem]; exact memByte_enteredFor hk a
      · refine ⟨arrayOp c x fte off cores s.nextId, ?_, ?_, rfl, rfl, rfl, rfl, ?_, ?_, rfl, rfl⟩
        · rw [me_retire, (retired_place ..).mx, me_enteredFor_array hk]
        · simp only [arrayOp, tcOf, c, s1, restartTold_tc]
        · simp only [arrayOp, tileKey, c, s1, restartTold_xseed]
        · simp only [arrayOp, c, s1, restartTold_tenant]
      · refine ⟨stageOp c x off s.nextId, ?_, ?_, ?_, rfl, rfl⟩
        · rw [me_retire, (retired_place ..).copies, me_enteredFor_stage hk]
        · simp only [stageOp, tcOf, c, s1, restartTold_tc]
        · simp only [stageOp, lget, c, s1, restartTold_l, x]
      · subst hoff
        rw [getCore_retire]; exact owner_enteredFor hk hq
    · have hme : me s1 = { me s with copies := c.copies, fab := c.fab } := hc
      have hwait := waitHere_waits (w := .matrix (if x.level = 2 then (cores.map (· / 4)).eraseDups else []) (firstNeeds x) x.writes)
        (s := s1) (by rw [hme]; exact hsave)
      rw [hme] at hwait
      exact ⟨_, hissue.1.trans (issueWord_waits (by rw [hctx]; exact hready)), hwait⟩

end Sys2Proof.Machine
end

section
/-! SUPPORT. Bits and fields of numbers: what reading a field says bit by bit, what replacing one changes, and rows of
blocks and masks (R10, R30, R32). -/

namespace Sys2Proof.Machine

theorem natBit_eq_testBit (x i : Nat) : natBit x i = x.testBit i := by
  rw [Nat.testBit_eq_decide_div_mod_eq, natBit, beq_eq_decide]

theorem testBit_natField (x lo n i : Nat) : (natField x lo n).testBit i = (decide (i < n) && x.testBit (lo + i)) := by
  rw [natField, Nat.testBit_mod_two_pow, Nat.testBit_div_two_pow, Nat.add_comm]

/-- A number as what lies above a field, the field, and what lies below. -/
theorem split_field (x lo n : Nat) : x = 2 ^ lo * (2 ^ n * (x / 2 ^ (lo + n)) + natField x lo n) + x % 2 ^ lo := by
  rw [natField, pow_add, ← Nat.div_div_eq_div_mul, Nat.div_add_mod, Nat.div_add_mod]

theorem putField_eq (x lo n v : Nat) :
    putField x lo n v = 2 ^ lo * (2 ^ n * (x / 2 ^ (lo + n)) + v % 2 ^ n) + x % 2 ^ lo := by
  have hx : x = 2 ^ lo * (2 ^ n * (x / 2 ^ (lo + n))) + x % 2 ^ lo + natField x lo n * 2 ^ lo := by
    conv_lhs => rw [split_field x lo n]
    ring
  have hsub : x - natField x lo n * 2 ^ lo = 2 ^ lo * (2 ^ n * (x / 2 ^ (lo + n))) + x % 2 ^ lo :=
    Nat.sub_eq_of_eq_add hx
  rw [putField, hsub]
  ring

theorem testBit_putField (x lo n v i : Nat) :
    (putField x lo n v).testBit i = if lo ≤ i ∧ i < lo + n then v.testBit (i - lo) else x.testBit i := by
  have hlow : x % 2 ^ lo < 2 ^ lo := Nat.mod_lt _ (by positivity)
  have hv : v % 2 ^ n < 2 ^ n := Nat.mod_lt _ (by positivity)
  rw [putField_eq, Nat.testBit_two_pow_mul_add _ hlow, Nat.testBit_two_pow_mul_add _ hv, Nat.testBit_mod_two_pow,
    Nat.testBit_mod_two_pow, Nat.testBit_div_two_pow]
  by_cases h1 : i < lo
  · simp [h1, Nat.not_le.2 h1]
  · rw [if_neg h1]
    by_cases h2 : i - lo < n
    · rw [if_pos h2, if_pos ⟨by omega, by omega⟩, decide_eq_true h2, Bool.true_and]
    · rw [if_neg h2, if_neg (by omega), show i - lo - n + (lo + n) = i by omega]

theorem natField_putField_same (x lo n v : Nat) : natField (putField x lo n v) lo n = v % 2 ^ n := by
  refine Nat.eq_of_testBit_eq fun i => ?_
  rw [testBit_natField, testBit_putField, Nat.testBit_mod_two_pow]
  by_cases h : i < n
  · rw [if_pos ⟨by omega, by omega⟩, Nat.add_sub_cancel_left]
  · rw [decide_eq_false h, Bool.false_and, Bool.false_and]

/-- Two numbers with the same bits in a field have the same field. -/
theorem natField_congr {x y lo n : Nat} (h : ∀ i, lo ≤ i → i < lo + n → x.testBit i = y.testBit i) :
    natField x lo n = natField y lo n := by
  refine Nat.eq_of_testBit_eq fun i => ?_
  rw [testBit_natField, testBit_natField]
  by_cases hi : i < n
  · rw [h (lo + i) (by omega) (by omega)]
  · rw [decide_eq_false hi, Bool.false_and, Bool.false_and]

theorem testBit_ofNat_toNat (N x i : Nat) : (BitVec.ofNat N x).toNat.testBit i = (decide (i < N) && x.testBit i) := by
  rw [BitVec.toNat_ofNat, Nat.testBit_mod_two_pow]

-- Rows (R10).

theorem testBit_rowOf (b : Block) (r i : Nat) : (rowOf b r).testBit i = (decide (i < 1024) && b.toNat.testBit (1024 * r + i)) :=
  testBit_natField ..

/-- A row of a block after a row is replaced. -/
theorem testBit_rowOf_setRow (b : Block) {r r' : Nat} (v : Nat) (_hr : r < 16) (hr' : r' < 16) (i : Nat) (hi : i < 1024) :
    (rowOf (setRow b r v) r').testBit i = if r' = r then v.testBit i else (rowOf b r').testBit i := by
  rw [testBit_rowOf, setRow, testBit_ofNat_toNat, testBit_putField, decide_eq_true hi,
    decide_eq_true (by omega : 1024 * r' + i < 16384), Bool.true_and, Bool.true_and]
  by_cases h : r' = r
  · rw [if_pos (by omega), if_pos h, h, Nat.add_sub_cancel_left]
  · rw [if_neg (by omega), if_neg h, testBit_rowOf, decide_eq_true hi, Bool.true_and]

theorem testBit_maskRow (k : KMask) (r i : Nat) : (maskRow k r).testBit i = (decide (i < 128) && k.toNat.testBit (128 * r + i)) :=
  testBit_natField ..

/-- A row of a mask after a row is replaced. -/
theorem testBit_maskRow_setMaskRow (k : KMask) {r r' : Nat} (v : Nat) (_hr : r < 16) (hr' : r' < 16) (i : Nat) (hi : i < 128) :
    (maskRow (setMaskRow k r v) r').testBit i = if r' = r then v.testBit i else (maskRow k r').testBit i := by
  rw [testBit_maskRow, setMaskRow, testBit_ofNat_toNat, testBit_putField, decide_eq_true hi,
    decide_eq_true (by omega : 128 * r' + i < 2048), Bool.true_and, Bool.true_and]
  by_cases h : r' = r
  · rw [if_pos (by omega), if_pos h, h, Nat.add_sub_cancel_left]
  · rw [if_neg (by omega), if_neg h, testBit_maskRow, decide_eq_true hi, Bool.true_and]

end Sys2Proof.Machine
end

section
/-! SUPPORT. The rows that a vector word writes (R32, R150): elements of a row at positions that do not meet, rows in
ascending order. -/

namespace Sys2Proof.Machine

theorem mem_rangeFrom {a n i : Nat} : i ∈ rangeFrom a n ↔ a ≤ i ∧ i < a + n := by
  induction n generalizing a with
  | zero => simp [rangeFrom]
  | succ n ih => rw [rangeFrom, List.mem_cons, ih]; omega

theorem rangeFrom_append (a m n : Nat) : rangeFrom a (m + n) = rangeFrom a m ++ rangeFrom (a + m) n := by
  induction m generalizing a with
  | zero => simp [rangeFrom]
  | succ m ih => rw [Nat.succ_add, rangeFrom, rangeFrom, ih, List.cons_append, Nat.add_assoc, Nat.add_comm 1]

/-- A bit lies in an element of a row. -/
def InElem (g : Geo) (w j i : Nat) : Prop := g.bitPos w j ≤ i ∧ i < g.bitPos w j + w

theorem testBit_putElems_out {g : Geo} {w i : Nat} {els : List (Nat × Nat)} (h : ∀ e ∈ els, ¬ InElem g w e.1 i) (row : Nat) :
    (putElems g w row els).testBit i = row.testBit i := by
  induction els generalizing row with
  | nil => rfl
  | cons e els ih =>
    have hrec := ih (fun e' he' => h e' (List.mem_cons_of_mem _ he')) (putField row (g.bitPos w e.1) w e.2)
    rw [putElems, List.foldl_cons]
    exact hrec.trans ((testBit_putField ..).trans (if_neg (h e List.mem_cons_self)))

theorem natField_putElems {g : Geo} {w : Nat} {l₁ l₂ : List (Nat × Nat)} {e : Nat × Nat}
    (h : ∀ e' ∈ l₂, ∀ i, InElem g w e.1 i → ¬ InElem g w e'.1 i) (row : Nat) :
    natField (putElems g w row (l₁ ++ e :: l₂)) (g.bitPos w e.1) w = e.2 % 2 ^ w := by
  rw [putElems, List.foldl_append, List.foldl_cons, ← natField_putField_same (putElems g w row l₁) (g.bitPos w e.1) w e.2]
  exact natField_congr fun i hlo hhi => testBit_putElems_out (fun e' he' => h e' he' i ⟨hlo, hhi⟩) _

/-- Elements of a width that divides the row and the column offset do not meet while they fit in the row. -/
theorem bitPos_disjoint {g : Geo} {w n j j' i : Nat} (hw : w ∣ 1024) (hcol : w ∣ 16 * g.col) (hn : n * w ≤ 1024) (hj : j < n)
    (hj' : j' < n) (hne : j ≠ j') (hi : InElem g w j i) : ¬ InElem g w j' i := by
  obtain ⟨m, hm⟩ := hw
  obtain ⟨a, ha⟩ := hcol
  have hw0 : 0 < w := by rcases Nat.eq_zero_or_pos w with h | h <;> [(rw [h] at hm; omega); exact h]
  have hnm : n ≤ m := Nat.le_of_mul_le_mul_right (by rw [← Nat.mul_comm w m, ← hm]; exact hn) hw0
  have hpos : ∀ j, g.bitPos w j = w * ((a + j) % m) := fun j => by
    rw [Geo.bitPos, ha, hm, Nat.mul_comm j w, ← Nat.mul_add, Nat.mul_mod_mul_left]
  have hdiv : ∀ j, InElem g w j i → i / w = (a + j) % m := fun j ⟨hlo, hhi⟩ => by
    rw [hpos] at hlo hhi
    exact Nat.div_eq_of_lt_le (by rwa [Nat.mul_comm]) (by rw [Nat.succ_mul, Nat.mul_comm]; exact hhi)
  intro hi'
  have hmod : (a + j) % m = (a + j') % m := (hdiv j hi).symm.trans (hdiv j' hi')
  have hcong : j % m = j' % m := Nat.ModEq.add_left_cancel' a hmod
  rw [Nat.mod_eq_of_lt (by omega), Nat.mod_eq_of_lt (by omega)] at hcong
  exact hne hcong

theorem rowAt_lt (g : Geo) (i : Nat) : g.rowAt i < 16 := Nat.mod_lt _ (by decide)

theorem bitPos_lt (g : Geo) {w : Nat} (hw : w ∣ 1024) (hcol : w ∣ 16 * g.col) (j : Nat) : g.bitPos w j + w ≤ 1024 := by
  obtain ⟨m, hm⟩ := hw
  obtain ⟨a, ha⟩ := hcol
  have hm0 : 0 < m := by rcases Nat.eq_zero_or_pos m with h | h <;> [(rw [h] at hm; omega); exact h]
  rw [Geo.bitPos, ha, hm, Nat.mul_comm j w, ← Nat.mul_add, Nat.mul_mod_mul_left, ← Nat.mul_succ]
  exact Nat.mul_le_mul_left w (Nat.mod_lt _ hm0)

/-- The elements that a row gets: a number of them, each with its value. -/
def rowEls (n : Nat) (v : Nat → Nat) : List (Nat × Nat) := (rangeFrom 0 n).map fun j => (j, v j)

theorem forall_mem_rowEls {n : Nat} {v : Nat → Nat} {P : Nat × Nat → Prop} :
    (∀ e ∈ rowEls n v, P e) ↔ ∀ j, j < n → P (j, v j) := by
  simp [rowEls, mem_rangeFrom]

theorem rowEls_split {n j : Nat} (v : Nat → Nat) (hj : j < n) :
    ∃ l₁ l₂, rowEls n v = l₁ ++ (j, v j) :: l₂ ∧ ∀ e ∈ l₂, j < e.1 ∧ e.1 < n := by
  refine ⟨rowEls j v, (rangeFrom (j + 1) (n - j - 1)).map fun j => (j, v j), ?_, ?_⟩
  · have hn : n = j + ((n - j - 1) + 1) := by omega
    conv_lhs => rw [rowEls, hn, rangeFrom_append, List.map_append, rangeFrom, List.map_cons, Nat.zero_add]
    rfl
  · simp only [List.mem_map, mem_rangeFrom]
    rintro e ⟨i, hi, rfl⟩
    exact ⟨by dsimp only; omega, by dsimp only; omega⟩

section
variable {g : Geo} {w n : Nat} (hw : w ∣ 1024) (hcol : w ∣ 16 * g.col) (hn : n * w ≤ 1024)
include hw hcol hn

/-- An element of a row that has been written. -/
theorem natField_putElems_rowEls {v : Nat → Nat} {j : Nat} (hj : j < n) (row : Nat) :
    natField (putElems g w row (rowEls n v)) (g.bitPos w j) w = v j % 2 ^ w := by
  obtain ⟨l₁, l₂, hl, hlater⟩ := rowEls_split v hj
  rw [hl]
  exact natField_putElems (fun e he i hi => bitPos_disjoint hw hcol hn hj (hlater e he).2 (Nat.ne_of_lt (hlater e he).1) hi) row

end

/-- The block after a word's rows, bit by bit, where no enabled row writes. -/
theorem testBit_writeBlockRows_out {g : Geo} {w mask row i : Nat} {f : Nat → List (Nat × Nat)} (hrow : row < 16) (hi : i < 1024) :
    ∀ (k a : Nat) (b : Block),
      (∀ r, a ≤ r → r < a + k → natBit mask r = true → g.rowAt r = row → ∀ e ∈ f r, ¬ InElem g w e.1 i) →
      (rowOf (writeBlockRows g w mask f k a b) row).testBit i = (rowOf b row).testBit i := by
  intro k
  induction k with
  | zero => intro a b _; rfl
  | succ k ih =>
    intro a b h
    rw [writeBlockRows]
    refine (ih (a + 1) _ fun r ha hk => h r (by omega) (by omega)).trans ?_
    by_cases hm : natBit mask a = true
    · rw [if_pos hm, testBit_rowOf_setRow b _ (rowAt_lt g a) hrow i hi]
      by_cases hr : row = g.rowAt a
      · rw [if_pos hr, testBit_putElems_out (h a (Nat.le_refl a) (by omega) hm hr.symm), ← hr]
      · rw [if_neg hr]
    · rw [if_neg hm]

/-- An element of the last enabled row that writes a register row. -/
theorem natField_writeBlockRows {g : Geo} {w mask r j x : Nat} {f : Nat → List (Nat × Nat)} (hpos : g.bitPos w j + w ≤ 1024)
    (hon : natBit mask r = true) (hval : ∀ row, natField (putElems g w row (f r)) (g.bitPos w j) w = x) :
    ∀ (k a : Nat) (b : Block), a ≤ r → r < a + k →
      (∀ r', r < r' → r' < a + k → natBit mask r' = true → f r' ≠ [] → g.rowAt r' ≠ g.rowAt r) →
      natField (rowOf (writeBlockRows g w mask f k a b) (g.rowAt r)) (g.bitPos w j) w = x := by
  have hrow := rowAt_lt g r
  intro k
  induction k with
  | zero => intro a b ha hr; omega
  | succ k ih =>
    intro a b ha hr hlast
    rw [writeBlockRows]
    rcases Nat.eq_or_lt_of_le ha with rfl | hlt
    · rw [if_pos hon, ← hval (rowOf b (g.rowAt a))]
      refine natField_congr fun i hlo hhi => ?_
      rw [testBit_writeBlockRows_out hrow (by omega) k (a + 1) _ fun r' h1 h2 hm hsame e he =>
        absurd hsame (hlast r' (by omega) (by omega) hm (List.ne_nil_of_mem he)),
        testBit_rowOf_setRow b _ hrow hrow i (by omega), if_pos rfl]
    · exact ih (a + 1) _ hlt (by omega) fun r' h1 h2 => hlast r' h1 (by omega)

end Sys2Proof.Machine
end

section
/-! SUPPORT. A vector word's operands (R100, R102, R150): what taking a source does to the queues, what its operands are,
and when its queues let it go on (R98, R330). -/

namespace Sys2Proof.Machine

/-- From `c` to `c'`, only queues have changed. -/
def Ctx.QueuesOnly (c c' : Ctx) : Prop := c' = { c with q := c'.q }

theorem Ctx.QueuesOnly.refl (c : Ctx) : Ctx.QueuesOnly c c := rfl

theorem Ctx.QueuesOnly.trans {a b c : Ctx} (h : Ctx.QueuesOnly a b) (g : Ctx.QueuesOnly b c) : Ctx.QueuesOnly a c := by
  simp only [Ctx.QueuesOnly] at *; rw [g, h]

theorem qblocks_setBlocks (c : Ctx) (q n : Nat) (bs : List QBlock) (k : Nat) :
    qblocks (setBlocks c q n bs) k = if k = q then bs else qblocks c k := by
  simp only [qblocks, setBlocks, smGet_smPut]
  by_cases h : k = q
  · rw [if_pos h, if_pos h]
  · rw [if_neg h, if_neg h]

theorem popBlock_queuesOnly (c : Ctx) (q : Nat) : Ctx.QueuesOnly c (popBlock c q).2 := by
  unfold popBlock; split <;> rfl

theorem popBlock_fst (c : Ctx) (q : Nat) : (popBlock c q).1 = (qblocks c q).headD { data := 0 } := by
  unfold popBlock qblocks
  split
  case h_1 n b bs h => rw [h]; rfl
  case h_2 h =>
    split
    case h_1 n bs hq =>
      cases bs with
      | nil => rfl
      | cons b bs => exact absurd hq (h n b bs)
    case h_2 => rfl

theorem qblocks_popBlock (c : Ctx) (q k : Nat) :
    qblocks (popBlock c q).2 k = if k = q then (qblocks c q).tail else qblocks c k := by
  unfold popBlock
  split
  case h_1 n b bs h =>
    have hq : qblocks c q = b :: bs := by rw [qblocks, h]
    rw [qblocks_setBlocks, hq]; rfl
  case h_2 h =>
    by_cases hk : k = q
    · rw [if_pos hk, hk]
      dsimp only
      unfold qblocks
      split
      case h_1 n bs hq =>
        cases bs with
        | nil => rfl
        | cons b bs => exact absurd hq (h n b bs)
      case h_2 => rfl
    · rw [if_neg hk]

theorem smGet_popBlock {c : Ctx} {q k : Nat} (h : k ≠ q) : smGet (popBlock c q).2.q k = smGet c.q k := by
  unfold popBlock
  split
  · simp only [setBlocks, smGet_smPut, if_neg h]
  · rfl

theorem queuesOf_cons (d : Desc) (ds : List Desc) : queuesOf (d :: ds) = queuesOf [d] ++ queuesOf ds := by
  simp only [queuesOf, List.filterMap_cons, List.filterMap_nil]
  cases descQueue d <;> rfl

theorem takeSrc_queuesOnly (ty : BitVec 3) (c : Ctx) (d : Desc) : Ctx.QueuesOnly c (takeSrc ty c d).2 := by
  cases d with
  | queue q => exact popBlock_queuesOnly c q.toNat
  | vreg | rot | sreg | imm => rfl

/-- R102: a source takes its queue's head block. -/
theorem qblocks_takeSrc (ty : BitVec 3) (c : Ctx) (d : Desc) (k : Nat) :
    qblocks (takeSrc ty c d).2 k = (qblocks c k).drop ((queuesOf [d]).count k) := by
  cases d with
  | queue q =>
    have hcount : (queuesOf [Desc.queue q]).count k = if k = q.toNat then 1 else 0 := by
      by_cases h : q.toNat = k
      · simp [queuesOf, descQueue, h]
      · simp [queuesOf, descQueue, h, Ne.symm h]
    rw [hcount]
    refine (qblocks_popBlock c q.toNat k).trans ?_
    by_cases h : k = q.toNat
    · rw [if_pos h, if_pos h, h, List.drop_one]
    · rw [if_neg h, if_neg h, List.drop_zero]
  | vreg | rot | sreg | imm => rfl

theorem smGet_takeSrc {ty : BitVec 3} {c : Ctx} {d : Desc} {k : Nat} (h : k ∉ queuesOf [d]) :
    smGet (takeSrc ty c d).2.q k = smGet c.q k := by
  cases d with
  | queue q => exact smGet_popBlock fun hk => h (by simp [queuesOf, descQueue, hk])
  | vreg | rot | sreg | imm => rfl

/-- A register or an immediate reads the same however far the queues are. -/
theorem takeSrc_fst_of_queuesOnly (ty : BitVec 3) {c c' : Ctx} (h : Ctx.QueuesOnly c c') {d : Desc} (hd : descQueue d = none) :
    (takeSrc ty c' d).1 = (takeSrc ty c d).1 := by
  rw [h]
  cases d with
  | queue q => cases hd
  | vreg | rot | sreg | imm => rfl

theorem headD_data (bs : List QBlock) : (bs.headD { data := 0 }).data = ((bs[0]?).map (·.data)).getD 0 := by
  cases bs <;> rfl

/-- The context after the first `k` sources are taken. -/
def takenSrcs (ty : BitVec 3) (c : Ctx) (srcs : List Desc) : Ctx := srcs.foldl (fun c d => (takeSrc ty c d).2) c

theorem takenSrcs_queuesOnly (ty : BitVec 3) (c : Ctx) (srcs : List Desc) : Ctx.QueuesOnly c (takenSrcs ty c srcs) := by
  induction srcs generalizing c with
  | nil => exact Ctx.QueuesOnly.refl c
  | cons d ds ih => exact (takeSrc_queuesOnly ty c d).trans (ih _)

theorem qblocks_takenSrcs (ty : BitVec 3) (c : Ctx) (srcs : List Desc) (k : Nat) :
    qblocks (takenSrcs ty c srcs) k = (qblocks c k).drop ((queuesOf srcs).count k) := by
  induction srcs generalizing c with
  | nil => rfl
  | cons d ds ih =>
    have hrec := ih (takeSrc ty c d).2
    rw [qblocks_takeSrc, List.drop_drop] at hrec
    rw [queuesOf_cons, List.count_append]
    exact hrec

theorem smGet_takenSrcs {ty : BitVec 3} {c : Ctx} {srcs : List Desc} {k : Nat} (h : k ∉ queuesOf srcs) :
    smGet (takenSrcs ty c srcs).q k = smGet c.q k := by
  induction srcs generalizing c with
  | nil => rfl
  | cons d ds ih =>
    rw [queuesOf_cons, List.mem_append, not_or] at h
    exact (ih h.2).trans (smGet_takeSrc h.1)

/-- Each operand is what taking it yields after those before it. -/
theorem operandOf_eq (ty : BitVec 3) (c : Ctx) {srcs : List Desc} {k : Nat} {d : Desc} (h : srcs[k]? = some d) :
    operandOf ty c srcs k = (takeSrc ty (takenSrcs ty c (srcs.take k)) d).1 := by
  unfold operandOf
  rw [h]
  cases d with
  | queue q =>
    have hblock : (popBlock (takenSrcs ty c (srcs.take k)) q.toNat).1.data =
        (((qblocks c q.toNat)[(queuesOf (srcs.take k)).count q.toNat]?).map (·.data)).getD 0 := by
      rw [popBlock_fst, headD_data, qblocks_takenSrcs, List.getElem?_drop, Nat.add_zero]
    exact congrArg (fun b => Src.rows b plainGeo) hblock.symm
  | vreg | rot | sreg | imm => exact (takeSrc_fst_of_queuesOnly ty (takenSrcs_queuesOnly ty c _) rfl).symm

-- The gate (R98, R100, R330).

theorem mem_readNeeds {q n : Nat} {qs : List Nat} {seen : List Nat} (h : (q, n) ∈ readNeeds seen qs) :
    q ∈ qs ∧ n ≠ 0 ∧ n ≤ seen.count q + qs.count q := by
  induction qs generalizing seen with
  | nil => cases h
  | cons a qs ih =>
    rw [readNeeds, List.mem_cons] at h
    rcases h with h | h
    · obtain ⟨rfl, rfl⟩ := Prod.mk.inj h
      exact ⟨List.mem_cons_self, by omega, by rw [List.count_cons_self]; omega⟩
    · obtain ⟨hq, hn, hle⟩ := ih h
      refine ⟨List.mem_cons_of_mem _ hq, hn, ?_⟩
      rw [List.count_cons] at hle ⊢
      omega

theorem lowestHalt_eq_none {fs : List QFate} (h : ∀ f ∈ fs, f = .go) : lowestHalt fs = none := by
  induction fs with
  | nil => rfl
  | cons f fs ih =>
    rw [h f List.mem_cons_self]
    exact ih fun f hf => h f (List.mem_cons_of_mem _ hf)

/-- Queues that hold what a word needs let it go on. -/
theorem queueGate_go {h : VHead} {off : Ctx → Ctx} {qs : List (Nat × Nat)} {s : State} {k : State → Out}
    (hgo : ∀ x ∈ qs, fateOf (me s) x = .go) : queueGate h off qs s k = k s := by
  have hhalt : lowestHalt (qs.map (fateOf (me s))) = none :=
    lowestHalt_eq_none fun f hf => by obtain ⟨x, hx, rfl⟩ := List.mem_map.1 hf; exact hgo x hx
  have hqerr : (qs.find? fun x => fateOf (me s) x == .qerr) = none :=
    List.find?_eq_none.2 fun x hx => by rw [hgo x hx]; decide
  have hwait : (qs.any fun x => fateOf (me s) x == .wait) = false :=
    List.any_eq_false.2 fun x hx => by rw [hgo x hx]; decide
  simp only [queueGate, hhalt, hqerr, hwait, Bool.false_eq_true, if_false]

theorem fateOf_read {c : Ctx} {srcs : List Desc} (h : QueuesReady c srcs) {x : Nat × Nat} (hx : x ∈ readNeeds [] (queuesOf srcs)) :
    fateOf c x = .go := by
  obtain ⟨q, n⟩ := x
  obtain ⟨hq, hn, hle⟩ := mem_readNeeds hx
  obtain ⟨e, bs, hget, he, hlen⟩ := h q hq
  rw [List.count_nil, Nat.zero_add] at hle
  rw [fateOf, if_neg hn, readFate, hget]
  exact (if_neg he).trans (if_pos (by omega))

theorem fateOf_write {c : Ctx} {q : Nat} {bs : List QBlock} (h : smGet c.q q = some (.data 2 bs)) (hlen : bs.length < 4) :
    fateOf c (q, 0) = .go := by
  rw [fateOf, if_pos rfl, writeFate, h]
  exact (if_neg (by simp)).trans (if_pos hlen)

/-- R100: what a word's queue operands need is there. -/
theorem not_mem_queuesOf_of_write {c : Ctx} {srcs : List Desc} {q : Nat} {bs : List QBlock} (h : QueuesReady c srcs)
    (hq : smGet c.q q = some (.data 2 bs)) : q ∉ queuesOf srcs := fun hmem => by
  obtain ⟨n, bs', hget, hn, -⟩ := h q hmem
  rw [hq] at hget
  obtain ⟨rfl, -⟩ := Handle.data.inj (Option.some.inj hget)
  exact hn rfl

end Sys2Proof.Machine
end

section
/-! SUPPORT. A vector word with a block destination completes (R35, R100, R102, R117, R150): what it computes once its
queues are ready and its operands hold good data, then what that leaves in the destination. -/

namespace Sys2Proof.Machine

/-- What taking sources and draws leaves of a context: the queues and the generator. -/
def Ctx.TakenOnly (c c' : Ctx) : Prop := c' = { c with q := c'.q, xseed := c'.xseed }

theorem Ctx.TakenOnly.descReg {c c' : Ctx} (h : Ctx.TakenOnly c c') (d : Desc) : descReg c' d = descReg c d := by
  rw [h]; rfl

theorem Ctx.TakenOnly.rndCode {c c' : Ctx} (h : Ctx.TakenOnly c c') (rnd : BitVec 2) : rndCode c' rnd = rndCode c rnd := by
  rw [h]; rfl

theorem Ctx.TakenOnly.vget {c c' : Ctx} (h : Ctx.TakenOnly c c') (v : Nat) : vget c' v = vget c v := by
  rw [h]; rfl

/-- The draws come from the generator alone (R117). -/
theorem wordDraws_of_queuesOnly {c c' : Ctx} (h : Ctx.QueuesOnly c c') (hd : VHead) :
    (wordDraws c' hd).1 = (wordDraws c hd).1 ∧ (wordDraws c' hd).2 = { c' with xseed := (wordDraws c hd).2.xseed } := by
  have hsr : usesSr c' hd.rnd = usesSr c hd.rnd := by rw [h]; rfl
  have hseed : c'.xseed = c.xseed := by rw [h]
  unfold wordDraws
  rw [hsr, hseed]
  split
  · exact ⟨rfl, rfl⟩
  · exact ⟨rfl, by rw [← hseed]⟩

/-- The context in which a word's result is made: its sources and draws taken. -/
def VecForm.taken (f : VecForm) (c : Ctx) : Ctx := (f.draws (takenSrcs f.sty c f.srcs)).2

/-- What the element function of a word reads. -/
def VecForm.vin (f : VecForm) (c : Ctx) (d : Src) : VIn :=
  { n := viewElems f.h.ty, a := operandOf f.sty c f.srcs 0, b := operandOf f.sty c f.srcs 1, d := d, mode := f.mode c }

theorem VecForm.draws_taken (f : VecForm) (c : Ctx) :
    (f.draws (takenSrcs f.sty c f.srcs)).1 = (f.draws c).1 ∧
      f.taken c = { takenSrcs f.sty c f.srcs with xseed := (f.draws c).2.xseed } := by
  have hq := takenSrcs_queuesOnly f.sty c f.srcs
  unfold VecForm.taken VecForm.draws
  cases f.rounds with
  | false => exact ⟨rfl, by rw [hq]; rfl⟩
  | true => exact wordDraws_of_queuesOnly hq f.h

theorem VecForm.taken_eq (f : VecForm) (c : Ctx) :
    f.taken c = { c with q := (takenSrcs f.sty c f.srcs).q, xseed := (f.draws c).2.xseed } := by
  rw [(f.draws_taken c).2, takenSrcs_queuesOnly f.sty c f.srcs]

theorem VecForm.takenOnly (f : VecForm) (c : Ctx) : Ctx.TakenOnly c (f.taken c) := by
  rw [Ctx.TakenOnly, f.taken_eq]

/-- What a form's word makes of its operands `a` and `b` and its draws, over the context `c` that they leave (R35, R150). -/
def VecForm.done (f : VecForm) (F : Ctx → VIn → Nat → List (Nat × Nat)) (s : State) (a b : Src) (ds : List Nat) (c : Ctx) : Out :=
  let mask := guardRows (me s) f.h.guard
  let n := viewElems f.h.ty
  let md := fun i j => modeOf (rndCode c f.h.rnd) ((ds[i * n + j]?).getD 0)
  match descReg c f.d with
  | some (v, g) =>
    let x : VIn := { n := n, a := a, b := b, d := .rows (vget c v) g, mode := md }
    let c := vset c v (writeBlockRows g f.w mask (F c x) 16 0 (vget c v))
    .next (retire f.h.e 12 (cleanRows (onMe s fun _ => c) v g f.w mask (F c x)))
  | none =>
    match descQueue f.d with
    | some q =>
      if mask = 0 ∧ f.h.guard.gk = false then
        .next (retire f.h.e 12 (onMe s fun _ => pushBlock c q { data := 0, rows := 0, skipped := true }))
      else
        let base := Config.freeBlock s.fresh
        let x : VIn := { n := n, a := a, b := b, d := .rows base plainGeo, mode := md }
        .next (retire f.h.e 12 (onMe { s with fresh := s.fresh + 1 } fun _ =>
          pushBlock c q { data := writeBlockRows plainGeo f.w mask (F c x) 16 0 base, rows := BitVec.ofNat 16 mask }))
    | none => illopOf f.i s

/-- The queues of a form's word, with what it needs of each. -/
def VecForm.needs (f : VecForm) : List (Nat × Nat) :=
  readNeeds [] (queuesOf f.srcs) ++ (match descQueue f.d with | some q => [(q, 0)] | none => [])

/-- A word of up to two sources, queues ready and operands good, takes the one source after the other, then its draws. -/
theorem vecWord_done (f : VecForm) (F : Ctx → VIn → Nat → List (Nat × Nat)) {s : State} (hfew : f.srcs.length ≤ 2)
    (hfull : isLight s.cur = false) (hgo : ∀ x ∈ f.needs, fateOf (me s) x = .go)
    (hbad : (srcBad s f.h.guard.reg ||
      (guardRows (me s) f.h.guard != 0 && (srcsBad s f.srcs || f.bad s || (f.rounds && modeBad s f.h.rnd)))) = false) :
    vecWord f.i f.h f.rounds f.srcs f.d f.sty f.w f.bad F s =
      f.done F s (operandOf f.sty (me s) f.srcs 0) (operandOf f.sty (me s) f.srcs 1)
        (f.draws (takenSrcs f.sty (me s) f.srcs)).1 (f.draws (takenSrcs f.sty (me s) f.srcs)).2 := by
  refine (fullOnly_full hfull).trans ((queueGate_go hgo).trans ((if_neg (by rw [hbad]; exact Bool.false_ne_true)).trans ?_))
  obtain ⟨i, h, rounds, srcs, d, sty, w, bad, n, g⟩ := f
  match srcs, hfew with
  | [], _ => rfl
  | [x], _ => rw [operandOf_eq sty (me s) (srcs := [x]) (k := 0) rfl]; rfl
  | [x, y], _ =>
    rw [operandOf_eq sty (me s) (srcs := [x, y]) (k := 0) rfl, operandOf_eq sty (me s) (srcs := [x, y]) (k := 1) rfl]; rfl

theorem VecForm.mode_taken (f : VecForm) (c : Ctx) :
    (fun r j => modeOf (rndCode (f.taken c) f.h.rnd) (((f.draws c).1[r * viewElems f.h.ty + j]?).getD 0)) = f.mode c := by
  rw [(f.takenOnly c).rndCode]; rfl

theorem descQueue_of_descReg {c : Ctx} {d : Desc} {x : Nat × Geo} (h : descReg c d = some x) : descQueue d = none := by
  cases d with
  | queue q => cases h
  | vreg | rot | sreg | imm => rfl

theorem descReg_of_descQueue {c : Ctx} {d : Desc} {q : Nat} (h : descQueue d = some q) : descReg c d = none := by
  cases d with
  | queue q => rfl
  | vreg | rot | sreg | imm => cases h

/-- How a word of a form runs: by `vecWord` over an element list `F`, which is the form's elements in each row. -/
structure VecForm.Runs (f : VecForm) (s : State) (F : Ctx → VIn → Nat → List (Nat × Nat)) : Prop where
  exec_eq : exec f.i s = vecWord f.i f.h f.rounds f.srcs f.d f.sty f.w f.bad F s
  few : f.srcs.length ≤ 2
  width : f.w ∣ 1024
  fits : ∀ r, f.n r * f.w ≤ 1024
  rows : ∀ c x r, x.n = viewElems f.h.ty →
    ∃ v, F c x r = rowEls (f.n r) v ∧ ∀ j, v j % 2 ^ f.w = f.g c x.a x.b x.d x.mode r j % 2 ^ f.w
  ctx : ∀ c c', c'.k = c.k → f.g c' = f.g c
  old : f.d.isQueue = true → ∀ c a b d d' md, f.g c a b d md = f.g c a b d' md

section
variable {f : VecForm} {s : State} {F : Ctx → VIn → Nat → List (Nat × Nat)} (hrun : f.Runs s F) (hfull : isLight s.cur = false)
  (hclean : VecClean s f.h f.srcs f.bad f.rounds)
include hrun hfull hclean

/-- What a word does once its queues let it go on and no operand is poisoned. -/
theorem VecForm.Runs.passes (hgo : ∀ x ∈ f.needs, fateOf (me s) x = .go) :
    exec f.i s = f.done F s (operandOf f.sty (me s) f.srcs 0) (operandOf f.sty (me s) f.srcs 1) (f.draws (me s)).1 (f.taken (me s)) := by
  obtain ⟨hguard, hrows⟩ := hclean
  rw [hrun.exec_eq, ← (f.draws_taken (me s)).1]
  refine vecWord_done f F hrun.few hfull hgo ?_
  by_cases hm : guardRows (me s) f.h.guard = 0
  · rw [hguard, hm]; rfl
  · obtain ⟨hsrcs, hextra, hmode⟩ := hrows hm
    have hr : (f.rounds && modeBad s f.h.rnd) = false := by
      cases h : f.rounds with
      | false => rfl
      | true => exact hmode h
    rw [hguard, hsrcs, hextra, hr, Bool.or_false, Bool.or_false, Bool.and_false]; rfl

omit hfull hclean in
/-- The element list of a form's row, with the values that the form gives. -/
theorem VecForm.Runs.elems (c c' : Ctx) (d : Src) (hk : c'.k = c.k) (r : Nat) :
    ∃ v, F c' (f.vin c d) r = rowEls (f.n r) v ∧ ∀ j, v j % 2 ^ f.w =
      f.g c (operandOf f.sty c f.srcs 0) (operandOf f.sty c f.srcs 1) d (f.mode c) r j % 2 ^ f.w := by
  obtain ⟨v, hv, hval⟩ := hrun.rows c' (f.vin c d) r rfl
  exact ⟨v, hv, fun j => by rw [hval, hrun.ctx c c' hk]; rfl⟩

end

section
variable {f : VecForm} {s : State} {F : Ctx → VIn → Nat → List (Nat × Nat)} (hrun : f.Runs s F) {c c' : Ctx} (hk : c'.k = c.k)
  {geo : Geo} (d : Src) (mask : Nat) (b : Block)
include hrun hk

/-- Each enabled row's elements stand in the block after the rows, unless a later enabled row wrote there (R150). -/
theorem VecForm.Runs.element (hcol : f.w ∣ 16 * geo.col) {r j : Nat} (hr : r < 16) (hon : natBit mask r = true) (hj : j < f.n r)
    (hlast : ∀ r', r < r' → r' < 16 → natBit mask r' = true → 0 < f.n r' → geo.rowAt r' ≠ geo.rowAt r) :
    natField (rowOf (writeBlockRows geo f.w mask (F c' (f.vin c d)) 16 0 b) (geo.rowAt r)) (geo.bitPos f.w j) f.w =
      f.g c (operandOf f.sty c f.srcs 0) (operandOf f.sty c f.srcs 1) d (f.mode c) r j % 2 ^ f.w := by
  obtain ⟨v, hv, hval⟩ := hrun.elems c c' d hk r
  refine natField_writeBlockRows (bitPos_lt geo hrun.width hcol j) hon (fun row => ?_) 16 0 b (Nat.zero_le r) (by omega)
    fun r' h1 h2 hm hne => hlast r' h1 (by omega) hm (Nat.pos_of_ne_zero fun h0 => hne ?_)
  · rw [hv, natField_putElems_rowEls hrun.width hcol (hrun.fits r) hj, hval]
  · obtain ⟨v', hv', -⟩ := hrun.elems c c' d hk r'
    rw [hv', h0]; rfl

/-- Every bit where no enabled row's element stands is as before (R150). -/
theorem VecForm.Runs.bit_out {row k : Nat} (hrow : row < 16) (hbit : k < 1024)
    (hout : ∀ r j, r < 16 → natBit mask r = true → j < f.n r →
      ¬(geo.rowAt r = row ∧ geo.bitPos f.w j ≤ k ∧ k < geo.bitPos f.w j + f.w)) :
    natBit (rowOf (writeBlockRows geo f.w mask (F c' (f.vin c d)) 16 0 b) row) k = natBit (rowOf b row) k := by
  rw [natBit_eq_testBit, natBit_eq_testBit]
  refine testBit_writeBlockRows_out hrow hbit 16 0 b fun r _ hr hm hat => ?_
  obtain ⟨v, hv, -⟩ := hrun.elems c c' d hk r
  rw [hv, forall_mem_rowEls]
  exact fun j hj hin => hout r j (by omega) hm hj ⟨hat, hin⟩

end

theorem vget_vset (c : Ctx) (v u : Nat) (b : Block) : vget (vset c v b) u = if u = v then b else vget c u := smGetD_smSet ..

theorem cleanRows_touched (s : State) (v : Nat) (g : Geo) (w mask : Nat) (f : Nat → List (Nat × Nat)) :
    Touched s (cleanRows s v g w mask f) ∧ me (cleanRows s v g w mask f) = me s := by
  unfold cleanRows
  split
  · exact ⟨Touched.refl s, rfl⟩
  · exact ⟨⟨rfl, fun _ _ => rfl⟩, rfl⟩

/-- A draw on the way aside, only the own context changes. -/
theorem touched_onMe_fresh (s : State) (n : Nat) (f : Ctx → Ctx) : Touched s { onMe { s with fresh := n } f with fresh := s.fresh } :=
  ⟨rfl, fun id h => (touched_onMe s f).2 id h⟩

/-- A whole block's rows and elements stand in their order. -/
theorem plainGeo_rowAt {r : Nat} (h : r < 16) : plainGeo.rowAt r = r := by
  simp only [plainGeo, Geo.rowAt]; omega
theorem plainGeo_bitPos {w j : Nat} (h : j * w < 1024) : plainGeo.bitPos w j = w * j := by
  simp only [plainGeo, Geo.bitPos, Nat.mul_comm w j]; omega

/-- A word that retires over a context of its own making. -/
theorem retire_becomes {s u : State} {c : Ctx} (e : Bool) (len : Nat) (hu : Touched s u) (hc : me u = c) (hpc : c.pc = (me s).pc)
    (hj : c.jump = (me s).jump) :
    s.OwnOnly (retire e len u) ∧ FallsThrough e len s (retire e len u) ∧ Ctx.PlaceOnly c (me (retire e len u)) := by
  obtain ⟨hown, hplace⟩ := hu.retire e len
  exact ⟨hown, FallsThrough.of_same (by rw [hc, hpc]) (by rw [hc, hj]) (retire_fallsThrough u e len), hc ▸ hplace⟩

section
variable {f : VecForm} {s : State} {F : Ctx → VIn → Nat → List (Nat × Nat)} (hrun : f.Runs s F) (hfull : isLight s.cur = false)
  (hclean : VecClean s f.h f.srcs f.bad f.rounds) (hready : QueuesReady (me s) f.srcs)
include hrun hfull hclean hready

/-- Over a register, a word takes its sources and draws, writes its rows and retires. -/
theorem VecForm.Runs.passesReg {v : Nat} {geo : Geo} (hdst : descReg (me s) f.d = some (v, geo)) :
    ∃ u, exec f.i s = .next (retire f.h.e 12 u) ∧ Touched s u ∧
      me u = vset (f.taken (me s)) v (writeBlockRows geo f.w (guardRows (me s) f.h.guard)
        (F (f.taken (me s)) (f.vin (me s) (.rows (vget (me s) v) geo))) 16 0 (vget (me s) v)) := by
  have hgo : ∀ x ∈ f.needs, fateOf (me s) x = .go := fun x hx => by
    rw [VecForm.needs, descQueue_of_descReg hdst] at hx
    exact fateOf_read hready (by simpa using hx)
  have hexec := hrun.passes hfull hclean hgo
  simp only [VecForm.done, (f.takenOnly (me s)).descReg, hdst, f.mode_taken, (f.takenOnly (me s)).vget] at hexec
  obtain ⟨htouch, hme⟩ := cleanRows_touched (onMe s fun _ => vset (f.taken (me s)) v (writeBlockRows geo f.w
    (guardRows (me s) f.h.guard) (F (f.taken (me s)) (f.vin (me s) (.rows (vget (me s) v) geo))) 16 0 (vget (me s) v))) v geo f.w
    (guardRows (me s) f.h.guard) _
  exact ⟨_, hexec, (touched_onMe s _).trans htouch, hme.trans (me_onMe s _)⟩

/-- A word over a register completes (R150). -/
theorem VecForm.Runs.completesReg {v : Nat} {geo : Geo} (hdst : descReg (me s) f.d = some (v, geo)) :
    ∃ t, exec f.i s = .next t ∧ s.OwnOnly t ∧ FallsThrough f.h.e 12 s t ∧
      Ctx.PlaceOnly { me s with v := (me t).v, q := (me t).q, xseed := (f.draws (me s)).2.xseed } (me t) ∧
      QueuesTaken (me s) (me t) f.srcs ∧
      ∀ u, vget (me t) u = if u = v then writeBlockRows geo f.w (guardRows (me s) f.h.guard)
        (F (f.taken (me s)) (f.vin (me s) (.rows (vget (me s) v) geo))) 16 0 (vget (me s) v) else vget (me s) u := by
  obtain ⟨u, hexec, htouch, hu⟩ := hrun.passesReg hfull hclean hready hdst
  have htaken := f.taken_eq (me s)
  obtain ⟨hown, hfalls, hplace⟩ := retire_becomes f.h.e 12 htouch hu (by rw [htaken]; rfl) (by rw [htaken]; rfl)
  generalize retire f.h.e 12 u = t at *
  refine ⟨t, hexec, hown, hfalls, ?_, ?_, fun u => ?_⟩
  · rw [Ctx.PlaceOnly] at hplace ⊢
    rw [hplace, htaken]; rfl
  · intro q
    rw [hplace]
    refine Eq.trans ?_ (qblocks_takenSrcs f.sty (me s) f.srcs q)
    rw [htaken]; rfl
  · rw [← (f.takenOnly (me s)).vget u, hplace]
    exact vget_vset _ v u _

/-- Into a write queue with room, a word takes its sources and draws, enters one block and retires (R35, R102). -/
theorem VecForm.Runs.passesQueue {q : Nat} {bs : List QBlock} (hdst : descQueue f.d = some q)
    (hq : smGet (me s).q q = some (.data 2 bs)) (hroom : bs.length < 4) :
    ∃ u b, exec f.i s = .next (retire f.h.e 12 u) ∧ Touched s { u with fresh := s.fresh } ∧
      me u = setBlocks (f.taken (me s)) q 2 (bs ++ [b]) ∧ (wordOff (me s) f.h.guard = true → b.skipped = true ∧ b.rows = 0) ∧
      (wordOff (me s) f.h.guard = false → b.skipped = false ∧ b.rows = BitVec.ofNat 16 (guardRows (me s) f.h.guard) ∧
        b.data = writeBlockRows plainGeo f.w (guardRows (me s) f.h.guard)
          (F (f.taken (me s)) (f.vin (me s) (.rows (Config.freeBlock s.fresh) plainGeo))) 16 0 (Config.freeBlock s.fresh)) := by
  have hgo : ∀ x ∈ f.needs, fateOf (me s) x = .go := fun x hx => by
    rw [VecForm.needs, hdst, List.mem_append, List.mem_singleton] at hx
    rcases hx with hx | rfl
    · exact fateOf_read hready hx
    · exact fateOf_write hq hroom
  have hpush : ∀ b, ∃ l, pushBlock (f.taken (me s)) q b = setBlocks (f.taken (me s)) q 2 (bs ++ [{ b with loop := l }]) := fun b => by
    have hget : smGet (f.taken (me s)).q q = some (.data 2 bs) := by
      rw [f.taken_eq]
      exact (smGet_takenSrcs (not_mem_queuesOf_of_write hready hq)).trans hq
    exact ⟨_, by rw [pushBlock, hget]⟩
  have hexec := hrun.passes hfull hclean hgo
  simp only [VecForm.done, (f.takenOnly (me s)).descReg, descReg_of_descQueue hdst, hdst, f.mode_taken] at hexec
  have hoff : wordOff (me s) f.h.guard = true ↔ guardRows (me s) f.h.guard = 0 ∧ f.h.guard.gk = false := by
    simp [wordOff, and_comm]
  by_cases h : guardRows (me s) f.h.guard = 0 ∧ f.h.guard.gk = false
  · rw [if_pos h] at hexec
    obtain ⟨l, hl⟩ := hpush { data := 0, rows := 0, skipped := true }
    exact ⟨_, _, hexec, touched_onMe_fresh s s.fresh _, (me_onMe s _).trans hl, fun _ => ⟨rfl, rfl⟩, fun hon => absurd (hoff.2 h) (by simp [hon])⟩
  · rw [if_neg h] at hexec
    obtain ⟨l, hl⟩ := hpush { data := _, rows := BitVec.ofNat 16 (guardRows (me s) f.h.guard) }
    exact ⟨_, _, hexec, touched_onMe_fresh s (s.fresh + 1) _, (me_onMe { s with fresh := s.fresh + 1 } _).trans hl, fun hon => absurd (hoff.1 hon) h,
      fun _ => ⟨rfl, rfl, rfl⟩⟩

/-- A word into a write queue completes (R35, R102). -/
theorem VecForm.Runs.completesQueue {q : Nat} {bs : List QBlock} (hdst : descQueue f.d = some q)
    (hq : smGet (me s).q q = some (.data 2 bs)) (hroom : bs.length < 4) :
    ∃ t b, exec f.i s = .next t ∧ s.OwnOnly { t with fresh := s.fresh } ∧ FallsThrough f.h.e 12 s t ∧
      Ctx.PlaceOnly { me s with q := (me t).q, xseed := (f.draws (me s)).2.xseed } (me t) ∧
      (∀ k, qblocks (me t) k = if k = q then bs ++ [b] else (qblocks (me s) k).drop ((queuesOf f.srcs).count k)) ∧
      (wordOff (me s) f.h.guard = true → b.skipped = true ∧ b.rows = 0) ∧
      (wordOff (me s) f.h.guard = false → b.skipped = false ∧ b.rows = BitVec.ofNat 16 (guardRows (me s) f.h.guard) ∧
        b.data = writeBlockRows plainGeo f.w (guardRows (me s) f.h.guard)
          (F (f.taken (me s)) (f.vin (me s) (.rows (Config.freeBlock s.fresh) plainGeo))) 16 0 (Config.freeBlock s.fresh)) := by
  obtain ⟨u, b, hexec, htouch, hu, hoff, hon⟩ := hrun.passesQueue hfull hclean hready hdst hq hroom
  have htaken := f.taken_eq (me s)
  have hfresh : ({ retire f.h.e 12 u with fresh := s.fresh } : State) = retire f.h.e 12 { u with fresh := s.fresh } := by
    rw [retire_eq, retire_eq]; rfl
  obtain ⟨hown, hfalls, hplace⟩ := retire_becomes (u := { u with fresh := s.fresh }) f.h.e 12 htouch hu (by rw [htaken]; rfl)
    (by rw [htaken]; rfl)
  rw [← hfresh] at hown hfalls hplace
  generalize retire f.h.e 12 u = t at *
  refine ⟨t, b, hexec, hown, hfalls, ?_, fun k => ?_, hoff, hon⟩
  · change Ctx.PlaceOnly _ (me t) at hplace
    rw [Ctx.PlaceOnly] at hplace ⊢
    rw [hplace, htaken]; rfl
  · have hblocks : qblocks (me t) k = qblocks (setBlocks (f.taken (me s)) q 2 (bs ++ [b])) k := by
      change Ctx.PlaceOnly _ (me t) at hplace
      rw [hplace]; rfl
    rw [hblocks, qblocks_setBlocks, ← qblocks_takenSrcs f.sty (me s) f.srcs k, htaken]; rfl

/-- A form whose word runs so completes. -/
theorem VecForm.Runs.completes : f.Completes s := by
  refine ⟨fun v geo hdst hcol => ?_, fun q bs hdst hq hroom => ?_⟩
  · obtain ⟨t, hexec, hown, hfalls, hplace, htaken, hv⟩ := hrun.completesReg hfull hclean hready hdst
    have hk : (f.taken (me s)).k = (me s).k := by rw [f.taken_eq]
    refine ⟨t, hexec, hown, hfalls, hplace, htaken, fun u hu => by rw [hv, if_neg hu], fun r j hr hon hj hlast => ?_,
      fun row k hrow hbit hout => ?_⟩
    · rw [hv, if_pos rfl]
      exact hrun.element hk _ _ _ (Nat.dvd_of_mod_eq_zero hcol) hr hon hj hlast
    · rw [hv, if_pos rfl]
      exact hrun.bit_out hk _ _ _ hrow hbit hout
  · obtain ⟨t, b, hexec, hown, hfalls, hplace, hblocks, hoff, hon⟩ := hrun.completesQueue hfull hclean hready hdst hq hroom
    have hk : (f.taken (me s)).k = (me s).k := by rw [f.taken_eq]
    refine ⟨t, b, hexec, hown, hfalls, hplace, hblocks, hoff, fun h => ?_⟩
    obtain ⟨hskip, hrows, hdata⟩ := hon h
    refine ⟨hskip, hrows, fun r j hr hbit hj => ?_⟩
    have hold : f.d.isQueue = true := by
      cases hd : f.d with
      | queue q => rfl
      | vreg | rot | sreg | imm => rw [hd] at hdst; cases hdst
    have hw : 0 < f.w := Nat.pos_of_dvd_of_pos hrun.width (by decide)
    have hpos : j * f.w < 1024 := Nat.lt_of_lt_of_le (Nat.mul_lt_mul_of_pos_right hj hw) (hrun.fits r)
    have hel := hrun.element hk (geo := plainGeo) (.rows (Config.freeBlock s.fresh) plainGeo) (guardRows (me s) f.h.guard)
      (Config.freeBlock s.fresh) (Dvd.intro_left 0 (Nat.zero_mul _)) hr hbit hj
      fun r' h1 h2 _ _ => by rw [plainGeo_rowAt h2, plainGeo_rowAt hr]; omega
    rw [plainGeo_rowAt hr, plainGeo_bitPos hpos, ← hdata] at hel
    rw [hel, hrun.old hold]

end

end Sys2Proof.Machine
end

section
/-! SUPPORT. O22: the element-wise words of two sources, of one, and of an immediate, each as a form that `vecWord` runs
(R151 to R155). -/

namespace Sys2Proof.Machine

theorem elemBytes_cases (ty : BitVec 3) : elemBytes ty = 1 ∨ elemBytes ty = 2 ∨ elemBytes ty = 4 := by
  revert ty; decide

theorem viewElems_mul_tyBits (ty : BitVec 3) : viewElems ty * tyBits ty = 1024 := by
  rw [viewElems, tyBits]
  rcases elemBytes_cases ty with h | h | h <;> rw [h]

theorem tyBits_dvd (ty : BitVec 3) : tyBits ty ∣ 1024 := ⟨viewElems ty, by rw [Nat.mul_comm, viewElems_mul_tyBits]⟩

theorem Src.elem_lt (x : Src) (w i j : Nat) : x.elem w i j < 2 ^ w := by
  cases x with
  | rows b g => exact Nat.mod_lt _ (by positivity)
  | splat v => exact Nat.mod_lt _ (by positivity)

/-- The word of a form completes where its guard, its sources and its mode hold good data and its queues are ready. -/
def VecForm.CompletesClean (s : State) (f : VecForm) : Prop :=
  VecClean s f.h f.srcs f.bad f.rounds → QueuesReady (me s) f.srcs → f.Completes s

theorem VecForm.Runs.completesClean {f : VecForm} {s : State} {F : Ctx → VIn → Nat → List (Nat × Nat)} (hfull : isLight s.cur = false)
    (hrun : f.Runs s F) : f.CompletesClean s := hrun.completes hfull

-- Element-wise forms.

/-- The form of an element-wise word of two sources. -/
def form3 (w : V3) (i : Instr) (rounds : Bool) (g : Mode → Nat → Nat → Nat) : VecForm :=
  { i := i, h := w.h, rounds := rounds, srcs := [w.a, w.b], d := w.d, sty := w.h.ty, w := tyBits w.h.ty,
    n := fun _ => viewElems w.h.ty,
    g := fun _ x y _ md r j => g (md r j) (x.elem (tyBits w.h.ty) r j) (y.elem (tyBits w.h.ty) r j) }

/-- The form of a word whose elements come from its first source alone. -/
def form1 (i : Instr) (h : VHead) (rounds : Bool) (srcs : List Desc) (d : Desc) (sty : BitVec 3) (w : Nat) (n : Nat → Nat)
    (g : Src → (Nat → Nat → Mode) → Nat → Nat → Nat) : VecForm :=
  { i := i, h := h, rounds := rounds, srcs := srcs, d := d, sty := sty, w := w, n := n, g := fun _ x _ _ md r j => g x md r j }

/-- The values of an element-wise word's row, where its function and its form's agree on elements. -/
theorem mapRow_rows {w : Nat} {f : Mode → Nat → Nat → Nat → Nat} (x : VIn) (r : Nat) :
    mapRow w f x r = rowEls x.n fun j => f (x.mode r j) (x.a.elem w r j) (x.b.elem w r j) (x.d.elem w r j) := rfl

variable {s : State} (hfull : isLight s.cur = false)
include hfull

/-- A word of two sources that writes, at the type's width, as many elements as a view of its type holds. -/
theorem pair_completes {w : V3} {i : Instr} {rounds : Bool} {bad : State → Bool} {F : Ctx → VIn → Nat → List (Nat × Nat)}
    {g : Ctx → Src → Src → Src → (Nat → Nat → Mode) → Nat → Nat → Nat}
    (hx : exec i s = vecWord i w.h rounds [w.a, w.b] w.d w.h.ty (tyBits w.h.ty) bad F s)
    (hrows : ∀ c x r, x.n = viewElems w.h.ty → ∃ v, F c x r = rowEls (viewElems w.h.ty) v ∧
      ∀ j, v j % 2 ^ tyBits w.h.ty = g c x.a x.b x.d x.mode r j % 2 ^ tyBits w.h.ty)
    (hctx : ∀ c c', c'.k = c.k → g c' = g c) (hold : w.d.isQueue = true → ∀ c a b d d' md, g c a b d md = g c a b d' md) :
    VecForm.CompletesClean s
      { i := i, h := w.h, rounds := rounds, srcs := [w.a, w.b], d := w.d, sty := w.h.ty, w := tyBits w.h.ty, bad := bad,
        n := fun _ => viewElems w.h.ty, g := g } :=
  VecForm.Runs.completesClean hfull
    { exec_eq := hx
      few := Nat.le_refl 2
      width := tyBits_dvd _
      fits := fun _ => (viewElems_mul_tyBits _).le
      rows := hrows
      ctx := hctx
      old := hold }

theorem elem3_completes {w : V3} {i : Instr} {rounds : Bool} {f g : Mode → Nat → Nat → Nat}
    (hx : exec i s = elem3 i rounds w (fun m x y _ => f m x y) s)
    (hg : ∀ m x y, x < 2 ^ tyBits w.h.ty → y < 2 ^ tyBits w.h.ty → f m x y % 2 ^ tyBits w.h.ty = g m x y % 2 ^ tyBits w.h.ty) :
    (form3 w i rounds g).CompletesClean s :=
  pair_completes hfull (F := fun _ => mapRow (tyBits w.h.ty) fun m x y _ => f m x y) hx
    (fun _ x r hn => ⟨_, by rw [mapRow_rows, hn], fun j => hg _ _ _ (x.a.elem_lt ..) (x.b.elem_lt ..)⟩)
    (fun _ _ _ => rfl) fun _ _ _ _ _ _ _ => rfl

theorem form1_completes {i : Instr} {h : VHead} {rounds : Bool} {srcs : List Desc} {d : Desc} {sty : BitVec 3} {w : Nat} {n : Nat → Nat}
    {F : VIn → Nat → List (Nat × Nat)} {f g : Src → (Nat → Nat → Mode) → Nat → Nat → Nat}
    (hx : exec i s = vecWord i h rounds srcs d sty w (fun _ => false) (fun _ => F) s) (hfew : srcs.length ≤ 2) (hw : w ∣ 1024)
    (hfits : ∀ r, n r * w ≤ 1024) (hrows : ∀ x r, x.n = viewElems h.ty → F x r = rowEls (n r) (f x.a x.mode r))
    (hg : ∀ a md r j, f a md r j % 2 ^ w = g a md r j % 2 ^ w) : (form1 i h rounds srcs d sty w n g).CompletesClean s :=
  VecForm.Runs.completesClean hfull (F := fun _ => F)
    { exec_eq := hx
      few := hfew
      width := hw
      fits := hfits
      rows := fun _ x r hn => ⟨_, hrows x r hn, hg _ _ r⟩
      ctx := fun _ _ _ => rfl
      old := fun _ _ _ _ _ _ _ => rfl }

/-- A word that writes, at the type's width, as many elements as a view of its type holds. -/
theorem viewForm_completes {i : Instr} {h : VHead} {rounds : Bool} {a d : Desc} {f : Nat → Src → (Nat → Nat → Mode) → Nat → Nat → Nat}
    {g : Src → (Nat → Nat → Mode) → Nat → Nat → Nat}
    (hx : exec i s = vecWord i h rounds [a] d h.ty (tyBits h.ty) (fun _ => false)
      (fun _ x r => (rangeFrom 0 x.n).map fun j => (j, f x.n x.a x.mode r j)) s)
    (hg : ∀ a md r j, f (viewElems h.ty) a md r j % 2 ^ tyBits h.ty = g a md r j % 2 ^ tyBits h.ty) :
    (form1 i h rounds [a] d h.ty (tyBits h.ty) (fun _ => viewElems h.ty) g).CompletesClean s :=
  form1_completes hfull hx (Nat.le_succ 1) (tyBits_dvd _) (fun _ => (viewElems_mul_tyBits _).le) (fun x r hn => by rw [hn]; rfl) hg

end Sys2Proof.Machine
end

section
/-! SUPPORT. O22: what each vector word's function of elements is, in the words of R151 to R155, and the forms of every
word with a block destination. -/

namespace Sys2Proof.Machine

theorem isRdn_eq (m : Mode) : isRdn m = (m == .rdn) := by cases m <;> rfl

theorem addE_eq (ty : BitVec 3) (sat : Bool) (m : Mode) (x y : Nat) :
    addE ty sat m x y = arith2 ty sat (fun u v => u + v) (fun m u v => addV (m == .rdn) u v) m x y := by
  simp only [addE, isRdn_eq]
theorem subE_eq (ty : BitVec 3) (sat : Bool) (m : Mode) (x y : Nat) :
    subE ty sat m x y = arith2 ty sat (fun u v => u - v) (fun m u v => addV (m == .rdn) u v.negate) m x y := by
  simp only [subE, isRdn_eq]

theorem signedOf_modEq (w x : Nat) : signedOf w x ≡ x [ZMOD 2 ^ w] := by
  have hmod : ((x % 2 ^ w : Nat) : Int) ≡ x [ZMOD 2 ^ w] := by
    push_cast; exact Int.mod_modEq _ _
  simp only [signedOf]
  split
  · exact hmod
  · exact (Int.ModEq.sub hmod (Int.modEq_zero_iff_dvd.2 dvd_rfl)).trans (by rw [Int.sub_zero])

theorem tyBits_le (ty : BitVec 3) : tyBits ty ≤ 32 := by
  rw [tyBits]
  rcases elemBytes_cases ty with h | h | h <;> rw [h] <;> decide

/-- Four bits for each element of a view fit in a row. -/
theorem viewElems_nibbles (ty : BitVec 3) : viewElems ty * 4 ≤ 1024 := by
  rw [viewElems]
  rcases elemBytes_cases ty with h | h | h <;> rw [h] <;> decide

/-- A shift of a signed element shifts its bits (R154). -/
theorem intBits_signed_shift (w x n : Nat) : intBits w (signedOf w x * 2 ^ n) = x * 2 ^ n % 2 ^ w := by
  have h : signedOf w x * 2 ^ n % (2 ^ w : Int) = ((x * 2 ^ n % 2 ^ w : Nat) : Int) := by
    push_cast; exact (signedOf_modEq w x).mul_right _
  rw [intBits, h, Int.toNat_natCast]

theorem shlE_eq (ty : BitVec 3) (sat : Bool) (x n : Nat) :
    shlE ty sat x n % 2 ^ tyBits ty =
      (if sat then intBits (tyBits ty) (clampInt (tyBits ty) (signedOf (tyBits ty) x * 2 ^ min n (tyBits ty)))
        else if n < tyBits ty then x * 2 ^ n else 0) % 2 ^ tyBits ty := by
  by_cases hn : n < tyBits ty
  · cases sat with
    | true => simp only [shlE, intRes, if_pos hn, if_true, Nat.min_eq_left hn.le]
    | false => simp only [shlE, intRes, if_pos hn, Bool.false_eq_true, if_false, intBits_signed_shift, Nat.mod_mod]
  · cases sat with
    | true => simp only [shlE, intRes, if_neg hn, if_true, Nat.min_eq_right (Nat.le_of_not_lt hn)]
    | false => simp only [shlE, if_neg hn, Bool.false_eq_true, if_false]

/-- The bits of one number that another does not have (R153). -/
theorem sub_and_eq {w x y : Nat} (hx : x < 2 ^ w) (hy : y < 2 ^ w) : x - (x &&& y) = x &&& (2 ^ w - 1 - y) := by
  have hbits : ∀ X Y : BitVec w, (X &&& Y) + (X &&& ~~~Y) = X := fun X Y => by
    have hdisjoint : (X &&& Y) &&& (X &&& ~~~Y) = 0#w := by ext i; simp; tauto
    rw [BitVec.add_eq_or_of_and_eq_zero _ _ hdisjoint]
    ext i; simp; cases Y[i] <;> simp
  have hsum := congrArg BitVec.toNat (hbits (BitVec.ofNat w x) (BitVec.ofNat w y))
  rw [BitVec.toNat_add, BitVec.toNat_and, BitVec.toNat_and, BitVec.toNat_not, BitVec.toNat_ofNat, BitVec.toNat_ofNat,
    Nat.mod_eq_of_lt hx, Nat.mod_eq_of_lt hy] at hsum
  have hle1 : x &&& y ≤ x := Nat.and_le_left
  have hle2 : x &&& (2 ^ w - 1 - y) ≤ x := Nat.and_le_left
  rcases Nat.lt_or_ge ((x &&& y) + (x &&& (2 ^ w - 1 - y))) (2 ^ w) with h | h
  · rw [Nat.mod_eq_of_lt h] at hsum; omega
  · rw [Nat.mod_eq_sub_mod h, Nat.mod_eq_of_lt (by omega)] at hsum; omega

section
variable {s : State} (hfull : isLight s.cur = false)
include hfull

/-- R151, R153, R154, R165: the words of two sources. -/
theorem vecForms3_complete (w : V3) : ∀ f ∈ vecForms3 w, f.CompletesClean s := by
  have plain {i : Instr} {rounds : Bool} {f : Mode → Nat → Nat → Nat} (hx : exec i s = elem3 i rounds w (fun m x y _ => f m x y) s) :
      (form3 w i rounds f).CompletesClean s := elem3_completes hfull hx fun _ _ _ _ _ => rfl
  simp only [vecForms3, List.forall_mem_cons]
  refine ⟨elem3_completes hfull (exec_vadd s) fun _ _ _ _ _ => by rw [addE_eq],
    elem3_completes hfull (exec_vsub s) fun _ _ _ _ _ => by rw [subE_eq],
    plain (exec_vmul s), plain (exec_vmin s), plain (exec_vmax s), plain (exec_vdiv s), plain (exec_vmulh s),
    plain (exec_vminu s), plain (exec_vmaxu s), plain (exec_vand s), plain (exec_vor s), plain (exec_vxor s),
    elem3_completes (g := fun _ x y => x &&& (2 ^ tyBits w.h.ty - 1 - y)) hfull (exec_vandn s) fun _ _ _ hx hy => by rw [sub_and_eq hx hy],
    elem3_completes hfull (exec_vshl s) fun _ _ _ _ _ => shlE_eq .., plain (exec_vshr s), plain (exec_vsra s), ?_, ?_⟩
  · exact pair_completes hfull (F := fun _ x r => (rangeFrom 0 x.n).map fun j =>
        (j, x.a.elem (tyBits w.h.ty) r (x.b.elem (tyBits w.h.ty) r j % x.n))) (by rw [exec_vshuf, execVshuf])
      (fun _ x r hn => ⟨_, by rw [hn]; rfl, fun j => rfl⟩) (fun _ _ _ => rfl) fun _ _ _ _ _ _ _ => rfl
  · exact fun f hf => absurd hf List.not_mem_nil

theorem vecFma_completes {w : V3} (hd : w.d.isQueue = false) {i : Instr} {minus : Bool} {p : FVal → FVal}
    (hx : exec i s = vecFma i minus w s) (hp : ∀ v, (if minus then v.negate else v) = p v) :
    VecForm.CompletesClean s
      { i := i, h := w.h, rounds := true, srcs := [w.a, w.b], d := w.d, sty := w.h.ty, w := tyBits w.h.ty,
        bad := fun s => descBad s w.d, n := fun _ => viewElems w.h.ty,
        g := fun _ x y z md r j =>
          match floatTy w.h.ty with
          | some f => roundFloat f w.sat (md r j) (addV (md r j == .rdn) (decodeFloat f (z.elem (tyBits w.h.ty) r j))
              (p (mulV (decodeFloat f (x.elem (tyBits w.h.ty) r j)) (decodeFloat f (y.elem (tyBits w.h.ty) r j)))))
          | none => 0 } := by
  refine pair_completes hfull (F := fun _ => mapRow (tyBits w.h.ty) fun m x y z => fmaE w.h.ty w.sat minus m x y z)
    (hx.trans (if_neg (by rw [hd]; exact Bool.false_ne_true))) (fun _ x r hn => ⟨_, by rw [mapRow_rows, hn], fun j => ?_⟩)
    (fun _ _ _ => rfl) fun h => absurd h (by rw [hd]; exact Bool.false_ne_true)
  simp only [fmaE, isRdn_eq, hp] <;> rfl

/-- R153, R159: the words that read a third operand; VFMA and VFMS over a register. -/
theorem vecForms3d_complete (k : BitVec 3) (w : V3) :
    ∀ f ∈ vecForms3d k w, f.i = .vselk k w ∨ w.d.isQueue = false → f.CompletesClean s := by
  simp only [vecForms3d, List.forall_mem_cons]
  refine ⟨fun h => ?_, fun h => ?_, fun _ => ?_, fun f hf => absurd hf List.not_mem_nil⟩
  · exact vecFma_completes hfull (h.resolve_left (by simp)) (exec_vfma s) fun _ => rfl
  · exact vecFma_completes hfull (h.resolve_left (by simp)) (exec_vfms s) fun _ => rfl
  · exact pair_completes hfull (F := fun c x r => (rangeFrom 0 x.n).map fun j =>
        (j, if natBit (maskRow (kget c k.toNat) r) (j * (tyBits w.h.ty / 8)) then x.a.elem (tyBits w.h.ty) r j
          else x.b.elem (tyBits w.h.ty) r j)) (by rw [exec_vselk, execVselk])
      (fun _ x r hn => ⟨_, by rw [hn]; rfl, fun j => rfl⟩) (fun _ _ hk => by simp only [kget, hk] <;> rfl) fun _ _ _ _ _ _ _ => rfl

/-- The form of a word of one source over elements of a type's width. -/
abbrev viewForm (w : V2) (i : Instr) (rounds : Bool) (n : Nat → Nat) (g : Src → (Nat → Nat → Mode) → Nat → Nat → Nat) : VecForm :=
  form1 i w.h rounds [w.a] w.d w.h.ty (tyBits w.h.ty) n g

theorem elem2_completes {w : V2} {i : Instr} {rounds : Bool} {f : Mode → Nat → Nat} (hx : exec i s = elem2 i rounds w f s) :
    (viewForm w i rounds (fun _ => viewElems w.h.ty) fun x md r j => f (md r j) (x.elem (tyBits w.h.ty) r j)).CompletesClean s :=
  viewForm_completes hfull (f := fun _ x md r j => f (md r j) (x.elem (tyBits w.h.ty) r j)) hx fun _ _ _ _ => rfl

theorem special_completes {w : V2} {i : Instr} {f : FVal → FVal} (hx : exec i s = specialWord i w f s) :
    (viewForm w i true (fun _ => viewElems w.h.ty) fun x md r j =>
      flt1 w.h.ty w.sat f (md r j) (x.elem (tyBits w.h.ty) r j)).CompletesClean s :=
  elem2_completes hfull hx

theorem vredr_completes {w : V2} {i : Instr} {k : Red} (hx : exec i s = vredrWord i k w s) :
    (viewForm w i (k == .add && isFloatTy w.h.ty) (fun _ => 1) fun x md r _ =>
      reduce k w.h.ty w.sat (md r 0) ((rangeFrom 0 (viewElems w.h.ty)).map fun j => x.elem (tyBits w.h.ty) r j)).CompletesClean s :=
  form1_completes hfull (F := fun x row => [(0, reduce k w.h.ty w.sat (x.mode row 0)
      ((rangeFrom 0 x.n).map fun j => x.a.elem (tyBits w.h.ty) row j))])
    (f := fun x md r _ => reduce k w.h.ty w.sat (md r 0) ((rangeFrom 0 (viewElems w.h.ty)).map fun j => x.elem (tyBits w.h.ty) r j))
    (by rw [hx, vredrWord, redDraws]) (Nat.le_succ 1) (tyBits_dvd _) (fun _ => by have := tyBits_le w.h.ty; omega)
    (fun x r hn => by rw [hn]; rfl) fun _ _ _ _ => rfl

theorem vredc_completes {w : V2} {i : Instr} {k : Red} (hx : exec i s = vredcWord i k w s) :
    (viewForm w i (k == .add && isFloatTy w.h.ty) (fun r => if r = 0 then viewElems w.h.ty else 0) fun x md _ j =>
      reduce k w.h.ty w.sat (md 0 j) ((rangeFrom 0 16).map fun r => x.elem (tyBits w.h.ty) r j)).CompletesClean s := by
  refine form1_completes hfull (F := fun x row => if row = 0 then (rangeFrom 0 x.n).map fun j =>
        (j, reduce k w.h.ty w.sat (x.mode 0 j) ((rangeFrom 0 16).map fun r => x.a.elem (tyBits w.h.ty) r j)) else [])
    (f := fun x md _ j => reduce k w.h.ty w.sat (md 0 j) ((rangeFrom 0 16).map fun r => x.elem (tyBits w.h.ty) r j))
    (by rw [hx, vredcWord, redDraws]) (Nat.le_succ 1) (tyBits_dvd _) (fun r => ?_) (fun x r hn => ?_) fun _ _ _ _ => rfl
  · by_cases hr : r = 0
    · rw [if_pos hr, viewElems_mul_tyBits]
    · rw [if_neg hr, Nat.zero_mul]; exact Nat.zero_le _
  · by_cases hr : r = 0
    · rw [if_pos hr, if_pos hr, hn]; rfl
    · rw [if_neg hr, if_neg hr]; rfl

/-- R153, R161, R163, R164, R166: the words of one source. -/
theorem vecForms2_complete (w : V2) : ∀ f ∈ vecForms2 w, f.CompletesClean s := by
  simp only [vecForms2, List.forall_mem_cons]
  refine ⟨elem2_completes hfull (exec_vabs s), elem2_completes hfull (exec_vneg s), elem2_completes hfull (exec_vmov s),
    elem2_completes hfull (exec_vnot s), ?_, ?_,
    vredr_completes hfull (exec_vredrAdd s), vredr_completes hfull (exec_vredrMax s), vredr_completes hfull (exec_vredrMin s),
    vredc_completes hfull (exec_vredcAdd s), vredc_completes hfull (exec_vredcMax s), vredc_completes hfull (exec_vredcMin s), ?_,
    special_completes hfull (exec_vexp2 s), special_completes hfull (exec_vlog2 s), special_completes hfull (exec_vrcp s),
    special_completes hfull (exec_vrsq s), special_completes hfull (exec_vsqrt s), special_completes hfull (exec_vsin s),
    special_completes hfull (exec_vcos s), special_completes hfull (exec_vtanh s), special_completes hfull (exec_vsigm s),
    special_completes hfull (exec_vgelu s), special_completes hfull (exec_vsilu s), fun f hf => absurd hf List.not_mem_nil⟩
  · exact form1_completes hfull (F := fun x r => (rangeFrom 0 x.n).map fun j =>
        (j, roundFloat fp4 false (x.mode r j) (decodeFmt (tyFormat w.h.ty) (x.a.elem (tyBits w.h.ty) r j))))
      (f := fun x md r j => roundFloat fp4 false (md r j) (decodeFmt (tyFormat w.h.ty) (x.elem (tyBits w.h.ty) r j)))
      (by rw [exec_vpack4, execVpack4]) (Nat.le_succ 1) (by decide) (fun _ => viewElems_nibbles _) (fun x r hn => by rw [hn]; rfl)
      fun _ _ _ _ => rfl
  · exact viewForm_completes hfull
      (f := fun _ x md r j => roundTo (tyFormat w.h.ty) false (md r j) (decodeFloat fp4 (x.elem 4 r j)))
      (by rw [exec_vunpk4, execVunpk4]) fun _ _ _ _ => rfl
  · exact form1_completes hfull (F := fun x r => (rangeFrom 0 16).map fun j => (j, x.a.elem (tyBits w.h.ty) j r))
      (f := fun x _ r j => x.elem (tyBits w.h.ty) j r) (by rw [exec_vxpose, execVxpose]) (Nat.le_succ 1) (tyBits_dvd _)
      (fun _ => by have := tyBits_le w.h.ty; omega) (fun _ _ _ => rfl) fun _ _ _ _ => rfl

theorem elemI_completes {w : VI} {i : Instr} {rounds : Bool} {f : Mode → Nat → Nat → Nat} {g : Mode → Nat → Nat}
    (hx : exec i s = elemI i rounds w f s)
    (hg : ∀ m x, f m x (imm21Bits w.h.ty w.imm % 2 ^ tyBits w.h.ty) % 2 ^ tyBits w.h.ty = g m x % 2 ^ tyBits w.h.ty) :
    (form1 i w.h rounds [w.a] w.d w.h.ty (tyBits w.h.ty) (fun _ => viewElems w.h.ty) fun x md r j =>
      g (md r j) (x.elem (tyBits w.h.ty) r j)).CompletesClean s :=
  viewForm_completes hfull
    (f := fun _ x md r j => f (md r j) (x.elem (tyBits w.h.ty) r j) (imm21Bits w.h.ty w.imm % 2 ^ tyBits w.h.ty)) hx
    fun _ _ _ _ => hg _ _

theorem moveWord_completes {w : VI} {i : Instr} {at_ : Nat → Nat → Nat → Nat × Nat} (hx : exec i s = moveWord i w.h w.d w.a at_ s) :
    (form1 i w.h false [w.a] w.d w.h.ty (tyBits w.h.ty) (fun _ => viewElems w.h.ty) fun x _ r j =>
      x.elem (tyBits w.h.ty) (at_ (viewElems w.h.ty) r j).1 (at_ (viewElems w.h.ty) r j).2).CompletesClean s :=
  viewForm_completes hfull (f := fun n x _ r j => x.elem (tyBits w.h.ty) (at_ n r j).1 (at_ n r j).2) hx fun _ _ _ _ => rfl

end

end Sys2Proof.Machine
end

section
/-! SUPPORT. O22: the words of one source and an immediate (R155, R160, R162). -/

namespace Sys2Proof.Machine
variable {s : State} (hfull : isLight s.cur = false)
include hfull

theorem elemI_plain {w : VI} {i : Instr} {rounds : Bool} {f : Mode → Nat → Nat → Nat} (hx : exec i s = elemI i rounds w f s) :
    (form1 i w.h rounds [w.a] w.d w.h.ty (tyBits w.h.ty) (fun _ => viewElems w.h.ty) fun x md r j =>
      f (md r j) (x.elem (tyBits w.h.ty) r j) (imm21Bits w.h.ty w.imm % 2 ^ tyBits w.h.ty)).CompletesClean s :=
  elemI_completes (g := fun m x => f m x (imm21Bits w.h.ty w.imm % 2 ^ tyBits w.h.ty)) hfull hx fun _ _ => rfl

/-- R155, R160, R162: the words of one source and an immediate, and VMOVI. -/
theorem vecFormsI_complete (w : VI) : ∀ f ∈ vecFormsI w, f.CompletesClean s := by
  simp only [vecFormsI, List.forall_mem_cons]
  refine ⟨?vaddi, elemI_plain hfull (exec_vmuli s), elemI_plain hfull (exec_vmini s), elemI_plain hfull (exec_vmaxi s), ?vshli,
    elemI_plain hfull (exec_vshri s), elemI_plain hfull (exec_vsrai s), ?vmovi,
    moveWord_completes (at_ := fun n r j => (r, (j + w.imm.toNat) % n)) hfull (exec_vrotr s),
    moveWord_completes (at_ := fun _ r j => ((r + w.imm.toNat) % 16, j)) hfull (exec_vrotc s),
    moveWord_completes (at_ := fun _ r _ => (r, w.imm.toNat)) hfull (exec_vbcr s),
    moveWord_completes (at_ := fun _ _ j => (w.imm.toNat, j)) hfull (exec_vbcc s), ?vcvt, fun f hf => absurd hf List.not_mem_nil⟩
  case vaddi =>
    exact elemI_completes hfull (exec_vaddi s) (g := fun m x => arith2 w.h.ty w.sat (fun u v => u + v)
      (fun m u v => addV (m == .rdn) u v) m x (imm21Bits w.h.ty w.imm % 2 ^ tyBits w.h.ty)) fun _ _ => by rw [addE_eq]
  case vshli =>
    exact elemI_completes hfull (exec_vshli s) (g := fun _ x =>
      if w.sat then intBits (tyBits w.h.ty) (clampInt (tyBits w.h.ty) (signedOf (tyBits w.h.ty) x * 2 ^ min w.imm.toNat (tyBits w.h.ty)))
      else if w.imm.toNat < tyBits w.h.ty then x * 2 ^ w.imm.toNat else 0) fun _ _ => shlE_eq ..
  case vmovi =>
    exact form1_completes hfull (f := fun _ _ _ _ => imm21Bits w.h.ty w.imm % 2 ^ tyBits w.h.ty)
      (by rw [exec_vmovi, execVmovi]) (Nat.zero_le 2) (tyBits_dvd _) (fun _ => (viewElems_mul_tyBits _).le)
      (fun x r hn => by rw [mapRow_rows, hn]) fun _ _ _ _ => rfl
  case vcvt =>
    refine form1_completes hfull (F := fun x r => (rangeFrom 0 (min (viewElems w.cvtSrc) (viewElems w.h.ty))).map fun j =>
        (j, cvtElem w (x.mode r j) (x.a.elem (tyBits w.cvtSrc) r j)))
      (f := fun x md r j => cvtElem w (md r j) (x.elem (tyBits w.cvtSrc) r j))
      (by rw [exec_vcvt, execVcvt]) (Nat.le_succ 1) (tyBits_dvd _) (fun _ => ?_) (fun _ _ _ => rfl) fun _ _ _ _ => rfl
    exact (Nat.mul_le_mul_right _ (Nat.min_le_right _ _)).trans (viewElems_mul_tyBits _).le

end Sys2Proof.Machine
end

section
/-! SUPPORT. O22: compares and masks (R33, R156 to R158): row bits in a scalar register, rows of a mask, and the words that
write them. -/

namespace Sys2Proof.Machine

-- Row bits.

theorem testBit_foldl_pow (f : Nat → Bool) (k : Nat) :
    ∀ a acc, acc < 2 ^ a → ∀ i,
      ((rangeFrom a k).foldl (fun n i => if f i then n + 2 ^ i else n) acc).testBit i =
        if i < a then acc.testBit i else decide (i < a + k) && f i := by
  induction k with
  | zero =>
    intro a acc hacc i
    by_cases hi : i < a
    · rw [if_pos hi]; rfl
    · rw [if_neg hi, decide_eq_false (by omega), Bool.false_and]
      exact Nat.testBit_lt_two_pow (hacc.trans_le (Nat.pow_le_pow_right (by decide) (by omega)))
  | succ k ih =>
    intro a acc hacc i
    have hlt : (if f a then acc + 2 ^ a else acc) < 2 ^ (a + 1) := by
      rw [Nat.pow_succ]; split <;> omega
    have hbit : (if f a then acc + 2 ^ a else acc).testBit i = if i < a then acc.testBit i else decide (i = a) && f a := by
      have hsum : (if f a then acc + 2 ^ a else acc) = 2 ^ a * (f a).toNat + acc := by
        cases f a
        · rw [Bool.toNat_false, Nat.mul_zero, Nat.zero_add]; rfl
        · rw [Bool.toNat_true, Nat.mul_one, Nat.add_comm]; rfl
      rw [hsum, Nat.testBit_two_pow_mul_add _ hacc, Nat.testBit_bool_toNat]
      by_cases hi : i < a
      · rw [if_pos hi, if_pos hi]
      · rw [if_neg hi, if_neg hi]; congr 1; rw [decide_eq_decide]; omega
    rw [rangeFrom, List.foldl_cons, ih (a + 1) _ hlt i, hbit]
    by_cases h1 : i < a
    · rw [if_pos (by omega), if_pos h1, if_pos h1]
    · rw [if_neg h1, if_neg h1]
      by_cases h2 : i = a
      · rw [if_pos (by omega), decide_eq_true h2, decide_eq_true (by omega : i < a + (k + 1)), h2]
      · rw [if_neg (by omega)]; congr 1; rw [decide_eq_decide]; omega

theorem testBit_rowBits (f : Nat → Bool) (i : Nat) : (rowBits f).testBit i = (decide (i < 16) && f i) := by
  rw [rowBits, testBit_foldl_pow f 16 0 0 (by decide), if_neg (Nat.not_lt_zero i), Nat.zero_add]

theorem bitAt_setFld (w : Word) (lo n v i : Nat) (hi : i < 64) :
    bitAt (setFld w lo n v) i = if lo ≤ i ∧ i < lo + n then v.testBit (i - lo) else bitAt w i := by
  rw [bitAt, bitAt, natBit_eq_testBit, natBit_eq_testBit, ← testBit_putField, setFld, testBit_ofNat_toNat, decide_eq_true hi, Bool.true_and]
  rfl

/-- A VC destination gets the enabled rows' bits, and keeps its others (R33, R156). -/
theorem bitAt_putRowBits (mask : Nat) (d : SReg) {pos : Nat} (bits : Nat → Bool) (c : Ctx) {r : SReg} {n : Nat} (hr : r ≠ 0)
    (hn : n < 64) :
    bitAt (sread (putRowBits mask d pos (rowBits bits) c) r) n =
      if r = d ∧ pos ≤ n ∧ n < pos + 16 ∧ natBit mask (n - pos) = true then bits (n - pos) else bitAt (sread c r) n := by
  rw [putRowBits, writeRowBits, sread_swrite, if_neg hr]
  by_cases hd : r = d
  · rw [if_pos hd, bitAt_setFld _ _ _ _ _ hn, hd]
    by_cases hpos : pos ≤ n ∧ n < pos + 16
    · have hin : n - pos < 16 := by omega
      have hold : natBit (fld (sread c d) pos 16) (n - pos) = bitAt (sread c d) n := by
        rw [natBit_eq_testBit, fld, testBit_natField, decide_eq_true hin, Bool.true_and, bitAt, natBit_eq_testBit,
          Nat.add_sub_cancel' hpos.1]
      rw [if_pos hpos, mixRows, testBit_rowBits, decide_eq_true hin, Bool.true_and, hold, natBit_eq_testBit (rowBits bits),
        testBit_rowBits, decide_eq_true hin, Bool.true_and]
      by_cases hm : natBit mask (n - pos) = true
      · rw [if_pos hm, if_pos ⟨rfl, hpos.1, hpos.2, hm⟩]
      · rw [if_neg hm, if_neg fun h => hm h.2.2.2]
    · rw [if_neg hpos, if_neg fun h => hpos ⟨h.2.1, h.2.2.1⟩]
  · rw [if_neg hd, if_neg fun h => hd h.1]

-- Mask rows.

theorem maskRow_writeMaskRows_go (mask : Nat) (f : Nat → Nat) {r n : Nat} (hr : r < 16) (hn : n < 128) (k : Nat) :
    ∀ a m, a + k ≤ 16 →
      (maskRow ((rangeFrom a k).foldl (fun m i => if natBit mask i then setMaskRow m i (f i) else m) m) r).testBit n =
        if a ≤ r ∧ r < a + k ∧ natBit mask r = true then (f r).testBit n else (maskRow m r).testBit n := by
  induction k with
  | zero => exact fun a m _ => (if_neg (by omega)).symm
  | succ k ih =>
    intro a m ha
    rw [rangeFrom, List.foldl_cons, ih (a + 1) _ (by omega)]
    have hset : (maskRow (if natBit mask a then setMaskRow m a (f a) else m) r).testBit n =
        if r = a ∧ natBit mask a = true then (f a).testBit n else (maskRow m r).testBit n := by
      by_cases hm : natBit mask a = true
      · rw [if_pos hm, testBit_maskRow_setMaskRow m _ (by omega) hr n hn]; simp only [hm, and_true]
      · rw [if_neg hm, if_neg fun h => hm h.2]
    rw [hset]
    by_cases h1 : r = a
    · subst h1
      rw [if_neg (by omega)]
      by_cases hm : natBit mask r = true
      · rw [if_pos ⟨rfl, hm⟩, if_pos ⟨Nat.le_refl r, by omega, hm⟩]
      · rw [if_neg fun h => hm h.2, if_neg fun h => hm h.2.2]
    · rw [if_neg (c := r = a ∧ _) fun h => h1 h.1]
      by_cases h2 : a + 1 ≤ r ∧ r < a + 1 + k ∧ natBit mask r = true
      · rw [if_pos h2, if_pos ⟨by omega, by omega, h2.2.2⟩]
      · rw [if_neg h2, if_neg fun h => h2 ⟨by omega, by omega, h.2.2⟩]

/-- A mask gets the enabled rows, and keeps its others (R157, R158). -/
theorem natBit_writeMaskRows (mask : Nat) (f : Nat → Nat) (m : KMask) {r n : Nat} (hr : r < 16) (hn : n < 128) :
    natBit (maskRow (writeMaskRows mask f m) r) n = if natBit mask r = true then natBit (f r) n else natBit (maskRow m r) n := by
  rw [natBit_eq_testBit, natBit_eq_testBit (f r), natBit_eq_testBit (maskRow m r), writeMaskRows,
    maskRow_writeMaskRows_go mask f hr hn 16 0 m (Nat.le_refl 16)]
  by_cases hm : natBit mask r = true
  · rw [if_pos hm, if_pos ⟨Nat.zero_le r, by omega, hm⟩]
  · rw [if_neg hm, if_neg fun h => hm h.2.2]

theorem testBit_maskOf_go {e : Nat} (he : 0 < e) (f : Nat → Bool) (i k : Nat) :
    ∀ a acc, ((rangeFrom a k).foldl (fun acc j => if f j then putField acc (j * e) e (2 ^ e - 1) else acc) acc).testBit i =
      if a ≤ i / e ∧ i / e < a + k then f (i / e) || acc.testBit i else acc.testBit i := by
  induction k with
  | zero => exact fun a acc => (if_neg (by omega)).symm
  | succ k ih =>
    intro a acc
    have hset : (if f a then putField acc (a * e) e (2 ^ e - 1) else acc).testBit i =
        if i / e = a then f a || acc.testBit i else acc.testBit i := by
      have hin : i / e = a ↔ a * e ≤ i ∧ i < a * e + e := by
        rw [Nat.div_eq_iff he]; omega
      cases hf : f a with
      | false => simp
      | true =>
        rw [if_pos rfl, testBit_putField]
        by_cases h : i / e = a
        · rw [if_pos h, if_pos (hin.1 h), Nat.testBit_two_pow_sub_one, Bool.true_or, decide_eq_true (by have := hin.1 h; omega)]
        · rw [if_neg h, if_neg fun h' => h (hin.2 h')]
    rw [rangeFrom, List.foldl_cons, ih (a + 1), hset]
    by_cases h1 : i / e = a
    · rw [if_neg (by omega), if_pos h1, if_pos (by omega), h1]
    · rw [if_neg h1]
      by_cases h2 : a + 1 ≤ i / e ∧ i / e < a + 1 + k
      · rw [if_pos h2, if_pos (by omega)]
      · rw [if_neg h2, if_neg (by omega)]

/-- An element of a compare's mask row has all its bits as the condition says (R157). -/
theorem natBit_maskOf (ty : BitVec 3) (f : Nat → Bool) {n : Nat} (hn : n < 128) :
    natBit (maskOf (tyBits ty) (viewElems ty) f) n = f (n / elemBytes ty) := by
  have he : 0 < elemBytes ty := by rcases elemBytes_cases ty with h | h | h <;> omega
  have hlt : n / elemBytes ty < viewElems ty := by
    rw [viewElems]
    rcases elemBytes_cases ty with h | h | h <;> rw [h] <;> omega
  rw [natBit_eq_testBit, maskOf, tyBits, Nat.mul_div_cancel_left _ (by decide : 0 < 8), testBit_maskOf_go he f n,
    if_pos ⟨Nat.zero_le _, by rwa [Nat.zero_add]⟩, Nat.zero_testBit, Bool.or_false]

end Sys2Proof.Machine
end

section
/-! SUPPORT. O22: the words over scalar and mask destinations (R156 to R158), and VFMA and VFMS at a queue. -/

namespace Sys2Proof.Machine

variable {s : State} (hfull : isLight s.cur = false)

include hfull in
/-- Two sources, their queues ready and the operands good, are read in their order (R100, R330). -/
theorem readSources_reads {i : Instr} {h : VHead} {a b : Desc} {bad : State → Bool} {k : Nat → Src → Src → State → Out}
    (hclean : VecClean s h [a, b] bad) (hready : QueuesReady (me s) [a, b]) :
    readSources i h a b bad s k =
      k (guardRows (me s) h.guard) (operandOf h.ty (me s) [a, b] 0) (operandOf h.ty (me s) [a, b] 1)
        (onMe s fun _ => takenSrcs h.ty (me s) [a, b]) := by
  obtain ⟨hguard, hrows⟩ := hclean
  have hbad : (srcBad s h.guard.reg || (guardRows (me s) h.guard != 0 && (srcsBad s [a, b] || bad s))) = false := by
    by_cases hm : guardRows (me s) h.guard = 0
    · rw [hguard, hm]; rfl
    · obtain ⟨hsrcs, hextra, -⟩ := hrows hm
      rw [hguard, hsrcs, hextra, Bool.or_false, Bool.and_false]; rfl
  refine (fullOnly_full hfull).trans ((queueGate_go fun x hx => fateOf_read hready hx).trans
    ((if_neg (by rw [hbad]; exact Bool.false_ne_true)).trans ?_))
  rw [operandOf_eq h.ty (me s) (srcs := [a, b]) (k := 0) rfl, operandOf_eq h.ty (me s) (srcs := [a, b]) (k := 1) rfl]
  rfl

/-- The two destinations of a VCMP, the second over the first (R156). -/
def vcmpWrite (w : VC) (cond : VCond) (mask : Nat) (x y : Src) (c : Ctx) : Ctx :=
  putRowBits mask w.regB w.bitBPos
    (rowBits fun r => ordered w.h.ty (x.elem (tyBits w.h.ty) r 0) (y.elem (tyBits w.h.ty) r 0) &&
      !cond.holds w.h.ty (x.elem (tyBits w.h.ty) r 0) (y.elem (tyBits w.h.ty) r 0))
    (putRowBits mask w.regA w.bitA.toNat
      (rowBits fun r => cond.holds w.h.ty (x.elem (tyBits w.h.ty) r 0) (y.elem (tyBits w.h.ty) r 0)) c)

theorem vcmpWrite_eq (w : VC) (cond : VCond) (mask : Nat) (x y : Src) (c : Ctx) :
    vcmpWrite w cond mask x y c = { c with s := (vcmpWrite w cond mask x y c).s } := by
  unfold vcmpWrite putRowBits writeRowBits
  rw [swrite_eq _ w.regB, swrite_eq _ w.regA]

include hfull in
/-- R33, R156: VCMP writes the enabled row bits of its two destinations, the second over the first. -/
theorem vcmpWord_completes {i : Instr} {w : VC} {cond : VCond} (hx : exec i s = vcmpWord i w cond s)
    (hclean : VecClean s w.h [w.a, w.b] (fun s => srcBad s w.regA || srcBad s w.regB)) (hready : QueuesReady (me s) [w.a, w.b]) :
    ∃ t, exec i s = .next t ∧ s.OwnOnly t ∧ FallsThrough w.h.e 12 s t ∧
      Ctx.PlaceOnly { me s with s := (me t).s, q := (me t).q } (me t) ∧ QueuesTaken (me s) (me t) [w.a, w.b] ∧
      let u := fun r => (operandOf w.h.ty (me s) [w.a, w.b] 0).elem (tyBits w.h.ty) r 0
      let v := fun r => (operandOf w.h.ty (me s) [w.a, w.b] 1).elem (tyBits w.h.ty) r 0
      let on := fun r => natBit (guardRows (me s) w.h.guard) r
      ∀ (r : SReg) (n : Nat), r ≠ 0 → n < 64 →
        bitAt (rs t r) n =
          if r = w.regB ∧ w.bitBPos ≤ n ∧ n < w.bitBPos + 16 ∧ on (n - w.bitBPos) = true then
            ordered w.h.ty (u (n - w.bitBPos)) (v (n - w.bitBPos)) && !cond.holds w.h.ty (u (n - w.bitBPos)) (v (n - w.bitBPos))
          else if r = w.regA ∧ w.bitA.toNat ≤ n ∧ n < w.bitA.toNat + 16 ∧ on (n - w.bitA.toNat) = true then
            cond.holds w.h.ty (u (n - w.bitA.toNat)) (v (n - w.bitA.toNat))
          else bitAt (rs s r) n := by
  have hexec : exec i s = .next (retire w.h.e 12 (onMe (onMe s fun _ => takenSrcs w.h.ty (me s) [w.a, w.b]) (vcmpWrite w cond
      (guardRows (me s) w.h.guard) (operandOf w.h.ty (me s) [w.a, w.b] 0) (operandOf w.h.ty (me s) [w.a, w.b] 1)))) := by
    rw [hx, vcmpWord, readSources_reads hfull hclean hready]; rfl
  have hq := takenSrcs_queuesOnly w.h.ty (me s) [w.a, w.b]
  have hcount := qblocks_takenSrcs w.h.ty (me s) [w.a, w.b]
  generalize takenSrcs w.h.ty (me s) [w.a, w.b] = c at *
  generalize operandOf w.h.ty (me s) [w.a, w.b] 0 = x at *
  generalize operandOf w.h.ty (me s) [w.a, w.b] 1 = y at *
  have hwrite := vcmpWrite_eq w cond (guardRows (me s) w.h.guard) x y c
  have hme : me (onMe (onMe s fun _ => c) (vcmpWrite w cond (guardRows (me s) w.h.guard) x y)) =
      vcmpWrite w cond (guardRows (me s) w.h.guard) x y c := by rw [me_onMe, me_onMe]
  obtain ⟨hown, hfalls, hplace⟩ := retire_becomes w.h.e 12 ((touched_onMe s _).trans (touched_onMe _ _)) hme
    (by rw [hwrite, hq]) (by rw [hwrite, hq])
  generalize retire w.h.e 12 _ = t at *
  refine ⟨t, hexec, hown, hfalls, ?_, fun q => ?_, fun r n hr hn => ?_⟩
  · generalize vcmpWrite w cond (guardRows (me s) w.h.guard) x y c = d at *
    rw [Ctx.PlaceOnly] at hplace ⊢
    rw [hplace, hwrite, hq]
  · rw [← hcount, hplace, hwrite]; rfl
  · have hold : bitAt (sread c r) n = bitAt (rs s r) n := by rw [hq]; rfl
    rw [rs, sread_place hplace, vcmpWrite, bitAt_putRowBits _ _ _ _ hr hn, bitAt_putRowBits _ _ _ _ hr hn, hold]

theorem cleanMask_touched (s : State) (k mask : Nat) : Touched s (cleanMask s k mask) ∧ me (cleanMask s k mask) = me s := by
  unfold cleanMask
  split
  · exact ⟨Touched.refl s, rfl⟩
  · exact ⟨⟨rfl, fun _ _ => rfl⟩, rfl⟩

theorem kget_kset (c : Ctx) (k m : Nat) (x : KMask) : kget (kset c k x) m = if m = k then x else kget c m := smGetD_smSet ..

/-- A mask's enabled rows are written, in a state in which the word has taken no more than its sources. -/
theorem putMask_completes {u : State} (hu : Touched s u) (hc : Ctx.QueuesOnly (me s) (me u)) (h : VHead) (k mask : Nat) (f : Nat → Nat) :
    ∃ t, putMask h k mask f u = .next t ∧ s.OwnOnly t ∧ FallsThrough h.e 12 s t ∧
      Ctx.PlaceOnly { me u with k := (me t).k } (me t) ∧ (∀ m, m ≠ k → kget (me t) m = kget (me s) m) ∧
      ∀ r n, r < 16 → n < 128 → natBit (maskRow (kget (me t) k) r) n =
        if natBit mask r = true then natBit (f r) n else natBit (maskRow (kget (me s) k) r) n := by
  have hme : me (cleanMask (onMe u fun c => kset c k (writeMaskRows mask f (kget c k))) k mask) =
      kset (me u) k (writeMaskRows mask f (kget (me u) k)) := by rw [(cleanMask_touched _ k mask).2, me_onMe]
  obtain ⟨hown, hfalls, hplace⟩ := retire_becomes h.e 12 (hu.trans ((touched_onMe u _).trans (cleanMask_touched _ k mask).1)) hme
    (by rw [hc]; rfl) (by rw [hc]; rfl)
  have hk : ∀ m, kget (me u) m = kget (me s) m := fun m => by rw [hc]; rfl
  refine ⟨_, rfl, hown, hfalls, ?_, ?_⟩
  · rw [Ctx.PlaceOnly] at hplace ⊢
    rw [hplace]; rfl
  · generalize retire h.e 12 _ = t at *
    have hget : ∀ m, kget (me t) m = if m = k then writeMaskRows mask f (kget (me s) k) else kget (me s) m := fun m => by
      rw [hplace, ← hk m, ← hk k]; exact kget_kset (me u) k m _
    exact ⟨fun m hm => by rw [hget, if_neg hm], fun r n hr hn => by rw [hget, if_pos rfl, natBit_writeMaskRows mask f _ hr hn]⟩

include hfull in
/-- R33, R157: VKCMP writes the enabled rows of its mask. -/
theorem vkcmpWord_completes {i : Instr} {w : VK} {cond : VCond} (hx : exec i s = vkcmpWord i w cond s)
    (hclean : VecClean s w.h [w.a, w.b] (fun _ => false)) (hready : QueuesReady (me s) [w.a, w.b]) :
    ∃ t, exec i s = .next t ∧ s.OwnOnly t ∧ FallsThrough w.h.e 12 s t ∧
      Ctx.PlaceOnly { me s with k := (me t).k, q := (me t).q } (me t) ∧ QueuesTaken (me s) (me t) [w.a, w.b] ∧
      (∀ m, m ≠ w.k.toNat → kget (me t) m = kget (me s) m) ∧
      ∀ r n, r < 16 → n < 128 → natBit (maskRow (kget (me t) w.k.toNat) r) n =
        if natBit (guardRows (me s) w.h.guard) r = true then
          cond.holds w.h.ty ((operandOf w.h.ty (me s) [w.a, w.b] 0).elem (tyBits w.h.ty) r (n / elemBytes w.h.ty))
            ((operandOf w.h.ty (me s) [w.a, w.b] 1).elem (tyBits w.h.ty) r (n / elemBytes w.h.ty))
        else natBit (maskRow (kget (me s) w.k.toNat) r) n := by
  have hq := takenSrcs_queuesOnly w.h.ty (me s) [w.a, w.b]
  obtain ⟨t, hput, hown, hfalls, hplace, hother, hrows⟩ := putMask_completes
    (touched_onMe s fun _ => takenSrcs w.h.ty (me s) [w.a, w.b]) (by rwa [me_onMe]) w.h w.k.toNat (guardRows (me s) w.h.guard)
    fun r => maskOf (tyBits w.h.ty) (viewElems w.h.ty) fun j => cond.holds w.h.ty
      ((operandOf w.h.ty (me s) [w.a, w.b] 0).elem (tyBits w.h.ty) r j) ((operandOf w.h.ty (me s) [w.a, w.b] 1).elem (tyBits w.h.ty) r j)
  rw [me_onMe] at hplace
  refine ⟨t, by rw [hx, vkcmpWord, readSources_reads hfull hclean hready]; exact hput, hown, hfalls, ?_, fun q => ?_, hother,
    fun r n hr hn => by rw [hrows r n hr hn, natBit_maskOf _ _ hn]⟩
  · rw [Ctx.PlaceOnly] at hplace ⊢
    rw [hplace, hq]
  · rw [← qblocks_takenSrcs w.h.ty (me s) [w.a, w.b], hplace]; rfl

theorem maskRow_lt (m : KMask) (r : Nat) : maskRow m r < 2 ^ 128 := Nat.mod_lt _ (by decide)

-- The bits of the mask words' results (R158).

theorem natBit_land (x y n : Nat) : natBit (x &&& y) n = (natBit x n && natBit y n) := by simp only [natBit_eq_testBit, Nat.testBit_and]
theorem natBit_lor (x y n : Nat) : natBit (x ||| y) n = (natBit x n || natBit y n) := by simp only [natBit_eq_testBit, Nat.testBit_or]
theorem natBit_xor (x y n : Nat) : natBit (x ^^^ y) n = (natBit x n ^^ natBit y n) := by simp only [natBit_eq_testBit, Nat.testBit_xor]

theorem natBit_complement {w x n : Nat} (hx : x < 2 ^ w) (hn : n < w) : natBit (2 ^ w - 1 - x) n = !natBit x n := by
  rw [Nat.sub_sub, Nat.add_comm 1 x, natBit_eq_testBit, natBit_eq_testBit, Nat.testBit_two_pow_sub_succ hx, decide_eq_true hn, Bool.true_and]

theorem natBit_andn {w x y n : Nat} (hx : x < 2 ^ w) (hy : y < 2 ^ w) (hn : n < w) : natBit (x - (x &&& y)) n = (natBit x n && !natBit y n) := by
  rw [sub_and_eq hx hy, natBit_land, natBit_complement hy hn]

include hfull in
/-- R33, R158: a mask word writes the enabled rows of its mask, bit by bit from its sources. -/
theorem maskWord_completes {i : Instr} {h : VHead} {d a b : BitVec 3} {srcs : List (BitVec 3)} {f : Nat → Nat → Nat} {g : Bool → Bool → Bool}
    (hx : exec i s = maskWord i h d srcs f s)
    (hg : ∀ r n, n < 128 →
      natBit (f (maskRow (kget (me s) (srcs.headD 0).toNat) r) (maskRow (kget (me s) ((srcs.drop 1).headD 0).toNat) r)) n =
        g (natBit (maskRow (kget (me s) a.toNat) r) n) (natBit (maskRow (kget (me s) b.toNat) r) n))
    (hclean : VecClean s h [] (fun s => srcs.any fun m => maskBad s m.toNat)) :
    ∃ t, exec i s = .next t ∧ s.OwnOnly t ∧ FallsThrough h.e 12 s t ∧ Ctx.PlaceOnly { me s with k := (me t).k } (me t) ∧
      (∀ m, m ≠ d.toNat → kget (me t) m = kget (me s) m) ∧
      ∀ r n, r < 16 → n < 128 → natBit (maskRow (kget (me t) d.toNat) r) n =
        if natBit (guardRows (me s) h.guard) r = true then
          g (natBit (maskRow (kget (me s) a.toNat) r) n) (natBit (maskRow (kget (me s) b.toNat) r) n)
        else natBit (maskRow (kget (me s) d.toNat) r) n := by
  obtain ⟨hguard, hrows⟩ := hclean
  have hbad : (srcBad s h.guard.reg || (guardRows (me s) h.guard != 0 && srcs.any fun k => maskBad s k.toNat)) = false := by
    by_cases hm : guardRows (me s) h.guard = 0
    · rw [hguard, hm]; rfl
    · obtain ⟨-, hmasks, -⟩ := hrows hm
      rw [hguard, show (srcs.any fun k => maskBad s k.toNat) = false from hmasks, Bool.and_false]; rfl
  have hexec : exec i s = putMask h d.toNat (guardRows (me s) h.guard) (fun r =>
      f (maskRow (kget (me s) (srcs.headD 0).toNat) r) (maskRow (kget (me s) ((srcs.drop 1).headD 0).toNat) r)) s := by
    rw [hx]
    exact (fullOnly_full hfull).trans (if_neg (by rw [hbad]; exact Bool.false_ne_true))
  obtain ⟨t, hput, hown, hfalls, hplace, hother, hbits⟩ := putMask_completes (Touched.refl s) (Ctx.QueuesOnly.refl (me s)) h d.toNat
    (guardRows (me s) h.guard) fun r =>
      f (maskRow (kget (me s) (srcs.headD 0).toNat) r) (maskRow (kget (me s) ((srcs.drop 1).headD 0).toNat) r)
  exact ⟨t, hexec.trans hput, hown, hfalls, hplace, hother, fun r n hr hn => by rw [hbits r n hr hn, hg r n hn]⟩

/-- R153: VFMA and VFMS, which read their destination, trap ILLOP on a queue there. -/
theorem vecFma_queue_traps {i : Instr} {minus : Bool} {w : V3} (hx : exec i s = vecFma i minus w s) (hd : w.d.isQueue = true) :
    TrapsWith i s { cause := 1, va := BitVec.ofNat 64 (headUnit i) } :=
  hx.trans (if_pos hd)

end Sys2Proof.Machine
end

section
/-! SUPPORT. O22: the lists of vector words, and the obligation. -/

namespace Sys2Proof.Machine

theorem vcmpForms_run (s : State) (w : VC) : ∀ f ∈ vcmpForms w, exec f.1 s = vcmpWord f.1 w f.2 s := by
  simp only [vcmpForms, List.forall_mem_cons]
  exact ⟨exec_vcmpEq s, exec_vcmpNe s, exec_vcmpLt s, exec_vcmpLe s, exec_vcmpGt s, exec_vcmpGe s, exec_vcmpUn s, exec_vcmpLtu s,
    exec_vcmpLeu s, fun f hf => absurd hf List.not_mem_nil⟩

theorem vkcmpForms_run (s : State) (w : VK) : ∀ f ∈ vkcmpForms w, exec f.1 s = vkcmpWord f.1 w f.2 s := by
  simp only [vkcmpForms, List.forall_mem_cons]
  exact ⟨exec_vkcmpEq s, exec_vkcmpNe s, exec_vkcmpLt s, exec_vkcmpLe s, exec_vkcmpGt s, exec_vkcmpGe s, exec_vkcmpUn s,
    fun f hf => absurd hf List.not_mem_nil⟩

/-- Settles O22: the words with a block destination through `VecForm.Runs.completes`, the compares and the mask words
through the rules of their destinations. -/
theorem vectorWordsComplete : Obligations.VectorWordsComplete := by
  unfold Obligations.VectorWordsComplete
  refine ⟨fun k w s hfull => ⟨vecForms3_complete hfull w, fun f hf hclean hready h => vecForms3d_complete hfull k w f hf h hclean hready,
      fun hd => ?_⟩,
    fun w x s hfull => ⟨vecForms2_complete hfull w, vecFormsI_complete hfull x⟩,
    fun w x h d a b s hfull => ⟨fun f hf hclean hready _ _ => vcmpWord_completes hfull (vcmpForms_run s w f hf) hclean hready,
      fun f hf hclean hready => vkcmpWord_completes hfull (vkcmpForms_run s x f hf) hclean hready, ?_⟩⟩
  · simp only [List.forall_mem_cons]
    exact ⟨vecFma_queue_traps (exec_vfma s) hd, vecFma_queue_traps (exec_vfms s) hd, fun i hi => absurd hi List.not_mem_nil⟩
  · simp only [maskForms, List.forall_mem_cons]
    exact ⟨maskWord_completes hfull (exec_kand s) fun _ _ _ => natBit_land .., maskWord_completes hfull (exec_kor s) fun _ _ _ => natBit_lor ..,
      maskWord_completes hfull (exec_kxor s) fun _ _ _ => natBit_xor ..,
      maskWord_completes (g := fun x y => x && !y) hfull (exec_kandn s) fun _ _ hn => natBit_andn (maskRow_lt ..) (maskRow_lt ..) hn,
      maskWord_completes (a := a) (b := b) (g := fun x _ => !x) hfull (exec_knot s) fun _ _ hn => natBit_complement (maskRow_lt ..) hn,
      maskWord_completes (a := a) (b := b) (g := fun x _ => x) hfull (exec_kmov s) fun _ _ _ => rfl, fun f hf => absurd hf List.not_mem_nil⟩

end Sys2Proof.Machine
end

section
/-! SUPPORT. The frame of an access in flight (R372): no operation of the state but an ANNEX link's changes which accesses
a link has cut. One rule for each operation, in the order of the model. -/

namespace Sys2Proof.Machine

@[simp] theorem foldl_cut {α : Type} {f : State → α → State} (h : ∀ s x, (f s x).cut = s.cut) (l : List α) (s : State) :
    (l.foldl f s).cut = s.cut := by
  induction l generalizing s with
  | nil => rfl
  | cons x l ih => exact (ih (f s x)).trans (h s x)

@[simp] theorem recordFiring_cut (s : State) (tag place : Nat) : (recordFiring s tag place).cut = s.cut := by
  unfold recordFiring; (repeat' split) <;> rfl
@[simp] theorem fireSnap_cut (s : State) (src : SnapSource) (part tag place : Nat) :
    (fireSnap s src part tag place).cut = s.cut := by
  unfold fireSnap; split <;> simp
@[simp] theorem fireWatch_cut (s : State) (key : Nat) : (fireWatch s key).cut = s.cut := by unfold fireWatch; split <;> rfl
@[simp] theorem memWrite_cut (s : State) (pa : Nat) (bs : List Byte) : (memWrite s pa bs).cut = s.cut := by
  unfold memWrite; dsimp only; (repeat' split) <;> simp
@[simp] theorem appendReport_cut (s : State) (part : Nat) : (appendReport s part).cut = s.cut := by
  unfold appendReport; dsimp only; (repeat' split) <;> simp
@[simp] theorem report_cut (s : State) (code cause place tenant part inst : Nat) (addr : Word) :
    (report s code cause place tenant part inst addr).cut = s.cut := by
  simp [report]
@[simp] theorem reportCtx_cut (s : State) (code cause id : Nat) (addr : Word) : (reportCtx s code cause id addr).cut = s.cut := by
  simp [reportCtx]
@[simp] theorem takeTrap_cut (id : Nat) (t : Trap) (s : State) : (takeTrap id t s).cut = s.cut := by
  unfold takeTrap; dsimp only; (repeat' split) <;> simp
@[simp] theorem retireAt_cut (id : Nat) (e : Bool) (len : Nat) (s : State) : (retireAt id e len s).cut = s.cut := by
  unfold retireAt; dsimp only; (repeat' split) <;> simp
@[simp] theorem retire_cut (e : Bool) (len : Nat) (s : State) : (retire e len s).cut = s.cut := by simp [retire]
@[simp] theorem ws_cut (s : State) (r : SReg) (v : Word) : (ws s r v).cut = s.cut := rfl
@[simp] theorem setPoison_cut (s : State) (p : PLoc) (b : Bool) : (setPoison s p b).cut = s.cut := by
  unfold setPoison; (repeat' split) <;> rfl
@[simp] theorem setReg_cut (s : State) (d : SReg) (v : Word) : (setReg s d v).cut = s.cut := by
  unfold setReg; dsimp only; (repeat' split) <;> simp
@[simp] theorem setHalt_cut (s : State) (owner num : Nat) (h : Option Halt) : (setHalt s owner num h).cut = s.cut := rfl
@[simp] theorem stallHere_cut (w : Wait) (s : State) : (stallHere w s).cut = s.cut := rfl
@[simp] theorem xclean_cut (s : State) (x : Nat) : (xclean s x).cut = s.cut := by unfold xclean; split <;> simp
@[simp] theorem loopClean_cut (s : State) (id seq r : Nat) : (loopClean s id seq r).cut = s.cut := by
  unfold loopClean; split <;> simp
@[simp] theorem jumpTo_cut (t : Word) (s : State) : (jumpTo t s).cut = s.cut := rfl
@[simp] theorem draw_cut (s : State) : (draw s).2.cut = s.cut := rfl
@[simp] theorem returnAddr_cut (e : Bool) (s : State) : (returnAddr e s).2.cut = s.cut := by
  unfold returnAddr; (repeat' split) <;> rfl
@[simp] theorem leaveBarriers_cut (s : State) (id : Nat) : (leaveBarriers s id).cut = s.cut := by
  unfold leaveBarriers; split <;> rfl
@[simp] theorem beginSave_cut (id : Nat) (forced : Bool) (s : State) : (beginSave id forced s).cut = s.cut := by simp [beginSave]
@[simp] theorem restartTold_cut (s : State) (id : Nat) : (restartTold s id).cut = s.cut := by
  unfold restartTold; dsimp only; (repeat' split) <;> simp
@[simp] theorem markFab_cut (s : State) (id num : Nat) (h : Halt) : (markFab s id num h).cut = s.cut := rfl
@[simp] theorem unmapRegion_cut (id : Nat) (s : State) (r : Nat) : (unmapRegion id s r).cut = s.cut := rfl
@[simp] theorem modStaging_cut (id : Nat) (f : Nat → Nat) (s : State) : (modStaging id f s).cut = s.cut := rfl
@[simp] theorem freeStaging_cut (id : Nat) (s : State) : (freeStaging id s).cut = s.cut := by
  unfold freeStaging; dsimp only; (repeat' split) <;> simp
@[simp] theorem endOwnership_cut (id : Nat) (s : State) : (endOwnership id s).cut = s.cut := by unfold endOwnership; split <;> rfl
@[simp] theorem freeSlotsOf_cut (slots : List Nat) (core : Nat) (s : State) : (freeSlotsOf slots core s).cut = s.cut := by
  unfold freeSlotsOf; dsimp only; (repeat' split) <;> simp
@[simp] theorem releaseRing_cut (id q : Nat) (s : State) : (releaseRing id q s).cut = s.cut := by
  unfold releaseRing; split <;> simp
@[simp] theorem giveSlot_cut (s : State) (t : Nat) : (giveSlot s t).cut = s.cut := rfl
@[simp] theorem dropFabric_cut (id : Nat) (s : State) : (dropFabric id s).cut = s.cut := by
  unfold dropFabric; dsimp only; split <;> simp [foldl_cut giveSlot_cut]
@[simp] theorem dropRegions_cut (id : Nat) (s : State) : (dropRegions id s).cut = s.cut := by unfold dropRegions; split <;> rfl
@[simp] theorem pruneSaved_cut (id : Nat) (s : State) : (pruneSaved id s).cut = s.cut := by unfold pruneSaved; split <;> rfl
@[simp] theorem memWritePB_cut (s : State) (pa : Nat) (bs : List PB) : (memWritePB s pa bs).cut = s.cut := by
  simp [memWritePB, apply_ite State.cut]
@[simp] theorem homeWrite_cut (s : State) (die part line off : Nat) (bs : List PB) (drop : Bool) :
    (homeWrite s die part line off bs drop).cut = s.cut := by
  unfold homeWrite; dsimp only; (repeat' split) <;> simp
@[simp] theorem performPending_cut (die part : Nat) (s : State) (p : Pending) : (performPending die part s p).cut = s.cut := by
  simp [performPending]
@[simp] theorem portRequest_cut (s : State) (core tenant bytes : Nat) : (portRequest s core tenant bytes).cut = s.cut := by
  unfold portRequest; split <;> rfl
@[simp] theorem drainWhere_cut (s : State) (unit : Nat) (f : Pending → Bool) : (drainWhere s unit f).cut = s.cut := by
  unfold drainWhere; dsimp only; (repeat' split) <;> simp
@[simp] theorem flushQuad_cut (q : Nat) (s : State) : (flushQuad q s).cut = s.cut := by
  refine foldl_cut (fun s k => ?_) _ _
  dsimp only
  split <;> simp
@[simp] theorem dropCopies_cut (s : State) (f : CacheLine → Bool) : (dropCopies s f).cut = s.cut := rfl
@[simp] theorem freeNode_cut (s : State) (part n : Nat) : (freeNode s part n).cut = s.cut := rfl
@[simp] theorem freeGo_cut (part fuel : Nat) (s : State) : (freeGo part fuel s).cut = s.cut := by
  induction fuel generalizing s with
  | zero => rfl
  | succ n ih => unfold freeGo; split <;> simp [ih]
@[simp] theorem freeNodes_cut (s : State) : (freeNodes s).cut = s.cut := by simp [freeNodes]
@[simp] theorem clearContext_cut (id : Nat) (s : State) : (clearContext id s).cut = s.cut := by
  unfold clearContext; dsimp only; (repeat' split) <;> simp
@[simp] theorem wakeSchedulers_cut (s : State) : (wakeSchedulers s).cut = s.cut := rfl
@[simp] theorem sysPut_cut (s : State) (part pa : Nat) (bs : List Byte) : (sysPut s part pa bs).cut = s.cut := by simp [sysPut]
@[simp] theorem sysWrite_cut (part tenant : Nat) (u : Use) (n : Nat) (s : State) (va : Word) (bs : List Byte) :
    (sysWrite part tenant u n s va bs).2.cut = s.cut := by
  induction n generalizing s va bs with
  | zero => rfl
  | succ n ih => unfold sysWrite; (repeat' split) <;> simp [ih]
@[simp] theorem sysStore_cut (s : State) (part tenant : Nat) (u : Use) (va : Word) (bs : List Byte) :
    (sysStore s part tenant u va bs).2.cut = s.cut :=
  sysWrite_cut ..
@[simp] theorem writeStatus_cut (s : State) (l : Launch) (state : Nat) : (writeStatus s l state).cut = s.cut := by
  simp [writeStatus]
@[simp] theorem appendLog_cut (s : State) (tenant kind status ver handle : Nat) (nonce : Word) :
    (appendLog s tenant kind status ver handle nonce).cut = s.cut := by
  unfold appendLog; dsimp only; (repeat' split) <;> simp
@[simp] theorem endLaunch_cut (s : State) (lid : Nat) (l : Launch) (state : Nat) : (endLaunch s lid l state).cut = s.cut := by
  simp [endLaunch]
@[simp] theorem settleLaunch_cut (lid : Nat) (s : State) : (settleLaunch lid s).cut = s.cut := by
  unfold settleLaunch; dsimp only; (repeat' split) <;> simp
@[simp] theorem regroup_cut (core : Nat) (m : Member) (s : State) : (regroup core m s).cut = s.cut := by
  unfold regroup; split <;> rfl
@[simp] theorem modLaunch_cut (s : State) (lid : Nat) (f : Launch → Launch) : (modLaunch s lid f).cut = s.cut := by
  unfold modLaunch; split <;> rfl
@[simp] theorem modInst_cut (s : State) (lid serial : Nat) (f : Inst → Inst) : (modInst s lid serial f).cut = s.cut := by
  simp [modInst]
@[simp] theorem strandInst_cut (s : State) (lid serial : Nat) : (strandInst s lid serial).cut = s.cut := by
  unfold strandInst; dsimp only; (repeat' split) <;> simp
@[simp] theorem setMember_cut (m : Member) (id : Nat) (st : MemState) (s : State) : (setMember m id st s).cut = s.cut := by
  unfold setMember; dsimp only; (repeat' split) <;> simp
@[simp] theorem endContext_cut (id : Nat) (s : State) : (endContext id s).cut = s.cut := by
  unfold endContext; dsimp only; (repeat' split) <;> simp
@[simp] theorem recordCode_cut (id code : Nat) (s : State) : (recordCode id code s).cut = s.cut := by
  unfold recordCode; dsimp only; (repeat' split) <;> simp
@[simp] theorem releaseDrain_cut (s : State) (id sc : Nat) : (releaseDrain s id sc).cut = s.cut := by
  unfold releaseDrain; dsimp only; (repeat' split) <;> simp
@[simp] theorem sideWrite_cut (s : State) (line : Nat) (sg : Sig) : (sideWrite s line sg).cut = s.cut := rfl
@[simp] theorem release_cut (s : State) (id sc : Nat) (line : Option Nat) : (release s id sc line).cut = s.cut := by
  unfold release; dsimp only; (repeat' split) <;> simp
@[simp] theorem dieLine_cut (s : State) (ag : Agent) (line : Nat) : (dieLine s ag line).2.2.cut = s.cut := by
  unfold dieLine; dsimp only; (repeat' split) <;> simp
@[simp] theorem portAsk_cut (s : State) (ag : Agent) (bytes : Nat) : (portAsk s ag bytes).cut = s.cut := by simp [portAsk]
@[simp] theorem onL1_cut (s : State) (core line : Nat) (f : List CacheLine → List CacheLine) :
    (onL1 s core line f).cut = s.cut := rfl
@[simp] theorem readL1_cut (s : State) (ag : Agent) (line off n : Nat) : (readL1 s ag line off n).2.cut = s.cut := by
  unfold readL1; dsimp only; (repeat' split) <;> simp
@[simp] theorem drainLine_cut (s : State) (unit line : Nat) : (drainLine s unit line).cut = s.cut := by simp [drainLine]
@[simp] theorem refreshLine_cut (s : State) (ag : Agent) (line : Nat) (drop : Bool) : (refreshLine s ag line drop).cut = s.cut := by
  unfold refreshLine; dsimp only; (repeat' split) <;> simp
@[simp] theorem readLine_cut (s : State) (ag : Agent) (point : Nat) (drop : Bool) (line off n : Nat) :
    (readLine s ag point drop line off n).2.cut = s.cut := by
  unfold readLine; (repeat' split) <;> simp
@[simp] theorem tlbNote_cut (s : State) (ag : Agent) (va : Word) (r : Route) : (tlbNote s ag va r).cut = s.cut := by
  unfold tlbNote; dsimp only; (repeat' split) <;> simp
@[simp] theorem loadWord.setPoisonReg_cut (s : State) (d : SReg) : (loadWord.setPoisonReg s d).cut = s.cut := by
  unfold loadWord.setPoisonReg; split <;> simp
@[simp] theorem scratchWrite_cut (s : State) (core off : Nat) (bs : List PB) : (scratchWrite s core off bs).cut = s.cut := by
  simp [scratchWrite, apply_ite State.cut]
@[simp] theorem noteEng_cut (s : State) (ctx : Nat) (op : Option (Nat × Nat)) (line : Nat) :
    (noteEng s ctx op line).cut = s.cut := by
  unfold noteEng; split <;> rfl
@[simp] theorem signLine_cut (s : State) (core line : Nat) : (signLine s core line).cut = s.cut := rfl
@[simp] theorem writeLine_cut (s : State) (ag : Agent) (point : Nat) (drop : Bool) (line off : Nat) (bs : List PB) :
    (writeLine s ag point drop line off bs).cut = s.cut := by
  unfold writeLine; split <;> simp
@[simp] theorem demote_cut (s : State) (id sc : Nat) : (demote s id sc).2.cut = s.cut := by unfold demote; split <;> rfl
@[simp] theorem onL1s_cut (s : State) (core : Nat) (f : List CacheLine → List CacheLine) : (onL1s s core f).cut = s.cut := by
  unfold onL1s; exact foldl_cut (fun s k => modCore_cut s k _) _ _
@[simp] theorem acquireSig_cut (s : State) (id sc : Nat) (sg : Sig) : (acquireSig s id sc sg).cut = s.cut := by
  unfold acquireSig; (repeat' split) <;> simp
@[simp] theorem acquireAll_cut (s : State) (id sc : Nat) : (acquireAll s id sc).cut = s.cut := by simp [acquireAll]
@[simp] theorem acquireLine_cut (s : State) (id sc line : Nat) : (acquireLine s id sc line).cut = s.cut := by
  unfold acquireLine; (repeat' split) <;> simp
@[simp] theorem acquireAt_cut (s : State) (id sc : Nat) (line : Option Nat) : (acquireAt s id sc line).cut = s.cut := by
  unfold acquireAt; (repeat' split) <;> simp
@[simp] theorem passStore_cut (s : State) (id line : Nat) : (passStore s id line).cut = s.cut := by
  unfold passStore; dsimp only; (repeat' split) <;> simp
@[simp] theorem dropNearCopies_cut (s : State) (core line : Nat) : (dropNearCopies s core line).cut = s.cut := by
  unfold dropNearCopies; dsimp only; (repeat' split) <;> simp
@[simp] theorem commitWrite_cut (s : State) (ag : Agent) (line off : Nat) (bs : List PB) :
    (commitWrite s ag line off bs).cut = s.cut := by
  simp [commitWrite]
@[simp] theorem waitCtx_cut (id : Nat) (w : Wait) (due : Option Nat) (s : State) : (waitCtx id w due s).cut = s.cut := by
  unfold waitCtx; (repeat' split) <;> simp
@[simp] theorem writeCell_cut (s : State) (ag : Agent) (lo : Word) (page slot : Nat) (c : Cell) :
    (writeCell s ag lo page slot c).cut = s.cut := by
  simp [writeCell]
@[simp] theorem acquireOps_cut (s : State) (id c n : Nat) : (acquireOps s id c n).cut = s.cut := rfl
@[simp] theorem acquireCounter_cut (s : State) (id c n sc : Nat) : (acquireCounter s id c n sc).cut = s.cut := by
  unfold acquireCounter; split <;> simp
@[simp] theorem acquireEvery_cut (s : State) (id sc : Nat) : (acquireEvery s id sc).cut = s.cut := by simp [acquireEvery]
@[simp] theorem fenceAt_cut (s : State) (id sc : Nat) : (fenceAt s id sc).cut = s.cut := by
  unfold fenceAt; dsimp only; (repeat' split) <;> simp
@[simp] theorem waitHere_cut (w : Wait) (s : State) : (waitHere w s).cut = s.cut := by simp [waitHere]
@[simp] theorem mwaitDone_cut (id : Nat) (e : Bool) (d : SReg) (v : Word) (s : State) : (mwaitDone id e d v s).cut = s.cut := by
  unfold mwaitDone; dsimp only; (repeat' split) <;> simp
@[simp] theorem waitUntil_cut (w : Wait) (cycles : Nat) (s : State) : (waitUntil w cycles s).cut = s.cut := by simp [waitUntil]
@[simp] theorem leaveBar_cut (sc : Nat) (s : State) (m : Nat × Bool) : (leaveBar sc s m).cut = s.cut := by
  unfold leaveBar; split <;> simp
@[simp] theorem arrive.joinBar_cut (id : Nat) (b : Barrier) (rest : List Barrier) (s : State) :
    (arrive.joinBar id b rest s).cut = s.cut := by
  unfold arrive.joinBar; split <;> rfl
@[simp] theorem takeSlot_cut (s : State) (t : Nat) : (takeSlot s t).cut = s.cut := rfl
@[simp] theorem dropOldViews_cut (s : State) (id : Nat) : (dropOldViews s id).cut = s.cut := by simp [dropOldViews]
@[simp] theorem orderResolve_cut (s : State) (part h : Nat) (confirm : Bool) (num : Nat) :
    (orderResolve s part h confirm num).cut = s.cut := rfl
@[simp] theorem nextUid_cut (s : State) : (nextUid s).2.cut = s.cut := rfl
@[simp] theorem cleanRegs_cut (id : Nat) (s : State) : (cleanRegs id s).cut = s.cut := by unfold cleanRegs; split <;> rfl
@[simp] theorem startAt_cut (id : Nat) (c : Ctx) (s : State) : (startAt id c s).cut = s.cut := by simp [startAt]
@[simp] theorem loadPlace_cut (part die : Nat) (s : State) : (loadPlace part die s).cut = s.cut := rfl
@[simp] theorem startLaunch_cut (s : State) (l : Launcher) (r : LaunchRec) (lid : Nat) : (startLaunch s l r lid).cut = s.cut :=
  rfl
@[simp] theorem launchRecord_cut (s : State) (l : Launcher) (r : LaunchRec) : (launchRecord s l r).2.cut = s.cut := by
  unfold launchRecord; split <;> rfl
@[simp] theorem queueTask_cut (t : Task) (s : State) : (queueTask t s).2.cut = s.cut := by
  unfold queueTask; dsimp only; (repeat' split) <;> simp
@[simp] theorem setQueue_cut (s : State) (lid q : Nat) (x : StageQueue) : (setQueue s lid q x).cut = s.cut := by simp [setQueue]
@[simp] theorem resumeEng_cut (id n : Nat) (s : State) : (resumeEng id n s).cut = s.cut := rfl
@[simp] theorem askFill_cut (s : State) (ag : Agent) (r g : Nat) : (askFill s ag r g).cut = s.cut := by
  unfold askFill; split <;> rfl
@[simp] theorem portStream_cut (s : State) (core tenant bytes : Nat) : (portStream s core tenant bytes).cut = s.cut := by
  unfold portStream; split <;> simp
@[simp] theorem trimL1_cut (s : State) (core : Nat) : (trimL1 s core).cut = s.cut := by unfold trimL1; split <;> rfl
@[simp] theorem mapBinds_cut (s : State) (die : Nat) (k : SiteKey) (f : BindEntry → BindEntry) :
    (mapBinds s die k f).cut = s.cut := rfl
@[simp] theorem startFill_cut (s : State) (die : Nat) (k : SiteKey) (n : Nat) : (startFill s die k n).cut = s.cut := by
  unfold startFill; split <;> rfl
@[simp] theorem prefetch_cut (s : State) (die : Nat) (a : Admission) (v : VerInfo) (site n : Nat) :
    (prefetch s die a v site n).cut = s.cut := by
  simp [prefetch, apply_ite State.cut]
@[simp] theorem sendRecord_cut (s : State) (part peer tenant cls : Nat) (r : CatRecord) :
    (sendRecord s part peer tenant cls r).cut = s.cut := by
  unfold sendRecord; dsimp only; (repeat' split) <;> simp
@[simp] theorem sendPin_cut (on : Bool) (s : State) (die tenant part handle ver home : Nat) :
    (sendPin on s die tenant part handle ver home).cut = s.cut := by
  unfold sendPin; split <;> simp
@[simp] theorem setEntry_cut (s : State) (e : CatEntry) : (setEntry s e).cut = s.cut := rfl
@[simp] theorem pinVersion_cut (s : State) (die tenant part handle ver home : Nat) :
    (pinVersion s die tenant part handle ver home).cut = s.cut := by
  unfold pinVersion; (repeat' split) <;> simp
@[simp] theorem dropLines_cut (s : State) (part handle ver : Nat) : (dropLines s part handle ver).cut = s.cut := rfl
@[simp] theorem setFrame_cut (s : State) (f e : Nat) : (setFrame s f e).cut = s.cut := rfl
@[simp] theorem dropFrame_cut (s : State) (f : Nat) : (dropFrame s f).cut = s.cut := by simp [dropFrame]
@[simp] theorem releaseFrame_cut (s : State) (f : Nat) (w : FrameWork) : (releaseFrame s f w).cut = s.cut := by
  simp [releaseFrame]
@[simp] theorem releasePages_cut (s : State) (v : VRec) : (releasePages s v).cut = s.cut := by
  simp only [releasePages, modPart_cut]
  exact foldl_cut (fun s i => by (repeat' split) <;> simp) _ _
@[simp] theorem retireVersion_cut (s : State) (e : CatEntry) (v : VRec) : (retireVersion s e v).cut = s.cut := by
  unfold retireVersion; dsimp only; (repeat' split) <;> simp
@[simp] theorem unpinVersion_cut (s : State) (die tenant part handle ver home : Nat) :
    (unpinVersion s die tenant part handle ver home).cut = s.cut := by
  unfold unpinVersion; dsimp only; (repeat' split) <;> simp
@[simp] theorem freeAdmitted_cut (s : State) (i : Nat) (x : Admission) : (freeAdmitted s i x).cut = s.cut := by
  simp [freeAdmitted]
@[simp] theorem dropStaged_cut (s : State) (en : CatEntry) (v : VRec) : (dropStaged s en v).cut = s.cut := by simp [dropStaged]
@[simp] theorem stageVersion_cut (s : State) (en : CatEntry) (part t i n : Nat) : (stageVersion s en part t i n).cut = s.cut := by
  simp [stageVersion, foldl_cut (fun s f => setFrame_cut s f _)]
@[simp] theorem publish_cut (s : State) (en : CatEntry) (v : VRec) : (publish s en v).cut = s.cut := by
  unfold publish; dsimp only; (repeat' split) <;> simp
@[simp] theorem takeCnt_cut (s : State) (id : Nat) : (takeCnt s id).2.cut = s.cut := rfl
@[simp] theorem setKeyFlags_cut (s : State) (slot : Nat) (warn exh : Bool) : (setKeyFlags s slot warn exh).cut = s.cut := by
  unfold setKeyFlags; split <;> rfl
@[simp] theorem sealFlags_cut (s : State) (hi : Word) (r : Except Nat SealOut) : (sealFlags s hi r).cut = s.cut := by
  unfold sealFlags; (repeat' split) <;> simp
@[simp] theorem sealedStore_cut (s : State) (ag : Agent) (base sh : Nat) (o : SealOut) :
    (sealedStore s ag base sh o).cut = s.cut := by
  simp [sealedStore]
@[simp] theorem sealedWrite_cut (s : State) (ag : Agent) (hi : Word) (pa inPage : Nat) (bs : List Byte) :
    (sealedWrite s ag hi pa inPage bs).2.cut = s.cut := by
  unfold sealedWrite; dsimp only; (repeat' split) <;> simp
@[simp] theorem cleanPart_cut (core off span : Nat) (p : Core) (s : State) : (cleanPart core off span p s).cut = s.cut := by
  unfold cleanPart; split <;> rfl
@[simp] theorem takeStaging_cut (id : Nat) (s : State) : (takeStaging id s).cut = s.cut := by
  unfold takeStaging; dsimp only; (repeat' split) <;> simp
@[simp] theorem putImage_cut (id : Nat) (h : ImageHead) (p : SavedPart) (c : Ctx) (s : State) :
    (putImage id h p c s).cut = s.cut := by
  unfold putImage; (repeat' split) <;> simp
@[simp] theorem giveUp_cut (id : Nat) (s : State) : (giveUp id s).cut = s.cut := by simp [giveUp]
@[simp] theorem takeHeldCkpt_cut (id : Nat) (t : Word) (s : State) : (takeHeldCkpt id t s).cut = s.cut := by simp [takeHeldCkpt]
@[simp] theorem returnTo_cut (e stop : Bool) (t : Word) (s : State) : (returnTo e stop t s).cut = s.cut := by
  unfold returnTo; (repeat' split) <;> simp
@[simp] theorem cleanRows_cut (s : State) (v : Nat) (g : Geo) (w mask : Nat) (f : Nat → List (Nat × Nat)) :
    (cleanRows s v g w mask f).cut = s.cut := by
  unfold cleanRows; split <;> rfl
@[simp] theorem cleanMask_cut (s : State) (k mask : Nat) : (cleanMask s k mask).cut = s.cut := by unfold cleanMask; split <;> rfl
@[simp] theorem wakeMatrix_cut (s : State) (id : Nat) : (wakeMatrix s id).cut = s.cut := by unfold wakeMatrix; split <;> rfl
@[simp] theorem takeQuarters_cut (id : Nat) (qs : List Nat) (s : State) (core : Nat) : (takeQuarters id qs s core).cut = s.cut :=
  rfl
@[simp] theorem rankAtIssue_cut (x : MxWord) (s : State) (core : Nat) : (rankAtIssue x s core).cut = s.cut := rfl
@[simp] theorem pinEntries_cut (x : MxWord) (qs : List Nat) (s : State) (core : Nat) : (pinEntries x qs s core).cut = s.cut := rfl
@[simp] theorem touchSite_cut (s : State) (die : Nat) (k : SiteKey) : (touchSite s die k).cut = s.cut := rfl
@[simp] theorem useEntries_cut (x : MxWord) (s : State) (core : Nat) : (useEntries x s core).cut = s.cut := by
  simp [useEntries, apply_ite State.cut]
@[simp] theorem takeUnits_cut (id : Nat) (x : MxWord) (cores : List Nat) (s : State) : (takeUnits id x cores s).cut = s.cut := by
  simp [takeUnits, apply_ite State.cut, foldl_cut (takeQuarters_cut id (quartersOf id x)), foldl_cut (rankAtIssue_cut x),
    foldl_cut (useEntries_cut x), foldl_cut (pinEntries_cut x (quartersOf id x))]
@[simp] theorem enterStage_cut (id : Nat) (x : MxWord) (off : Bool) (s : State) : (enterStage id x off s).cut = s.cut := by
  unfold enterStage; split <;> simp
@[simp] theorem enterArray_cut (id : Nat) (x : MxWord) (fte : Word) (off : Bool) (cores : List Nat) (s : State) :
    (enterArray id x fte off cores s).cut = s.cut := rfl

end Sys2Proof.Machine
end

section
/-! SUPPORT. The frame of an access in flight (R372), through outcomes: reads, stores, and the shared shapes of words. -/

namespace Sys2Proof.Machine

/-- Where an outcome goes on, links have cut the accesses `c`. -/
def CutAfter (c : List (Nat × PortAgent)) : Out → Prop
  | .next t => t.cut = c
  | .fault _ => True
  | .refused _ => True

/-- After an access, links have cut the accesses `c`. -/
def Acc.CutAfter (c : List (Nat × PortAgent)) : Acc → Prop
  | .done _ s => s.cut = c
  | .trap _ s => s.cut = c
  | .stay s => s.cut = c

/-- After a range's bytes, links have cut the accesses `c`. -/
def RangeRes.CutAfter (c : List (Nat × PortAgent)) : RangeRes → Prop
  | .ok _ s => s.cut = c
  | .fault _ _ s => s.cut = c
  | .wait s => s.cut = c

section
variable {c : List (Nat × PortAgent)} (s : State) (bs : List PB)

@[simp] theorem cutAfter_next : CutAfter c (.next s) ↔ s.cut = c := Iff.rfl
@[simp] theorem cutAfter_fault (f : Fault) : CutAfter c (.fault f) := trivial
@[simp] theorem cutAfter_refused (r : Refusal) : CutAfter c (.refused r) := trivial
theorem cutAfter_ite {p : Prop} [Decidable p] {a b : Out} (ha : CutAfter c a) (hb : CutAfter c b) :
    CutAfter c (if p then a else b) := by
  split <;> assumption
@[simp] theorem Acc.cutAfter_done : (Acc.done bs s).CutAfter c ↔ s.cut = c := Iff.rfl
@[simp] theorem Acc.cutAfter_trap (t : Trap) : (Acc.trap t s).CutAfter c ↔ s.cut = c := Iff.rfl
@[simp] theorem Acc.cutAfter_stay : (Acc.stay s).CutAfter c ↔ s.cut = c := Iff.rfl
@[simp] theorem RangeRes.cutAfter_ok : (RangeRes.ok bs s).CutAfter c ↔ s.cut = c := Iff.rfl
@[simp] theorem RangeRes.cutAfter_fault (n : Nat) (va : Word) : (RangeRes.fault n va s).CutAfter c ↔ s.cut = c := Iff.rfl
@[simp] theorem RangeRes.cutAfter_wait : (RangeRes.wait s).CutAfter c ↔ s.cut = c := Iff.rfl

end

section
variable {c : List (Nat × PortAgent)} {s : State} (hs : s.cut = c)
include hs

@[simp] theorem cutAfter_trapNext (t : Trap) : CutAfter c (trapNext t s) := by simp [trapNext, hs]
@[simp] theorem cutAfter_illopOf (i : Instr) : CutAfter c (illopOf i s) := cutAfter_trapNext hs _
@[simp] theorem cutAfter_privOf (i : Instr) : CutAfter c (privOf i s) := cutAfter_trapNext hs _
@[simp] theorem cutAfter_result (e : Bool) (d : SReg) (v : Word) : CutAfter c (result e d v s) := by simp [result, hs]

-- What a word checks first, and goes on.

@[simp] theorem cutAfter_withSrc (rs : List SReg) {k : State → Out} (hk : CutAfter c (k s)) : CutAfter c (withSrc rs s k) := by
  unfold withSrc; split <;> simp [hs, hk]
@[simp] theorem cutAfter_withMode {k : State → Out} (hk : CutAfter c (k s)) : CutAfter c (withMode s k) := by
  unfold withMode; split <;> simp [hs, hk]
@[simp] theorem cutAfter_transfer (i : Instr) {k : State → Out} (hk : CutAfter c (k s)) : CutAfter c (transfer i s k) := by
  unfold transfer; split <;> simp [hs, hk]
@[simp] theorem cutAfter_supervisorOnly (i : Instr) {k : State → Out} (hk : CutAfter c (k s)) : CutAfter c (supervisorOnly i s k) := by
  unfold supervisorOnly; split <;> simp [hs, hk]
@[simp] theorem cutAfter_fullOnly (i : Instr) {k : State → Out} (hk : CutAfter c (k s)) : CutAfter c (fullOnly i s k) := by
  unfold fullOnly; split <;> simp [hs, hk]
@[simp] theorem cutAfter_queueWordGuard (h : VHead) {k : State → Out} (hk : CutAfter c (k s)) :
    CutAfter c (queueWordGuard h s k) := by
  unfold queueWordGuard; (repeat' split) <;> simp [hs, hk]
@[simp] theorem cutAfter_queueGate (h : VHead) (off : Ctx → Ctx) (qs : List (Nat × Nat)) {k : State → Out} (hk : CutAfter c (k s)) :
    CutAfter c (queueGate h off qs s k) := by
  unfold queueGate; (repeat' split) <;> simp [hs, hk]
@[simp] theorem cutAfter_storeChecked (va : Word) {k : State → Out} (hk : CutAfter c (k s)) : CutAfter c (storeChecked s va k) := by
  unfold storeChecked; (repeat' split) <;> simp [hs, hk]
@[simp] theorem cutAfter_storeCheckedAll (n : Nat) (va : Word) {k : State → Out} (hk : CutAfter c (k s)) :
    CutAfter c (storeCheckedAll n va s k) := by
  induction n generalizing va with
  | zero => exact hk
  | succ n ih => exact cutAfter_storeChecked hs va (ih _)

-- Accesses.

@[simp] theorem takeFillHalt_cutAfter (id owner : Nat) (o : CopyOp) (h : Halt) : (takeFillHalt s id owner o h).CutAfter c := by
  unfold takeFillHalt; split <;> simp [hs]
@[simp] theorem touchScratch_cutAfter (id off n : Nat) {k : State → Acc} (hk : (k s).CutAfter c) :
    (touchScratch s id off n k).CutAfter c := by
  unfold touchScratch; (repeat' split) <;> simp [hs, hk]
@[simp] theorem loadAt_cutAfter (pol : Nat) (va : Word) (n : Nat) : (loadAt pol va n s).CutAfter c := by
  unfold loadAt; dsimp only; (repeat' split) <;> simp [hs, apply_ite (Acc.CutAfter c)]
@[simp] theorem storePB_cutAfter (pol : Nat) (va : Word) (bs : List PB) : (storePB pol va bs s).CutAfter c := by
  unfold storePB; dsimp only; (repeat' split) <;> simp [hs]
@[simp] theorem storeAt_cutAfter (pol : Nat) (va : Word) (bs : List Byte) : (storeAt pol va bs s).CutAfter c :=
  storePB_cutAfter hs _ _ _
@[simp] theorem atomicAt_cutAfter (va : Word) (n : Nat) (host : Bool) (f : List PB → Option (List PB)) :
    (atomicAt va n host f s).CutAfter c := by
  unfold atomicAt; dsimp only
  split
  · simp [hs]
  · refine touchScratch_cutAfter hs _ _ _ ?_
    (repeat' split) <;> simp [hs]
  · (repeat' split) <;> simp_all

end

/-- An access, then what goes on from it. -/
@[simp] theorem cutAfter_bind {c : List (Nat × PortAgent)} {a : Acc} {k : List PB → State → Out} (ha : a.CutAfter c)
    (hk : ∀ bs s, s.cut = c → CutAfter c (k bs s)) : CutAfter c (a.bind k) := by
  cases a with
  | done bs s => exact hk bs s ha
  | trap t s => exact cutAfter_trapNext ha t
  | stay s => exact ha

end Sys2Proof.Machine
end

section
/-! SUPPORT. The frame of an access in flight (R372): the helpers of words that end in an outcome. -/

namespace Sys2Proof.Machine

-- Deferred faults (R330).

theorem counterDue_cut {s u : State} {id lim n : Nat} {t : Trap} (h : counterDue s id lim n = some (t, u)) : u.cut = s.cut := by
  unfold counterDue at h
  split at h <;> simp only [Option.map_eq_some_iff, Prod.exists, Prod.mk.injEq, reduceCtorEq] at h <;> aesop

theorem faultDue_cut {s u : State} {id lim : Nat} {ns : List Nat} {t : Trap} (h : faultDue s id lim ns = some (t, u)) :
    u.cut = s.cut := by
  induction ns with
  | nil => cases h
  | cons n ns ih =>
    unfold faultDue at h
    split at h
    next x hx => cases h; exact counterDue_cut hx
    next => exact ih h

@[simp] theorem exitContext_cut (id code : Nat) (s : State) : (exitContext id code s).cut = s.cut := by
  unfold exitContext
  dsimp only
  split
  next t u h => simp [faultDue_cut h]
  next => split <;> simp [foldl_cut (unmapRegion_cut id)]

section
variable {c : List (Nat × PortAgent)} {s : State} (hs : s.cut = c)
include hs

-- Scalar words.

@[simp] theorem cutAfter_scalarOp (e : Bool) (d : SReg) (srcs : List SReg) (v : State → Word) : CutAfter c (scalarOp e d srcs v s) := by
  simp [scalarOp, hs]
@[simp] theorem cutAfter_fetchFails (id : Nat) (r : UnitRes) (va : Word) : CutAfter c (fetchFails s id r va) := by
  unfold fetchFails; (repeat' split) <;> simp [hs]
@[simp] theorem cutAfter_loopStart (i : Instr) (e : Bool) (v : Word) : CutAfter c (loopStart i e v s) := by
  unfold loopStart; dsimp only; (repeat' split) <;> simp [hs]
@[simp] theorem cutAfter_loopAbandon (e : Bool) (v : Word) : CutAfter c (loopAbandon e v s) := by simp [loopAbandon, hs]
@[simp] theorem cutAfter_xwrite (i : Instr) (e : Bool) (d : SReg) (x : Nat) (v : State → Word) : CutAfter c (xwrite i e d x v s) := by
  simp [xwrite, hs, apply_ite (CutAfter c)]
@[simp] theorem cutAfter_compareOp (e : Bool) (sd : BitVec 5) (bit : BitVec 6) (a b : SReg) (v : State → Bool) :
    CutAfter c (compareOp e sd bit a b v s) := by
  simp [compareOp, hs]
@[simp] theorem cutAfter_fpOp (e : Bool) (d : SReg) (srcs : List SReg) (v : State → Mode → FVal) : CutAfter c (fpOp e d srcs v s) := by
  exact cutAfter_withSrc hs _ (cutAfter_withMode hs (by simp [hs]))
@[simp] theorem cutAfter_fpExact (e : Bool) (d : SReg) (srcs : List SReg) (v : State → FVal) : CutAfter c (fpExact e d srcs v s) := by
  simp [fpExact, hs]

-- Words over memory.

@[simp] theorem cutAfter_accDone (e : Bool) (rd : Option (SReg × Word)) : CutAfter c (accDone e rd s) := by simp [accDone, hs]
@[simp] theorem cutAfter_loadWord (e : Bool) (d : SReg) (pol n : Nat) (sign : Bool) (va : Word) :
    CutAfter c (loadWord e d pol n sign va s) := by
  unfold loadWord
  split
  · simp [hs]
  · exact cutAfter_bind (loadAt_cutAfter hs ..) fun bs s hs => by simp [hs]
@[simp] theorem cutAfter_loadI (e : Bool) (d a : SReg) (i : BitVec 11) (n : Nat) (sign : Bool) : CutAfter c (loadI e d a i n sign s) := by
  simp [loadI, hs]
@[simp] theorem cutAfter_storeWord (e : Bool) (pol n : Nat) (va v : Word) : CutAfter c (storeWord e pol n va v s) := by
  unfold storeWord
  split
  · simp [hs]
  · exact cutAfter_bind (storeAt_cutAfter hs ..) fun bs s hs => by simp [hs]
@[simp] theorem cutAfter_storeI (e : Bool) (d a : SReg) (i : BitVec 11) (n : Nat) : CutAfter c (storeI e d a i n s) := by
  simp [storeI, hs]
@[simp] theorem cutAfter_atomicDone (e : Bool) (d : SReg) (bs : List PB) : CutAfter c (atomicDone e d bs s) := by
  simp [atomicDone, hs]
@[simp] theorem cutAfter_cellDone (e : Bool) (d : SReg) (v : Word) : CutAfter c (cellDone e d v s) := by simp [cellDone, hs]
@[simp] theorem cutAfter_cellWord (e : Bool) (d : SReg) (va refused : Word) (f : Cell → Option Cell × Word) :
    CutAfter c (cellWord e d va refused f s) := by
  unfold cellWord
  split
  · simp [hs]
  · dsimp only
    split
    · simp [hs]
    · simp [hs]
    · split
      · simp [hs]
      split
      · simp [hs]
      generalize hu : List.foldl _ _ _ = u
      have hcut : u.cut = c := by rw [← hu]; simp [hs]
      (repeat' split) <;> simp [hcut]
@[simp] theorem cutAfter_arrive (e : Bool) (key n sc : Nat) : CutAfter c (arrive e key n sc s) := by
  unfold arrive; dsimp only; (repeat' split) <;> simp [hs]
@[simp] theorem cutAfter_withDesc (n : Nat) (a : SReg) {k : List Byte → State → Out} (hk : ∀ bs s, s.cut = c → CutAfter c (k bs s)) :
    CutAfter c (withDesc n a s k) :=
  cutAfter_withSrc hs _ (cutAfter_bind (loadAt_cutAfter hs ..) fun bs s hs => hk _ _ (by simp [hs]))
@[simp] theorem cutAfter_loadLines (n : Nat) (va : Word) (acc : List Byte) {k : List Byte → State → Out}
    (hk : ∀ bs s, s.cut = c → CutAfter c (k bs s)) : CutAfter c (loadLines n va acc s k) := by
  induction n generalizing s va acc with
  | zero => exact hk _ _ hs
  | succ n ih => exact cutAfter_bind (loadAt_cutAfter hs ..) fun bs s hs => ih hs _ _
@[simp] theorem cutAfter_storeLines (n : Nat) (va : Word) (bs : List PB) {k : State → Out} (hk : ∀ s, s.cut = c → CutAfter c (k s)) :
    CutAfter c (storeLines n va bs s k) := by
  induction n generalizing s va bs with
  | zero => exact hk _ hs
  | succ n ih => exact cutAfter_bind (storePB_cutAfter hs ..) fun bs s hs => ih hs _ _
@[simp] theorem cutAfter_withMapHeader (r : LaunchRec) {k : State → Out} (hk : ∀ s, s.cut = c → CutAfter c (k s)) :
    CutAfter c (withMapHeader r s k) := by
  unfold withMapHeader
  split
  · exact hk _ hs
  · exact cutAfter_loadLines hs _ _ _ fun bs s hs => hk s hs
@[simp] theorem cutAfter_withToken (a : SReg) {k : Token → State → Out} (hk : ∀ t s, s.cut = c → CutAfter c (k t s)) :
    CutAfter c (withToken a s k) :=
  cutAfter_withSrc hs _ (cutAfter_bind (loadAt_cutAfter hs ..) fun _ _ hs => hk _ _ hs)
@[simp] theorem cutAfter_withEntry (e : Bool) (d : SReg) (handle : Nat) {k : CatEntry → Nat → State → Out}
    (hk : ∀ en t, CutAfter c (k en t s)) : CutAfter c (withEntry e d handle s k) := by
  unfold withEntry; dsimp only; (repeat' split) <;> simp [hs, hk]

-- Copies, packets, tasks.

@[simp] theorem cutAfter_copyDone (e : Bool) (d : SReg) (n : Nat) : CutAfter c (copyDone e d n s) := by simp [copyDone, hs]
@[simp] theorem cutAfter_issueCopy (e : Bool) (d : SReg) (kind : CopyKind) (tagged : Bool) : CutAfter c (issueCopy e d kind tagged s) := by
  simp [issueCopy, hs]
@[simp] theorem cutAfter_copyWord (e : Bool) (d a : SReg) (nest tagged : Bool) : CutAfter c (copyWord e d a nest tagged s) :=
  cutAfter_withDesc hs _ _ fun bs s hs => by dsimp only; (repeat' split) <;> simp [hs]
@[simp] theorem cutAfter_writeBackWord (e : Bool) (d a : SReg) (unmap : Bool) : CutAfter c (writeBackWord e d a unmap s) :=
  cutAfter_withDesc hs _ _ fun bs s hs => by dsimp only; (repeat' split) <;> simp [hs]
@[simp] theorem cutAfter_fabIssue (e : Bool) (d : SReg) (f : FabAsk) : CutAfter c (fabIssue e d f s) := by
  unfold fabIssue; dsimp only
  split
  · simp [hs]
  · simp [hs]
  · split
    · simp [hs]
    split
    · simp [hs]
    split
    · simp [hs]
    · exact cutAfter_result (by simp [hs]) _ _ _
@[simp] theorem cutAfter_fabSend (isReq e : Bool) (d a : SReg) : CutAfter c (fabSend isReq e d a s) :=
  cutAfter_withSrc hs _ (cutAfter_bind (loadAt_cutAfter hs ..) fun bs s hs => by split <;> simp [hs])
@[simp] theorem cutAfter_hresWord (e : Bool) (d a : SReg) (confirm : Bool) : CutAfter c (hresWord e d a confirm s) :=
  cutAfter_withSrc hs _ (by dsimp only; (repeat' split) <;> simp [hs])
@[simp] theorem cutAfter_refuseTask (e : Bool) (d : SReg) : CutAfter c (refuseTask e d s) := by simp [refuseTask, hs]
@[simp] theorem cutAfter_admitTask (e : Bool) (d : SReg) (t : Option Task) : CutAfter c (admitTask e d t s) := by
  unfold admitTask; dsimp only; (repeat' split) <;> simp [hs]
@[simp] theorem cutAfter_admitResume (e : Bool) (d : SReg) (addr : Nat) (bs : List Byte) : CutAfter c (admitResume e d addr bs s) :=
  cutAfter_loadLines hs _ _ _ fun h s hs => by dsimp only; split <;> simp [hs]

-- Admission (R302 to R308).

@[simp] theorem cutAfter_admitEnd (e : Bool) (d : SReg) (x : AdmitDesc) (t status ver : Nat) : CutAfter c (admitEnd e d x t status ver s) := by
  simp [admitEnd, hs]
@[simp] theorem cutAfter_admitVersion (e : Bool) (d : SReg) (x : AdmitDesc) (t : Nat) (v : VerInfo) (home : Nat) {pin drop : State → State}
    (hpin : ∀ s, (pin s).cut = s.cut) (hdrop : ∀ s, (drop s).cut = s.cut) : CutAfter c (admitVersion e d x t v home pin drop s) := by
  unfold admitVersion
  dsimp only
  split
  · simp [hs, hdrop]
  · split
    · simp [hs, hdrop]
    next i hi =>
      have hstore := fun bs => storeAt_cutAfter hs 0 x.tok bs
      split
      next t u h => have := h ▸ hstore _; simp_all
      next u h => have := h ▸ hstore _; simp_all
      next u h => have := h ▸ hstore _; simp_all
@[simp] theorem cutAfter_admitAnswered (e : Bool) (d : SReg) (h : HomeAdmit) : CutAfter c (admitAnswered e d h s) := by
  unfold admitAnswered; dsimp only; (repeat' split) <;> simp [hs]
@[simp] theorem cutAfter_admitRemote (e : Bool) (d : SReg) (x : AdmitDesc) (bs : List Byte) (en : CatEntry) :
    CutAfter c (admitRemote e d x bs en s) := by
  unfold admitRemote; dsimp only; (repeat' split) <;> simp [hs]
@[simp] theorem cutAfter_admitWith (e : Bool) (d : SReg) (bs : List Byte) : CutAfter c (admitWith e d bs s) := by
  unfold admitWith; dsimp only
  exact cutAfter_storeChecked hs _ (by (repeat' split) <;> simp [hs])
@[simp] theorem cutAfter_pageCount (e : Bool) (d : SReg) (en : CatEntry) (t n : Nat) : CutAfter c (pageCount e d en t n s) := by
  unfold pageCount; (repeat' split) <;> simp [hs]
@[simp] theorem cutAfter_publishWith (e : Bool) (d : SReg) (bs : List Byte) (en : CatEntry) : CutAfter c (publishWith e d bs en s) := by
  unfold publishWith; dsimp only; (repeat' split) <;> simp [hs]

end

end Sys2Proof.Machine
end

section
/-! SUPPORT. The frame of an access in flight (R372): ranges, images, vector and matrix words, engines. -/

namespace Sys2Proof.Machine

/-- After a tagged write, links have cut the accesses `c`. -/
def TagRes.CutAfter (c : List (Nat × PortAgent)) (r : TagRes) : Prop := ∀ t, r = .done t → t.cut = c
/-- After a save, links have cut the accesses `c`. -/
def SaveRes.CutAfter (c : List (Nat × PortAgent)) : SaveRes → Prop
  | .ok _ s => s.cut = c
  | .bad _ _ s => s.cut = c

section
variable {c : List (Nat × PortAgent)} (s : State)

@[simp] theorem TagRes.cutAfter_done : (TagRes.done s).CutAfter c ↔ s.cut = c := by simp [TagRes.CutAfter]
@[simp] theorem TagRes.cutAfter_full : TagRes.full.CutAfter c := by simp [TagRes.CutAfter]
@[simp] theorem TagRes.cutAfter_wait : TagRes.wait.CutAfter c := by simp [TagRes.CutAfter]
@[simp] theorem SaveRes.cutAfter_ok (n : Nat) : (SaveRes.ok n s).CutAfter c ↔ s.cut = c := Iff.rfl
@[simp] theorem SaveRes.cutAfter_bad (n : Nat) (va : Word) : (SaveRes.bad n va s).CutAfter c ↔ s.cut = c := Iff.rfl

end

section
variable {c : List (Nat × PortAgent)} {s : State} (hs : s.cut = c)
include hs

@[simp] theorem tagWrite_cutAfter (ag : Agent) (line off : Nat) (bs : List PB) : (tagWrite s ag line off bs).CutAfter c := by
  unfold tagWrite; dsimp only; (repeat' split) <;> simp [hs]

-- Ranges (R214).

@[simp] theorem rangeRead_cutAfter (ag : Agent) (u : Use) (f : Nat) (va : Word) (n : Nat) (acc : List PB) :
    (rangeRead ag u f s va n acc).CutAfter c := by
  induction f generalizing s va n acc with
  | zero => simpa [rangeRead] using hs
  | succ f ih => unfold rangeRead; dsimp only; (repeat' split) <;> simp [hs, ih]
@[simp] theorem rangeWrite_cutAfter (ag : Agent) (u : Use) (f : Nat) (va : Word) (bs : List PB) :
    (rangeWrite ag u f s va bs).CutAfter c := by
  induction f generalizing s va bs with
  | zero => simpa [rangeWrite] using hs
  | succ f ih =>
    unfold rangeWrite; dsimp only
    split
    · simpa using hs
    split
    · simpa using hs
    · split <;> simp [hs, ih]
    · split
      · simpa using hs
      split
      · split
        · simpa using hs
        split
        next t h => rw [RangeRes.cutAfter_fault, ← hs, ← sealedWrite_cut s, h]
        next t h => exact ih (by rw [tlbNote_cut, ← hs, ← sealedWrite_cut s, h]) _ _
      · split <;> simp [hs, ih]
@[simp] theorem writeImage_cutAfter (id cnt flags off span limit : Nat) (va : Word) (x : Ctx) :
    (writeImage id cnt flags off span limit va x s).CutAfter c := by
  unfold writeImage; dsimp only
  split
  · simpa using hs
  split
  · simpa using hs
  split
  · simpa using hs
  split
  · simpa using hs
  generalize hr : rangeWrite _ _ _ _ _ _ = r
  have hcut : r.CutAfter c := hr ▸ rangeWrite_cutAfter hs ..
  cases r <;> simpa using hcut


-- Vector words.

@[simp] theorem cutAfter_vecWord (i : Instr) (h : VHead) (rounds : Bool) (srcs : List Desc) (d : Desc) (sty : BitVec 3) (w : Nat)
    (bad : State → Bool) (f : Ctx → VIn → Nat → List (Nat × Nat)) : CutAfter c (vecWord i h rounds srcs d sty w bad f s) := by
  refine cutAfter_fullOnly hs _ (cutAfter_queueGate hs _ _ _ (cutAfter_ite (by simp [hs]) ?_))
  dsimp only [draw]
  (repeat' split) <;> simp [hs]
@[simp] theorem cutAfter_elem3 (i : Instr) (rounds : Bool) (x : V3) (f : Mode → Nat → Nat → Nat → Nat) : CutAfter c (elem3 i rounds x f s) :=
  cutAfter_vecWord hs ..
@[simp] theorem cutAfter_elem2 (i : Instr) (rounds : Bool) (x : V2) (f : Mode → Nat → Nat) : CutAfter c (elem2 i rounds x f s) :=
  cutAfter_vecWord hs ..
@[simp] theorem cutAfter_elemI (i : Instr) (rounds : Bool) (x : VI) (f : Mode → Nat → Nat → Nat) : CutAfter c (elemI i rounds x f s) :=
  cutAfter_vecWord hs ..
@[simp] theorem cutAfter_specialWord (i : Instr) (w : V2) (f : FVal → FVal) : CutAfter c (specialWord i w f s) := by
  simp [specialWord, hs]
@[simp] theorem cutAfter_moveWord (i : Instr) (h : VHead) (d a : Desc) (at_ : Nat → Nat → Nat → Nat × Nat) :
    CutAfter c (moveWord i h d a at_ s) := by
  simp [moveWord, hs]
@[simp] theorem cutAfter_vredrWord (i : Instr) (r : Red) (w : V2) : CutAfter c (vredrWord i r w s) := by
  simp [vredrWord, hs]
@[simp] theorem cutAfter_vredcWord (i : Instr) (r : Red) (w : V2) : CutAfter c (vredcWord i r w s) := by
  simp [vredcWord, hs]
@[simp] theorem cutAfter_vecFma (i : Instr) (minus : Bool) (w : V3) : CutAfter c (vecFma i minus w s) := by
  unfold vecFma; split <;> simp [hs]
@[simp] theorem cutAfter_readSources (i : Instr) (h : VHead) (a b : Desc) (bad : State → Bool) {k : Nat → Src → Src → State → Out}
    (hk : ∀ m x y s, s.cut = c → CutAfter c (k m x y s)) : CutAfter c (readSources i h a b bad s k) := by
  exact cutAfter_fullOnly hs _ (cutAfter_queueGate hs _ _ _ (cutAfter_ite (by simp [hs]) (hk _ _ _ _ hs)))
@[simp] theorem cutAfter_putMask (h : VHead) (k mask : Nat) (f : Nat → Nat) : CutAfter c (putMask h k mask f s) := by
  simp [putMask, hs]
@[simp] theorem cutAfter_vcmpWord (i : Instr) (w : VC) (cond : VCond) : CutAfter c (vcmpWord i w cond s) :=
  cutAfter_readSources hs _ _ _ _ _ fun m x y s hs => by simp [hs]
@[simp] theorem cutAfter_vkcmpWord (i : Instr) (w : VK) (cond : VCond) : CutAfter c (vkcmpWord i w cond s) :=
  cutAfter_readSources hs _ _ _ _ _ fun m x y s hs => by simp [hs]
@[simp] theorem cutAfter_maskWord (i : Instr) (h : VHead) (d : BitVec 3) (srcs : List (BitVec 3)) (f : Nat → Nat → Nat) :
    CutAfter c (maskWord i h d srcs f s) :=
  cutAfter_fullOnly hs _ (by dsimp only; split <;> simp [hs])
@[simp] theorem cutAfter_advData (e : Bool) (q eng count : Nat) : CutAfter c (advData e q eng count s) := by
  unfold advData; dsimp only; (repeat' split) <;> simp [hs]

-- Matrix words.

@[simp] theorem cutAfter_issueWord (id : Nat) (x : MxWord) (fte : Word) (off : Bool) (cores : List Nat) :
    CutAfter c (issueWord id x fte off cores s) := by
  unfold issueWord; dsimp only; (repeat' split) <;> simp [hs]
@[simp] theorem cutAfter_enabledWord (i : Instr) (id : Nat) (x : MxWord) (fte : Word) : CutAfter c (enabledWord i id x fte s) := by
  unfold enabledWord; (repeat' split) <;> simp [hs]
@[simp] theorem cutAfter_checkedWord (i : Instr) (id : Nat) (x : MxWord) (fte : Word) : CutAfter c (checkedWord i id x fte s) := by
  unfold checkedWord; (repeat' split) <;> simp [hs]
@[simp] theorem cutAfter_tileWord (i : Instr) (k : MxKind) (w : TileW) : CutAfter c (tileWord i k w s) :=
  cutAfter_fullOnly hs _ (by dsimp only; (repeat' split) <;> simp [hs])

-- Engines.

@[simp] theorem cutAfter_onEng (cl n : Nat) (f : Ctx → Ctx) : CutAfter c (onEng cl n s f) := by
  unfold onEng; dsimp only; split <;> simp [hs]

end

@[simp] theorem cutAfter_thenTrim {c : List (Nat × PortAgent)} (core : Nat) {o : Out} (h : CutAfter c o) : CutAfter c (thenTrim core o) := by
  unfold thenTrim; split <;> simp_all

end Sys2Proof.Machine
end

section
/-! SUPPORT. The frame of an access in flight (R372): engines started, and the words with a meaning of their own shape. -/

namespace Sys2Proof.Machine

@[simp] theorem startEng_cut (id n : Nat) (va : Word) (s : State) : (startEng id n va s).cut = s.cut := rfl

section
variable {c : List (Nat × PortAgent)} {s : State} (hs : s.cut = c)
include hs

theorem cutAfter_execAgen (cl eng : Nat) (f : AGenF) : CutAfter c (execAgen cl eng f s) :=
  cutAfter_thenTrim _ (cutAfter_onEng hs _ _ _)

end

@[simp] theorem leadGens_cut (cl n f : Nat) (s : State) : (leadGens cl n f s).cut = s.cut := by
  induction f generalizing cl n s with
  | zero => rfl
  | succ f ih =>
    unfold leadGens
    dsimp only
    split
    · rfl
    split
    next bs u hread =>
      have hu : u.cut = s.cut := by
        have hcut := rangeRead_cutAfter (rfl : s.cut = s.cut) (engAgent s (8 * cl) n 0) .ar 8 (engOf (getCtx s (8 * cl)) n).cmd 8 []
        rwa [hread, RangeRes.cutAfter_ok] at hcut
      split
      · rfl
      split
      next cl' n' g _ =>
        split
        next v hgen =>
          have hv := cutAfter_execAgen hu cl' n' g
          rw [hgen, cutAfter_next] at hv
          rw [ih, hv]
        next => rfl
      next => rfl
    next => rfl

section
variable {c : List (Nat × PortAgent)} {s : State} (hs : s.cut = c)
include hs

-- Control transfers and synchronisation.

theorem cutAfter_execBbs (e : Bool) (a : SReg) (t : BitVec 6) (d : BitVec 11) : CutAfter c (execBbs e a t d s) := by
  simp [execBbs, hs, apply_ite State.cut]
theorem cutAfter_execBbc (e : Bool) (a : SReg) (t : BitVec 6) (d : BitVec 11) : CutAfter c (execBbc e a t d s) := by
  simp [execBbc, hs, apply_ite State.cut]
theorem cutAfter_execJr (e : Bool) (d a : SReg) : CutAfter c (execJr e d a s) :=
  cutAfter_transfer hs _ (cutAfter_withSrc hs _ (by simp [hs]))
theorem cutAfter_execFence (e g : Bool) (sc : BitVec 3) : CutAfter c (execFence e g sc s) := by
  unfold execFence
  dsimp only
  split
  next t u hdue =>
    split at hdue
    · simp [faultDue_cut hdue, hs]
    · cases hdue
  next => (repeat' split) <;> simp [hs]
theorem cutAfter_execTlwait (e : Bool) (d a : SReg) (sc x : BitVec 3) : CutAfter c (execTlwait e d a sc x s) := by
  refine cutAfter_withSrc hs _ ?_
  dsimp only
  split
  next t u hdue => simp [counterDue_cut hdue, hs]
  next => (repeat' split) <;> simp [hs]
theorem cutAfter_execTret (e p sk : Bool) : CutAfter c (execTret e p sk s) := by
  unfold execTret
  (repeat' split) <;> simp [hs]

-- Memory.

theorem cutAfter_execLda (e : Bool) (d a : SReg) (z : BitVec 2) (x : BitVec 3) : CutAfter c (execLda e d a z x s) :=
  cutAfter_withSrc hs _ (cutAfter_bind (loadAt_cutAfter hs ..) fun bs s hs => by simp [hs])
theorem cutAfter_execStl (e : Bool) (d a : SReg) (z : BitVec 2) (x : BitVec 3) : CutAfter c (execStl e d a z x s) := by
  refine cutAfter_withSrc hs _ (cutAfter_storeChecked hs _ (cutAfter_ite (by simp [hs]) ?_))
  refine cutAfter_bind (storeAt_cutAfter (by simp [hs]) ..) fun bs s hs => cutAfter_accDone ?_ _ _
  split <;> simp [hs]

theorem cutAfter_execStH (e : Bool) (d a : SReg) (z : BitVec 2) : CutAfter c (execStH e d a z s) := by
  refine cutAfter_withSrc hs _ (cutAfter_ite (by simp [hs]) (cutAfter_ite (by simp [hs]) ?_))
  dsimp only
  split
  · simp [hs]
  · simp [hs]
  next lo hi pa inPage _ =>
    refine cutAfter_ite (by simp [hs]) (cutAfter_ite (by simp [hs]) ?_)
    split
    next t hdone =>
      have ht : t.cut = c := tagWrite_cutAfter (c := c) (by simp [hs]) _ _ _ _ t hdone
      simp [ht]
    · simp [hs]
    · exact cutAfter_ite (by simp [hs]) (by simp [hs])
theorem cutAfter_execAmo (e : Bool) (d a b : SReg) (z : Bool) (o : BitVec 4) : CutAfter c (execAmo e d a b z o s) :=
  cutAfter_withSrc hs _ (cutAfter_bind (atomicAt_cutAfter hs ..) fun _ _ hs => cutAfter_atomicDone hs ..)
theorem cutAfter_execCas (e : Bool) (d a b : SReg) (z : Bool) : CutAfter c (execCas e d a b z s) :=
  cutAfter_withSrc hs _ (cutAfter_bind (atomicAt_cutAfter hs ..) fun _ _ hs => cutAfter_atomicDone hs ..)
theorem cutAfter_execAmoBins (e : Bool) (d a b : SReg) (n : Bool) : CutAfter c (execAmoBins e d a b n s) :=
  cutAfter_withSrc hs _ (cutAfter_bind (atomicAt_cutAfter hs ..) fun _ _ hs => cutAfter_atomicDone hs ..)
theorem cutAfter_execXcopyMap (e : Bool) (d a : SReg) : CutAfter c (execXcopyMap e d a s) :=
  cutAfter_withDesc hs _ _ fun bs s hs => by split <;> simp [hs]

-- Queues of a stage, engines and rings.

theorem cutAfter_execSqpush (e : Bool) (d a : SReg) (n : Bool) (q : BitVec 3) : CutAfter c (execSqpush e d a n q s) := by
  refine cutAfter_fullOnly hs _ (cutAfter_withSrc hs _ ?_)
  split
  · simp [hs]
  next lid x _ =>
    refine cutAfter_ite (cutAfter_ite (by simp [hs]) (by simp [hs])) (cutAfter_loadLines hs _ _ _ fun bs s hs => ?_)
    simp [hs, apply_ite State.cut]
theorem cutAfter_execSqpop (e : Bool) (d a : SReg) (n : Bool) (q : BitVec 3) : CutAfter c (execSqpop e d a n q s) := by
  refine cutAfter_fullOnly hs _ (cutAfter_withSrc hs _ ?_)
  split
  · simp [hs]
  split
  · (repeat' split) <;> simp [hs]
  next bs rest _ =>
    refine cutAfter_storeCheckedAll hs _ _ (cutAfter_storeLines (by simp [hs]) _ _ _ fun s hs => ?_)
    simp [hs, apply_ite State.cut]
theorem cutAfter_execLset (e : Bool) (a : SReg) (sq : BitVec 3) (l : BitVec 4) : CutAfter c (execLset e a sq l s) :=
  cutAfter_fullOnly hs _ (cutAfter_withSrc hs _ (cutAfter_ite (by simp [hs]) (by simp [hs])))
theorem cutAfter_execAgo (e : Bool) (d : SReg) (m : Bool) (g : BitVec 2) : CutAfter c (execAgo e d m g s) :=
  cutAfter_fullOnly hs _ (cutAfter_ite (by simp [hs])
    (cutAfter_withSrc hs _ (cutAfter_ite (by simp [hs]) (by simp [hs]))))
theorem cutAfter_execOrelease (e : Bool) (q : BitVec 4) : CutAfter c (execOrelease e q s) := by
  refine cutAfter_fullOnly hs _ ?_
  (repeat' split) <;> simp [hs]
theorem cutAfter_execQadv (w : VQ) (d : Desc) : CutAfter c (execQadv w d s) := by
  refine cutAfter_fullOnly hs _ ?_
  dsimp only
  (repeat' split) <;> simp [hs]
theorem cutAfter_execQclr (w : VQ) : CutAfter c (execQclr w s) := by
  refine cutAfter_fullOnly hs _ (cutAfter_queueWordGuard hs _ ?_)
  (repeat' split) <;> simp [hs]
theorem cutAfter_execQflush (w : VQ) : CutAfter c (execQflush w s) := by
  refine cutAfter_fullOnly hs _ ?_
  dsimp only
  split
  · simp [hs]
  · refine cutAfter_queueWordGuard hs _ ?_
    (repeat' split) <;> simp [hs]

-- Contexts, launches, tasks and admissions.

theorem cutAfter_execSpawn (e : Bool) (d a b : SReg) (x : BitVec 3) : CutAfter c (execSpawn e d a b x s) := by
  refine cutAfter_supervisorOnly hs _ (cutAfter_withSrc hs _ ?_)
  split <;> simp [hs]
theorem cutAfter_execLaunch (e : Bool) (d a : SReg) : CutAfter c (execLaunch e d a s) :=
  cutAfter_supervisorOnly hs _ (cutAfter_withSrc hs _ (cutAfter_loadLines (by simp [hs]) _ _ _ fun bs s hs =>
    cutAfter_withMapHeader hs _ fun s hs => cutAfter_result ((launchRecord_cut ..).trans hs) _ _ _))
theorem cutAfter_execTtask (e : Bool) (d a : SReg) : CutAfter c (execTtask e d a s) := by
  refine cutAfter_withSrc hs _ (cutAfter_loadLines hs _ _ _ fun bs s hs => ?_)
  refine cutAfter_ite (by simp [hs]) (cutAfter_ite (by simp [hs]) (cutAfter_ite (by simp [hs]) ?_))
  have hrel := (release_cut s s.cur (recTile bs).level.toNat none).trans hs
  exact cutAfter_storeCheckedAll hrel _ _ (cutAfter_storeCheckedAll hrel _ _
    (cutAfter_ite (cutAfter_admitResume hrel ..) (cutAfter_admitTask hrel ..)))
theorem cutAfter_execAdmitRq (e : Bool) (d a : SReg) : CutAfter c (execAdmitRq e d a s) := by
  unfold execAdmitRq
  split
  · exact cutAfter_admitAnswered hs ..
  · exact cutAfter_withSrc hs _ (cutAfter_bind (loadAt_cutAfter hs ..) fun bs s hs => cutAfter_admitWith hs ..)
theorem cutAfter_execApin (e : Bool) (d a : SReg) : CutAfter c (execApin e d a s) :=
  cutAfter_withToken hs _ fun k s hs => by
    dsimp only
    generalize (if tenantIn s (me s).tenant.toNat (myPart s) then _ else _) = o
    (repeat' split) <;> simp [hs]
theorem cutAfter_execAunpin (e : Bool) (d a : SReg) : CutAfter c (execAunpin e d a s) :=
  cutAfter_withToken hs _ fun k s hs => by
    dsimp only
    generalize (if tenantIn s (me s).tenant.toNat (myPart s) || isSupervisor (me s) then _ else _) = o
    (repeat' split) <;> simp [hs]
theorem cutAfter_execApage (e : Bool) (d a b : SReg) : CutAfter c (execApage e d a b s) :=
  cutAfter_withSrc hs _ (cutAfter_withEntry hs _ _ _ fun _ _ => cutAfter_pageCount hs ..)
theorem cutAfter_execApub (e : Bool) (d a b : SReg) : CutAfter c (execApub e d a b s) :=
  cutAfter_withSrc hs _ (cutAfter_bind (loadAt_cutAfter (by simp [hs]) ..) fun bs s hs =>
    cutAfter_withEntry hs _ _ _ fun en t => cutAfter_publishWith hs ..)
theorem cutAfter_execCtxsv (d a b : SReg) : CutAfter c (execCtxsv d a b s) := by
  refine cutAfter_ite (by simp [hs]) (cutAfter_withSrc hs _ (cutAfter_ite (by simp [hs]) (cutAfter_ite (by simp [hs]) ?_)))
  dsimp only
  split
  next k v u hbad =>
    have hu : (SaveRes.bad k v u).CutAfter c := hbad ▸ writeImage_cutAfter (by simp [hs]) ..
    simp_all
  next cnt u hok =>
    have hu : (SaveRes.ok cnt u).CutAfter c := hok ▸ writeImage_cutAfter (by simp [hs]) ..
    simp_all
theorem cutAfter_execCtxrs (d a : SReg) : CutAfter c (execCtxrs d a s) := by
  refine cutAfter_ite (by simp [hs]) (cutAfter_withSrc hs _ ?_)
  dsimp only
  (repeat' split) <;> simp [hs]
theorem cutAfter_execSnap (e : Bool) (d : SReg) (t : BitVec 8) : CutAfter c (execSnap e d t s) :=
  cutAfter_ite (by simp [hs]) (by simp [hs])
theorem cutAfter_execYield (e : Bool) (m : BitVec 16) : CutAfter c (execYield e m s) := by
  unfold execYield
  dsimp only
  (repeat' split) <;> simp [hs]
theorem cutAfter_execHopen (e : Bool) (d : SReg) (n : Bool) : CutAfter c (execHopen e d n s) := by
  unfold execHopen
  dsimp only
  (repeat' split) <;> simp [hs]
theorem cutAfter_execHget (e : Bool) (d : SReg) (sel : BitVec 2) : CutAfter c (execHget e d sel s) := by
  unfold execHget
  dsimp only
  (repeat' split) <;> simp [hs]
theorem cutAfter_execFcvt (e : Bool) (d a : SReg) (t : Bool) (x y : BitVec 4) : CutAfter c (execFcvt e d a t x y s) := by
  refine cutAfter_withSrc hs _ (cutAfter_withMode hs ?_)
  dsimp only
  split <;> simp [hs]
theorem cutAfter_execMonitor (e : Bool) (a : SReg) : CutAfter c (execMonitor e a s) := by
  refine cutAfter_withSrc hs _ ?_
  dsimp only
  (repeat' split) <;> simp [hs]
theorem cutAfter_execMwait (e : Bool) (d a : SReg) : CutAfter c (execMwait e d a s) :=
  cutAfter_withSrc hs _ (cutAfter_ite (by simp [hs]) (cutAfter_ite (by simp [hs]) (cutAfter_ite (by simp [hs]) (by simp [hs]))))
theorem cutAfter_execBar (e : Bool) (d : SReg) (i : BitVec 5) (x : BitVec 3) : CutAfter c (execBar e d i x s) := by
  refine cutAfter_withSrc hs _ ?_
  dsimp only
  generalize (if d = 0 then instCount s s.cur x.toNat else _) = n
  cases n with
  | none => simp [hs]
  | some n => exact cutAfter_ite (by simp [hs]) (by simp [hs])
theorem cutAfter_execHset (e : Bool) (d a : SReg) : CutAfter c (execHset e d a s) :=
  cutAfter_withSrc hs _ (cutAfter_ite (by simp [hs]) (by simp [hs]))
theorem cutAfter_execHvec (e : Bool) (d a : SReg) (x : BitVec 3) : CutAfter c (execHvec e d a x s) := by
  refine cutAfter_withSrc hs _ ?_
  dsimp only
  split <;> simp [hs]
theorem cutAfter_execOclaim (e : Bool) (d a : SReg) (q : BitVec 4) : CutAfter c (execOclaim e d a q s) :=
  cutAfter_fullOnly hs _ (cutAfter_withSrc hs _ (cutAfter_ite (by simp [hs]) (cutAfter_ite (by simp [hs]) (by simp [hs]))))
theorem cutAfter_execXrd (e : Bool) (d : SReg) (x : BitVec 17) : CutAfter c (execXrd e d x s) :=
  cutAfter_ite (by simp [hs]) (cutAfter_ite (by simp [hs]) (by simp [hs]))

end
end Sys2Proof.Machine
end

section
/-! SUPPORT. What the decoder reads is an instruction of the stream: one that a table of R40, R42 or R43 lists, whatever the
bits of its units. -/

namespace Sys2Proof

/-- An instruction of the stream: one that a table of R40, R42 or R43 lists. -/
def IsWord (i : Instr) : Prop := (encodeScalar i).isSome ∨ (encodeVector i).isSome ∨ (encodeMatrix i).isSome

theorem isWord_of_decodeScalar (w : Nat) : ∀ i ∈ decodeScalar w, IsWord i := by
  unfold decodeScalar
  split
  case' h_1 => unfold decodeAlu; split
  case' h_31 => unfold decodeFp; split
  case' h_65 => unfold decodeXcopy; split
  case' h_66 => unfold decodeXcopyH; split
  all_goals
    simp only [forall_mem_need, Option.mem_some_iff, forall_eq', Option.not_mem_none, false_imp_iff, implies_true]
  all_goals
    intros
    exact .inl rfl

theorem isWord_of_decodeVector (w0 d : Nat) : ∀ i ∈ decodeVector w0 d, IsWord i := by
  unfold decodeVector decV3 decV2 decVI decVM decVC decVK decKB decKU decVQ decQadv
  (repeat' split)
  all_goals
    simp only [forall_mem_need, Option.mem_some_iff, forall_eq', Option.not_mem_none, false_imp_iff, implies_true]
  all_goals
    intros
    exact .inr (.inl rfl)

theorem isWord_of_decodeMatrix (us : Nat) : ∀ i ∈ decodeMatrix us, IsWord i := by
  unfold decodeMatrix decodeMatrixOp
  (repeat' split) <;> simp [IsWord, encodeMatrix]

/-- R40, R42, R43: a decoded word is an instruction of the stream. -/
theorem isWord_of_decode {us : List Nat} {i : Instr} (h : decode us = .ok i) : IsWord i := by
  unfold decode at h
  split at h
  · cases h
  split at h
  · cases h
  split at h
  · cases h
  next j hraw =>
    split at h
    · obtain rfl := Except.ok.inj h
      unfold decodeRaw at hraw
      split at hraw
      · exact isWord_of_decodeScalar _ _ (Option.ite_none_left_eq_some.1 hraw).2
      · exact isWord_of_decodeVector _ _ _ (Option.ite_none_right_eq_some.1 hraw).2
      · exact isWord_of_decodeMatrix _ _ (Option.ite_none_right_eq_some.1 hraw).2
      · cases hraw
    · cases h

end Sys2Proof
end

section
/-! SUPPORT. The frame of an access in flight (R372): no word changes which accesses the links have cut. -/

namespace Sys2Proof.Machine

/-- R372: a word leaves the accesses that links have cut: those are of engines and of earlier steps. -/
theorem cutAfter_exec {c : List (Nat × PortAgent)} {s : State} {i : Instr} (hi : IsWord i) (hs : s.cut = c) :
    CutAfter c (exec i s) := by
  cases i
  all_goals dsimp
  case add | sub | and | or | xor | andn | shl | shr | sra | ror | mul | mulhs | mulhu | divs | divu | rems | remu | min |
    max | minu | maxu | clz | ctz | popc | addi | andi | ori | xori | shli | shri | srai | movi | movhi | bfxu | bfxs |
    bfins | sel => exact cutAfter_scalarOp hs ..
  case xwr | xloopStart | xloopAbandon | xtenantWrite => exact cutAfter_xwrite hs ..
  case cmpeq | cmpne | cmplt | cmple | cmpltu | cmpleu | fcmpeq | fcmplt | fcmple | fcmpun => exact cutAfter_compareOp hs ..
  case fadd | fsub | fmul | fdiv | fsqrt | fmac => exact cutAfter_fpOp hs ..
  case fmin | fmax | fabs | fneg => exact cutAfter_fpExact hs ..
  case ld8 | ld16 | ld32 | ld64 | ld8s | ld16s | ld32s => exact cutAfter_loadI hs ..
  case st8 | st16 | st32 | st64 => exact cutAfter_storeI hs ..
  case xcopyLin | xcopyNest | xcopyHLin | xcopyHNest => exact cutAfter_copyWord hs ..
  case xcopyUnmap | xcopyWb => exact cutAfter_writeBackWord hs ..
  case put | req => exact cutAfter_fabSend hs ..
  case hresCf | hresRf => exact cutAfter_hresWord hs ..
  case vadd | vsub | vmul | vmin | vmax | vdiv | vmulh | vminu | vmaxu | vand | vor | vxor | vandn | vshl | vshr |
    vsra => exact cutAfter_elem3 hs ..
  case vfma | vfms => exact cutAfter_vecFma hs ..
  case vabs | vneg | vmov | vnot => exact cutAfter_elem2 hs ..
  case vaddi | vmuli | vmini | vmaxi | vshli | vshri | vsrai => exact cutAfter_elemI hs ..
  case vmovi | vcvt | vpack4 | vunpk4 | vselk | vxpose | vshuf =>
    simp [execVmovi, execVcvt, execVpack4, execVunpk4, execVselk, execVxpose, execVshuf, hs]
  case vcmpEq | vcmpNe | vcmpLt | vcmpLe | vcmpGt | vcmpGe | vcmpUn | vcmpLtu | vcmpLeu => exact cutAfter_vcmpWord hs ..
  case vkcmpEq | vkcmpNe | vkcmpLt | vkcmpLe | vkcmpGt | vkcmpGe | vkcmpUn => exact cutAfter_vkcmpWord hs ..
  case kand | kor | kxor | kandn | knot | kmov => exact cutAfter_maskWord hs ..
  case vrotr | vrotc | vbcr | vbcc => exact cutAfter_moveWord hs ..
  case vredrAdd | vredrMax | vredrMin => exact cutAfter_vredrWord hs ..
  case vredcAdd | vredcMax | vredcMin => exact cutAfter_vredcWord hs ..
  case vexp2 | vlog2 | vrcp | vrsq | vsqrt | vsin | vcos | vtanh | vsigm | vgelu | vsilu => exact cutAfter_specialWord hs ..
  case tmma | tmmas | tzero | tacc | tepi | tbind | txpose | tsmld | tstage | tqred => exact cutAfter_tileWord hs ..
  case xrd => exact cutAfter_execXrd hs ..
  case ctxsv => exact cutAfter_execCtxsv hs ..
  case ctxrs => exact cutAfter_execCtxrs hs ..
  case snap => exact cutAfter_execSnap hs ..
  case tret => exact cutAfter_execTret hs ..
  case bbs => exact cutAfter_execBbs hs ..
  case bbc => exact cutAfter_execBbc hs ..
  case jr => exact cutAfter_execJr hs ..
  case fence => exact cutAfter_execFence hs ..
  case lda => exact cutAfter_execLda hs ..
  case stl => exact cutAfter_execStl hs ..
  case stH => exact cutAfter_execStH hs ..
  case amo => exact cutAfter_execAmo hs ..
  case cas => exact cutAfter_execCas hs ..
  case amoBins => exact cutAfter_execAmoBins hs ..
  case tlwait => exact cutAfter_execTlwait hs ..
  case ttask => exact cutAfter_execTtask hs ..
  case apage => exact cutAfter_execApage hs ..
  case apub => exact cutAfter_execApub hs ..
  case xcopyMap => exact cutAfter_execXcopyMap hs ..
  case spawn => exact cutAfter_execSpawn hs ..
  case launch => exact cutAfter_execLaunch hs ..
  case sqpush => exact cutAfter_execSqpush hs ..
  case sqpop => exact cutAfter_execSqpop hs ..
  case lset => exact cutAfter_execLset hs ..
  case ago => exact cutAfter_execAgo hs ..
  case orelease => exact cutAfter_execOrelease hs ..
  case qadv => exact cutAfter_execQadv hs ..
  case qclr => exact cutAfter_execQclr hs ..
  case qflush => exact cutAfter_execQflush hs ..
  case admitRq => exact cutAfter_execAdmitRq hs ..
  case apin => exact cutAfter_execApin hs ..
  case aunpin => exact cutAfter_execAunpin hs ..
  case yield => exact cutAfter_execYield hs ..
  case jmp | call | syncb | exit | nop | hintp | hintb | hintx | tlget | ldx | stx | axadd | axrd | axclr | famo | hstat =>
    simp [execJmp, execCall, execSyncb, execExit, execNop, execHintp, execHintb, execHintx, execTlget, execLdx, execStx,
      execAxadd, execAxrd, execAxclr, execFamo, execHstat, hs]
  case hopen => exact cutAfter_execHopen hs ..
  case hget => exact cutAfter_execHget hs ..
  case fcvt => exact cutAfter_execFcvt hs ..
  case monitor => exact cutAfter_execMonitor hs ..
  case mwait => exact cutAfter_execMwait hs ..
  case bar => exact cutAfter_execBar hs ..
  case hset => exact cutAfter_execHset hs ..
  case hvec => exact cutAfter_execHvec hs ..
  case oclaim => exact cutAfter_execOclaim hs ..
  all_goals obtain hi | hi | hi := hi <;> cases hi

end Sys2Proof.Machine
end

section
/-! SUPPORT. A step of the machine runs the decoded word, the agenda's move, or the event that has come about (O54). -/

namespace Sys2Proof.Machine

-- A turn at the ports (R297, R372).

@[simp] theorem beginTurn_cur (a : PortAgent) (s : State) : (beginTurn a s).cur = s.cur := by unfold beginTurn; split <;> rfl
@[simp] theorem me_beginTurn (a : PortAgent) (s : State) : me (beginTurn a s) = me s := by unfold beginTurn; split <;> rfl
@[simp] theorem syncGroup_beginTurn (a : PortAgent) (s : State) (id : Nat) : syncGroup (beginTurn a s) id = syncGroup s id := by
  unfold beginTurn; split <;> rfl
@[simp] theorem beginTurn_cut (a : PortAgent) (s : State) : (beginTurn a s).cut = s.cut := by unfold beginTurn; split <;> rfl

theorem endTurn_of_cut_nil {s : State} (h : s.cut = []) (a : PortAgent) : endTurn a s = s := by simp [endTurn, h]

theorem afterAsks_of_no_asks {s t : State} (a : PortAgent) (hasks : newAsks s t = []) : afterAsks a s t = endTurn a t := by
  simp [afterAsks, hasks]

@[simp] theorem noteFetch_cut (s : State) (id n : Nat) (va : Word) : (noteFetch s id n va).cut = s.cut := by
  unfold noteFetch
  dsimp only
  split
  · rfl
  · simp [foldl_cut]

-- The next word of the issuing context.

/-- The word at `va` is executed by context `id`: its loop buffer captures it, its stall is over. -/
def takeWord (id : Nat) (va : Word) (ws : List Nat) (s : State) : State :=
  onMe (noteFetch s id ws.length va) fun c => { dropQadv (capture c c.pc ws) with wait := none }

@[simp] theorem takeWord_cut (id : Nat) (va : Word) (ws : List Nat) (s : State) : (takeWord id va ws s).cut = s.cut :=
  noteFetch_cut ..

theorem decodeReady_of_decode {s : State} {ws : List Nat} {i : Instr} (h : decode ws = .ok i) :
    decodeReady s ws = .go i (takeWord s.cur (me s).pc ws s) := by
  simp only [decodeReady, h] <;> rfl

/-- R22 to R26: with no event and no debug condition ahead, a fetched word whose bundle may begin is executed. -/
theorem nextWord_of_decode {s : State} {ws : List Nat} {i : Instr} (hev : boundaryEvent s s.cur = none) (hdbg : dbgHit (me s) = none)
    (hfetch : fetchWord s s.cur (me s).pc = .ok ws) (hdec : decode ws = .ok i)
    (hbegin : (me s).mid = true ∨ ((framing s s.cur (me s).pc).legal = true ∧ (framing s s.cur (me s).pc).need = none ∧
      ((framing s s.cur (me s).pc).synced = false ∨ (me s).syncGo = true ∨ (syncGroup s s.cur).length ≤ 1))) :
    nextWord s = .go i (takeWord s.cur (me s).pc ws s) := by
  rw [← decodeReady_of_decode hdec]
  simp only [nextWord, hev, hdbg, hfetch]
  obtain hmid | ⟨hlegal, hneed, hsync⟩ := hbegin
  · rw [if_pos hmid]
  · split
    · rfl
    · have hgo : ((framing s s.cur (me s).pc).synced && !(me s).syncGo && decide (1 < (syncGroup s s.cur).length)) = false := by
        obtain h | h | h := hsync <;> simp [h]
      simp [hlegal, hneed, hgo]

/-- The next word in a context's turn: only the accesses in flight tell the turn's start from the state before it. -/
theorem wordNext_beginTurn {s : State} {ws : List Nat} {i : Instr} (a : PortAgent) (hev : boundaryEvent (beginTurn a s) s.cur = none)
    (hdbg : dbgHit (me s) = none) (hfetch : fetchWord (beginTurn a s) s.cur (me s).pc = .ok ws) (hdec : decode ws = .ok i)
    (hbegin : (me s).mid = true ∨ ((framing (beginTurn a s) s.cur (me s).pc).legal = true ∧
      (framing (beginTurn a s) s.cur (me s).pc).need = none ∧ ((framing (beginTurn a s) s.cur (me s).pc).synced = false ∨
        (me s).syncGo = true ∨ (syncGroup s s.cur).length ≤ 1))) :
    wordNext (beginTurn a s) = exec i (takeWord s.cur (me s).pc ws (beginTurn a s)) := by
  have hnext : nextWord (beginTurn a s) = .go i (takeWord (beginTurn a s).cur (me (beginTurn a s)).pc ws (beginTurn a s)) :=
    nextWord_of_decode (by simpa) (by simpa) (by simpa) hdec (by simpa)
  rw [beginTurn_cur, me_beginTurn] at hnext
  simp only [wordNext, hnext]

theorem step_of_busy {s : State} (hbusy : s.busy = true) (hag : ∀ e rest, s.agenda ≠ .auto e :: rest) : step s = finish (issueNext s) := by
  unfold step advance
  split
  next e rest h => exact absurd h (hag e rest)
  all_goals rw [if_pos hbusy]

theorem portGate_next {a : PortAgent} {run : State → Out} {s t : State} (h : run (beginTurn a s) = .next t) :
    portGate a run s = .next (afterAsks a s t) := by
  simp only [portGate, h]
theorem portGate_fault {a : PortAgent} {run : State → Out} {s : State} {x : Fault} (h : run (beginTurn a s) = .fault x) :
    portGate a run s = .fault x := by
  simp only [portGate, h]
theorem portGate_refused {a : PortAgent} {run : State → Out} {s : State} {x : Refusal} (h : run (beginTurn a s) = .refused x) :
    portGate a run s = .refused x := by
  simp only [portGate, h]

/-- R297, R372: a word run in a state whose links have cut no access, and that asks for nothing, leaves its turn as it ends. -/
theorem afterAsks_exec {s u t : State} {i : Instr} {ws : List Nat} (a : PortAgent) (hdec : decode ws = .ok i) (hcut : u.cut = [])
    (hasks : newAsks s t = []) (hx : exec i u = .next t) : afterAsks a s t = t := by
  have ht := cutAfter_exec (isWord_of_decode hdec) hcut
  rw [hx, cutAfter_next] at ht
  rw [afterAsks_of_no_asks a hasks, endTurn_of_cut_nil ht]

/-- The agenda's move, where no bundle holds the issue slot. -/
theorem step_of_agenda_run {s : State} {i : Instr} {rest : List Move} (hidle : s.busy = false) (hag : s.agenda = .run i :: rest) :
    step s = finish (if wellFormed i then exec i { s with agenda := rest } else .fault .noSuchUnit) := by
  simp only [step, advance, hag, hidle, Bool.false_eq_true, if_false] <;> rfl

/-- An event that the machine has brought about. -/
theorem step_of_agenda_auto {s : State} {e : Event} {rest : List Move} (hag : s.agenda = .auto e :: rest) :
    step s = finishEvent (runGated e { s with agenda := rest }) := by
  simp only [step, advance, hag]

theorem runGated_of_no_agent {e : Event} (ha : eventAgent e = none) (s : State) : runGated e s = runEvent e s := by
  simp only [runGated, ha]
theorem runGated_of_held {e : Event} {a : PortAgent} {s : State} (ha : eventAgent e = some a) (hheld : portHeld s a = true) :
    runGated e s = .next s := by
  simp only [runGated, ha, if_pos hheld]
theorem runGated_of_free {e : Event} {a : PortAgent} {s t : State} (ha : eventAgent e = some a) (hheld : portHeld s a = false)
    (h : runEvent e (beginTurn a s) = .next t) : runGated e s = .next (afterAsks a s t) := by
  simp only [runGated, ha, hheld, Bool.false_eq_true, if_false, portGate_next h]

/-- Settles O54: the step's next word is the decoded one, its turn at the ports ends as it stands, for no word cuts an access;
the agenda's move and the event are what they run. -/
theorem stepRunsTheDecodedInstruction : Obligations.StepRunsTheDecodedInstruction := by
  unfold Obligations.StepRunsTheDecodedInstruction
  dsimp only
  refine ⟨fun s ws i hbusy hag hev hdbg hfetch hdec hbegin => ?_, fun s i rest hidle hag => ?_, fun s e rest hag => ?_⟩
  · have hword := wordNext_beginTurn _ hev hdbg hfetch hdec hbegin
    rw [step_of_busy hbusy hag]
    refine ⟨fun t h => ?_, fun t hcut hasks h => ?_, fun x h => ?_, fun x h => ?_⟩
    · rw [issueNext, portGate_next (hword.trans h)]; rfl
    · have htake : (takeWord s.cur (me s).pc ws (beginTurn (.ctx s.cur) s)).cut = [] := by simp [hcut]
      rw [issueNext, portGate_next (hword.trans h), afterAsks_exec _ hdec htake hasks h]; rfl
    · rw [issueNext, portGate_fault (hword.trans h)]; rfl
    · rw [issueNext, portGate_refused (hword.trans h)]; rfl
  · rw [step_of_agenda_run hidle hag]
    refine ⟨fun h => ?_, fun h t hx => ?_⟩
    · rw [h]; rfl
    · rw [if_pos h, hx]; rfl
  · rw [step_of_agenda_auto hag]
    refine ⟨fun ha t h => ?_, fun a ha => ⟨fun hheld => ?_, fun hheld t h => ?_⟩⟩
    · exact congrArg finishEvent ((runGated_of_no_agent ha _).trans h)
    · exact congrArg finishEvent (runGated_of_held (s := { s with agenda := rest }) ha hheld)
    · exact congrArg finishEvent (runGated_of_free (s := { s with agenda := rest }) ha hheld h)

end Sys2Proof.Machine
end

section
/-! SUPPORT. What XWR writes of each state register, and where it traps (R46, R57 to R59, R116, R127, R143, R144, R282, R326,
R327). -/

namespace Sys2Proof.Machine

theorem trapsWith_illop {i j : Instr} {s : State} (h : exec i s = illopOf j s) :
    TrapsWith i s { cause := 1, va := BitVec.ofNat 64 (headUnit j) } := h

theorem trapsWith_priv {i j : Instr} {s : State} (h : exec i s = privOf j s) :
    TrapsWith i s { cause := 2, va := BitVec.ofNat 64 (headUnit j) } := h

theorem srcBad_of_ownClean {s : State} (h : s.OwnClean) (r : SReg) : srcBad s r = false := by
  rw [srcBad, (h r.toNat).1, Bool.and_false]

/-- Good data stays good data. -/
theorem xclean_of_good {s : State} {x : Nat} (h : isPoison s (.xreg s.cur x) = false) : xclean s x = s := by
  have hmem : s.poison.contains (.xreg s.cur x) = false := h
  unfold xclean setPoison
  split
  · rfl
  · rw [if_neg Bool.false_ne_true, hmem, if_neg Bool.false_ne_true]

section
variable {i : Instr} {e : Bool} {d : SReg} {x : Nat} {s : State}

theorem xwrite_light (hx : fullReg x = true) (hlight : isLight s.cur = true) {v : State → Word} : xwrite i e d x v s = illopOf i s := by
  rw [xwrite, hx, hlight]; rfl

/-- An XWR that is denied traps PRIV: at once where no operand could help it, else by its operand (R143). -/
theorem xwrite_denied (hclean : s.OwnClean) (hhas : fullReg x = true → isLight s.cur = false)
    (hno : xwriteDenied s x (rs s d) = true) : xwrite i e d x (fun s => rs s d) s = privOf i s := by
  have hfull : (fullReg x && isLight s.cur) = false := by
    cases hx : fullReg x
    · rfl
    · exact hhas hx
  rw [xwrite, hfull, if_neg Bool.false_ne_true, withSrc_one_good (srcBad_of_ownClean hclean d), if_pos hno, ite_self]

theorem xwriteDenied_readOnly (h : readOnlyReg x = true) (v : Word) : xwriteDenied s x v = true := by
  rw [xwriteDenied, h]; rfl

/-- An XWR that passes its checks writes its register and nothing else beside the word's place (R143). -/
theorem xwrite_retires (hclean : s.OwnClean) (hhas : fullReg x = true → isLight s.cur = false)
    (hok : xwriteDenied s x (rs s d) = false) (hloop : x ≠ 0x20) :
    ∃ t, xwrite i e d x (fun s => rs s d) s = .next t ∧ PassedOver (xwriteCtx x (rs s d) (me s)) s t := by
  have hfull : (fullReg x && isLight s.cur) = false := by
    cases hx : fullReg x
    · rfl
    · exact hhas hx
  have hearly : (readOnlyReg x || ((x == 0x03 || x == 0x05) && !isSupervisor (me s))) = false := by
    revert hok
    rw [xwriteDenied]
    cases readOnlyReg x <;> cases x == 0x03 <;> cases x == 0x05 <;> cases isSupervisor (me s) <;> simp
  have hgood : isPoison (onMe s (xwriteCtx x (rs s d))) (.xreg (onMe s (xwriteCtx x (rs s d))).cur x) = false := (hclean x).2
  refine ⟨retire e 4 (onMe s (xwriteCtx x (rs s d))), ?_, ?_⟩
  · rw [xwrite, hfull, if_neg Bool.false_ne_true, hearly, if_neg Bool.false_ne_true,
      withSrc_one_good (srcBad_of_ownClean hclean d), hok, if_neg Bool.false_ne_true, if_neg hloop, xclean_of_good hgood]
  · obtain ⟨hown, hplace⟩ := (touched_onMe s (xwriteCtx x (rs s d))).retire e 4
    rw [me_onMe] at hplace
    exact ⟨hown, hplace, by simp⟩

end

-- The values written, as the rules give them.

theorem setFld_fld (w v : Word) (n : Nat) : setFld w 0 n v.toNat = setFld w 0 n (fld v 0 n) := by
  simp [setFld, fld, natField]

theorem testBit_fld (w : Word) (lo n i : Nat) : (fld w lo n).testBit i = (decide (i < n) && w.toNat.testBit (lo + i)) :=
  testBit_natField ..

/-- A field of a masked word is that field masked. -/
theorem fld_maskW (v : Word) (m lo n : Nat) (hm : m < 2 ^ 64) : fld (maskW v m) lo n = fld v lo n &&& natField m lo n := by
  refine Nat.eq_of_testBit_eq fun i => ?_
  rw [testBit_fld, Nat.testBit_and, testBit_fld, testBit_natField, maskW, BitVec.toNat_and, Nat.testBit_and, BitVec.toNat_ofNat,
    Nat.mod_eq_of_lt hm]
  cases decide (i < n) <;> simp

/-- What a write of XTRAPC keeps of its operand (R327). -/
theorem xtrapc_fields (v : Word) :
    let w := maskW v 0x3F1F3F
    fld w 0 6 = fld v 0 6 ∧ fld w 6 2 = 0 ∧ fld w 8 5 = fld v 8 5 ∧ fld w 13 3 = 0 ∧ fld w 16 6 = fld v 16 6 ∧ fld w 22 42 = 0 := by
  have keep : ∀ lo n, fld v lo n &&& (2 ^ n - 1) = fld v lo n := fun lo n => by
    rw [Nat.and_two_pow_sub_one_eq_mod]; exact Nat.mod_eq_of_lt (natField_lt v.toNat lo n)
  refine ⟨?_, ?_, ?_, ?_, ?_, ?_⟩ <;> rw [fld_maskW v 0x3F1F3F _ _ (by decide)]
  · exact keep 0 6
  · exact Nat.and_zero _
  · exact keep 8 5
  · exact Nat.and_zero _
  · exact keep 16 6
  · exact Nat.and_zero _

theorem xwriteCtx_xstat (v : Word) (c : Ctx) : xwriteCtx 0x01 v c =
    { c with xstat := BitVec.ofNat 64 (fld v 0 1 + bitNat (bitAt c.xstat 1 && bitAt v 1) * 2 + fld v 8 56 * 2 ^ 8) } := by
  have hth : fld v 0 1 = v.toNat % 2 := by simp [fld, natField]
  rw [hth]; rfl

theorem xwriteCtx_xprio (v : Word) (c : Ctx) : xwriteCtx 0x02 v c = { c with xprio := setFld c.xprio 0 7 (fld v 0 7) } := by
  rw [← setFld_fld]; rfl

theorem xwriteCtx_xtenant (v : Word) (c : Ctx) : xwriteCtx 0x05 v c = { c with tenant := BitVec.ofNat 12 (fld v 0 12) } := by
  have h : BitVec.ofNat 12 v.toNat = BitVec.ofNat 12 (fld v 0 12) := BitVec.eq_of_toNat_eq (by simp [fld, natField])
  rw [← h]; rfl

/-- A write of a format register changes that register alone (R127). -/
theorem xwriteCtx_format (v : Word) (c : Ctx) (k : BitVec 6) :
    ∃ m, xwriteCtx (0x40 + k.toNat) v c = { c with xfte := m } ∧
      ∀ j, smGetD m j 0 = if j = k.toNat then v &&& 0x8FFFFFFF else smGetD c.xfte j 0 := by
  refine ⟨smSet c.xfte k.toNat (v &&& 0x8FFFFFFF) 0, ?_, fun j => smGetD_smSet ..⟩
  rw [Nat.add_comm]; rfl

/-- Settles O5: an XWR that passes its checks writes its register, one that does not traps before or after its operand is read. -/
theorem xwrWritesWhereItMay : Obligations.XwrWritesWhereItMay := by
  refine ⟨?writes, ?denied, ?tenant⟩
  case writes =>
    intro e d s hclean c v W
    have hW : ∀ x : BitVec 17, (fullReg x.toNat = true → isLight s.cur = false) → xwriteDenied s x.toNat v = false →
        x.toNat ≠ 0x20 → W x (xwriteCtx x.toNat v c) := fun x => xwrite_retires hclean
    have hfree : ∀ x : BitVec 17, x.toNat < 0x20 → readOnlyReg x.toNat = false → x.toNat ≠ 2 → x.toNat ≠ 3 → x.toNat ≠ 5 →
        W x (xwriteCtx x.toNat v c) := fun x hx hro h2 h3 h5 =>
      hW x (fun hfull => absurd (of_decide_eq_true hfull) (by omega)) (by simp [xwriteDenied, hro, h2, h3, h5]) (by omega)
    refine ⟨?_, fun hmay => ?_, fun hsup => ?_, hfree 0x04 (by decide) rfl (by decide) (by decide) (by decide),
      hfree 0x09 (by decide) rfl (by decide) (by decide) (by decide), hfree 0x0A (by decide) rfl (by decide) (by decide) (by decide),
      hfree 0x0B (by decide) rfl (by decide) (by decide) (by decide), hfree 0x11 (by decide) rfl (by decide) (by decide) (by decide),
      hfree 0x12 (by decide) rfl (by decide) (by decide) (by decide), hfree 0x18 (by decide) rfl (by decide) (by decide) (by decide),
      hfree 0x19 (by decide) rfl (by decide) (by decide) (by decide),
      ⟨maskW v 0x3F1F3F, hfree 0x08 (by decide) rfl (by decide) (by decide) (by decide), xtrapc_fields v⟩, fun hfull => ?_⟩
    · exact xwriteCtx_xstat v c ▸ hfree 0x01 (by decide) rfl (by decide) (by decide) (by decide)
    · refine xwriteCtx_xprio v c ▸ hW 0x02 (fun hfull => absurd hfull (by decide)) ?_ (by decide)
      rcases hmay with h | h
      · simp [xwriteDenied, readOnlyReg, show isSupervisor (me s) = true from h]
      · simp [xwriteDenied, readOnlyReg, show fld v 0 7 ≤ fld (me s).xprio 8 7 from h]
    · refine hW 0x03 (fun hfull => absurd hfull (by decide)) ?_ (by decide)
      simp [xwriteDenied, readOnlyReg, show isSupervisor (me s) = true from hsup]
    · refine ⟨hW 0x21 (fun _ => hfull) ?_ (by decide), hW 0x23 (fun _ => hfull) ?_ (by decide), fun k => ?_⟩
      · simp [xwriteDenied, readOnlyReg]
      · simp [xwriteDenied, readOnlyReg]
      have hk : (BitVec.ofNat 17 (0x40 + k.toNat)).toNat = 0x40 + k.toNat := by rw [BitVec.toNat_ofNat]; omega
      obtain ⟨m, hm, hread⟩ := xwriteCtx_format v c k
      have hok : xwriteDenied s (BitVec.ofNat 17 (0x40 + k.toNat)).toNat v = false := by
        rw [hk]
        simp [xwriteDenied, readOnlyReg, show ∀ n, n < 0x40 → 0x40 + k.toNat ≠ n from fun n hn => by omega]
      have hwrote := hW _ (fun _ => hfull) hok (by rw [hk]; omega)
      rw [hk, hm] at hwrote
      exact ⟨m, hwrote, hread⟩
  case denied =>
    intro e d x s hclean no
    have deny : (fullReg x.toNat = true → isLight s.cur = false) → xwriteDenied s x.toNat (rs s d) = true → no 2 := fun hhas hno =>
      trapsWith_priv (xwrite_denied hclean hhas hno)
    refine ⟨fun hlight hx => ?_, fun hx => ?_, fun hsup hx => ?_, fun hsup hx hceil => ?_, fun hx htenant => ?_⟩
    · have hfull : fullReg x.toNat = true := decide_eq_true hx
      refine ⟨trapsWith_illop (xwrite_light hfull hlight), trapsWith_illop ?_⟩
      rw [exec_xrd, execXrd, hfull, hlight]; rfl
    · rcases hx with rfl | rfl | ⟨hfull, rfl | rfl⟩
      · exact deny (fun h => absurd h (by decide)) (xwriteDenied_readOnly rfl _)
      · exact deny (fun h => absurd h (by decide)) (xwriteDenied_readOnly rfl _)
      · exact deny (fun _ => hfull) (xwriteDenied_readOnly rfl _)
      · exact deny (fun _ => hfull) (xwriteDenied_readOnly rfl _)
    · rcases hx with rfl | rfl <;> exact deny (fun h => absurd h (by decide)) (by simp [xwriteDenied, hsup])
    · subst hx
      exact deny (fun h => absurd h (by decide)) (by simp [xwriteDenied, hsup, hceil])
    · subst hx
      exact deny (fun h => absurd h (by decide)) (by simp [xwriteDenied, htenant])
  case tenant =>
    intro e d s hclean hsup t htenant hframe
    have hok : xwriteDenied s 0x05 (rs s d) = false := by
      have hin : tenantIn s (fld (rs s d) 0 12) (myPart s) = true := htenant
      cases hframeAt : frameAt s (coreOf s.cur) with
      | none => simp [xwriteDenied, readOnlyReg, hsup, hin, hframeAt]
      | some fn => simp [xwriteDenied, readOnlyReg, hsup, hin, hframeAt, show worldOf s (fld (rs s d) 0 12) = _ from hframe fn.1 fn.2 hframeAt]
    have hret : ∀ i, ∃ u, xwrite i e d 0x05 (fun s => rs s d) s = .next u ∧ PassedOver { me s with tenant := BitVec.ofNat 12 t } s u :=
      fun i => xwriteCtx_xtenant (rs s d) (me s) ▸ xwrite_retires hclean (fun h => absurd h (by decide)) hok (by decide)
    intro i hi
    rcases List.mem_pair.1 hi with rfl | rfl
    · exact hret _
    · exact hret _

end Sys2Proof.Machine
end

section
/-! SUPPORT. What performed stores leave alone: writes at the homes, the watches that they fire, the drains and releases that
bring them about, and the writes of the schedulers (R208, R216, R243). -/

namespace Sys2Proof.Machine

-- Watches: a fired watch is all that a write changes of a context (R243).

/-- From `s` to `t`, a context has changed by the firing of its watch alone. -/
def WatchOnly (s t : State) : Prop := ∀ id, getCtx t id = { getCtx s id with watchFired := (getCtx t id).watchFired }

namespace WatchOnly

variable {s t u : State}

theorem of_ctxs (h : t.ctxs = s.ctxs) : WatchOnly s t := fun id => by rw [getCtx, h]; rfl
theorem refl (s : State) : WatchOnly s s := of_ctxs rfl
theorem trans (h : WatchOnly s t) (g : WatchOnly t u) : WatchOnly s u := fun id => by rw [g id, h id]
theorem foldl {α : Type} {f : State → α → State} (hf : ∀ s a, WatchOnly s (f s a)) (l : List α) (s : State) :
    WatchOnly s (l.foldl f s) := by
  induction l generalizing s with
  | nil => exact refl s
  | cons a l ih => exact (hf s a).trans (ih _)
theorem ite {c : Prop} [Decidable c] (ht : WatchOnly s t) (hu : WatchOnly s u) : WatchOnly s (if c then t else u) := by
  split <;> assumption

end WatchOnly

theorem fired_eq (key : Nat) (c : Ctx) : fired key c = { c with watchFired := (fired key c).watchFired } := by
  unfold fired; split <;> rfl

/-- A context after a watch has fired. -/
theorem getCtx_mapFired (s t : State) (key id : Nat) (h : t.ctxs = s.ctxs.map fun e => (e.1, fired key e.2)) :
    getCtx t id = fired key (getCtx s id) := by
  rw [getCtx, h, smGetD, smGet_map s.ctxs (fun _ c => fired key c), getCtx, smGetD]
  cases smGet s.ctxs id <;> rfl

theorem fireWatch_watchOnly (s : State) (key : Nat) : WatchOnly s (fireWatch s key) := by
  unfold fireWatch
  split
  · intro id
    rw [getCtx_mapFired s _ key id rfl]
    exact fired_eq key _
  · exact WatchOnly.refl s

-- Performed stores.

/-- From `s` to `t`, stores have been performed: memory with its poison and copies, the stores on their way and the ports, and
fired watches with the waits that they end are all that has changed. -/
def Performed (s t : State) : Prop :=
  t = { s with mem := t.mem, poison := t.poison, cores := t.cores, dies := t.dies, ctxs := t.ctxs, saved := t.saved,
               agenda := t.agenda } ∧ WatchOnly s t

namespace Performed

variable {s t u : State}

theorem refl (s : State) : Performed s s := ⟨rfl, WatchOnly.refl s⟩
theorem trans (h : Performed s t) (g : Performed t u) : Performed s u := ⟨by rw [g.1, h.1], h.2.trans g.2⟩
theorem foldl {α : Type} {f : State → α → State} (hf : ∀ s a, Performed s (f s a)) (l : List α) (s : State) :
    Performed s (l.foldl f s) := by
  induction l generalizing s with
  | nil => exact refl s
  | cons a l ih => exact (hf s a).trans (ih _)
theorem ite {c : Prop} [Decidable c] (ht : Performed s t) (hu : Performed s u) : Performed s (if c then t else u) := by
  split <;> assumption

theorem watch (h : Performed s t) : WatchOnly s t := h.2
theorem cur (h : Performed s t) : t.cur = s.cur := by rw [h.1]
theorem launches (h : Performed s t) : t.launches = s.launches := by rw [h.1]
theorem images (h : Performed s t) : t.images = s.images := by rw [h.1]
theorem tasks (h : Performed s t) : t.tasks = s.tasks := by rw [h.1]
theorem parts (h : Performed s t) : t.parts = s.parts := by rw [h.1]
theorem fns (h : Performed s t) : t.fns = s.fns := by rw [h.1]
theorem clusters (h : Performed s t) : t.clusters = s.clusters := by rw [h.1]
theorem barriers (h : Performed s t) : t.barriers = s.barriers := by rw [h.1]

theorem memWrite (s : State) (pa : Nat) (bs : List Byte) : Performed s (memWrite s pa bs) := by
  unfold Machine.memWrite
  exact ite ⟨rfl, WatchOnly.of_ctxs rfl⟩ ⟨rfl, WatchOnly.of_ctxs rfl⟩

theorem setPoison (s : State) (p : PLoc) (b : Bool) : Performed s (setPoison s p b) := by
  rw [setPoison_eq]; exact ⟨rfl, WatchOnly.of_ctxs rfl⟩

theorem memWritePB (s : State) (pa : Nat) (bs : List PB) : Performed s (memWritePB s pa bs) := by
  unfold Machine.memWritePB
  exact ite ((memWrite s pa _).trans (foldl (fun s g => ite (setPoison s _ _) (refl s)) _ _)) (memWrite s pa _)

theorem modCore (s : State) (n : Nat) (f : Core → Core) : Performed s (modCore s n f) := ⟨rfl, WatchOnly.of_ctxs rfl⟩
theorem modDie (s : State) (n : Nat) (f : Die → Die) : Performed s (modDie s n f) := ⟨rfl, WatchOnly.of_ctxs rfl⟩
theorem raise (s : State) (es : List Event) : Performed s (raise s es) := ⟨rfl, WatchOnly.of_ctxs rfl⟩

theorem fireWatch (s : State) (key : Nat) : Performed s (fireWatch s key) := by
  refine ⟨?_, fireWatch_watchOnly s key⟩
  unfold Machine.fireWatch
  split <;> rfl

theorem homeWrite (s : State) (die part line off : Nat) (bs : List PB) (drop : Bool) :
    Performed s (homeWrite s die part line off bs drop) := by
  unfold Machine.homeWrite
  exact ((memWritePB s _ bs).trans (ite (refl _) (modDie _ _ _))).trans (fireWatch _ _)

theorem performPending (die part : Nat) (s : State) (p : Pending) : Performed s (performPending die part s p) :=
  foldl (fun s _ => homeWrite s _ _ _ _ _ _) _ s

theorem portRequest (s : State) (core tenant bytes : Nat) : Performed s (portRequest s core tenant bytes) := by
  unfold Machine.portRequest
  split
  · exact refl s
  · exact modCore s _ _

theorem drainWhere (s : State) (unit : Nat) (f : Pending → Bool) : Performed s (drainWhere s unit f) := by
  unfold Machine.drainWhere
  exact ite ((modCore s _ _).trans (foldl (fun s p => (portRequest s _ _ _).trans (performPending _ _ _ p)) _ _)) (refl s)

theorem releaseDrain (s : State) (id sc : Nat) : Performed s (releaseDrain s id sc) := by
  unfold Machine.releaseDrain
  exact ite (drainWhere s _ _) (ite (refl s) (modCore s _ _))

/-- A release without a synchronising line (R216). -/
theorem release (s : State) (id sc : Nat) : Performed s (release s id sc none) := releaseDrain s id sc

theorem flushQuad (q : Nat) (s : State) : Performed s (flushQuad q s) :=
  foldl (fun s k => (drainWhere s k _).trans (ite (refl _) (modCore _ _ _))) _ s

theorem sysPut (s : State) (part pa : Nat) (bs : List Byte) : Performed s (sysPut s part pa bs) := homeWrite s ..

theorem sysWrite (part tenant : Nat) (u : Use) (n : Nat) (s : State) (va : Word) (bs : List Byte) :
    Performed s (sysWrite part tenant u n s va bs).2 := by
  induction n generalizing s va bs with
  | zero => exact refl s
  | succ n ih =>
    simp only [Machine.sysWrite]
    split
    · exact refl s
    · split
      · exact refl s
      · exact (sysPut s _ _ _).trans (ih _ _ _)

theorem sysStore (s : State) (part tenant : Nat) (u : Use) (va : Word) (bs : List Byte) :
    Performed s (sysStore s part tenant u va bs).2 := sysWrite ..

theorem writeStatus (s : State) (l : Launch) (state : Nat) : Performed s (writeStatus s l state) := sysStore s ..

end Performed

/-- A read of memory after bytes with their poison are written. -/
theorem memWritePB_mem (s : State) (pa : Nat) (bs : List PB) : (memWritePB s pa bs).mem = (memWrite s pa (bytesOf bs)).mem := by
  have hfold : ∀ (l : List Nat) (f : State → Nat → Bool) (p : Nat → PLoc) (s : State),
      (l.foldl (fun s g => if f s g then setPoison s (p g) true else s) s).mem = s.mem := by
    intro l f p
    induction l with
    | nil => exact fun s => rfl
    | cons g l ih =>
      intro s
      rw [List.foldl_cons, ih]
      split
      · rw [setPoison_eq]
      · rfl
  unfold memWritePB
  split
  · exact hfold _ (fun _ g => ((rangeFrom pa bs.length).zip bs).any fun e => e.1 / 8 == g && e.2.2) PLoc.mem _
  · rfl

theorem bytesOf_getElem? (bs : List PB) (j : Nat) : (bytesOf bs)[j]? = (bs[j]?).map (·.1) := by
  simp [bytesOf]

/-- Each byte written stands at its address. -/
theorem memByte_memWritePB (s : State) (pa : Nat) (bs : List PB) {j : Nat} {b : PB} (h : bs[j]? = some b) :
    memByte (memWritePB s pa bs) (pa + j) = b.1 := by
  have hbyte : (bytesOf bs)[j]? = some b.1 := by rw [bytesOf_getElem?, h]; rfl
  rw [memByte, memWritePB_mem]
  change memByte (memWrite s pa (bytesOf bs)) (pa + j) = b.1
  rw [memByte_memWrite, if_pos (by omega), Nat.add_sub_cancel_left, hbyte]
  rfl

end Sys2Proof.Machine
end

section
/-! SUPPORT. A launch record's checks and start (R73), the changes of a launch's queues (R62, R76), and the commands of a function
over them (R62, R73, R368, R369, R371). -/

namespace Sys2Proof.Machine

-- The start of a launch (R62, R73).

theorem launchCheck_le (s : State) (l : Launcher) (r : LaunchRec) : launchCheck s l r ≤ 6 := by
  unfold launchCheck
  repeat' split
  all_goals omega

theorem freeLaunch_lt {s : State} {lid : Nat} (h : freeLaunch s = some lid) : lid < 256 := by
  have hmem := mem_rangeFrom.1 (List.mem_of_find?_eq_some h)
  omega

theorem launchRecord_refused {s : State} {l : Launcher} {r : LaunchRec} (h : launchCheck s l r ≠ 0) :
    launchRecord s l r = (natW (launchCheck s l r), s) := by
  unfold launchRecord
  split
  · next h0 _ => exact absurd h0 h
  · rfl

theorem launchRecord_started {s : State} {l : Launcher} {r : LaunchRec} {lid : Nat} (h : launchCheck s l r = 0)
    (hfree : freeLaunch s = some lid) : launchRecord s l r = (natW (lid * 2 ^ 16), startLaunch s l r lid) := by
  simp only [launchRecord, h, hfree]

/-- A launch with the least instances of one of its stages, where that is a source stage. -/
def sourceInsts (x : Launch) (e : Nat × Stage) : Launch := if e.2.inq.isNone then makeInsts e.1 e.2.min x else x

/-- The launch that a record's start puts into its slot. -/
def startedLaunch (s : State) (l : Launcher) (r : LaunchRec) : Launch :=
  ((rangeFrom 0 r.stages.length).zip r.stages).foldl sourceInsts
    { part := l.part, fn := l.fn, tenant := r.tenant, fuse := r.fuse, hprio := r.hprio, map := r.map, save := r.save,
      status := r.status, deadline := if r.deadline = 0 then 0x10000 else xdeadlineWrite (natW r.deadline), seed := natW r.seed,
      stages := r.stages, queues := settleDies s l.part r, insts := [] }

theorem foldl_loadPlace_eq (part : Nat) (ds : List Nat) (s : State) :
    ∃ x, ds.foldl (fun s d => loadPlace part d s) s = { s with dies := x } := by
  induction ds generalizing s with
  | nil => exact ⟨s.dies, rfl⟩
  | cons d ds ih => obtain ⟨x, hx⟩ := ih (loadPlace part d s); exact ⟨x, hx⟩

/-- A start fills the slot, loads the place tables and calls the schedulers. -/
theorem startLaunch_eq (s : State) (l : Launcher) (r : LaunchRec) (lid : Nat) :
    ∃ ds ms, startLaunch s l r lid =
      { s with dies := ds, agenda := ms, launches := smPut s.launches lid (startedLaunch s l r) } := by
  obtain ⟨ds, hds⟩ := foldl_loadPlace_eq l.part (rangeFrom 0 4) s
  unfold startLaunch
  rw [hds]
  exact ⟨ds, _, rfl⟩

/-- Instances of one stage. -/
def stageInsts (l : Launch) (k : Nat) : Nat := (l.insts.filter fun x => x.stage == k).length

theorem makeInsts_eq (k n : Nat) (l : Launch) :
    ∃ is m, makeInsts k n l = { l with insts := l.insts ++ is, serial := m } ∧ is.length = n ∧
      ∀ x ∈ is, x.stage = k ∧ x.st = .pending ∧ x.members = [] := by
  induction n generalizing l with
  | zero => exact ⟨[], l.serial, by rw [List.append_nil]; rfl, rfl, fun x hx => absurd hx List.not_mem_nil⟩
  | succ n ih =>
    obtain ⟨is, m, hl, hlen, his⟩ := ih (makeInst l k)
    refine ⟨{ stage := k, serial := l.serial, st := .pending, members := [] } :: is, m, ?_, by rw [List.length_cons, hlen], ?_⟩
    · rw [makeInsts, hl]; simp [makeInst]
    · exact List.forall_mem_cons.2 ⟨⟨rfl, rfl, rfl⟩, his⟩

/-- How many instances a stage starts with: its least number where it is a source stage (R62). -/
def sourceCount (t : Stage) : Nat := if t.inq = none then t.min else 0

theorem sourceInsts_eq (x : Launch) (e : Nat × Stage) :
    ∃ is m, sourceInsts x e = { x with insts := x.insts ++ is, serial := m } ∧ is.length = sourceCount e.2 ∧
      ∀ i ∈ is, i.stage = e.1 ∧ i.st = .pending ∧ i.members = [] := by
  unfold sourceInsts sourceCount
  cases hq : e.2.inq with
  | none => exact makeInsts_eq e.1 e.2.min x
  | some q => exact ⟨[], x.serial, by rw [List.append_nil]; rfl, rfl, fun i hi => absurd hi List.not_mem_nil⟩

/-- The start of stages changes no more of a launch than its instances and serials. -/
theorem foldl_sourceInsts_eq (es : List (Nat × Stage)) (x : Launch) :
    es.foldl sourceInsts x = { x with insts := (es.foldl sourceInsts x).insts, serial := (es.foldl sourceInsts x).serial } := by
  induction es generalizing x with
  | nil => rfl
  | cons e es ih =>
    obtain ⟨is, m, hx, -⟩ := sourceInsts_eq x e
    rw [List.foldl_cons, ih, hx]

theorem foldl_sourceInsts_pending (es : List (Nat × Stage)) (x : Launch) (hx : ∀ i ∈ x.insts, i.st = .pending ∧ i.members = []) :
    ∀ i ∈ (es.foldl sourceInsts x).insts, i.st = .pending ∧ i.members = [] := by
  induction es generalizing x with
  | nil => exact hx
  | cons e es ih =>
    obtain ⟨is, m, he, -, his⟩ := sourceInsts_eq x e
    refine ih _ fun i hi => ?_
    rw [he] at hi
    exact (List.mem_append.1 hi).elim (hx i) fun h => (his i h).2

/-- Each stage of a list, numbered from `a` on, starts with its own count of instances. -/
theorem stageInsts_foldl_sourceInsts (ts : List Stage) (a k : Nat) (x : Launch) :
    stageInsts (((rangeFrom a ts.length).zip ts).foldl sourceInsts x) k =
      stageInsts x k + if a ≤ k then ((ts[k - a]?).map sourceCount).getD 0 else 0 := by
  induction ts generalizing a x with
  | nil => simp [rangeFrom]
  | cons t ts ih =>
    obtain ⟨is, m, hx, hlen, his⟩ := sourceInsts_eq x (a, t)
    have hone : stageInsts (sourceInsts x (a, t)) k = stageInsts x k + if a = k then sourceCount t else 0 := by
      have hfilter : is.filter (fun i => i.stage == k) = if a = k then is else [] := by
        split
        · next h => exact List.filter_eq_self.2 fun i hi => by rw [(his i hi).1, h]; exact beq_self_eq_true k
        · next h => exact List.filter_eq_nil_iff.2 fun i hi => by rw [(his i hi).1, beq_iff_eq]; exact h
      rw [hx, stageInsts, List.filter_append, List.length_append, hfilter, stageInsts]
      split <;> simp [hlen]
    rw [List.length_cons, rangeFrom, List.zip_cons_cons, List.foldl_cons, ih, hone]
    by_cases hk : a = k
    · subst hk; simp
    · by_cases hle : a ≤ k
      · have hnext : a + 1 ≤ k := by omega
        have hidx : k - a = (k - (a + 1)) + 1 := by omega
        rw [if_neg hk, if_pos hnext, if_pos hle, hidx, List.getElem?_cons_succ]; omega
      · rw [if_neg hk, if_neg hle, if_neg (by omega)]

theorem startedLaunch_fields (s : State) (l : Launcher) (r : LaunchRec) :
    let x := startedLaunch s l r
    x.part = l.part ∧ x.fn = l.fn ∧ x.tenant = r.tenant ∧ x.stages = r.stages ∧ x.code = 0 ∧ x.stranded = 0 ∧
      x.queues = settleDies s l.part r := by
  dsimp only
  rw [startedLaunch, foldl_sourceInsts_eq]
  exact ⟨rfl, rfl, rfl, rfl, rfl, rfl, rfl⟩

theorem startedLaunch_pending (s : State) (l : Launcher) (r : LaunchRec) :
    ∀ i ∈ (startedLaunch s l r).insts, i.st = .pending ∧ i.members = [] :=
  foldl_sourceInsts_pending _ _ fun _ hi => absurd hi List.not_mem_nil

theorem startedLaunch_count (s : State) (l : Launcher) (r : LaunchRec) {k : Nat} {t : Stage} (h : r.stages[k]? = some t) :
    ((startedLaunch s l r).insts.filter fun x => x.stage == k).length = if t.inq = none then t.min else 0 := by
  have hcount := stageInsts_foldl_sourceInsts r.stages 0 k
    { part := l.part, fn := l.fn, tenant := r.tenant, fuse := r.fuse, hprio := r.hprio, map := r.map, save := r.save,
      status := r.status, deadline := if r.deadline = 0 then 0x10000 else xdeadlineWrite (natW r.deadline), seed := natW r.seed,
      stages := r.stages, queues := settleDies s l.part r, insts := [] }
  rw [if_pos (Nat.zero_le k), Nat.sub_zero, h] at hcount
  exact hcount.trans (Nat.zero_add _)

/-- The queues of a record are empty and open. -/
theorem settleDies_launchRec {s : State} {part : Nat} {bs : List Byte} {q : StageQueue} (h : q ∈ settleDies s part (launchRec bs)) :
    q.closed = false ∧ q.entries = [] := by
  obtain ⟨⟨i, y⟩, hmem, rfl⟩ := List.mem_map.1 h
  obtain ⟨j, -, rfl⟩ := List.mem_map.1 (List.of_mem_zip hmem).2
  dsimp only
  split <;> exact ⟨rfl, rfl⟩

-- Queues of a launch (R62, R76).

theorem launchQueueAt_of_get {s : State} {lid q : Nat} {l : Launch} (h : smGet s.launches lid = some l) :
    launchQueueAt s lid q = l.queues[q]? := by
  rw [launchQueueAt, h]; rfl

theorem modLaunch_of_get {s : State} {lid : Nat} {l : Launch} (h : smGet s.launches lid = some l) (f : Launch → Launch) :
    modLaunch s lid f = { s with launches := smPut s.launches lid (f l) } := by
  rw [modLaunch, h]

theorem setQueue_get {s : State} {lid q : Nat} {l : Launch} (h : smGet s.launches lid = some l) (x : StageQueue) :
    smGet (setQueue s lid q x).launches lid = some { l with queues := l.queues.set q x } := by
  rw [setQueue, modLaunch_of_get h, smGet_smPut, if_pos rfl]

/-- A change of a queue is a change of the launches alone. -/
theorem setQueue_eq (s : State) (lid q : Nat) (x : StageQueue) :
    setQueue s lid q x = { s with launches := (setQueue s lid q x).launches } := by
  unfold setQueue modLaunch; split <;> rfl

theorem launchQueueAt_setQueue {s : State} {lid q : Nat} {l : Launch} {y : StageQueue} (h : smGet s.launches lid = some l)
    (hq : l.queues[q]? = some y) (x : StageQueue) : launchQueueAt (setQueue s lid q x) lid q = some x := by
  obtain ⟨hlen, -⟩ := List.getElem?_eq_some_iff.1 hq
  rw [launchQueueAt_of_get (setQueue_get h x)]
  simp [hlen]

/-- What closing queues leaves of one: its entries, and a closed queue closed. -/
def ClosedMore (x y : StageQueue) : Prop := y.entries = x.entries ∧ (x.closed = true → y.closed = true)

theorem closeQueues_get {l : Launch} {q : Nat} {y : StageQueue} (h : (closeQueues l).queues[q]? = some y) :
    ∃ x, l.queues[q]? = some x ∧ ClosedMore x y := by
  rw [closeQueues, List.getElem?_map, Option.map_eq_some_iff] at h
  obtain ⟨⟨i, x⟩, hzip, rfl⟩ := h
  refine ⟨x, (List.getElem?_zip_eq_some.1 hzip).2, ?_⟩
  dsimp only
  split
  · exact ⟨rfl, fun _ => rfl⟩
  · exact ⟨rfl, id⟩

theorem closeAll_get {l : Launch} {n q : Nat} {y : StageQueue} (h : (closeAll n l).queues[q]? = some y) :
    ∃ x, l.queues[q]? = some x ∧ ClosedMore x y := by
  induction n generalizing l with
  | zero => exact ⟨y, h, rfl, id⟩
  | succ n ih =>
    obtain ⟨x, hx, hentries, hclosed⟩ := ih h
    obtain ⟨w, hw, hentries', hclosed'⟩ := closeQueues_get hx
    exact ⟨w, hw, hentries.trans hentries', hclosed ∘ hclosed'⟩

theorem appendLog_launches (s : State) (tenant kind status ver handle : Nat) (nonce : Word) :
    (appendLog s tenant kind status ver handle nonce).launches = s.launches := by
  unfold appendLog; dsimp only; split <;> rfl

theorem endLaunch_launches (s : State) (lid : Nat) (l : Launch) (state : Nat) :
    (endLaunch s lid l state).launches = smDel s.launches lid := by
  rw [endLaunch, appendLog_launches, (Performed.writeStatus _ l state).launches]

/-- What follows a change of a launch: it ends, or its queues close further and memory stands. -/
theorem settleLaunch_of_get {s : State} {lid : Nat} {l : Launch} (h : smGet s.launches lid = some l) :
    smGet (settleLaunch lid s).launches lid = none ∨
      (smGet (settleLaunch lid s).launches lid = some (closeAll l.stages.length l) ∧ (settleLaunch lid s).mem = s.mem) := by
  rw [settleLaunch, h]
  dsimp only
  split
  · left
    change smGet (endLaunch _ lid _ 1).launches lid = none
    rw [endLaunch_launches, smGet_smDel, if_pos rfl]
  · right
    refine ⟨?_, rfl⟩
    change smGet (smPut s.launches lid _) lid = _
    rw [smGet_smPut, if_pos rfl]

/-- A queue that is changed and whose launch then settles is as it was put, but that it may be closed, and the memory stands;
or the launch has ended. -/
theorem launchQueueAt_settleLaunch {s : State} {lid q : Nat} {l : Launch} {x y z : StageQueue} (h : smGet s.launches lid = some l)
    (hq : l.queues[q]? = some z) (hy : launchQueueAt (settleLaunch lid (setQueue s lid q x)) lid q = some y) :
    ClosedMore x y ∧ (settleLaunch lid (setQueue s lid q x)).mem = s.mem := by
  obtain ⟨hlen, -⟩ := List.getElem?_eq_some_iff.1 hq
  rcases settleLaunch_of_get (setQueue_get (q := q) h x) with hnone | ⟨hsome, hmem⟩
  · rw [launchQueueAt, hnone] at hy; cases hy
  · rw [launchQueueAt_of_get hsome] at hy
    obtain ⟨w, hw, hmore⟩ := closeAll_get hy
    have hxw : x = w := by simpa [hlen] using hw
    exact ⟨hxw ▸ hmore, by rw [hmem, setQueue_eq]⟩

-- Commands (R369, R370).

theorem passEntry_eq (c : CmdSrc) (f : Fn) : passEntry c f = { f with head := (passEntry c f).head } := by
  unfold passEntry; split <;> rfl

theorem memWrite_eq (s : State) (pa : Nat) (bs : List Byte) :
    memWrite s pa bs = { s with mem := (memWrite s pa bs).mem, poison := (memWrite s pa bs).poison } := by
  unfold memWrite; dsimp only; split <;> rfl

@[simp] theorem getFn_memWrite (s : State) (pa : Nat) (bs : List Byte) (k : Nat) : getFn (memWrite s pa bs) k = getFn s k := by
  rw [getFn, (Performed.memWrite s pa bs).fns, getFn]

/-- A command that is done has ended with its status. -/
theorem completed_of_cmdDone {i : Instr} {s s1 : State} {c : CmdSrc} {st : CmdStatus} (h : exec i s = cmdDone c st s1) :
    Completed i s c s1 st := by
  refine ⟨_, h, by rw [memWrite_eq]; rfl, fun a => ?_, fun f hf => ?_, ?_, fun hsize hempty hentry => ?_, ?_, ?_, ?_⟩
  · change memByte (memWrite s1 _ _) a = _
    rw [memByte_memWrite]
    by_cases ha : a = hostPa (c.entry + 1)
    · subst ha; simp
    · by_cases hle : hostPa (c.entry + 1) ≤ a
      · rw [if_pos hle, if_neg ha, List.getElem?_eq_none (by simp; omega)]; rfl
      · rw [if_neg hle, if_neg ha]
  all_goals rw [getFn_modFn]
  · rw [if_neg hf, getFn_memWrite]
  all_goals rw [if_pos rfl, getFn_memWrite]
  · simp only [passEntry, if_pos (show _ ∧ _ ∧ _ from ⟨hsize, hempty, hentry⟩)]
  · rw [passEntry_eq]
  · rw [passEntry_eq]
  · rw [passEntry_eq]

section
variable {c : CmdSrc} {s : State}

theorem launchCommandOf_unready (h : s.ready = false) (k : State → Out) : launchCommandOf c s k = .next s := by
  rw [launchCommandOf, h]; rfl
theorem launchCommandOf_pf1 (h : s.ready = true) (hfn : c.fn = 1) (k : State → Out) : launchCommandOf c s k = cmdDone c .denied s := by
  rw [launchCommandOf, h, hfn]; rfl
theorem launchCommandOf_runs (h : s.ready = true) (hfn : c.fn ≠ 1) (k : State → Out) : launchCommandOf c s k = k s := by
  rw [launchCommandOf, h, if_neg hfn]; rfl

variable {lid q : Nat}

theorem withQueue_no_launch (h : s.ready = true) (hfn : c.fn ≠ 1) (hl : smGet s.launches lid = none)
    (k : Launch → StageQueue → State → Out) : withQueue c lid q s k = cmdDone c .format s := by
  rw [withQueue, launchCommandOf_runs h hfn, hl]
theorem withQueue_denied {l : Launch} (h : s.ready = true) (hfn : c.fn ≠ 1) (hl : smGet s.launches lid = some l) (hown : l.fn ≠ c.fn)
    (k : Launch → StageQueue → State → Out) : withQueue c lid q s k = cmdDone c .denied s := by
  simp only [withQueue, launchCommandOf_runs h hfn, hl, if_pos hown]
theorem withQueue_runs {l : Launch} {x : StageQueue} (h : s.ready = true) (hfn : c.fn ≠ 1) (hl : smGet s.launches lid = some l)
    (hown : l.fn = c.fn) (hq : l.queues[q]? = some x) (k : Launch → StageQueue → State → Out) : withQueue c lid q s k = k l x s := by
  simp only [withQueue, launchCommandOf_runs h hfn, hl, hown, hq, ne_eq, not_true_eq_false, if_false]

end

theorem replayNext_eq (s : State) (lid : Nat) : replayNext s lid = { s with replaying := (replayNext s lid).replaying } := by
  unfold replayNext; split <;> rfl
theorem logInput_eq (s : State) (lid kind q src seq : Nat) (bs : List Byte) :
    logInput s lid kind q src seq bs = { s with recorded := (logInput s lid kind q src seq bs).recorded } := by
  unfold logInput; split <;> rfl

/-- An entry joins its queue, and memory stands (R369). -/
theorem pushEntry_spec {s : State} {lid q : Nat} {l : Launch} {x : StageQueue} (h : smGet s.launches lid = some l)
    (hq : l.queues[q]? = some x) (bs : List PB) :
    (pushEntry s lid q x bs).mem = s.mem ∧
      launchQueueAt (pushEntry s lid q x bs) lid q = some { x with entries := x.entries ++ [bs], puts := x.puts + 1 } := by
  have hput := launchQueueAt_setQueue h hq { x with entries := x.entries ++ [bs], puts := x.puts + 1 }
  have hmem : (setQueue s lid q { x with entries := x.entries ++ [bs], puts := x.puts + 1 }).mem = s.mem := by rw [setQueue_eq]
  unfold pushEntry
  dsimp only
  split
  · exact ⟨hmem, hput⟩
  · exact ⟨hmem, hput⟩

theorem natW_toNat {n : Nat} (h : n < 2 ^ 64) : (natW n).toNat = n := by
  rw [natW, BitVec.toNat_ofNat]; exact Nat.mod_eq_of_lt h

theorem exec_queueCommands {c : CmdSrc} {lid q a : Nat} (s : State) :
    ∀ i ∈ [Instr.qput c lid q a, .qclose c lid q, .qget c lid q a], ∃ k, exec i s = withQueue c lid q s k := by
  simp only [List.forall_mem_cons, exec_qput, execQput, exec_qclose, execQclose, exec_qget, execQget]
  exact ⟨⟨_, rfl⟩, ⟨_, rfl⟩, ⟨_, rfl⟩, fun _ hi => absurd hi List.not_mem_nil⟩

/-- LAUNCH and the commands of queues are PF0's and the virtual functions' (R371). -/
theorem exec_launchCommands {c : CmdSrc} {p a lid q b : Nat} (s : State) :
    ∀ i ∈ [Instr.launchCommand c p a, .qput c lid q b, .qclose c lid q, .qget c lid q b], ∃ k, exec i s = launchCommandOf c s k := by
  refine List.forall_mem_cons.2 ⟨⟨_, by rw [exec_launchCommand, execLaunchCommand]⟩, fun i hi => ?_⟩
  obtain ⟨k, hk⟩ := exec_queueCommands s i hi
  exact ⟨_, hk⟩

-- LAUNCH of a function (R73).

section
variable {c : CmdSrc} {p a : Nat} {s : State} (hready : s.ready = true) (hfn : c.fn ≠ 1)
include hready hfn

theorem launchCommand_other_part (h : ((vfOf c.fn).any fun v => !partOfVf s p v) = true) :
    execLaunchCommand c p a s = cmdDone c .denied s := by
  rw [execLaunchCommand, launchCommandOf_runs hready hfn, if_pos h]

theorem launchCommand_unread (h : ((vfOf c.fn).any fun v => !partOfVf s p v) = false)
    (hrec : ∀ bs, sysLoad s p anyTenant .ls (natW (a / 64 * 64)) 512 ≠ .ok bs) :
    execLaunchCommand c p a s = cmdDone c .format (putRd c 0 s) := by
  rw [execLaunchCommand, launchCommandOf_runs hready hfn, h]
  cases hload : sysLoad s p anyTenant .ls (natW (a / 64 * 64)) 512 with
  | error e => rfl
  | ok bs => exact absurd hload (hrec bs)

variable {bs : List Byte} (h : ((vfOf c.fn).any fun v => !partOfVf s p v) = false)
  (hrec : sysLoad s p anyTenant .ls (natW (a / 64 * 64)) 512 = .ok bs)
include h hrec

theorem launchCommand_other_tenant (hother : ((vfOf c.fn).any fun v => !ofVf s (launchRec bs).tenant v) = true) :
    execLaunchCommand c p a s = cmdDone c .denied s := by
  simp only [execLaunchCommand, launchCommandOf_runs hready hfn, h, hrec, hother, Bool.false_eq_true, if_false, if_true]

theorem launchCommand_read (hother : ((vfOf c.fn).any fun v => !ofVf s (launchRec bs).tenant v) = false)
    (hmap : mapReadable s p (launchRec bs) = true) :
    execLaunchCommand c p a s =
      let r := launchRecord s { part := p, fn := c.fn, ceil := if c.fn = 0 then 127 else 119 } (launchRec bs)
      cmdDone c .done (putRd c r.1.toNat r.2) := by
  simp only [execLaunchCommand, launchCommandOf_runs hready hfn, h, hrec, hother, hmap, Bool.not_true, Bool.false_eq_true, if_false]

end

/-- The command registers of one function change, and nothing else (R368). -/
theorem modFn_only (s : State) (n : Nat) (f : Fn → Fn) :
    modFn s n f = { s with fns := (modFn s n f).fns } ∧ ∀ k, getFn (modFn s n f) k = if k = n then f (getFn s n) else getFn s k :=
  ⟨rfl, fun k => getFn_modFn s n k f⟩

/-- Settles O48: each command ends with the status of its first check that fails, or with its effect. -/
theorem launchAndQueueCommandsComplete : Obligations.LaunchAndQueueCommandsComplete := by
  refine ⟨?commands, ?doorbell, ?registers⟩
  case commands =>
    intro c p a1 lid q a2 s cmds
    refine ⟨fun h => ?_, fun h hfn => ?_, fun h hfn => ⟨fun hl => ?_, fun l hl => ⟨fun hown => ?_, fun hown x hx => ?_⟩, ?_⟩⟩
    · intro i hi
      obtain ⟨k, hk⟩ := exec_launchCommands s i hi
      exact hk.trans (launchCommandOf_unready h k)
    · intro i hi
      obtain ⟨k, hk⟩ := exec_launchCommands s i hi
      exact completed_of_cmdDone (hk.trans (launchCommandOf_pf1 h hfn k))
    · intro i hi
      obtain ⟨k, hk⟩ := exec_queueCommands s i hi
      exact completed_of_cmdDone (hk.trans (withQueue_no_launch h hfn hl k))
    · intro i hi
      obtain ⟨k, hk⟩ := exec_queueCommands s i hi
      exact completed_of_cmdDone (hk.trans (withQueue_denied h hfn hl hown k))
    · have hrun := withQueue_runs h hfn hl hown hx
      refine ⟨fun hext => ?_, fun hext hclosed => ?_, fun hext hopen => ⟨fun hfull => ?_, fun hroom => ?_, ?_⟩, fun hd => ?_,
        fun hd hempty => ?_, fun bs rest hd hentries => ?_⟩
      · exact ⟨completed_of_cmdDone (by simp [execQput, hrun, hext]), completed_of_cmdDone (by simp [execQclose, hrun, hext])⟩
      · exact ⟨completed_of_cmdDone (by simp [execQput, hrun, hext, hclosed]), completed_of_cmdDone (by simp [execQclose, hrun, hext, hclosed])⟩
      · exact completed_of_cmdDone (by simp [execQput, hrun, hext, hopen, hfull])
      · refine ⟨fun hturn => completed_of_cmdDone (by simp [execQput, hrun, hext, hopen, Nat.not_le.2 hroom, hturn]), fun hturn => ?_⟩
        have hlog : (logInput (replayNext s lid) lid 1 q 0xFFFF (x.puts + 1) (bytesOf (hostRead s a2 x.esize))).mem = s.mem ∧
            (logInput (replayNext s lid) lid 1 q 0xFFFF (x.puts + 1) (bytesOf (hostRead s a2 x.esize))).launches = s.launches := by
          rw [logInput_eq, replayNext_eq]; exact ⟨rfl, rfl⟩
        obtain ⟨hmem, hqueue⟩ := pushEntry_spec (hlog.2 ▸ hl) hx (hostRead s a2 x.esize)
        exact ⟨_, completed_of_cmdDone (by simp [execQput, hrun, hext, hopen, Nat.not_le.2 hroom, hturn]), hmem.trans hlog.1, hqueue⟩
      · exact ⟨_, completed_of_cmdDone (by rw [exec_qclose, execQclose, hrun]; simp [hext, hopen]; rfl), fun y hy =>
          (launchQueueAt_settleLaunch hl hx hy).1.2 rfl⟩
      · exact completed_of_cmdDone (by simp [execQget, hrun, hd])
      · exact completed_of_cmdDone (by simp [execQget, hrun, hd, hempty])
      · have hwrote := (Performed.memWritePB s (hostPa a2) bs).launches
        refine ⟨_, completed_of_cmdDone (by rw [exec_qget, execQget, hrun]; simp [hd, hentries]; rfl), fun y hy => ?_⟩
        obtain ⟨⟨hrest, -⟩, hmem⟩ := launchQueueAt_settleLaunch (hwrote ▸ hl) hx hy
        exact ⟨hrest, fun j b hb => by rw [memByte, hmem]; exact memByte_memWritePB s (hostPa a2) bs hb⟩
    · intro i mine rec_
      refine ⟨fun hmine => completed_of_cmdDone (launchCommand_other_part h hfn hmine),
        fun hmine hrec => completed_of_cmdDone (launchCommand_unread h hfn hmine hrec), fun bs hmine hrec => ?_⟩
      refine ⟨fun hother => completed_of_cmdDone (launchCommand_other_tenant h hfn hmine hrec hother), fun hother hmap => ?_⟩
      have hread := launchCommand_read h hfn hmine hrec hother hmap
      refine ⟨fun hcheck => completed_of_cmdDone ?_, fun n hcheck hfree => ?_⟩
      · refine hread.trans ?_
        rw [launchRecord_refused hcheck]
        dsimp only
        rw [natW_toNat ((launchCheck_le ..).trans_lt (by decide))]
      · rw [launchRecord_started hcheck hfree] at hread
        dsimp only at hread
        have hlid := freeLaunch_lt hfree
        rw [natW_toNat (by omega)] at hread
        obtain ⟨hpart, hfn', htenant, hstages, -⟩ := startedLaunch_fields s
          { part := p, fn := c.fn, ceil := if c.fn = 0 then 127 else 119 } (launchRec bs)
        obtain ⟨ds, ms, hstart⟩ := startLaunch_eq s { part := p, fn := c.fn, ceil := if c.fn = 0 then 127 else 119 } (launchRec bs) n
        rw [hstart] at hread
        refine ⟨_, completed_of_cmdDone hread, rfl, rfl, _, ?_, hfn', hpart, htenant, hstages⟩
        rw [smGet_smPut, if_pos rfl]
  case doorbell =>
    intro fn v s
    refine ⟨fun h => ?_, fun h => ?_⟩
    · rw [exec_cqtailDoorbell, execCqtailDoorbell, if_neg (show ¬fn < numFns from Nat.not_lt.2 h)]
    · refine ⟨_, ?_, modFn_only s fn fun f => { f with tail := fld v 0 12 }⟩
      rw [exec_cqtailDoorbell, execCqtailDoorbell, if_pos (show fn < numFns from h)]
  case registers =>
    intro fn off v s
    refine ⟨fun h => ?_, fun hfn hempty hoff => ?_⟩
    · rw [exec_registerWrite, execRegisterWrite]
      split
      · rfl
      · next hno =>
        obtain ⟨h0, h8⟩ := (h.resolve_left fun h => hno (Or.inl h)).resolve_left fun h => hno (Or.inr h)
        rw [if_neg h0, if_neg h8]
    · have hno : ¬(numFns ≤ fn ∨ (getFn s fn).head ≠ (getFn s fn).tail) := fun h =>
        h.elim (fun h => absurd hfn (Nat.not_lt.2 h)) fun h => h hempty
      rcases hoff with rfl | rfl
      · exact ⟨_, by rw [exec_registerWrite, execRegisterWrite, if_neg hno, if_pos rfl], modFn_only s fn fun f => { f with base := v.toNat }⟩
      · exact ⟨_, by rw [exec_registerWrite, execRegisterWrite, if_neg hno, if_neg (by decide), if_pos rfl],
          modFn_only s fn fun f => { f with size := ringSize v }⟩

end Sys2Proof.Machine
end

section
/-! SUPPORT. What the supervisor does to place tables, places, images and reports (R66, R69, R71, R342, R348). -/

namespace Sys2Proof.Machine

-- Place tables (R71).

theorem smGetD_foldl_smPut {α : Type} (ks : List Nat) (g : Nat → Nat) (v : Nat → α) (m : List (Nat × α)) (d : α) (o : Nat)
    (hinj : ∀ k ∈ ks, g k = g o → k = o) :
    smGetD (ks.foldl (fun m k => smPut m (g k) (v k)) m) (g o) d = if o ∈ ks then v o else smGetD m (g o) d := by
  induction ks generalizing m with
  | nil => rfl
  | cons k ks ih =>
    rw [List.foldl_cons, ih _ fun j hj => hinj j (List.mem_cons_of_mem _ hj), smGetD_smPut]
    by_cases hmem : o ∈ ks
    · rw [if_pos hmem, if_pos (List.mem_cons_of_mem _ hmem)]
    · by_cases hk : o = k
      · subst hk; rw [if_neg hmem, if_pos rfl, if_pos List.mem_cons_self]
      · rw [if_neg hmem, if_neg fun h => hk (hinj k List.mem_cons_self h.symm).symm,
          if_neg fun h => (List.mem_cons.1 h).elim hk hmem]

theorem smGet_eq_none_of_keys {α : Type} {m : List (Nat × α)} {k : Nat} (h : ∀ e ∈ m, e.1 ≠ k) : smGet m k = none := by
  induction m with
  | nil => rfl
  | cons e m ih =>
    rw [smGet, if_neg (h e List.mem_cons_self).symm]
    exact ih fun x hx => h x (List.mem_cons_of_mem _ hx)

theorem mem_of_smGet {α : Type} {m : List (Nat × α)} {k : Nat} {v : α} (h : smGet m k = some v) : (k, v) ∈ m := by
  induction m with
  | nil => cases h
  | cons e m ih =>
    rw [smGet] at h
    split at h
    · next hk => cases h; subst hk; exact List.mem_cons_self
    · exact List.mem_cons_of_mem _ (ih h)

/-- A byte at which no cell is listed reads as an unwritten one. -/
theorem memByte_of_unlisted {s : State} {a : Nat} (h : ∀ c ∈ s.mem, c.1 ≠ a) : memByte s a = 0 := by
  rw [memByte, smGetD, smGet_eq_none_of_keys h]; rfl

/-- A loaded place table reads as the table in memory (R71). -/
theorem loadPlace_entry (part die : Nat) (s : State) {o : Nat} (heven : o % 2 = 0) (ho : o < 16384) :
    smGetD (getDie (loadPlace part die s) die).place (16384 * part + o) 0 =
      memNat s ((getPart s part).place + 16384 * die + o) 2 := by
  have hbound : ∀ k ∈ (s.mem.filter fun c => decide ((getPart s part).place + 16384 * die ≤ c.1 ∧
      c.1 < (getPart s part).place + 16384 * die + 16384)).map fun c => (c.1 - ((getPart s part).place + 16384 * die)) / 2 * 2,
      16384 * part + k = 16384 * part + o → k = o := fun k _ h => by omega
  rw [loadPlace, getDie_modDie, if_pos rfl]
  refine (smGetD_foldl_smPut _ (fun k => 16384 * part + k) _ _ 0 o hbound).trans ?_
  split
  · rfl
  · next hno =>
    have hunlisted : ∀ i, i < 2 → memByte s ((getPart s part).place + 16384 * die + o + i) = 0 := fun i hi =>
      memByte_of_unlisted fun c hc hca => hno (List.mem_map.2 ⟨c, List.mem_filter.2 ⟨hc, decide_eq_true (by omega)⟩, by omega⟩)
    have hold : smGet ((getDie s die).place.filter fun e => e.1 / 16384 != part) (16384 * part + o) = none :=
      smGet_eq_none_of_keys fun e he h => by
        have hne := (List.mem_filter.1 he).2
        rw [h, show (16384 * part + o) / 16384 = part by omega, bne_self_eq_false] at hne
        cases hne
    have h0 := hunlisted 0 (by decide)
    have h1 := hunlisted 1 (by decide)
    rw [smGetD, hold, memNat, memBytes]
    simp only [rangeFrom, List.map_cons, List.map_nil, leNat]
    rw [Nat.add_zero] at h0
    rw [h0, h1]; rfl

theorem loadPlace_loaded (part die : Nat) (s : State) : part ∈ (getDie (loadPlace part die s) die).loaded := by
  rw [loadPlace, getDie_modDie, if_pos rfl]
  dsimp only
  split
  · next h => exact List.contains_iff_mem.1 h
  · exact List.mem_cons_self

-- Stranded instances (R62, R65, R69).

/-- The instances of a launch with a serial are STRANDED or have exited. -/
def Stranded (s : State) (lid serial : Nat) : Prop :=
  ∀ l, smGet s.launches lid = some l → ∀ j ∈ l.insts, j.serial = serial → j.st = .stranded ∨ j.st = .exited

theorem modLaunch_launches (s : State) (lid k : Nat) (f : Launch → Launch) :
    smGet (modLaunch s lid f).launches k = if k = lid then (smGet s.launches lid).map f else smGet s.launches k := by
  unfold modLaunch
  split
  · next l h => rw [smGet_smPut, h]; rfl
  · next h =>
    split
    · next hk => rw [hk, h]; rfl
    · rfl

/-- A change of a launch is a change of the launches alone. -/
theorem modLaunch_eq (s : State) (lid : Nat) (f : Launch → Launch) :
    modLaunch s lid f = { s with launches := (modLaunch s lid f).launches } := by
  unfold modLaunch; split <;> rfl

/-- What a launch becomes when instances of a serial are stranded. -/
def strandedLaunch (serial : Nat) (l : Launch) : Launch :=
  { l with insts := l.insts.map (fun i => if i.serial == serial && i.st != .exited then { i with st := .stranded } else i),
           stranded := l.stranded + 1 }

/-- The launches after instances with a serial are to be stranded. -/
theorem strandInst_launches (s : State) (lid serial k : Nat) :
    smGet (strandInst s lid serial).launches k =
      if canStrand s lid serial = true ∧ k = lid then (smGet s.launches lid).map (strandedLaunch serial) else smGet s.launches k := by
  unfold strandInst
  cases hcan : canStrand s lid serial with
  | false => simp
  | true =>
    have hmod : ∀ k, smGet (modLaunch (modInst s lid serial fun i => { i with st := .stranded }) lid
        fun l => { l with stranded := l.stranded + 1 }).launches k =
          if k = lid then (smGet s.launches lid).map (strandedLaunch serial) else smGet s.launches k := fun k => by
      rw [modLaunch_launches, modInst, modLaunch_launches, modLaunch_launches, if_pos rfl]
      split
      · cases smGet s.launches lid <;> rfl
      · rfl
    simp only [Bool.not_true, Bool.false_eq_true, if_false, true_and]
    split
    · rw [(Performed.sysStore _ ..).launches]; exact hmod k
    · exact hmod k

theorem strandedLaunch_inst {serial : Nat} {l : Launch} {j : Inst} (h : j ∈ (strandedLaunch serial l).insts) :
    ∃ i ∈ l.insts, i.serial = j.serial ∧ (j.serial = serial → j.st = .stranded ∨ j.st = .exited) ∧ (j.st = i.st ∨ j.st = .stranded) := by
  obtain ⟨i, hi, rfl⟩ := List.mem_map.1 h
  refine ⟨i, hi, ?_⟩
  by_cases hs : i.serial = serial <;> by_cases hx : i.st = .exited <;> simp [hs, hx]

theorem strandInst_stranded (s : State) (lid serial : Nat) : Stranded (strandInst s lid serial) lid serial := by
  intro l hl j hj hserial
  rw [strandInst_launches] at hl
  split at hl
  · obtain ⟨l0, -, rfl⟩ := Option.map_eq_some_iff.1 hl
    obtain ⟨i, -, -, hst, -⟩ := strandedLaunch_inst hj
    exact hst hserial
  · next hno =>
    have hcan : canStrand s lid serial = false := by simpa using hno
    rw [canStrand, hl] at hcan
    have hall := List.any_eq_false.1 hcan j hj
    by_cases hx : j.st = .exited
    · exact Or.inr hx
    · exact Or.inl (by simpa [hserial, hx] using hall)

/-- Instances stay STRANDED while others are stranded. -/
theorem Stranded.strandInst {s : State} {lid serial : Nat} (h : Stranded s lid serial) (k n : Nat) :
    Stranded (strandInst s k n) lid serial := by
  intro l hl j hj hserial
  rw [strandInst_launches] at hl
  split at hl
  · next hk =>
    obtain ⟨l0, hl0, rfl⟩ := Option.map_eq_some_iff.1 hl
    obtain ⟨i, hi, hsi, -, hst⟩ := strandedLaunch_inst hj
    rcases hst with hst | hst
    · rw [hst]; exact h l0 (hk.2 ▸ hl0) i hi (hsi.trans hserial)
    · exact Or.inl hst
  · exact h l hl j hj hserial

theorem foldl_strandInst_stranded (xs : List (Nat × Nat)) (s : State) {lid serial : Nat}
    (h : (lid, serial) ∈ xs ∨ Stranded s lid serial) : Stranded (xs.foldl (fun s x => strandInst s x.1 x.2) s) lid serial := by
  induction xs generalizing s with
  | nil => exact h.resolve_left List.not_mem_nil
  | cons x xs ih =>
    refine ih _ ?_
    rcases h with h | h
    · rcases List.mem_cons.1 h with rfl | h
      · exact Or.inr (strandInst_stranded s lid serial)
      · exact Or.inl h
    · exact Or.inr (h.strandInst x.1 x.2)

/-- Stranding instances changes launches, and performs a store. -/
theorem strandInst_places (s : State) (lid serial : Nat) :
    (strandInst s lid serial).deadPlaces = s.deadPlaces ∧ (strandInst s lid serial).disabled = s.disabled := by
  have hmod : ∀ f g, modLaunch (modInst s lid serial f) lid g = { s with launches := (modLaunch (modInst s lid serial f) lid g).launches } :=
    fun f g => by rw [modLaunch_eq, modInst, modLaunch_eq s]
  unfold Machine.strandInst
  split
  · exact ⟨rfl, rfl⟩
  · dsimp only
    split
    · rw [(Performed.sysStore _ ..).1, hmod]; exact ⟨rfl, rfl⟩
    · rw [hmod]; exact ⟨rfl, rfl⟩

theorem foldl_strandInst_places (xs : List (Nat × Nat)) (s : State) :
    (xs.foldl (fun s x => strandInst s x.1 x.2) s).deadPlaces = s.deadPlaces ∧
      (xs.foldl (fun s x => strandInst s x.1 x.2) s).disabled = s.disabled := by
  induction xs generalizing s with
  | nil => exact ⟨rfl, rfl⟩
  | cons x xs ih =>
    obtain ⟨hdead, hdisabled⟩ := ih (strandInst s x.1 x.2)
    exact ⟨hdead.trans (strandInst_places s x.1 x.2).1, hdisabled.trans (strandInst_places s x.1 x.2).2⟩

/-- A place that is disabled is listed as dead, and the SUSPENDED instances there are stranded (R69, R301). -/
theorem execPlaceDisable_live {k : PlaceKind} {n : Nat} {s : State} (h : (k, n) ∉ s.deadPlaces) :
    ∃ (gone : List Nat) (hit : List (Nat × Nat)), execPlaceDisable k n s =
        .next (hit.foldl (fun s x => strandInst s x.1 x.2) { s with deadPlaces := (k, n) :: s.deadPlaces, disabled := gone }) ∧
      (k = .peer → n ∈ gone) ∧
      ∀ e ∈ s.launches, ∀ i ∈ e.2.insts, i.st = .suspended → (∃ m ∈ i.members, m.2 = .saved ∧ atPlace k n m.1 = true) →
        (e.1, i.serial) ∈ hit := by
  refine ⟨_, _, by rw [execPlaceDisable, if_neg (mt List.contains_iff_mem.1 h)], fun hk => ?_, fun e he i hi hst hm => ?_⟩
  · subst hk
    by_cases hin : s.disabled.contains n
    · simp only [hin, Bool.not_true, Bool.and_false, Bool.false_eq_true, if_false]; exact List.contains_iff_mem.1 hin
    · simp only [hin, Bool.not_false, Bool.and_true, beq_self_eq_true, if_true]; exact List.mem_cons_self
  · obtain ⟨m, hmem, hsaved, hat⟩ := hm
    refine List.mem_flatMap.2 ⟨e, he, List.mem_map.2 ⟨i, List.mem_filter.2 ⟨hi, ?_⟩, rfl⟩⟩
    simpa [hst] using ⟨m.1, hsaved ▸ hmem, hat⟩

-- Images that leave their queue (R69).

theorem setUsed_performed {s t : State} {part tenant area cell : Nat} {on : Bool} (h : setUsed s part tenant area cell on = .ok t) :
    Performed s t := by
  unfold setUsed at h
  dsimp only at h
  split at h
  · cases h
  · split at h
    · next heq =>
      cases h
      have ht := congrArg Prod.snd heq
      change _ = t at ht
      rw [← ht]
      exact Performed.sysStore ..
    · cases h

theorem dropImage_images (s : State) (x : Image) : (dropImage s x).images = s.images.filter (· ≠ x) := by
  unfold dropImage
  dsimp only
  split
  · next h => rw [(setUsed_performed h).images]
  · rfl

theorem pruneSaved_images (id : Nat) (s : State) : (pruneSaved id s).images = s.images := by
  unfold pruneSaved; split <;> rfl

theorem foldl_dropImage_images (xs : List Image) (s : State) :
    (xs.foldl (fun s x => pruneSaved x.place (dropImage s x)) s).images = s.images.filter fun y => y ∉ xs := by
  induction xs generalizing s with
  | nil => simp
  | cons x xs ih =>
    rw [List.foldl_cons, ih, pruneSaved_images, dropImage_images, List.filter_filter]
    refine List.filter_congr fun y _ => ?_
    by_cases h : y = x <;> simp [h]

theorem freeGo_eq (part fuel : Nat) (s : State) :
    ∃ ks ds ps, freeGo part fuel s = { s with cores := ks, dies := ds, parts := ps } := by
  induction fuel generalizing s with
  | zero => exact ⟨s.cores, s.dies, s.parts, rfl⟩
  | succ n ih =>
    unfold freeGo
    split
    · obtain ⟨ks, ds, ps, h⟩ := ih (freeNode s part _)
      exact ⟨ks, ds, ps, h⟩
    · exact ⟨s.cores, s.dies, s.parts, rfl⟩

/-- Freeing nodes changes their tables and the copies with their tags, and nothing else (R255). -/
theorem freeNodes_eq (s : State) : ∃ ks ds ps, freeNodes s = { s with cores := ks, dies := ds, parts := ps } := by
  have hfold : ∀ (l : List (Nat × PartRec)) (s : State),
      ∃ ks ds ps, l.foldl (fun s e => freeGo e.1 e.2.nodes.length s) s = { s with cores := ks, dies := ds, parts := ps } := by
    intro l
    induction l with
    | nil => exact fun s => ⟨s.cores, s.dies, s.parts, rfl⟩
    | cons e l ih =>
      intro s
      obtain ⟨ks, ds, ps, h⟩ := freeGo_eq e.1 e.2.nodes.length s
      rw [List.foldl_cons, h]
      exact ih _
  exact hfold s.parts s

theorem freeNodes_images (s : State) : (freeNodes s).images = s.images := by
  obtain ⟨ks, ds, ps, h⟩ := freeNodes_eq s; rw [h]

theorem appendLog_images (s : State) (tenant kind status ver handle : Nat) (nonce : Word) :
    (appendLog s tenant kind status ver handle nonce).images = s.images := by
  unfold appendLog; dsimp only; split <;> rfl

theorem endLaunch_images (s : State) (lid : Nat) (l : Launch) (state : Nat) : (endLaunch s lid l state).images = s.images := by
  rw [endLaunch, appendLog_images, (Performed.writeStatus _ l state).images]

theorem settleLaunch_images (lid : Nat) (s : State) : (settleLaunch lid s).images = s.images := by
  unfold settleLaunch
  split
  · rfl
  · dsimp only
    split
    · exact endLaunch_images ..
    · rfl

theorem modLaunch_images (s : State) (lid : Nat) (f : Launch → Launch) : (modLaunch s lid f).images = s.images := by rw [modLaunch_eq]

-- Reports (R348).

theorem getPart_modFn (s : State) (n k : Nat) (f : Fn → Fn) : getPart (modFn s n f) k = getPart s k := rfl

theorem leBytes_getElem? (n x i : Nat) : (leBytes n x)[i]? = if i < n then some (BitVec.ofNat 8 (x / 256 ^ i)) else none := by
  induction n generalizing x i with
  | zero => rfl
  | succ n ih =>
    cases i with
    | zero => simp [leBytes]
    | succ i => simp only [leBytes, List.getElem?_cons_succ, ih, Nat.add_lt_add_iff_right, Nat.div_div_eq_div_mul, pow_succ']

theorem memByte_foldl_fireWatch (ls : List Nat) (s : State) (a : Nat) :
    memByte (ls.foldl (fun s l => fireWatch s (watchLine l)) s) a = memByte s a := by
  induction ls generalizing s with
  | nil => rfl
  | cons l ls ih =>
    rw [List.foldl_cons, ih]
    unfold fireWatch
    split <;> rfl

/-- A waiting report goes into a ring with room, with its signal (R348, R370). -/
theorem appendReport_room {s : State} {part : Nat} {r : BitVec 256} {rest : List (BitVec 256)} (h : (getPart s part).waiting = r :: rest)
    (hroom : (getPart s part).ringUsed < (getPart s part).ringLen) :
    let p := getPart s part
    (∀ a, memByte (appendReport s part) a = if p.ring + 32 * p.ringAt ≤ a ∧ a < p.ring + 32 * p.ringAt + 32
        then BitVec.ofNat 8 (r.toNat / 256 ^ (a - (p.ring + 32 * p.ringAt))) else memByte s a) ∧
      getPart (appendReport s part) part = { p with waiting := rest, ringAt := (p.ringAt + 1) % p.ringLen, ringUsed := p.ringUsed + 1 } ∧
      (getFn (appendReport s part) 0).msi1 = (getFn s 0).msi1 + 1 := by
  have hperf := (Performed.memWrite s ((getPart s part).ring + 32 * (getPart s part).ringAt) (leBytes 32 r.toNat)).trans
    (Performed.foldl (f := fun s l => fireWatch s (watchLine l)) (fun s l => Performed.fireWatch s (watchLine l))
      (linesIn ((getPart s part).ring + 32 * (getPart s part).ringAt) 32) _)
  unfold appendReport
  simp only [h, if_pos hroom]
  refine ⟨fun a => ?_, ?_, ?_⟩
  · refine (memByte_foldl_fireWatch _ _ a).trans ?_
    rw [memByte_memWrite, leBytes_getElem?]
    by_cases hle : (getPart s part).ring + 32 * (getPart s part).ringAt ≤ a
    · by_cases hlt : a < (getPart s part).ring + 32 * (getPart s part).ringAt + 32
      · rw [if_pos hle, if_pos (by omega), if_pos ⟨hle, hlt⟩]; rfl
      · rw [if_pos hle, if_neg (by omega), if_neg fun h => hlt h.2]; rfl
    · rw [if_neg hle, if_neg fun h => hle h.1]
  · rw [getPart_modFn, getPart_modPart, if_pos rfl, getPart, hperf.parts, ← getPart]
  · rw [getFn_modFn, if_pos rfl]
    exact congrArg (fun (fs : List (Nat × Fn)) => (smGetD fs 0 {}).msi1 + 1) hperf.fns

theorem appendReport_stays {s : State} {part : Nat} (h : (getPart s part).waiting = [] ∨ (getPart s part).ringLen ≤ (getPart s part).ringUsed) :
    appendReport s part = s := by
  unfold appendReport
  dsimp only
  split
  · rfl
  · next hw => rw [if_neg (Nat.not_lt.2 (h.resolve_left fun hnil => by rw [hnil] at hw; cases hw))]

/-- Settles O50: what becomes of the table, the place, the image and the ring, by each act's own case split. -/
theorem supervisorActsOnPlacesAndImages : Obligations.SupervisorActsOnPlacesAndImages := by
  refine ⟨?reload, ?disable, ?discard, ?requeue, ?report⟩
  case reload =>
    intro part die s live
    refine ⟨fun h => ?_, fun h => ⟨answer (loadPlace part die s) (.status 0), ?_, rfl, loadPlace_loaded part die s,
      fun o heven ho => loadPlace_entry part die s heven ho⟩⟩
    · rw [exec_placeTableReload, execPlaceTableReload, if_pos h]; rfl
    · rw [exec_placeTableReload, execPlaceTableReload, if_neg (Bool.eq_false_iff.1 h)]; rfl
  case disable =>
    intro k n s
    refine ⟨fun h => ?_, fun h => ?_⟩
    · rw [exec_placeDisable, execPlaceDisable, if_pos (List.contains_iff_mem.2 h)]
    · obtain ⟨gone, hit, hx, hpeer, hhit⟩ := execPlaceDisable_live h
      obtain ⟨hdead, hdisabled⟩ := foldl_strandInst_places hit { s with deadPlaces := (k, n) :: s.deadPlaces, disabled := gone }
      exact ⟨_, (exec_placeDisable s).trans hx, hdead ▸ List.mem_cons_self, fun hk => hdisabled ▸ hpeer hk,
        fun e he i hi hst hm => foldl_strandInst_stranded hit _ (Or.inl (hhit e he i hi hst hm))⟩
  case discard =>
    intro ctx restart s
    refine ⟨fun lid i h => ⟨_, by simp only [exec_imageDiscard, execImageDiscard, h]; rfl, fun x hx m hm hown => ?_⟩,
      fun x h hx => ⟨_, by simp only [exec_imageDiscard, execImageDiscard, h, hx]; rfl, ?_⟩,
      fun h hx => by simp only [exec_imageDiscard, execImageDiscard, h, hx]⟩
    · have hkept : x ∈ s.images.filter fun y => y ∉ s.images.filter fun x => x.member.any fun m => m.lid == lid && m.serial == i.serial := by
        rw [← foldl_dropImage_images, ← modLaunch_images _ lid fun l => { l with insts := l.insts.map fun j =>
          if j.serial == i.serial && j.st != .exited then
            { j with st := .exited, members := j.members.map fun m => (m.1, MemState.gone) } else j }]
        rw [freeNodes_images, settleLaunch_images] at hx
        split at hx
        · rwa [modLaunch_images] at hx
        · exact hx
      obtain ⟨hin, hout⟩ := List.mem_filter.1 hkept
      exact of_decide_eq_true hout (List.mem_filter.2 ⟨hin, by simp [hm, hown]⟩)
    · change (freeNodes (pruneSaved x.place (dropImage s x))).images = _
      rw [freeNodes_images, pruneSaved_images, dropImage_images]
  case requeue =>
    intro ctx s
    refine ⟨fun h => ?_, fun h => ⟨wakeSchedulers { s with
      images := s.images.map fun x => if x.place = ctx then { x with refused := 0 } else x }, ?_, rfl, rfl, rfl⟩⟩
    · rw [exec_imageRequeue, execImageRequeue, if_neg]
      intro hany
      obtain ⟨x, hx, hb⟩ := List.any_eq_true.1 hany
      simp only [Bool.and_eq_true, beq_iff_eq, bne_iff_ne] at hb
      exact hb.2 (h x hx hb.1)
    · obtain ⟨x, hx, hplace, hrefused⟩ := h
      rw [exec_imageRequeue, execImageRequeue, if_pos (List.any_eq_true.2 ⟨x, hx, by simp [hplace, hrefused]⟩)]
  case report =>
    intro part s p
    refine ⟨fun h => ?_, fun r rest hw hroom => ⟨_, rfl, appendReport_room hw hroom⟩⟩
    rw [exec_reportAppend, execReportAppend, appendReport_stays h]

end Sys2Proof.Machine
end

section
/-! SUPPORT. Fields and bits of a word after a field of it is set, what a report and a trap leave of the contexts, and what turns a
context at a boundary or in a wait (R55, R68, R89, R244, R263, R270, R325 to R331, R348, R351). -/

namespace Sys2Proof.Machine

-- Fields of a word (R4).

theorem testBit_setFld (w : Word) (lo n v : Nat) {i : Nat} (hi : i < 64) :
    (setFld w lo n v).toNat.testBit i = if lo ≤ i ∧ i < lo + n then v.testBit (i - lo) else w.toNat.testBit i := by
  rw [← testBit_putField, setFld, testBit_ofNat_toNat, decide_eq_true hi, Bool.true_and]; rfl

theorem fld_setFld_same (w : Word) {lo n : Nat} (v : Nat) (h : lo + n ≤ 64) : fld (setFld w lo n v) lo n = v % 2 ^ n := by
  rw [← natField_putField_same w.toNat lo n v]
  refine natField_congr fun i hlo hhi => ?_
  rw [testBit_setFld w lo n v (by omega), testBit_putField]

theorem fld_setFld_other (w : Word) {lo n lo' n' : Nat} (v : Nat) (h : lo' + n' ≤ 64) (hdisjoint : lo' + n' ≤ lo ∨ lo + n ≤ lo') :
    fld (setFld w lo n v) lo' n' = fld w lo' n' := by
  refine natField_congr fun i hlo hhi => ?_
  rw [testBit_setFld w lo n v (by omega), if_neg (by omega)]

theorem fld_setBit_other (w : Word) {i lo n : Nat} (b : Bool) (h : lo + n ≤ 64) (hdisjoint : i < lo ∨ lo + n ≤ i) :
    fld (setBit w i b) lo n = fld w lo n := fld_setFld_other w _ h (by omega)

theorem bitAt_setBit_same (w : Word) {i : Nat} (b : Bool) (h : i < 64) : bitAt (setBit w i b) i = b := by
  rw [setBit, bitAt_setFld _ _ _ _ _ h, if_pos ⟨Nat.le_refl i, Nat.lt_succ_self i⟩, Nat.sub_self]; cases b <;> rfl

theorem bitAt_setBit_other (w : Word) {i j : Nat} (b : Bool) (h : j < 64) (hne : j ≠ i) : bitAt (setBit w i b) j = bitAt w j := by
  rw [setBit, bitAt_setFld _ _ _ _ _ h, if_neg (by omega)]

theorem bitAt_maskW (v : Word) {m i : Nat} (h : i < 64) : bitAt (maskW v m) i = (bitAt v i && natBit m i) := by
  rw [bitAt, bitAt, natBit_eq_testBit, natBit_eq_testBit, natBit_eq_testBit, maskW, BitVec.toNat_and, Nat.testBit_and, testBit_ofNat_toNat,
    decide_eq_true h, Bool.true_and]

-- Reports and traps (R325 to R329, R348).

theorem recordFiring_ctxs (s : State) (tag place : Nat) : (recordFiring s tag place).ctxs = s.ctxs := by
  unfold recordFiring; repeat' split
  all_goals rfl
theorem recordFiring_mem (s : State) (tag place : Nat) : (recordFiring s tag place).mem = s.mem := by
  unfold recordFiring; repeat' split
  all_goals rfl
theorem fireSnap_ctxs (s : State) (src : SnapSource) (part tag place : Nat) : (fireSnap s src part tag place).ctxs = s.ctxs := by
  unfold fireSnap
  split
  · exact recordFiring_ctxs ..
  · rfl
theorem fireSnap_mem (s : State) (src : SnapSource) (part tag place : Nat) : (fireSnap s src part tag place).mem = s.mem := by
  unfold fireSnap
  split
  · exact recordFiring_mem ..
  · rfl

theorem WatchOnly.memWrite (s : State) (pa : Nat) (bs : List Byte) : WatchOnly s (memWrite s pa bs) := (Performed.memWrite s pa bs).2

theorem appendReport_watchOnly (s : State) (part : Nat) : WatchOnly s (appendReport s part) := by
  unfold appendReport
  dsimp only
  split
  · exact WatchOnly.refl s
  · refine WatchOnly.ite ?_ (WatchOnly.refl s)
    exact ((WatchOnly.memWrite s _ _).trans (WatchOnly.foldl (fun s l => fireWatch_watchOnly s _) _ _)).trans (WatchOnly.of_ctxs rfl)

theorem report_watchOnly (s : State) (code cause place tenant part inst : Nat) (addr : Word) :
    WatchOnly s (report s code cause place tenant part inst addr) :=
  WatchOnly.trans (WatchOnly.of_ctxs (fireSnap_ctxs s _ _ _ _)) (appendReport_watchOnly _ part)

theorem reportCtx_watchOnly (s : State) (code cause id : Nat) (addr : Word) : WatchOnly s (reportCtx s code cause id addr) :=
  report_watchOnly s _ _ _ _ _ _ _

/-- A trap changes its context as R329 says; its report fires watches, and leaves every context otherwise. -/
theorem takeTrap_watchOnly (id : Nat) (t : Trap) (s : State) : WatchOnly (modCtx s id (trapCtx t)) (takeTrap id t s) := by
  have hctxs : (modCtx (fireSnap s (.trapNumber (trapNumber t (getCtx s id))) (partOf s id) 0 id) id (trapCtx t)).ctxs =
      (modCtx s id (trapCtx t)).ctxs := by
    simp only [modCtx, setCtx, getCtx, fireSnap_ctxs]
  exact (WatchOnly.of_ctxs hctxs).trans (WatchOnly.ite (reportCtx_watchOnly _ _ _ _ _) (WatchOnly.refl _))

/-- The context of a trap after it. -/
theorem getCtx_takeTrap (id : Nat) (t : Trap) (s : State) :
    getCtx (takeTrap id t s) id = { trapCtx t (getCtx s id) with watchFired := (getCtx (takeTrap id t s) id).watchFired } := by
  have h := takeTrap_watchOnly id t s id
  rwa [getCtx_modCtx, if_pos rfl] at h

/-- A trap that does not stop its context reports nothing. -/
theorem takeTrap_mem {id : Nat} {t : Trap} {s : State} (h : (trapCtx t (getCtx s id)).run ≠ .stopped) : (takeTrap id t s).mem = s.mem := by
  have hctx : getCtx (fireSnap s (.trapNumber (trapNumber t (getCtx s id))) (partOf s id) 0 id) id = getCtx s id := by
    rw [getCtx, fireSnap_ctxs, getCtx]
  unfold takeTrap
  dsimp only
  rw [getCtx_modCtx, if_pos rfl, hctx, if_neg h, modCtx_mem, fireSnap_mem]

/-- What a trap makes of a context outside a handler: it stops where it has no handler, or a stop is what is asked, and else goes on
in its handler (R329). -/
theorem trapCtx_first {t : Trap} {c : Ctx} (hth : bitAt c.xstat 0 = false) (hstop : t.cause ≠ 18) :
    let n := trapCtx t c
    n.xtrapc = trapcWord t.cause t.src t.w t.orig ∧ n.xtrappc = c.pc ∧ n.s = c.s ∧ n.ckpt = c.ckpt ∧ n.ckptHeld = c.ckptHeld ∧
      (fld c.xstat 8 56 = 0 → n.run = .stopped) ∧
      (fld c.xstat 8 56 ≠ 0 → n.run = .runnable ∧ bitAt n.xstat 0 = true ∧ n.pc = BitVec.ofNat 64 (256 * fld c.xstat 8 56)) := by
  have hno : bitAt (enterAt c.pc c).xstat 0 = false := hth
  unfold trapCtx
  dsimp only
  rw [hno, if_neg Bool.false_ne_true]
  by_cases hvec : fld c.xstat 8 56 = 0
  · rw [if_pos (show t.cause = 18 ∨ fld (enterAt c.pc c).xstat 8 56 = 0 from Or.inr hvec)]
    exact ⟨rfl, rfl, rfl, rfl, rfl, fun _ => rfl, fun h => absurd hvec h⟩
  · rw [if_neg (show ¬(t.cause = 18 ∨ fld (enterAt c.pc c).xstat 8 56 = 0) from fun h => h.elim hstop hvec)]
    refine ⟨rfl, rfl, rfl, rfl, rfl, fun h => absurd h hvec, fun _ => ⟨rfl, bitAt_setBit_same _ _ (by decide), ?_⟩⟩
    rw [Nat.mul_comm]; rfl

theorem trapcWord_cause (cause src : Nat) (w : Bool) (orig : Nat) : fld (trapcWord cause src w orig) 0 6 = cause % 64 := by
  rw [trapcWord, fld_ofNat _ (by decide)]; omega

-- Waits (R55, R244, R263).

theorem setCtx_becomes (s : State) (id : Nat) (c : Ctx) :
    setCtx s id c = { s with ctxs := (setCtx s id c).ctxs } ∧ getCtx (setCtx s id c) id = c ∧
      ∀ k, k ≠ id → getCtx (setCtx s id c) k = getCtx s k :=
  ⟨rfl, by rw [getCtx_setCtx, if_pos rfl], fun k hk => by rw [getCtx_setCtx, if_neg hk]⟩

theorem ctxBecomes_of_modCtx {i : Instr} {s : State} {id : Nat} {f : Ctx → Ctx} {c : Ctx} (h : exec i s = .next (modCtx s id f))
    (hc : f (getCtx s id) = c) : CtxBecomes i s id c := by
  subst hc
  exact ⟨_, h, setCtx_becomes s id _⟩

theorem wake_waiting {s : State} {id : Nat} (h : (getCtx s id).run = .waiting) :
    wake s id = modCtx s id fun c => { c with run := .runnable, wait := none, due := keptDue c } := by
  rw [wake, modCtx, if_pos h]; rfl

theorem getCtx_retireAt (id : Nat) (e : Bool) (len : Nat) (s : State) (k : Nat) :
    getCtx (retireAt id e len s) k = if k = id then countWord (retireCtx e len (getCtx s id)) else getCtx s k := by
  rw [← getCtx_modCtx s id k fun c => countWord (retireCtx e len c)]
  unfold retireAt
  dsimp only
  split <;> rfl

theorem retireAt_mem (id : Nat) (e : Bool) (len : Nat) (s : State) : (retireAt id e len s).mem = s.mem := by
  unfold retireAt; dsimp only; split <;> rfl

theorem retireCtx_pc (e : Bool) (len : Nat) (c : Ctx) :
    (retireCtx e len c).pc = if e then c.jump.getD (c.pc + BitVec.ofNat 64 len) else c.pc + BitVec.ofNat 64 len := by
  cases e with
  | false => rfl
  | true => rw [retireCtx_true, finishBundle_pc]; rfl

/-- What a context is after an MWAIT of it that returns. -/
theorem getCtx_mwaitDone (id : Nat) (e : Bool) (d : SReg) (v : Word) (s : State) (k : Nat) :
    getCtx (mwaitDone id e d v s) k = if k = id
      then countWord (retireCtx e 4 (swrite { getCtx s id with watchFired := false, run := .runnable, wait := none, due := none } d v))
      else getCtx s k := by
  have hgood : ∀ (c : Bool) (s : State) (p : PLoc) (k : Nat), getCtx (if c then s else setPoison s p false) k = getCtx s k := by
    intro c s p k
    split
    · rfl
    · rw [setPoison_eq]; rfl
  unfold mwaitDone
  dsimp only
  rw [getCtx_retireAt, hgood, hgood, getCtx_modCtx, getCtx_modCtx, if_pos rfl]
  split <;> rfl

theorem mwaitDone_mem (id : Nat) (e : Bool) (d : SReg) (v : Word) (s : State) : (mwaitDone id e d v s).mem = s.mem := by
  unfold mwaitDone
  dsimp only
  rw [retireAt_mem]
  split
  · rfl
  · rw [setPoison_eq]; rfl

/-- An MWAIT that returns writes its status, clears the watch's fired state and passes (R244). -/
theorem mwaitDone_spec (id : Nat) (e : Bool) (d : SReg) (v : Word) (s : State) :
    let n := getCtx (mwaitDone id e d v s) id
    let c := getCtx s id
    n.run = .runnable ∧ n.wait = none ∧ n.watchFired = false ∧
      (∀ r : SReg, sread n r = if r = d ∧ r ≠ 0 then v else sread c r) ∧
      n.pc = if e then c.jump.getD (c.pc + 4) else c.pc + 4 := by
  dsimp only
  rw [getCtx_mwaitDone, if_pos rfl]
  have hplace := retired_place e 4
    (swrite { getCtx s id with watchFired := false, run := .runnable, wait := none, due := none } d v)
  have hwrite := swrite_eq { getCtx s id with watchFired := false, run := .runnable, wait := none, due := none } d v
  refine ⟨by rw [hplace, hwrite], by rw [hplace, hwrite], by rw [hplace, hwrite], fun r => ?_, ?_⟩
  · rw [sread_place hplace, sread_swrite]
    by_cases h0 : r = 0
    · subst h0; rw [if_pos rfl, if_neg fun h => h.2 rfl, sread_zero]
    · simp only [h0, if_false, ne_eq, not_false_eq_true, and_true]; rfl
  · rw [countWord_pc, retireCtx_pc, hwrite]; rfl

-- ORPHAN (R270).

theorem leaveBarriers_eq (s : State) (id : Nat) : leaveBarriers s id = { s with barriers := (leaveBarriers s id).barriers } := by
  unfold leaveBarriers; split <;> rfl

theorem leaveBarriers_left (s : State) (id : Nat) : ∀ b ∈ (leaveBarriers s id).barriers, id ∉ b.arrived := by
  intro b hb
  unfold leaveBarriers at hb
  split at hb
  · obtain ⟨a, -, rfl⟩ := List.mem_map.1 (List.mem_filter.1 hb).1
    simp
  · next h => exact fun hid => h (List.any_eq_true.2 ⟨b, hb, List.contains_iff_mem.2 hid⟩)

theorem getCtx_leaveBarriers (s : State) (id k : Nat) : getCtx (leaveBarriers s id) k = getCtx s k := by
  rw [leaveBarriers_eq]; rfl

theorem foldl_tcFinish_eq (n : Nat) (os : List CopyOp) (c : Ctx) : ∃ ts, os.foldl (fun c o => tcFinish c n o.num) c = { c with tc := ts } := by
  induction os generalizing c with
  | nil => exact ⟨c.tc, rfl⟩
  | cons o os ih => obtain ⟨ts, h⟩ := ih (tcFinish c n o.num); exact ⟨ts, h⟩

/-- ORPHAN drops a context's tagged copies and stores: its copies and counters change. -/
theorem cut_eq (c : Ctx) : ∃ ts, cutStore (cutTagged c) = { c with copies := c.copies.filter fun o => !o.tagged, tc := ts } := by
  obtain ⟨ts, h⟩ := foldl_tcFinish_eq 4 (c.copies.filter (·.tagged)) { c with copies := c.copies.filter fun o => !o.tagged }
  rw [show cutTagged c = _ from h]
  unfold cutStore
  split
  · exact ⟨_, rfl⟩
  · exact ⟨ts, rfl⟩

/-- XHYP as ORPHAN leaves it. -/
def orphanHyp (n : Nat) (c : Ctx) : Word :=
  let x := setFld (setFld (setFld c.xhyp 16 10 (viewOf c)) 0 10 n) 26 1 1
  if hasTagged c then setFld x 27 1 1 else x

theorem orphanHyp_fields (n : Nat) (c : Ctx) :
    fld (orphanHyp n c) 0 10 = n % 1024 ∧ fld (orphanHyp n c) 16 10 = viewOf c ∧ bitAt (orphanHyp n c) 26 = true := by
  have hview : viewOf c % 2 ^ 10 = viewOf c := Nat.mod_eq_of_lt (natField_lt ..)
  have hx : let x := setFld (setFld (setFld c.xhyp 16 10 (viewOf c)) 0 10 n) 26 1 1
      fld x 0 10 = n % 1024 ∧ fld x 16 10 = viewOf c ∧ bitAt x 26 = true := by
    refine ⟨?_, ?_, ?_⟩
    · rw [fld_setFld_other _ _ (by decide) (by decide), fld_setFld_same _ _ (by decide)]; rfl
    · rw [fld_setFld_other _ _ (by decide) (by decide), fld_setFld_other _ _ (by decide) (by decide), fld_setFld_same _ _ (by decide), hview]
    · exact bitAt_setBit_same _ true (by decide)
  unfold orphanHyp
  dsimp only
  split
  · obtain ⟨h0, h16, h26⟩ := hx
    refine ⟨?_, ?_, ?_⟩
    · rw [fld_setFld_other _ _ (by decide) (by decide), h0]
    · rw [fld_setFld_other _ _ (by decide) (by decide), h16]
    · exact (bitAt_setBit_other _ true (by decide) (by decide)).trans h26
  · exact hx

/-- What ORPHAN makes of a context (R270). -/
theorem orphanCtx_spec (n : Nat) (c : Ctx) :
    let o := orphanCtx n c
    o.run = .runnable ∧ o.wait = none ∧ o.s = c.s ∧ o.xhyp = orphanHyp n c ∧ bitAt o.xloop 24 = false ∧
      (∀ x ∈ o.copies, x.tagged = false) ∧
      if BitVec.ofNat 64 (c.xovec.toNat / 4 * 4) = 0 then o.pc = c.pc ∧ o.exiting = some c.pc
      else o.pc = BitVec.ofNat 64 (c.xovec.toNat / 4 * 4) := by
  obtain ⟨ts, hcut⟩ := cut_eq c
  have hcopies : ∀ x ∈ c.copies.filter fun o => !o.tagged, x.tagged = false := fun x hx => by
    simpa using (List.mem_filter.1 hx).2
  have hloop : bitAt (maskW c.xloop 0xFFFFFF) 24 = false := by rw [bitAt_maskW _ (by decide)]; exact Bool.and_false _
  unfold orphanCtx
  dsimp only
  rw [hcut]
  by_cases hv : aligned4 c.xovec = 0
  · rw [if_pos hv, if_pos (show BitVec.ofNat 64 (c.xovec.toNat / 4 * 4) = 0 from hv)]
    exact ⟨rfl, rfl, rfl, rfl, hloop, hcopies, rfl, rfl⟩
  · rw [if_neg hv, if_neg (show ¬BitVec.ofNat 64 (c.xovec.toNat / 4 * 4) = 0 from hv)]
    exact ⟨rfl, rfl, rfl, rfl, hloop, hcopies, rfl⟩

theorem getCtx_freeNodes (s : State) (k : Nat) : getCtx (freeNodes s) k = getCtx s k := by
  obtain ⟨ks, ds, ps, h⟩ := freeNodes_eq s; rw [h]; rfl

theorem orphan_spec (ctx n : Nat) (s : State) :
    let t := freeNodes (modCtx (leaveBarriers s ctx) ctx (orphanCtx n))
    t.mem = s.mem ∧ getCtx t ctx = orphanCtx n (getCtx s ctx) ∧ ∀ b ∈ t.barriers, ctx ∉ b.arrived := by
  dsimp only
  rw [getCtx_freeNodes, getCtx_modCtx, if_pos rfl, getCtx_leaveBarriers]
  obtain ⟨ks, ds, ps, h⟩ := freeNodes_eq (modCtx (leaveBarriers s ctx) ctx (orphanCtx n))
  rw [h]
  refine ⟨?_, rfl, leaveBarriers_left s ctx⟩
  change (leaveBarriers s ctx).mem = s.mem
  rw [leaveBarriers_eq]

-- A suspension that begins (R55, R68).

theorem beginSave_eq (id : Nat) (forced : Bool) (s : State) : beginSave id forced s =
    { modCtx s id (fun c => { c with run := .saving, wait := none, due := none, forced := forced, prqDue := none }) with
      barriers := (leaveBarriers s id).barriers, agenda := .auto (.imageWritten id) :: s.agenda } := by
  unfold beginSave
  rw [leaveBarriers_eq]; rfl

/-- Settles O36: each wait and each event ends in the branch that its conditions select. -/
theorem waitsEndAndEventsTurnContexts : Obligations.WaitsEndAndEventsTurnContexts := by
  refine ⟨?waits, ?events⟩
  case waits =>
    intro ctx s hrun c up
    have hin : inWait (getCtx s ctx) = true := by rw [inWait, hrun]; rfl
    refine ⟨fun h => ?_, fun h => ?_, fun e d n hwait hdue => ⟨fun h => ?_, fun h => ?_⟩, fun line va n hwait hdue => ⟨fun h => ?_, fun h hmet => ?_,
      fun h hmet => ?_⟩⟩
    · exact ctxBecomes_of_modCtx (by rw [exec_waitSatisfied, execWaitSatisfied, if_pos ⟨hrun, h⟩, wake_waiting hrun]) rfl
    · rw [exec_waitSatisfied, execWaitSatisfied, if_neg fun hb => Bool.false_ne_true (h.symm.trans hb.2)]
    · simp only [exec_waitTimeout, execWaitTimeout, hin, show (getCtx s ctx).wait = _ from hwait, show (getCtx s ctx).due = _ from hdue, h,
        Bool.false_eq_true, if_false]
    · obtain ⟨hr, hw, hf, hs, hpc⟩ := mwaitDone_spec ctx e (BitVec.ofNat 6 d) 2 s
      refine ⟨mwaitDone ctx e (BitVec.ofNat 6 d) 2 s, ?_, mwaitDone_mem .., hr, hw, hf, hs, hpc, fun k hk => ?_⟩
      · simp only [exec_waitTimeout, execWaitTimeout, hin, show (getCtx s ctx).wait = _ from hwait, show (getCtx s ctx).due = _ from hdue, h,
          if_true]
      · rw [getCtx_mwaitDone, if_neg hk]
    · simp only [exec_hypcapTimeout, execHypcapTimeout, hin, show (getCtx s ctx).wait = _ from hwait, show (getCtx s ctx).due = _ from hdue, h,
        Bool.not_false, if_true]
    · refine ctxBecomes_of_modCtx (f := fun c => { c with run := .runnable, wait := none, due := keptDue c }) ?_ rfl
      simp only [exec_hypcapTimeout, execHypcapTimeout, hin, show (getCtx s ctx).wait = _ from hwait, show (getCtx s ctx).due = _ from hdue, h, hmet,
        Bool.not_true, Bool.false_eq_true, if_false, if_true, wake_waiting hrun]
    · simp only [exec_hypcapTimeout, execHypcapTimeout, hin, show (getCtx s ctx).wait = _ from hwait, show (getCtx s ctx).due = _ from hdue, h, hmet,
        Bool.not_true, Bool.false_eq_true, if_false]
  case events =>
    intro ctx s c p atBoundary
    refine ⟨fun hat hexit hnode => ?_, fun hrun hmid hth hexit => ?_, fun hckpt hth => ?_, fun hckpt hth hat => ?_,
      fun n hrun hdue hbundle hdrain => ⟨fun h => ?_, fun h hbody => ?_, fun h hbody => ?_⟩⟩
    · obtain ⟨hmem, hctx, hbar⟩ := orphan_spec ctx (survivor p (viewOf c)) s
      obtain ⟨hr, hw, hs, hhyp, hloop, hcopies, hpc⟩ := orphanCtx_spec (survivor p (viewOf c)) c
      obtain ⟨h0, h16, h26⟩ := orphanHyp_fields (survivor p (viewOf c)) c
      refine ⟨_, by rw [exec_orphan, execOrphan, if_neg hexit, if_pos ⟨hat, hnode⟩], hmem, ?_⟩
      rw [hctx]
      exact ⟨hr, hw, hs, hhyp ▸ h0, hhyp ▸ h16, hhyp ▸ h26, hloop, hcopies, hbar, hpc⟩
    · have hhere : exitsHere (getCtx s ctx) = true := by
        rw [exitsHere, show (getCtx s ctx).exiting = _ from hexit, show (getCtx s ctx).mid = _ from hmid, show bitAt (getCtx s ctx).xstat 0 = _ from hth]
        simp [c]
      rw [exec_orphan, execOrphan, if_pos ⟨hrun, hhere⟩]
    · exact ctxBecomes_of_modCtx (f := fun c => { c with ckpt := false, ckptHeld := true }) (by
        simp only [exec_ckpt, execCkpt, show (getCtx s ctx).ckpt = _ from hckpt, show bitAt (getCtx s ctx).xstat 0 = _ from hth, Bool.not_true,
          Bool.false_eq_true, if_false, if_true]) rfl
    · have hturn : ((getCtx s ctx).run == .waiting || ((getCtx s ctx).run == .runnable && !inBundle (getCtx s ctx))) = true := by
        rcases hat with h | ⟨h, hb⟩
        · simp [show (getCtx s ctx).run = _ from h]
        · simp [show (getCtx s ctx).run = _ from h, show inBundle (getCtx s ctx) = _ from hb]
      have hafter := getCtx_takeTrap ctx { cause := 17 } (modCtx (leaveBarriers s ctx) ctx fun c => { c with ckpt := false })
      rw [getCtx_modCtx, if_pos rfl, getCtx_leaveBarriers] at hafter
      obtain ⟨hcause, hpc, hs, hck, -, hstop, hgo⟩ :=
        trapCtx_first (t := { cause := 17 }) (c := { getCtx s ctx with ckpt := false }) hth (by decide)
      refine ⟨_, by simp only [exec_ckpt, execCkpt, show (getCtx s ctx).ckpt = _ from hckpt, show bitAt (getCtx s ctx).xstat 0 = _ from hth,
        hturn, Bool.not_true, Bool.false_eq_true, if_false, if_true]; rfl, ?_⟩
      rw [hafter]
      refine ⟨hck, (congrArg (fld · 0 6) hcause).trans (trapcWord_cause ..), hpc, hs, ?_⟩
      split
      · next hvec => exact hstop hvec
      · next hvec => exact hgo hvec
    · simp only [exec_deadlineExpiry, execDeadlineExpiry, show (getCtx s ctx).run = _ from hrun, show (getCtx s ctx).prqDue = _ from hdue, h,
        true_or, if_true]
    all_goals
      have hlate : ¬(reached s n = false ∨ inBundle (getCtx s ctx) = true ∨ draining (getCtx s ctx) = true) := by
        rw [h, show inBundle (getCtx s ctx) = _ from hbundle, show draining (getCtx s ctx) = _ from hdrain]; simp
    · exact ctxBecomes_of_modCtx (f := fun c => { c with xloop := setBit c.xloop 25 true }) (by
        simp only [exec_deadlineExpiry, execDeadlineExpiry, show (getCtx s ctx).run = _ from hrun, show (getCtx s ctx).prqDue = _ from hdue,
          if_neg hlate, show inBody (getCtx s ctx) (getCtx s ctx).pc = _ from hbody, if_true]) rfl
    · refine ⟨beginSave ctx true s, ?_, ?_⟩
      · simp only [exec_deadlineExpiry, execDeadlineExpiry, show (getCtx s ctx).run = _ from hrun, show (getCtx s ctx).prqDue = _ from hdue,
          if_neg hlate, show inBody (getCtx s ctx) (getCtx s ctx).pc = _ from hbody, Bool.false_eq_true, if_false]
      · rw [beginSave_eq]
        exact ⟨rfl, rfl, (setCtx_becomes s ctx _).2⟩

end Sys2Proof.Machine
end

section
/-! SUPPORT. The end of a context: what it gives back, what its launch makes of it, and what stands
(R55, R62, R65, R79). -/

namespace Sys2Proof.Machine

-- What a context gives back (R55).

/-- From `s` to `t`, a context has given back bindings and packets; launches and images stand. -/
def GivesBack (id : Nat) (s t : State) : Prop :=
  t.launches = s.launches ∧ t.images = s.images ∧ ∃ q fab, getCtx t id = { getCtx s id with q := q, fab := fab }

namespace GivesBack

variable {id : Nat} {s t u : State}

theorem of_ctxs (hl : t.launches = s.launches) (hi : t.images = s.images) (hc : t.ctxs = s.ctxs) : GivesBack id s t :=
  ⟨hl, hi, (getCtx s id).q, (getCtx s id).fab, by rw [getCtx, hc]; rfl⟩
theorem refl (s : State) : GivesBack id s s := of_ctxs rfl rfl rfl
theorem trans (h : GivesBack id s t) (g : GivesBack id t u) : GivesBack id s u := by
  obtain ⟨hl, hi, q, fab, hc⟩ := h
  obtain ⟨gl, gi, q', fab', gc⟩ := g
  exact ⟨gl.trans hl, gi.trans hi, q', fab', by rw [gc, hc]⟩
theorem foldl {α : Type} {f : State → α → State} (hf : ∀ s a, GivesBack id s (f s a)) (l : List α) (s : State) :
    GivesBack id s (l.foldl f s) := by
  induction l generalizing s with
  | nil => exact refl s
  | cons a l ih => exact (hf s a).trans (ih _)
theorem ite {c : Prop} [Decidable c] (ht : GivesBack id s t) (hu : GivesBack id s u) : GivesBack id s (if c then t else u) := by
  split <;> assumption

theorem leaveBarriers (id : Nat) (s : State) : GivesBack id s (leaveBarriers s id) := by
  rw [leaveBarriers_eq]; exact of_ctxs rfl rfl rfl

theorem freeStaging (id : Nat) (s : State) : GivesBack id s (freeStaging id s) := by
  unfold Machine.freeStaging; exact ite (refl s) (of_ctxs rfl rfl rfl)

theorem rebind (id : Nat) (s : State) (q : Ctx → List (Nat × Handle)) (fab : Ctx → List FabOp) :
    GivesBack id s (modCtx s id fun c => { c with q := q c, fab := fab c }) :=
  ⟨rfl, rfl, _, _, (getCtx_modCtx ..).trans (if_pos rfl)⟩

theorem modCore (id : Nat) (s : State) (n : Nat) (f : Core → Core) : GivesBack id s (modCore s n f) := of_ctxs rfl rfl rfl

theorem freeSlotsOf (id core : Nat) (slots : List Nat) (s : State) : GivesBack id s (freeSlotsOf slots core s) := by
  unfold Machine.freeSlotsOf; exact ite (of_ctxs rfl rfl rfl) (of_ctxs rfl rfl rfl)

theorem endOwnership (id : Nat) (s : State) : GivesBack id s (endOwnership id s) := by
  unfold Machine.endOwnership; exact ite (refl s) (of_ctxs rfl rfl rfl)

theorem releaseRing (id q : Nat) (s : State) : GivesBack id s (releaseRing id q s) := by
  unfold Machine.releaseRing
  split
  · exact refl s
  · exact (rebind id s (fun c => smDel c.q q) (·.fab)).trans ((freeSlotsOf id (coreOf id) _ _).trans (endOwnership id _))

theorem dropRegions (id : Nat) (s : State) : GivesBack id s (dropRegions id s) := by
  unfold Machine.dropRegions; exact ite (of_ctxs rfl rfl rfl) (refl s)

theorem dropFabric (id : Nat) (s : State) : GivesBack id s (dropFabric id s) := by
  unfold Machine.dropFabric
  dsimp only
  split
  · exact refl s
  · have hslots : GivesBack id s ((((s.outbox.filter fun p => p.srcCtx == id).map (·.tenant)) ++
        (((getCtx s id).fab.filter (·.slot)).map (·.tenant))).foldl giveSlot s) := foldl (f := giveSlot) (fun s _ => of_ctxs rfl rfl rfl) _ s
    exact (hslots.trans (rebind id _ (·.q) fun c => c.fab.map fun o => { o with slot := false })).trans (of_ctxs rfl rfl rfl)

end GivesBack

/-- What a context gives back before it is FREE or DORMANT. -/
theorem endedCtx_givesBack {id : Nat} {s t : State} (h : GivesBack id s t) : endedCtx id (getCtx t id) = endedCtx id (getCtx s id) := by
  obtain ⟨-, -, q, fab, hc⟩ := h
  rw [hc]; rfl

theorem pruneSaved_launches (id : Nat) (s : State) : (pruneSaved id s).launches = s.launches := by
  unfold pruneSaved; split <;> rfl
theorem getCtx_pruneSaved (id : Nat) (s : State) (k : Nat) : getCtx (pruneSaved id s) k = getCtx s k := by
  unfold pruneSaved; split <;> rfl

/-- The state in which a context has left its barriers and returned its staging and rings. -/
def ringsBack (id : Nat) (s : State) : State :=
  let s := freeStaging id (leaveBarriers s id)
  (ringHandles (getCtx s id)).foldl (fun s q => releaseRing id q s) s

theorem ringsBack_givesBack (id : Nat) (s : State) : GivesBack id s (ringsBack id s) := by
  unfold ringsBack
  exact ((GivesBack.leaveBarriers id s).trans (GivesBack.freeStaging id _)).trans
    (GivesBack.foldl (fun s q => GivesBack.releaseRing id q s) _ _)

/-- The state in which a context has given back all that it holds. -/
def gaveBack (id : Nat) (s : State) : State :=
  dropFabric id (dropRegions id
    (modCore (ringsBack id s) (coreOf id) fun k => { k with metaOwner := k.metaOwner.filter fun e => e.2 != id }))

theorem gaveBack_givesBack (id : Nat) (s : State) : GivesBack id s (gaveBack id s) := by
  unfold gaveBack
  exact ((ringsBack_givesBack id s).trans (GivesBack.modCore id _ _ _)).trans
    ((GivesBack.dropRegions id _).trans (GivesBack.dropFabric id _))

/-- The state in which a context that has given back what it holds has ended, its quad flushed where that leaves it without FUSE. -/
def endedState (id : Nat) (s : State) : State :=
  let ended := pruneSaved id (modCtx s id (endedCtx id))
  if fusedQuad s (quadOf id) && !fusedQuad ended (quadOf id) then flushQuad (quadOf id) ended else ended

theorem endedState_performed (id : Nat) (s : State) : Performed (pruneSaved id (modCtx s id (endedCtx id))) (endedState id s) := by
  unfold endedState; exact Performed.ite (Performed.flushQuad _ _) (Performed.refl _)

theorem clearContext_eq (id : Nat) (s : State) :
    clearContext id s =
      let t := freeNodes (endedState id (gaveBack id s))
      if isLight id && !(getCluster t (clusterOf id)).handlers.isEmpty then raise t [.handlerWake (clusterOf id)] else t := rfl

theorem clearContext_performed (id : Nat) (s : State) :
    Performed (freeNodes (endedState id (gaveBack id s))) (clearContext id s) := by
  rw [clearContext_eq]; exact Performed.ite (Performed.raise _ _) (Performed.refl _)

/-- A context that is cleared is as its end leaves it; launches and images stand (R55, R79). -/
theorem clearContext_spec (id : Nat) (s : State) :
    (clearContext id s).launches = s.launches ∧ (clearContext id s).images = s.images ∧
      getCtx (clearContext id s) id =
        { endedCtx id (getCtx s id) with watchFired := (getCtx (clearContext id s) id).watchFired } := by
  have hended := endedState_performed id (gaveBack id s)
  have hwoken := clearContext_performed id s
  obtain ⟨ks, ds, ps, hfree⟩ := freeNodes_eq (endedState id (gaveBack id s))
  obtain ⟨hl, hi, -⟩ := gaveBack_givesBack id s
  have hctx : getCtx (pruneSaved id (modCtx (gaveBack id s) id (endedCtx id))) id = endedCtx id (getCtx s id) := by
    rw [getCtx_pruneSaved, getCtx_modCtx, if_pos rfl, endedCtx_givesBack (gaveBack_givesBack id s)]
  refine ⟨?_, ?_, ?_⟩
  · rw [hwoken.launches, hfree, hended.launches, pruneSaved_launches, modCtx, setCtx_launches, hl]
  · rw [hwoken.images, hfree, hended.images, pruneSaved_images, modCtx, setCtx_images, hi]
  · rw [hwoken.watch id, getCtx_freeNodes, hended.watch id, hctx]

-- Instances and launches (R62, R65).

theorem modInst_eq (s : State) (lid serial : Nat) (f : Inst → Inst) :
    modInst s lid serial f = { s with launches := (modInst s lid serial f).launches } := modLaunch_eq ..

theorem strandInst_performed (s : State) (lid serial : Nat) : ∃ ls, Performed { s with launches := ls } (strandInst s lid serial) := by
  unfold strandInst
  split
  · exact ⟨s.launches, Performed.refl s⟩
  · dsimp only
    rw [modLaunch_eq, modInst_eq]
    split
    · exact ⟨_, Performed.sysStore ..⟩
    · exact ⟨_, Performed.refl _⟩

theorem setMember_performed (m : Member) (id : Nat) (st : MemState) (s : State) :
    ∃ ls, Performed { s with launches := ls } (setMember m id st s) := by
  unfold setMember
  dsimp only
  rw [modLaunch_eq]
  split
  · obtain ⟨ls, h⟩ := strandInst_performed { s with launches := (modLaunch s m.lid _).launches } m.lid m.serial
    exact ⟨ls, h⟩
  · exact ⟨_, Performed.refl _⟩

theorem setMember_watchOnly (m : Member) (id : Nat) (st : MemState) (s : State) : WatchOnly s (setMember m id st s) := by
  obtain ⟨ls, h⟩ := setMember_performed m id st s
  exact WatchOnly.trans (WatchOnly.of_ctxs rfl) h.watch

theorem setMember_images (m : Member) (id : Nat) (st : MemState) (s : State) : (setMember m id st s).images = s.images := by
  obtain ⟨ls, h⟩ := setMember_performed m id st s
  exact h.images

theorem regroup_performed (core : Nat) (m : Member) (s : State) : Performed s (regroup core m s) := by
  unfold regroup; exact Performed.ite (Performed.raise s _) (Performed.refl s)

theorem appendLog_ctxs (s : State) (tenant kind status ver handle : Nat) (nonce : Word) :
    (appendLog s tenant kind status ver handle nonce).ctxs = s.ctxs := by
  unfold appendLog; dsimp only; split <;> rfl

theorem endLaunch_watchOnly (s : State) (lid : Nat) (l : Launch) (state : Nat) : WatchOnly s (endLaunch s lid l state) :=
  (WatchOnly.trans (WatchOnly.of_ctxs rfl) (Performed.writeStatus { s with launches := smDel s.launches lid } l state).watch).trans
    (WatchOnly.of_ctxs (appendLog_ctxs ..))

theorem wakeSchedulers_watchOnly (s : State) : WatchOnly s (wakeSchedulers s) := WatchOnly.of_ctxs rfl

theorem settleLaunch_watchOnly (lid : Nat) (s : State) : WatchOnly s (settleLaunch lid s) := by
  have hput : ∀ l, WatchOnly s { s with launches := smPut s.launches lid l } := fun l => WatchOnly.of_ctxs rfl
  unfold settleLaunch
  split
  · exact WatchOnly.refl s
  · dsimp only
    split
    · exact ((hput _).trans (endLaunch_watchOnly _ _ _ _)).trans (wakeSchedulers_watchOnly _)
    · exact (hput _).trans (wakeSchedulers_watchOnly _)

/-- A context that ends is as its end leaves it (R79). -/
theorem getCtx_endContext (id : Nat) (s : State) :
    getCtx (endContext id s) id = { endedCtx id (getCtx s id) with watchFired := (getCtx (endContext id s) id).watchFired } := by
  obtain ⟨-, -, hclear⟩ := clearContext_spec id s
  unfold endContext
  dsimp only
  split
  · next m _ =>
    have h := ((setMember_watchOnly m id .gone (clearContext id s)).trans (regroup_performed (coreOf id) m _).watch).trans
      (settleLaunch_watchOnly m.lid _) id
    rw [h, hclear]
  · exact hclear

-- CODE of a launch (R62).

/-- Every launch of `t` is one of `s`, with its CODE. -/
def SameCodes (s t : State) : Prop :=
  ∀ lid l2, smGet t.launches lid = some l2 → ∃ l, smGet s.launches lid = some l ∧ l2.code = l.code

namespace SameCodes

variable {s t u : State}

theorem of_launches (h : t.launches = s.launches) : SameCodes s t := fun _ l2 hl => ⟨l2, h ▸ hl, rfl⟩
theorem trans (h : SameCodes s t) (g : SameCodes t u) : SameCodes s u := fun lid l2 hl => by
  obtain ⟨l1, hl1, hc1⟩ := g lid l2 hl
  obtain ⟨l, hl0, hc⟩ := h lid l1 hl1
  exact ⟨l, hl0, hc1.trans hc⟩

theorem modLaunch (s : State) (lid : Nat) {f : Launch → Launch} (hf : ∀ l, (f l).code = l.code) : SameCodes s (modLaunch s lid f) := by
  intro k l2 hl
  rw [modLaunch_launches] at hl
  split at hl
  · next hk =>
    obtain ⟨l, hl0, rfl⟩ := Option.map_eq_some_iff.1 hl
    exact ⟨l, hk ▸ hl0, hf l⟩
  · exact ⟨l2, hl, rfl⟩

theorem strandInst (s : State) (lid serial : Nat) : SameCodes s (strandInst s lid serial) := by
  intro k l2 hl
  rw [strandInst_launches] at hl
  split at hl
  · next hk =>
    obtain ⟨l, hl0, rfl⟩ := Option.map_eq_some_iff.1 hl
    exact ⟨l, hk.2 ▸ hl0, rfl⟩
  · exact ⟨l2, hl, rfl⟩

theorem setMember (m : Member) (id : Nat) (st : MemState) (s : State) : SameCodes s (setMember m id st s) := by
  have hmod := SameCodes.modLaunch s m.lid (f := fun l =>
    { l with insts := l.insts.map fun i =>
        if i.serial == m.serial then
          let i := { i with members := i.members.map fun e => if e.1 = id then (e.1, st) else e }
          if i.st = .stranded then i else { i with st := instState i }
        else i }) fun l => rfl
  unfold Machine.setMember
  dsimp only
  split
  · exact hmod.trans (strandInst _ _ _)
  · exact hmod

theorem closeAll_code (n : Nat) (l : Launch) : (closeAll n l).code = l.code := by
  induction n generalizing l with
  | zero => rfl
  | succ n ih => exact ih (closeQueues l)

theorem settleLaunch (lid : Nat) (s : State) : SameCodes s (settleLaunch lid s) := by
  unfold Machine.settleLaunch
  split
  · exact of_launches rfl
  · next l hl =>
    have hput : SameCodes s { s with launches := smPut s.launches lid (closeAll l.stages.length l) } := fun k l2 hl2 => by
      change smGet (smPut s.launches lid _) k = _ at hl2
      rw [smGet_smPut] at hl2
      split at hl2
      · next hk => cases hl2; exact ⟨l, hk ▸ hl, closeAll_code _ _⟩
      · exact ⟨l2, hl2, rfl⟩
    dsimp only
    split
    · refine hput.trans fun k l2 hl2 => ?_
      change smGet (endLaunch _ lid _ 1).launches k = _ at hl2
      rw [endLaunch_launches, smGet_smDel] at hl2
      split at hl2
      · cases hl2
      · exact ⟨l2, hl2, rfl⟩
    · exact hput

theorem endContext (id : Nat) (s : State) : SameCodes s (endContext id s) := by
  obtain ⟨hl, -, -⟩ := clearContext_spec id s
  unfold Machine.endContext
  dsimp only
  split
  · next m _ =>
    exact ((of_launches hl).trans (setMember m id .gone _)).trans
      ((of_launches (regroup_performed (coreOf id) m _).launches).trans (settleLaunch m.lid _))
  · exact of_launches hl

end SameCodes

end Sys2Proof.Machine
end

section
/-! SUPPORT. How a STOPPED context goes on, how a context starts, and what the writing of an image leaves (R63, R66, R79, R90, R297,
R339, R340, R343). -/

namespace Sys2Proof.Machine

-- The refill of a drained loop (R90, R94).

theorem refillEng_eq (c : Ctx) (n : Nat) : ∃ eng, refillEng c n = { c with eng := eng } := by
  unfold refillEng refillEng.laterCut
  dsimp only
  repeat' split
  all_goals exact ⟨_, rfl⟩

theorem foldl_refillEng_eq (ns : List Nat) (c : Ctx) : ∃ eng, ns.foldl refillEng c = { c with eng := eng } := by
  induction ns generalizing c with
  | nil => exact ⟨c.eng, rfl⟩
  | cons n ns ih =>
    obtain ⟨e, he⟩ := refillEng_eq c n
    obtain ⟨eng, h⟩ := ih (refillEng c n)
    exact ⟨eng, by rw [List.foldl_cons, h, he]⟩

theorem putTuple_eq (c : Ctx) (seq base d : Nat) (is : List Nat) : ∃ l, putTuple c seq base d is = { c with l := l } := by
  induction is generalizing c d with
  | nil => exact ⟨c.l, rfl⟩
  | cons i is ih =>
    obtain ⟨l, h⟩ := ih (lput c seq (base + 2 * d + 1) (natW i)) (d + 1)
    exact ⟨l, h⟩

theorem mirror_eq (c : Ctx) : ∃ rs, mirror c = { c with s := rs } := by
  unfold mirror
  dsimp only
  split
  · exact ⟨c.s, rfl⟩
  · exact ⟨_, swrite_eq ..⟩

/-- A loop that refills, or is over, drains no more; its engines, its registers and its place are what it changes (R90). -/
theorem refillLoop_eq (c : Ctx) : ∃ eng l rs pc xlpos xstagep xloop, bitAt xloop 25 = false ∧
    refillLoop c = { c with refill := false, drainCut := false, eng := eng, l := l, s := rs, pc := pc, mid := false, jump := none, back := [],
                            xlpos := xlpos, xstagep := xstagep, xloop := xloop } := by
  obtain ⟨eng, heng⟩ := foldl_refillEng_eq [0, 1, 2] c
  have hclear : ∀ (x : Word) (b : Bool), bitAt (setBit (setBit x 25 false) 24 b) 25 = false := fun x b => by
    rw [bitAt_setBit_other _ _ (by decide) (by decide), bitAt_setBit_same _ _ (by decide)]
  unfold refillLoop
  dsimp only
  rw [heng]
  split
  · next t _ =>
    obtain ⟨l, hl⟩ := putTuple_eq { c with eng := eng, refill := false, drainCut := false } 4 (loopBase c.xloop) 0 t
    rw [hl]
    obtain ⟨rs, hm⟩ := mirror_eq { enterAt c.bodyAt { c with eng := eng, refill := false, drainCut := false, l := l } with
      xlpos := 1, xstagep := 1, xloop := setBit (setBit c.xloop 25 false) 24 true }
    exact ⟨eng, l, rs, _, _, _, _, hclear c.xloop true, hm⟩
  · exact ⟨eng, c.l, c.s, _, c.xlpos, c.xstagep, _, hclear c.xloop false, rfl⟩

-- STOPPED contexts go on (R25, R66).

theorem requestPending_setCtx {s : State} {id : Nat} {c : Ctx} (hx : c.xsched = (getCtx s id).xsched) (hm : c.member = (getCtx s id).member) :
    requestPending (setCtx s id c) id = requestPending s id := by
  rw [requestPending, getCtx_setCtx, if_pos rfl, hx, hm]; rfl

/-- A STOPPED context that goes on as `up` does so at once, or with its pending request raised afresh. -/
theorem supervisorResume_becomes {s : State} {id : Nat} {up : Ctx} (hrun : (getCtx s id).run = .stopped) (hlive : s.fatal = false)
    (hup : resumeStopped id s = setCtx s id up) (hgo : up.run = .runnable) (hx : up.xsched = (getCtx s id).xsched)
    (hm : up.member = (getCtx s id).member) (hd : up.xdeadline = (getCtx s id).xdeadline) :
    (requestPending s id = false → CtxBecomes (.supervisorResume id) s id up) ∧
      (requestPending s id = true → CtxBecomes (.supervisorResume id) s id
        { up with xsched := setBit (getCtx s id).xsched 0 true,
                  prqDue := some (cycleIn s (fld (getCtx s id).xdeadline 0 32)) }) := by
  have hexec : exec (.supervisorResume id) s = .next (if requestPending s id
      then requestOwn id (modCtx (setCtx s id up) id fun c => { c with prqDue := none }) else setCtx s id up) := by
    rw [exec_supervisorResume, execSupervisorResume, if_pos ⟨hrun, hlive⟩]
    dsimp only
    rw [hup, requestPending_setCtx hx hm]
  refine ⟨fun h => ?_, fun h => ?_⟩
  · rw [h] at hexec
    exact ⟨_, hexec, setCtx_becomes s id up⟩
  · have hown : requestOwn id (modCtx (setCtx s id up) id fun c => { c with prqDue := none }) =
        setCtx (setCtx (setCtx s id up) id { up with prqDue := none }) id
          { up with xsched := setBit up.xsched 0 true, prqDue := some (cycleIn s (fld up.xdeadline 0 32)) } := by
      have hc : getCtx (modCtx (setCtx s id up) id fun c => { c with prqDue := none }) id = { up with prqDue := none } := by
        rw [getCtx_modCtx, if_pos rfl, getCtx_setCtx, if_pos rfl]
      rw [requestOwn, requestCtx, hc]
      simp only [hgo, modCtx, getCtx_setCtx, if_true]
      rfl
    rw [h, if_pos rfl, hown] at hexec
    refine ⟨_, hexec, rfl, by rw [getCtx_setCtx, if_pos rfl, ← hx, ← hd], fun k hk => ?_⟩
    rw [getCtx_setCtx, if_neg hk, getCtx_setCtx, if_neg hk, getCtx_setCtx, if_neg hk]

section
variable {s : State} {id : Nat} (hrefill : (getCtx s id).refill = false)
include hrefill

/-- A context stopped at its word, outside a loop that refills, goes on there. -/
theorem resumeStopped_same (hheld : (getCtx s id).stopHeld = none) (htrap : (getCtx s id).trapped = false) :
    resumeStopped id s = setCtx s id { getCtx s id with run := .runnable, wait := none, stopHeld := none, trapped := false } := by
  simp only [resumeStopped, hheld, htrap, hrefill, restFrom, Option.bind_none, Option.isSome_none, Bool.or_self, Bool.false_eq_true, if_false]

/-- Where its stop has kept a bundle that does not hold the address, or none, a context goes on there with a new bundle. -/
theorem resumeStopped_new (hstop : (getCtx s id).trapped = true ∨ (getCtx s id).stopHeld.isSome = true)
    (hrest : restFrom s id (if (getCtx s id).trapped then aligned4 (getCtx s id).xtrappc else (getCtx s id).pc) (getCtx s id).stopHeld = none) :
    resumeStopped id s = setCtx s id
      { getCtx s id with pc := if (getCtx s id).trapped then aligned4 (getCtx s id).xtrappc else (getCtx s id).pc,
                         mid := false, jump := none, back := [], run := .runnable, wait := none, stopHeld := none, trapped := false } := by
  have hor : ((getCtx s id).trapped || (getCtx s id).stopHeld.isSome) = true := by simpa using hstop
  simp only [resumeStopped, hrest, hor, hrefill, enterAt, Bool.false_eq_true, if_false, if_true]

/-- Where its stop has kept a bundle that holds the address, a context goes on in its rest (R25). -/
theorem resumeStopped_rest {h : HeldBundle}
    (hrest : restFrom s id (if (getCtx s id).trapped then aligned4 (getCtx s id).xtrappc else (getCtx s id).pc) (getCtx s id).stopHeld = some h) :
    resumeStopped id s = setCtx s id
      { getCtx s id with pc := h.next, mid := true, jump := h.jump, back := h.back, run := .runnable, wait := none, stopHeld := none,
                         trapped := false } := by
  simp only [resumeStopped, hrest, hrefill, enterRest, Bool.false_eq_true, if_false]

end

/-- A kept bundle whose rest starts at the address is taken up whole. -/
theorem restFrom_next {s : State} {id : Nat} {t : Word} {h : HeldBundle} (hnext : h.next = t) : restFrom s id t (some h) = some h := by
  rw [restFrom, Option.bind_some, restAt, if_pos hnext]

/-- At a STOPPED context, what `resumeStopped` goes on with, before a drained loop refills. -/
theorem resumeStopped_refill {s : State} {id : Nat} (hrefill : (getCtx s id).refill = true) :
    ∃ pc mid jump back, resumeStopped id s = setCtx s id (refillLoop
      { getCtx s id with pc := pc, mid := mid, jump := jump, back := back, run := .runnable, wait := none, stopHeld := none, trapped := false }) := by
  cases hrest : restFrom s id (if (getCtx s id).trapped then aligned4 (getCtx s id).xtrappc else (getCtx s id).pc) (getCtx s id).stopHeld with
  | some h => exact ⟨h.next, true, h.jump, h.back, by simp only [resumeStopped, hrest, hrefill, enterRest, if_true]⟩
  | none =>
    cases hstop : (getCtx s id).trapped || (getCtx s id).stopHeld.isSome with
    | true => exact ⟨_, false, none, [], by simp only [resumeStopped, hrest, hstop, hrefill, enterAt, if_true]; rfl⟩
    | false =>
      exact ⟨(getCtx s id).pc, (getCtx s id).mid, (getCtx s id).jump, (getCtx s id).back, by
        simp only [resumeStopped, hrest, hstop, hrefill, Bool.false_eq_true, if_false, if_true]⟩

-- Starts (R54, R63).

theorem cleanRegs_eq (id : Nat) (s : State) : cleanRegs id s = { s with poison := (cleanRegs id s).poison } := by
  unfold cleanRegs; split <;> rfl

/-- A context that starts. -/
theorem startAt_eq (id : Nat) (c : Ctx) (s : State) :
    startAt id c s = setCtx { s with poison := (cleanRegs id s).poison, nextId := s.nextId + 1 } id
      { c with uid := s.nextId + 1, run := .runnable } := by
  unfold startAt nextUid
  rw [cleanRegs_eq]

theorem getCtx_startAt (id : Nat) (c : Ctx) (s : State) :
    getCtx (startAt id c s) id = { c with uid := s.nextId + 1, run := .runnable } := by
  rw [startAt_eq, getCtx_setCtx, if_pos rfl]

theorem onL1s_eq (s : State) (core : Nat) (f : List CacheLine → List CacheLine) : ∃ ks, onL1s s core f = { s with cores := ks } := by
  unfold onL1s
  generalize l1Arrays s core = ks
  induction ks generalizing s with
  | nil => exact ⟨s.cores, rfl⟩
  | cons k ks ih => obtain ⟨c, h⟩ := ih (modCore s k fun c => { c with l1 := f c.l1 }); exact ⟨c, h⟩

/-- An acquire changes the copies and signatures of cores and dies, and nothing else (R217). -/
theorem acquireSig_eq (s : State) (id sc : Nat) (sg : Sig) : ∃ ks ds, acquireSig s id sc sg = { s with cores := ks, dies := ds } := by
  unfold acquireSig
  split
  · obtain ⟨ks, h⟩ := onL1s_eq s (coreOf id) (keepCopies s sg)
    dsimp only
    rw [h]
    split <;> exact ⟨_, _, rfl⟩
  · exact ⟨s.cores, s.dies, rfl⟩

/-- The context that a handler's request starts (R63). -/
def handlerCtx (s : State) (cl id : Nat) (r : HandlerReq) : Ctx :=
  let p := handlerPrio s cl
  { idleCtx id with
    pc := r.pc, s := smSet (smSet (smSet [] 1 r.addr 0) 2 (natW r.len) 0) 3 (natW r.src) 0, xprio := natW (p + 256 * p),
    tenant := BitVec.ofNat 12 r.tenant }

/-- What a handler's request leaves when it has been taken. -/
def handlerTaken (cl : Nat) (r : HandlerReq) (rest : List HandlerReq) (s : State) : State :=
  giveSlot (modCluster s cl fun c => { c with handlers := rest }) r.tenant

/-- A handler starts in its context, its request is taken, and its acquire leaves memory (R63, R218, R296). -/
theorem execHandlerWake_starts {cl id : Nat} {s : State} {r : HandlerReq} {rest : List HandlerReq} (hlive : s.fatal = false)
    (hid : firstDormant s cl = some id)
    (hreq : takeRequest (fun r => coreAdmits s (cl / 4) (worldOf s r.tenant)) (getCluster s cl).handlers = some (r, rest)) :
    ∃ t uid, execHandlerWake cl s = .next t ∧
      getCtx t id = { handlerCtx (handlerTaken cl r rest s) cl id r with uid := uid, run := .runnable } ∧
      (getCluster t cl).handlers = rest ∧ t.mem = s.mem ∧ slotsHeld t r.tenant = slotsHeld s r.tenant - 1 := by
  let c := handlerCtx (handlerTaken cl r rest s) cl id r
  have hctx := getCtx_startAt id c (handlerTaken cl r rest s)
  have hcluster : (getCluster (startAt id c (handlerTaken cl r rest s)) cl).handlers = rest := by
    rw [startAt_eq]
    change (getCluster (modCluster s cl fun c => { c with handlers := rest }) cl).handlers = rest
    rw [getCluster_modCluster, if_pos rfl]
  have hmem : (startAt id c (handlerTaken cl r rest s)).mem = s.mem := by rw [startAt_eq]; rfl
  have hslots : slotsHeld (startAt id c (handlerTaken cl r rest s)) r.tenant = slotsHeld s r.tenant - 1 := by
    rw [startAt_eq]
    change smGetD (smSet s.gwSlots r.tenant (slotsHeld s r.tenant - 1) 0) r.tenant 0 = _
    rw [smGetD_smSet, if_pos rfl]
  obtain ⟨ks, ds, hacq⟩ := acquireSig_eq (startAt id c (handlerTaken cl r rest s)) id 4 (BitVec.allOnes 1024)
  have hexec : execHandlerWake cl s = .next (if rest.isEmpty then acquireAll (startAt id c (handlerTaken cl r rest s)) id 4
      else raise (acquireAll (startAt id c (handlerTaken cl r rest s)) id 4) [.handlerWake cl]) := by
    simp only [execHandlerWake, hlive, hid, hreq, Bool.false_eq_true, if_false]; rfl
  rw [hexec, acquireAll, hacq]
  split
  · exact ⟨_, _, rfl, hctx, hcluster, hmem, hslots⟩
  · exact ⟨_, _, rfl, hctx, hcluster, hmem, hslots⟩

/-- A handler's context holds its request in s1 to s3 (R63). -/
theorem handlerCtx_args (s : State) (cl id : Nat) (r : HandlerReq) :
    sread (handlerCtx s cl id r) 1 = r.addr ∧ sread (handlerCtx s cl id r) 2 = natW r.len ∧ sread (handlerCtx s cl id r) 3 = natW r.src := by
  simp [sread, handlerCtx]

-- The writing of an image (R339, R340, R343).

theorem abortSave_spec (id cause : Nat) (va : Word) (s : State) :
    (getCtx (abortSave id cause va s) id).run = .stopped ∧ (getCtx (abortSave id cause va s) id).forced = false := by
  have h := reportCtx_watchOnly (modCtx s id fun c => { c with run := .stopped, forced := false, dead := 0 }) 3 cause id va id
  rw [getCtx_modCtx, if_pos rfl] at h
  unfold abortSave
  rw [h]
  exact ⟨rfl, rfl⟩

-- Writes of an engine and reports leave the queued images.

theorem foldl_images {α : Type} {f : State → α → State} (hf : ∀ s a, (f s a).images = s.images) (l : List α) (s : State) :
    (l.foldl f s).images = s.images := by
  induction l generalizing s with
  | nil => rfl
  | cons a l ih => exact (ih (f s a)).trans (hf s a)
theorem noteEng_images (s : State) (ctx : Nat) (op : Option (Nat × Nat)) (line : Nat) : (noteEng s ctx op line).images = s.images := by
  unfold noteEng; split <;> rfl
theorem tlbNote_images (s : State) (ag : Agent) (va : Word) (r : Route) : (tlbNote s ag va r).images = s.images := by
  unfold tlbNote
  split
  · dsimp only; split <;> rfl
  · rfl
theorem askFill_images (s : State) (ag : Agent) (r g : Nat) : (askFill s ag r g).images = s.images := by
  unfold askFill; split <;> rfl
theorem refreshLine_images (s : State) (ag : Agent) (line : Nat) (drop : Bool) : (refreshLine s ag line drop).images = s.images := by
  unfold refreshLine; dsimp only; repeat' split
  all_goals rfl
theorem writeLine_images (s : State) (ag : Agent) (point : Nat) (drop : Bool) (line off : Nat) (bs : List PB) :
    (writeLine s ag point drop line off bs).images = s.images := by
  unfold writeLine
  dsimp only
  split
  · exact noteEng_images (signLine s _ line) _ _ _
  · rw [refreshLine_images, (Performed.homeWrite _ ..).images, drainLine, (Performed.drainWhere _ ..).images, portAsk,
      (Performed.portRequest _ ..).images]
    exact noteEng_images (signLine s _ line) _ _ _
theorem portStream_images (s : State) (core tenant bytes : Nat) : (portStream s core tenant bytes).images = s.images := by
  unfold portStream
  split
  · rfl
  · exact foldl_images (fun s i => (Performed.portRequest s core tenant _).images) _ s
theorem setKeyFlags_images (s : State) (slot : Nat) (warn exh : Bool) : (setKeyFlags s slot warn exh).images = s.images := by
  unfold setKeyFlags; split <;> rfl
theorem sealFlags_images (s : State) (hi : Word) (r : Except Nat SealOut) : (sealFlags s hi r).images = s.images := by
  unfold sealFlags
  split
  · exact setKeyFlags_images ..
  · split
    · exact setKeyFlags_images ..
    · rfl
theorem sealedStore_images (s : State) (ag : Agent) (base sh : Nat) (o : SealOut) : (sealedStore s ag base sh o).images = s.images := by
  unfold sealedStore
  refine (foldl_images (fun s line => ?_) _ _).trans ?_
  · rw [(Performed.homeWrite _ ..).images]; exact noteEng_images (signLine s _ line) _ _ _
  · rw [(Performed.memWrite _ ..).images, portStream_images]
theorem sealedWrite_images (s : State) (ag : Agent) (hi : Word) (pa inPage : Nat) (bs : List Byte) :
    (sealedWrite s ag hi pa inPage bs).2.images = s.images := by
  unfold sealedWrite
  dsimp only
  split
  · exact sealFlags_images ..
  · exact (sealedStore_images ..).trans (sealFlags_images ..)
theorem Performed.scratchWrite (s : State) (core off : Nat) (bs : List PB) : Performed s (scratchWrite s core off bs) := by
  have hclean : ∀ s : State, Performed s (if s.poison.isEmpty then s else
      { s with poison := s.poison.filter fun p => !((wholeGranules off bs.length).map (PLoc.scratch core)).contains p }) :=
    fun s => Performed.ite (Performed.refl s) ⟨rfl, WatchOnly.of_ctxs rfl⟩
  have hmark : ∀ s : State, Performed s (if anyBad bs then (granules off bs.length).foldl (fun s g =>
      if ((rangeFrom off bs.length).zip bs).any (fun e => e.1 / 8 == g && e.2.2) then Machine.setPoison s (.scratch core g) true else s) s else s) :=
    fun s => Performed.ite (Performed.foldl (fun s g => Performed.ite (Performed.setPoison s _ _) (Performed.refl s)) _ s) (Performed.refl s)
  have hwritten := ((Performed.modCore s core fun c => { c with scratch := memSetCells c.scratch off (bytesOf bs) }).trans (hclean _)).trans (hmark _)
  unfold Machine.scratchWrite
  dsimp only
  split
  · exact hwritten
  · exact hwritten.trans (Performed.foldl (fun s l => Performed.fireWatch s _) _ _)

theorem rangeWrite_images {ag : Agent} {u : Use} {f : Nat} {s t : State} {va : Word} {bs out : List PB}
    (h : rangeWrite ag u f s va bs = .ok out t) : t.images = s.images := by
  induction f generalizing s va bs with
  | zero => cases h; rfl
  | succ f ih =>
    unfold rangeWrite at h
    dsimp only at h
    split at h
    · cases h; rfl
    split at h
    · cases h
    · split at h
      · cases h
      · exact (ih h).trans (Performed.scratchWrite ..).images
    · split at h
      · cases h
      split at h
      · split at h
        · cases h
        split at h
        · cases h
        · next hw => exact (ih h).trans ((tlbNote_images ..).trans (congrArg (·.2.images) hw ▸ sealedWrite_images s ..))
      · split at h
        · cases h
        · exact (ih h).trans ((writeLine_images ..).trans (tlbNote_images ..))

theorem writeImage_images {id cnt flags off span limit n : Nat} {va : Word} {c : Ctx} {s t : State}
    (h : writeImage id cnt flags off span limit va c s = .ok n t) : t.images = s.images := by
  unfold writeImage at h
  dsimp only at h
  repeat' split at h
  all_goals cases h
  next hw => exact (rangeWrite_images hw :)

theorem fireSnap_images (s : State) (src : SnapSource) (part tag place : Nat) : (fireSnap s src part tag place).images = s.images := by
  unfold fireSnap recordFiring
  repeat' split
  all_goals rfl
theorem appendReport_images (s : State) (part : Nat) : (appendReport s part).images = s.images := by
  unfold appendReport
  dsimp only
  split
  · rfl
  · split
    · exact (foldl_images (fun s l => (Performed.fireWatch s _).images) _ _).trans (Performed.memWrite s _ _).images
    · rfl
theorem abortSave_images (id cause : Nat) (va : Word) (s : State) : (abortSave id cause va s).images = s.images := by
  unfold abortSave reportCtx report
  exact (appendReport_images ..).trans (fireSnap_images ..)

/-- A context whose image is written is idle, its image queued last (R340). -/
theorem finishSave_spec (id cnt area cell : Nat) (s : State) :
    (getCtx (finishSave id cnt area cell s) id).run = (if isLight id then .dormant else .free) ∧
      ∃ x ∈ (finishSave id cnt area cell s).images, x.place = id ∧ x.cnt = cnt ∧ x.area = area ∧ x.cell = cell ∧ x.refused = 0 := by
  let x : Image := { place := id, cnt := cnt, part := partOf s id, tenant := (getCtx s id).tenant.toNat, member := (getCtx s id).member,
                     area := area, cell := cell, ckpt := (getCtx s id).ckpt }
  have hdrained := Performed.releaseDrain { s with images := s.images ++ [x] } id 4
  obtain ⟨-, himages, hctx⟩ := clearContext_spec id (releaseDrain { s with images := s.images ++ [x] } id 4)
  have hmem : x ∈ (clearContext id (releaseDrain { s with images := s.images ++ [x] } id 4)).images := by
    rw [himages, hdrained.images]; exact List.mem_append_right _ List.mem_cons_self
  unfold finishSave
  dsimp only
  split
  · next m _ =>
    refine ⟨?_, x, ?_, rfl, rfl, rfl, rfl, rfl⟩
    · rw [wakeSchedulers_watchOnly _ id, setMember_watchOnly m id .saved _ id, hctx]; rfl
    · change x ∈ (setMember m id .saved _).images
      rw [setMember_images]; exact hmem
  · refine ⟨?_, x, hmem, rfl, rfl, rfl, rfl, rfl⟩
    rw [wakeSchedulers_watchOnly _ id, hctx]; rfl

section
variable {ctx cnt : Nat} {s s1 : State} (hcnt : takeCnt (setCtx s ctx (rewound (getCtx s ctx))) ctx = (cnt, s1))
include hcnt

theorem schedSave_no_area (harea : (saveArea s1 ctx).1 = 0) : schedSave ctx s = abortSave ctx 0 0 s1 := by
  simp only [schedSave, modCtx, hcnt, harea, if_true]

variable {area span cell size : Nat} {s2 : State} (harea : saveArea s1 ctx = (area, span)) (hne : area ≠ 0)
  (hcell : freeCell s1 (partOf s1 ctx) (getCtx s1 ctx).tenant.toNat area = .ok (some (cell, size)))
  (hwrite : writeImage ctx cnt (bitNat (getCtx s1 ctx).forced) 0 span size (natW (cellAddr area size cell)) (getCtx s1 ctx) s1 = .ok cnt s2)
include harea hne hcell hwrite

theorem schedSave_unused {k : Nat} {a : Word} (hused : setUsed s2 (partOf s1 ctx) (getCtx s1 ctx).tenant.toNat area cell true = .error (k, a)) :
    schedSave ctx s = abortSave ctx k a s2 := by
  simp only [schedSave, modCtx, hcnt, harea, if_neg hne, hcell, hwrite, hused]

theorem schedSave_used {s3 : State} (hused : setUsed s2 (partOf s1 ctx) (getCtx s1 ctx).tenant.toNat area cell true = .ok s3) :
    schedSave ctx s = finishSave ctx cnt area cell s3 := by
  simp only [schedSave, modCtx, hcnt, harea, if_neg hne, hcell, hwrite, hused]

end

/-- Settles O37: how a stopped context goes on by what its stop has kept, and what its end, a handler's start and a save leave. -/
theorem contextsAreResumedDiscardedAndSaved : Obligations.ContextsAreResumedDiscardedAndSaved := by
  refine ⟨?stopped, ?handler, ?saved⟩
  case stopped =>
    intro ctx s hrun c at_ Resumes
    refine ⟨fun hlive hrefill => ⟨fun hheld htrap => ?_, fun hstop hrest => ?_, fun h hrest => ?_, fun h hheld hnext => ?_⟩,
      fun hlive hrefill hpend => ?_, fun hfatal => ?_, ?_⟩
    · exact supervisorResume_becomes hrun hlive (resumeStopped_same hrefill hheld htrap) rfl rfl rfl rfl
    · exact supervisorResume_becomes hrun hlive (resumeStopped_new hrefill hstop hrest) rfl rfl rfl rfl
    · exact supervisorResume_becomes hrun hlive (resumeStopped_rest hrefill hrest) rfl rfl rfl rfl
    · rw [hheld]; exact restFrom_next hnext
    · obtain ⟨pc, mid, jump, back, hup⟩ := resumeStopped_refill hrefill
      obtain ⟨eng, l, rs, pc', xlpos, xstagep, xloop, hdrain, hloop⟩ := refillLoop_eq
        { getCtx s ctx with pc := pc, mid := mid, jump := jump, back := back, run := .runnable, wait := none, stopHeld := none, trapped := false }
      rw [hloop] at hup
      exact ⟨_, (supervisorResume_becomes hrun hlive hup rfl rfl rfl rfl).1 hpend, rfl, rfl, hdrain, rfl, rfl, rfl⟩
    · rw [exec_supervisorResume, execSupervisorResume, if_neg fun h => Bool.false_ne_true (h.2.symm.trans hfatal)]
    · have hend := getCtx_endContext ctx s
      refine ⟨_, by rw [exec_supervisorDiscard, execSupervisorDiscard, if_pos hrun], ?_⟩
      rw [hend]
      exact ⟨rfl, rfl, rfl, rfl, rfl⟩
  case handler =>
    intro cl id s r rest hlive hid hreq
    obtain ⟨t, uid, hexec, hctx, hcluster, hmem, hslots⟩ := execHandlerWake_starts hlive hid hreq
    obtain ⟨h1, h2, h3⟩ := handlerCtx_args (handlerTaken cl r rest s) cl id r
    refine ⟨t, hexec, ?_⟩
    rw [hctx]
    exact ⟨rfl, rfl, h1, h2, h3, rfl, hcluster, hmem, hslots⟩
  case saved =>
    intro ctx s hrun hready s0 cnt s1 part tenant
    have hexec : exec (.imageWritten ctx) s = .next (schedSave ctx s) := by
      rw [exec_imageWritten, execImageWritten, if_pos ⟨hrun, hready⟩]
    have hcnt : takeCnt s0 ctx = (cnt, s1) := rfl
    refine ⟨fun harea => ⟨_, hexec, ?_⟩, fun area span cell size s2 harea hne hcell hwrite => ⟨fun k a hused => ⟨_, hexec, ?_⟩,
      fun s3 hused => ⟨_, hexec, ?_⟩⟩⟩
    · rw [schedSave_no_area hcnt harea]; exact abortSave_spec ..
    · rw [schedSave_unused hcnt harea hne hcell hwrite hused]
      obtain ⟨hstop, hforced⟩ := abortSave_spec ctx k a s2
      exact ⟨hstop, hforced, (abortSave_images ..).trans (writeImage_images (s := s1) hwrite)⟩
    · rw [schedSave_used hcnt harea hne hcell hwrite hused]; exact finishSave_spec ..

end Sys2Proof.Machine
end

section
/-! SUPPORT. SPAWN, YIELD, EXIT and TRET: what each leaves of its own context and of the one that it starts (R62, R72, R78, R79,
R331, R332). -/

namespace Sys2Proof.Machine

-- SPAWN (R72).

/-- A release at P-L1 marks stores of its core, and changes nothing else (R216). -/
theorem release_l1_eq (s : State) (id : Nat) : release s id 1 none = { s with cores := (release s id 1 none).cores } :=
  (release_l1_taken (id := id) s id).1.trans (by
    have hwide : wideScope s id 1 = false := rfl
    simp only [release, releaseDrain, hwide, Bool.false_eq_true, if_false]
    split <;> rfl)

/-- The context that SPAWN starts at an address with an argument. -/
def spawnedCtx (p : Ctx) (id : Nat) (pc arg : Word) : Ctx :=
  { idleCtx id with
    pc := pc, s := smSet [] 1 arg 0, xprio := natW (fld p.xprio 0 7 + 256 * fld p.xprio 0 7), xhyp := p.xhyp,
    xhypwait := p.xhypwait, tenant := p.tenant, xdeadline := p.xdeadline }

theorem spawnedCtx_regs (p : Ctx) (id : Nat) (pc arg : Word) :
    sread (spawnedCtx p id pc arg) 1 = arg ∧ ∀ r, r ≠ 0 → r ≠ 1 → sread (spawnedCtx p id pc arg) r = 0 := by
  refine ⟨by simp [sread, spawnedCtx], fun r h0 h1 => ?_⟩
  have hne : r.toNat ≠ 1 := fun h => h1 (BitVec.eq_of_toNat_eq h)
  simp only [sread, if_neg h0, spawnedCtx, smGetD_smSet, if_neg hne]; rfl

theorem spawnedCtx_prio (p : Ctx) (id : Nat) (pc arg : Word) :
    fld (spawnedCtx p id pc arg).xprio 0 7 = fld p.xprio 0 7 ∧ fld (spawnedCtx p id pc arg).xprio 8 7 = fld p.xprio 0 7 := by
  have hlt : fld p.xprio 0 7 < 128 := natField_lt ..
  simp only [spawnedCtx, natW, fld_ofNat _ (show 0 + 7 ≤ 64 by decide), fld_ofNat _ (show 8 + 7 ≤ 64 by decide)]
  generalize fld p.xprio 0 7 = n at hlt
  have hhigh : (n + 256 * n) / 256 = n := by omega
  change (n + 256 * n) / 1 % 128 = n ∧ (n + 256 * n) / 256 % 128 = n
  rw [hhigh]
  omega

/-- The state in which SPAWN has started a context. -/
def spawned (s : State) (id : Nat) (pc arg : Word) : State :=
  startAt id (spawnedCtx (me s) id pc arg) (release s s.cur 1 none)

theorem spawned_spec {s : State} {id : Nat} (hid : id ≠ s.cur) (pc arg : Word) :
    (spawned s id pc arg).cur = s.cur ∧ (spawned s id pc arg).mem = s.mem ∧ me (spawned s id pc arg) = me s ∧
      (∀ j, j ≠ id → getCtx (spawned s id pc arg) j = getCtx s j) ∧
      ∃ uid, getCtx (spawned s id pc arg) id = { spawnedCtx (me s) id pc arg with uid := uid, run := .runnable } := by
  have hother : ∀ j, j ≠ id → getCtx (spawned s id pc arg) j = getCtx s j := fun j hj => by
    rw [spawned, startAt_eq, getCtx_setCtx, if_neg hj, release_l1_eq]; rfl
  have hcur : (spawned s id pc arg).cur = s.cur := by rw [spawned, startAt_eq, release_l1_eq]; rfl
  refine ⟨hcur, by rw [spawned, startAt_eq, release_l1_eq]; rfl, ?_, hother, _, getCtx_startAt ..⟩
  rw [me, hcur, hother _ hid.symm, me]

section
variable {e : Bool} {d a b : SReg} {c : BitVec 3} {s : State} (hsup : isSupervisor (me s) = true) (ha : srcBad s a = false)
  (hb : srcBad s b = false)
include hsup ha hb

theorem execSpawn_runs : execSpawn e d a b c s =
    match spawnTarget s c.toNat with
    | none => result e d 0 s
    | some id => result e d (natW (ctxNum id)) (spawned s id (aligned4 (rs s a)) (rs s b)) := by
  have hgood : [a, b].any (srcBad s) = false := by simp [ha, hb]
  have hrs : ∀ r, rs (release s s.cur 1 none) r = rs s r := fun r => by rw [release_l1_eq]; rfl
  rw [execSpawn, supervisorOnly, hsup, if_pos rfl, withSrc, hgood, if_neg Bool.false_ne_true]
  cases spawnTarget s c.toNat with
  | none => rfl
  | some id => dsimp only; rw [hrs, hrs]; rfl

theorem spawn_none (h : spawnTarget s c.toNat = none) : Writes (.spawn e d a b c) s d 0 := by
  obtain ⟨u, hu, hw⟩ := result_wrote e d 0 (Touched.refl s) rfl
  exact ⟨u, by rw [← hu, exec_spawn, execSpawn_runs hsup ha hb, h], hw⟩

theorem spawn_starts {id : Nat} (h : spawnTarget s c.toNat = some id) (hid : id ≠ s.cur) :
    ∃ t, exec (.spawn e d a b c) s = .next t ∧ rs t d = (if d = 0 then BitVec.allOnes 64 else natW (ctxNum id)) ∧
      (∀ r, r ≠ d → rs t r = rs s r) ∧ (∀ x, memByte t x = memByte s x) ∧
      (∀ j, j ≠ id → j ≠ s.cur → getCtx t j = getCtx s j) ∧
      ∃ uid, getCtx t id = { spawnedCtx (me s) id (aligned4 (rs s a)) (rs s b) with uid := uid, run := .runnable } := by
  obtain ⟨hcur, hmem, hme, hother, uid, hctx⟩ := spawned_spec hid (aligned4 (rs s a)) (rs s b)
  obtain ⟨t, ht, hown, -, hread, -⟩ := result_wrote e d (natW (ctxNum id)) (Touched.refl (spawned s id (aligned4 (rs s a)) (rs s b))) rfl
  obtain ⟨hsame, hctxs, -⟩ := hown
  have hrs : ∀ r, rs t r = if r = 0 then BitVec.allOnes 64 else if r = d then natW (ctxNum id) else rs s r := fun r => by
    rw [rs, hread r, hme]; rfl
  have htcur : t.cur = s.cur := by rw [hsame, hcur]
  rw [hcur] at hctxs
  refine ⟨t, by rw [← ht, exec_spawn, execSpawn_runs hsup ha hb, h], ?_, fun r hr => ?_, fun x => ?_, fun j hj hjc => ?_, uid, ?_⟩
  · rw [hrs, if_pos rfl]
  · rw [hrs, if_neg hr]
    split
    · next h0 => subst h0; rfl
    · rfl
  · rw [memByte, hsame]; exact congrArg (smGetD · x unwritten) hmem
  · rw [hctxs j hjc, hother j hj]
  · rw [hctxs id hid, hctx]

end

-- YIELD (R78).

theorem smGetD_filter_keys {α : Type} (f : Nat → Bool) (m : List (Nat × α)) (k : Nat) (d : α) :
    smGetD (m.filter fun e => f e.1) k d = if f k then smGetD m k d else d := by
  have hget : smGet (m.filter fun e => f e.1) k = if f k then smGet m k else none := by
    induction m with
    | nil => cases f k <;> rfl
    | cons e m ih =>
      by_cases hk : k = e.1
      · subst hk
        cases hf : f e.1
        · rw [List.filter_cons_of_neg (by simp [hf]), ih, hf]; rfl
        · rw [List.filter_cons_of_pos (by simpa using hf)]; simp [smGet]
      · cases hf : f e.1
        · rw [List.filter_cons_of_neg (by simp [hf]), ih, smGet, if_neg hk]
        · rw [List.filter_cons_of_pos (by simpa using hf), smGet, if_neg hk, ih, smGet, if_neg hk]
  rw [smGetD, hget]
  cases f k <;> rfl

theorem vget_zeroGroups (m : BitVec 16) (c : Ctx) (v : Nat) :
    vget (zeroGroups m c) v = if natBit m.toNat (v / 4) = true then 0 else vget c v := by
  rw [vget, zeroGroups]
  refine (smGetD_filter_keys (fun k => !natBit m.toNat (k / 4)) c.v v 0).trans ?_
  cases natBit m.toNat (v / 4) <;> rfl

/-- The state in which a YIELD has discarded its groups. -/
def yielded (m : BitVec 16) (s : State) : State :=
  if isLight s.cur then s
  else
    let s' := onMe s (zeroGroups m)
    if s'.poison.isEmpty then s'
    else { s' with poison := s'.poison.filter fun p =>
             match p with | .vreg k v _ _ => !(k == clusterOf s.cur && natBit m.toNat (v / 4)) | _ => true }

theorem yielded_spec (m : BitVec 16) (s : State) :
    Touched s (yielded m s) ∧ me (yielded m s) = { me s with v := (me (yielded m s)).v } ∧
      ∀ v, vget (me (yielded m s)) v = if isLight s.cur = false ∧ natBit m.toNat (v / 4) = true then 0 else vget (me s) v := by
  have hzero : me (onMe s (zeroGroups m)) = zeroGroups m (me s) := me_onMe s _
  unfold yielded
  cases hl : isLight s.cur with
  | true => exact ⟨Touched.refl s, rfl, fun v => by simp⟩
  | false =>
    rw [if_neg Bool.false_ne_true]
    dsimp only
    split
    · refine ⟨touched_onMe s _, by rw [hzero]; rfl, fun v => by rw [hzero, vget_zeroGroups]; simp only [true_and]⟩
    · have hme : ∀ ps, me { onMe s (zeroGroups m) with poison := ps } = zeroGroups m (me s) := fun ps => hzero
      exact ⟨⟨rfl, (touched_onMe s _).2⟩, by rw [hme]; rfl, fun v => by rw [hme, vget_zeroGroups]; simp only [true_and]⟩

theorem execYield_eq (e : Bool) (m : BitVec 16) (s : State) :
    execYield e m s = if bitAt (me (retire e 4 (yielded m s))).xsched 0
      then .next (beginSave s.cur false (onMe (retire e 4 (yielded m s)) fun c => { c with dead := if isLight s.cur then 0 else m }))
      else .next (retire e 4 (yielded m s)) := rfl

section
variable (e : Bool) (m : BitVec 16) (s : State)

/-- What a YIELD leaves before the suspension that a request calls for (R78). -/
theorem yielded_retires :
    let t := retire e 4 (yielded m s)
    s.OwnOnly t ∧ FallsThrough e 4 s t ∧ Ctx.PlaceOnly { me s with v := (me t).v } (me t) ∧
      ∀ v, vget (me t) v = if isLight s.cur = false ∧ natBit m.toNat (v / 4) = true then 0 else vget (me s) v := by
  obtain ⟨htouch, hme, hzero⟩ := yielded_spec m s
  obtain ⟨hown, hfall, hplace⟩ := retire_becomes e 4 htouch hme rfl rfl
  have hv : (me (retire e 4 (yielded m s))).v = (me (yielded m s)).v := by rw [hplace]
  exact ⟨hown, hfall, hv ▸ hplace, fun v => by rw [vget, hv]; exact hzero v⟩

theorem yield_goesOn (hreq : bitAt (me s).xsched 0 = false) : execYield e m s = .next (retire e 4 (yielded m s)) := by
  obtain ⟨-, -, hplace, -⟩ := yielded_retires e m s
  have hx : (me (retire e 4 (yielded m s))).xsched = (me s).xsched := by rw [hplace]
  rw [execYield_eq, hx, hreq, if_neg Bool.false_ne_true]

theorem yield_suspends (hreq : bitAt (me s).xsched 0 = true) :
    ∃ t, execYield e m s = .next t ∧ t.mem = s.mem ∧ t.agenda.head? = some (.auto (.imageWritten s.cur)) ∧
      me t = { me (retire e 4 (yielded m s)) with
        dead := if isLight s.cur then 0 else m, run := .saving, wait := none, due := none, forced := false, prqDue := none } := by
  obtain ⟨⟨hown, -⟩, -, hplace, -⟩ := yielded_retires e m s
  have hx : (me (retire e 4 (yielded m s))).xsched = (me s).xsched := by rw [hplace]
  have hcur : (retire e 4 (yielded m s)).cur = s.cur := by rw [hown]
  refine ⟨_, by rw [execYield_eq, hx, hreq, if_pos rfl], ?_⟩
  rw [beginSave_eq]
  refine ⟨?_, rfl, ?_⟩
  · change (retire e 4 (yielded m s)).mem = s.mem
    rw [hown]
  · change getCtx (modCtx (onMe (retire e 4 (yielded m s)) fun c => { c with dead := if isLight s.cur then 0 else m }) s.cur
      fun c => { c with run := .saving, wait := none, due := none, forced := false, prqDue := none }) (retire e 4 (yielded m s)).cur = _
    rw [hcur, getCtx_modCtx, if_pos rfl, onMe, hcur, getCtx_modCtx, if_pos rfl, me, hcur]

end

-- EXIT (R62, R79).

theorem recordCode_watchOnly (id code : Nat) (s : State) : WatchOnly s (recordCode id code s) := by
  unfold recordCode
  split
  · exact WatchOnly.refl s
  split
  · exact WatchOnly.refl s
  · dsimp only
    rw [modLaunch_eq]
    split
    · refine WatchOnly.ite ?_ (WatchOnly.of_ctxs rfl)
      exact WatchOnly.trans (WatchOnly.of_ctxs rfl) (Performed.sysStore _ ..).watch
    · exact WatchOnly.of_ctxs rfl

/-- CODE of the launch of a context's task becomes the maximum (R62). -/
theorem recordCode_get {id code lid : Nat} {s : State} {l : Launch} (htask : taskLaunch s id = some lid) (hl : smGet s.launches lid = some l) :
    smGet (recordCode id code s).launches lid = some { l with code := max l.code code } := by
  have hmod : smGet (modLaunch s lid fun l => { l with code := max l.code code }).launches lid = some { l with code := max l.code code } := by
    rw [modLaunch_launches, if_pos rfl, hl]; rfl
  unfold recordCode
  simp only [htask, hl]
  split
  · split
    · rw [(Performed.sysStore _ ..).launches]; exact hmod
    · exact hmod
  · exact hmod

theorem restartTold_getCtx (s : State) (id : Nat) :
    ∃ copies fab, getCtx (restartTold s id) id = { getCtx s id with copies := copies, fab := fab } := by
  unfold restartTold
  dsimp only
  split
  · exact ⟨_, _, (getCtx_setCtx ..).trans (if_pos rfl)⟩
  · exact ⟨(getCtx s id).copies, (getCtx s id).fab, rfl⟩

section
variable {e : Bool} {c : BitVec 8} {s : State} (hfault : faultDue (restartTold s s.cur) s.cur anyNumber [4, 5, 6] = none)
  (hregions : regionsLeft (restartTold s s.cur) s.cur = [])
include hfault hregions

theorem exit_ends (hready : exitReady (restartTold s s.cur) s.cur = true) :
    exec (.exit e c) s = .next (endContext s.cur (recordCode s.cur c.toNat (release (restartTold s s.cur) s.cur 4 none))) := by
  simp only [exec_exit, execExit, exitContext, hfault, hregions, List.foldl_nil, hready, Bool.not_true, Bool.false_eq_true, if_false]

theorem exit_stalls (hready : exitReady (restartTold s s.cur) s.cur = false) : StallsAt (.exit e c) s .exit := by
  obtain ⟨copies, fab, hctx⟩ := restartTold_getCtx s s.cur
  refine ⟨modCtx (restartTold s s.cur) s.cur fun c => { c with wait := some .exit }, ?_, ?_⟩
  · simp only [exec_exit, execExit, exitContext, hfault, hregions, List.foldl_nil, hready, Bool.not_false, if_true]
  · have hme : me (modCtx (restartTold s s.cur) s.cur fun c => { c with wait := some .exit }) =
        { me s with copies := copies, fab := fab, wait := some .exit } := by
      rw [me, modCtx_cur, restartTold_cur, getCtx_modCtx, if_pos rfl, hctx]; rfl
    rw [hme]
    exact ⟨rfl, rfl, rfl, rfl⟩

end

/-- The context that an EXIT ends is as its end leaves it. -/
theorem getCtx_exited (code : Nat) (s : State) :
    let t := endContext s.cur (recordCode s.cur code (release (restartTold s s.cur) s.cur 4 none))
    (getCtx t s.cur).run = (if isLight s.cur then .dormant else .free) ∧ (getCtx t s.cur).member = none ∧ (getCtx t s.cur).s = (me s).s := by
  obtain ⟨copies, fab, hctx⟩ := restartTold_getCtx s s.cur
  have hend := getCtx_endContext s.cur (recordCode s.cur code (release (restartTold s s.cur) s.cur 4 none))
  have hbefore := ((Performed.release (restartTold s s.cur) s.cur 4).watch.trans (recordCode_watchOnly s.cur code _)) s.cur
  dsimp only
  rw [hend, hbefore, hctx]
  exact ⟨rfl, rfl, rfl⟩

-- TRET (R331, R332).

theorem restAt_next {s : State} {id f : Nat} {t : Word} {h r : HeldBundle} (hr : restAt s id t f h = some r) : r.next = t := by
  induction f generalizing h with
  | zero => cases hr
  | succ f ih =>
    rw [restAt] at hr
    split at hr
    · next heq => cases hr; exact heq
    · split at hr
      · split at hr
        · cases hr
        · exact ih hr
      · cases hr

theorem popFrame_go_next {s : State} {id : Nat} {t : Word} {fs : List Frame} {x : Frame × List Frame} {h : HeldBundle}
    (hx : popFrame.go s id t fs = some x) (hrest : x.1.rest = some h) : h.next = t := by
  induction fs with
  | nil => cases hx
  | cons f fs ih =>
    rw [popFrame.go] at hx
    split at hx
    · exact ih hx
    · cases hx
      obtain ⟨h0, -, hat⟩ := Option.bind_eq_some_iff.1 (show (f.rest).bind (restAt s id t 3) = some h from hrest)
      exact restAt_next hat

/-- What a return takes up of a kept bundle starts at the return's target (R25). -/
theorem popFrame_next {s : State} {id : Nat} {t : Word} {fs : List Frame} {h : HeldBundle}
    (hrest : (popFrame s id t fs).1.rest = some h) : h.next = t := by
  unfold popFrame at hrest
  cases hgo : popFrame.go s id t fs with
  | none => rw [hgo] at hrest; cases hrest
  | some x => rw [hgo] at hrest; exact popFrame_go_next hgo hrest

/-- A context stands at the target of its return, its handler over. -/
theorem standAt_spec (s : State) (id : Nat) (t : Word) (c : Ctx) :
    (standAt s id t c).pc = t ∧ (standAt s id t c).xstat = setBit c.xstat 0 false ∧ (standAt s id t c).s = c.s := by
  unfold standAt
  dsimp only
  split
  · next h hrest => exact ⟨popFrame_next hrest, rfl, rfl⟩
  · exact ⟨rfl, rfl, rfl⟩

theorem fireSnap_cur (s : State) (src : SnapSource) (part tag place : Nat) : (fireSnap s src part tag place).cur = s.cur := by
  unfold fireSnap recordFiring
  repeat' split
  all_goals rfl
theorem foldl_fireWatch_cur (ls : List Nat) (s : State) : (ls.foldl (fun s l => fireWatch s (watchLine l)) s).cur = s.cur :=
  (Performed.foldl (fun s _ => Performed.fireWatch s _) ls s).cur
theorem reportCtx_cur (s : State) (code cause id : Nat) (addr : Word) : (reportCtx s code cause id addr).cur = s.cur := by
  unfold reportCtx report appendReport
  dsimp only
  split
  · exact fireSnap_cur ..
  · split
    · exact (foldl_fireWatch_cur _ _).trans ((Performed.memWrite _ ..).cur.trans (fireSnap_cur ..))
    · exact fireSnap_cur ..
theorem takeTrap_cur (id : Nat) (t : Trap) (s : State) : (takeTrap id t s).cur = s.cur := by
  unfold takeTrap
  dsimp only
  split
  · rw [reportCtx_cur, modCtx_cur, fireSnap_cur]
  · rw [modCtx_cur, fireSnap_cur]

/-- The issuing context after a report about it: it may have lost a watch's fire, and nothing else. -/
theorem me_reportCtx (s : State) (code cause id : Nat) (addr : Word) :
    me (reportCtx s code cause id addr) = { me s with watchFired := (me (reportCtx s code cause id addr)).watchFired } := by
  have h := reportCtx_watchOnly s code cause id addr s.cur
  rwa [me, reportCtx_cur]

section
variable {e p sk : Bool} {s : State} {t : Word} (hclean : s.OwnClean)
  (htarget : tretTarget sk s = .ok t) (hstuck : framesStuck s s.cur t (me s).held = none)
include hclean htarget hstuck

theorem execTret_runs : execTret e p sk s = .next (if (me s).ckptHeld then takeHeldCkpt s.cur t s else returnTo e p t s) := by
  have hgood : (!s.poison.isEmpty && isPoison s (.xreg s.cur 0x09)) = false := by rw [(hclean 0x09).2, Bool.and_false]
  simp only [execTret, hgood, htarget, hstuck, Bool.false_eq_true, if_false]

end

/-- The context of a return, but for where it goes. -/
def returned (s : State) (t : Word) (c : Ctx) : Ctx :=
  { leaveHandler c with held := (popFrame s s.cur t (me s).held).2, qadvLeft := (popFrame s s.cur t (me s).held).1.adv }

theorem returnTo_goes (e : Bool) (t : Word) (s : State) :
    PassedOver (returned s t (me s)) s (returnTo e false t s) ∧ GoesTo e t (returnTo e false t s) := by
  let u := onMe (onMe s (returned s t)) fun c =>
    { c with jump := some t, back := ((popFrame s s.cur t (me s).held).1.rest.map fun h => h.jump :: h.back).getD [] }
  have htouch : Touched s u := (touched_onMe s _).trans (touched_onMe _ _)
  have hme : me u = { returned s t (me s) with jump := some t, back := ((popFrame s s.cur t (me s).held).1.rest.map fun h => h.jump :: h.back).getD [] } := by
    rw [me_onMe, me_onMe]
  obtain ⟨hown, hplace⟩ := htouch.retire e 4
  have heq : returnTo e false t s = retire e 4 u := rfl
  rw [heq]
  refine ⟨⟨hown, Ctx.PlaceOnly.trans (by rw [hme]; rfl) hplace, by rw [retire_poison]; rfl⟩, retire_goesTo _ e 4 (by rw [hme])⟩

theorem returnTo_stops (e : Bool) (t : Word) (s : State) :
    let u := returnTo e true t s
    (me u).run = .stopped ∧ (me u).pc = t ∧ bitAt (me u).xstat 0 = false ∧ (me u).s = (me s).s := by
  dsimp only
  have heq : ∃ f cause addr, returnTo e true t s = reportCtx (onMe (onMe s (returned s t)) f) 2 cause s.cur addr ∧
      f (returned s t (me s)) = { enterAt t (returned s t (me s)) with
        run := .stopped, stopHeld := (popFrame s s.cur t (me s).held).1.rest, trapped := false, syncGo := false } :=
    ⟨_, _, _, rfl, rfl⟩
  obtain ⟨f, cause, addr, heq, hf⟩ := heq
  rw [heq, me_reportCtx, me_onMe, me_onMe, hf]
  exact ⟨rfl, rfl, bitAt_setBit_same _ _ (by decide), rfl⟩

/-- A held CKPT is taken at the target of the return (R331). -/
theorem takeHeldCkpt_spec {t : Word} {s : State} (hvec : fld (me s).xstat 8 56 ≠ 0) :
    let u := takeHeldCkpt s.cur t s
    (me u).run = .runnable ∧ (me u).ckptHeld = false ∧ (me u).xtrapc = 17 ∧ (me u).xtrappc = t ∧ bitAt (me u).xstat 0 = true ∧
      (me u).pc = BitVec.ofNat 64 (256 * fld (me s).xstat 8 56) ∧ (me u).s = (me s).s ∧ u.mem = s.mem := by
  obtain ⟨hpc, hxstat, hs⟩ := standAt_spec s s.cur t (me s)
  have hfld : fld (standAt s s.cur t (me s)).xstat 8 56 = fld (me s).xstat 8 56 := by
    rw [hxstat, fld_setBit_other _ _ (by decide) (by decide)]
  have hth : bitAt (standAt s s.cur t (me s)).xstat 0 = false := by rw [hxstat, bitAt_setBit_same _ _ (by decide)]
  have hget : getCtx (modCtx s s.cur fun c => { standAt s s.cur t c with ckptHeld := false }) s.cur =
      { standAt s s.cur t (me s) with ckptHeld := false } := by
    rw [getCtx_modCtx, if_pos rfl]; rfl
  obtain ⟨hcause, htpc, hts, -, hheld, -, hgo⟩ :=
    trapCtx_first (t := { cause := 17 }) (c := { standAt s s.cur t (me s) with ckptHeld := false }) hth (by decide)
  obtain ⟨hrun, hin, hat⟩ := hgo (hfld ▸ hvec)
  have hme : me (takeHeldCkpt s.cur t s) = { trapCtx { cause := 17 } { standAt s s.cur t (me s) with ckptHeld := false } with
      watchFired := (me (takeHeldCkpt s.cur t s)).watchFired } := by
    have h := getCtx_takeTrap s.cur { cause := 17 } (modCtx s s.cur fun c => { standAt s s.cur t c with ckptHeld := false })
    rw [hget] at h
    rw [me, takeHeldCkpt, takeTrap_cur]
    exact h
  dsimp only
  rw [hme]
  refine ⟨hrun, hheld, hcause, htpc.trans hpc, hin, hat.trans (by rw [← hfld]), hts.trans hs, ?_⟩
  unfold takeHeldCkpt
  rw [takeTrap_mem]
  · rfl
  · rw [hget, hrun]; decide

/-- Settles O8: what SPAWN, YIELD, EXIT and TRET each leave, by their own case splits. -/
theorem contextsStartYieldAndEnd : Obligations.ContextsStartYieldAndEnd := by
  refine ⟨?spawn, ?yield, ?exit, ?tret⟩
  case spawn =>
    intro e d a b c s hsup ha hb
    refine ⟨spawn_none hsup ha hb, fun id h hid => ?_⟩
    obtain ⟨t, ht, hd, hr, hmem, hother, uid, hctx⟩ := spawn_starts (e := e) (d := d) hsup ha hb h hid
    obtain ⟨harg, hzero⟩ := spawnedCtx_regs (me s) id (aligned4 (rs s a)) (rs s b)
    obtain ⟨hprio, hceil⟩ := spawnedCtx_prio (me s) id (aligned4 (rs s a)) (rs s b)
    refine ⟨t, ht, hd, hr, hmem, hother, ?_⟩
    rw [hctx]
    exact ⟨rfl, rfl, harg, hzero, hprio, hceil, rfl, rfl, rfl, rfl⟩
  case yield =>
    intro e m s Zeroed
    obtain ⟨hown, hfall, hplace, hzero⟩ := yielded_retires e m s
    refine ⟨fun hreq => ⟨_, yield_goesOn e m s hreq, hown, hplace, hfall, hzero⟩, fun hreq => ?_⟩
    obtain ⟨t, ht, hmem, hhead, hme⟩ := yield_suspends e m s hreq
    have hs : (me t).s = (me s).s := by rw [hme]; exact (congrArg Ctx.s hplace :)
    have hgo : FallsThrough e 4 s t := by rw [FallsThrough, hme]; exact hfall
    have hv : ∀ v, vget (me t) v = vget (me (retire e 4 (yielded m s))) v := fun v => by rw [hme]; rfl
    exact ⟨t, ht, by rw [hme], by rw [hme], hs, hgo, fun v => (hv v).trans (hzero v), by rw [hme], hhead, fun a => by rw [memByte, hmem]; rfl⟩
  case exit =>
    intro e c s s1 hfault hregions
    refine ⟨?ends, fun hready => exit_stalls hfault hregions hready⟩
    intro hready s2 t
    obtain ⟨hrun, hmember, hs⟩ := getCtx_exited c.toNat s
    refine ⟨exit_ends hfault hregions hready, hrun, hmember, hs, fun lid l l2 htask hl hl2 => ?_⟩
    obtain ⟨l1, hl1, hcode⟩ := SameCodes.endContext s.cur (recordCode s.cur c.toNat s2) lid l2 hl2
    rw [recordCode_get htask hl] at hl1
    cases hl1
    exact hcode
  case tret =>
    intro e sk s hclean back vec to_ hto hstuck kept c'
    have htarget : tretTarget sk s = .ok to_ := by
      rcases hto with ⟨rfl, rfl⟩ | ⟨rfl, w, hw, rfl⟩
      · rfl
      · simp only [tretTarget, if_true]
        rw [show fetchUnit s s.cur (aligned4 (me s).xtrappc) = .unit w from hw]; rfl
    have hrun := fun p => execTret_runs (e := e) (p := p) hclean htarget hstuck
    refine ⟨fun hheld => ⟨⟨_, ?_, returnTo_goes e to_ s⟩, _, ?_, returnTo_stops e to_ s⟩, fun hheld hvec p => ⟨_, ?_, takeHeldCkpt_spec hvec⟩⟩
    · rw [exec_tret, hrun, hheld, if_neg Bool.false_ne_true]
    · rw [exec_tret, hrun, hheld, if_neg Bool.false_ne_true]
    · rw [exec_tret, hrun, hheld, if_pos rfl]

end Sys2Proof.Machine
end

section
/-! SUPPORT. The starts of the members of instances, and a scheduler pass that serves one claim (R54, R63, R65, R67). -/

namespace Sys2Proof.Machine

-- Starts (R54, R63).

theorem fuseQuad_performed (q : Nat) (fuse : Bool) (s : State) : Performed s (fuseQuad q fuse s) := by
  unfold fuseQuad; exact Performed.ite (Performed.flushQuad q s) (Performed.refl s)

theorem foldl_cleanRegs_eq (ids : List Nat) (s : State) : ∃ ps, ids.foldl (fun s id => cleanRegs id s) s = { s with poison := ps } := by
  induction ids generalizing s with
  | nil => exact ⟨s.poison, rfl⟩
  | cons id ids ih =>
    obtain ⟨ps, h⟩ := ih (cleanRegs id s)
    exact ⟨ps, by rw [List.foldl_cons, h, cleanRegs_eq]⟩

/-- A cluster that goes to a partition leaves the contexts and the places of the others. -/
theorem moveCluster_spec (part cl : Nat) (s : State) :
    (getCluster (moveCluster part cl s) cl).part = some part ∧
      (∀ k, k ≠ cl → getCluster (moveCluster part cl s) k = getCluster s k) ∧
      ∀ id, clusterOf id ≠ cl → getCtx (moveCluster part cl s) id = getCtx s id := by
  unfold moveCluster
  split
  · next h => exact ⟨h, fun _ _ => rfl, fun _ _ => rfl⟩
  · obtain ⟨ps, hps⟩ := foldl_cleanRegs_eq (rangeFrom (8 * cl) 8) s
    dsimp only
    rw [hps]
    refine ⟨?_, fun k hk => ?_, fun id hid => ?_⟩
    · rw [getCluster_modCluster, if_pos rfl]
    · rw [getCluster_modCluster, if_neg hk]; rfl
    · refine (smGetD_filter_keys (fun n => clusterOf n != cl) s.ctxs id (idleCtx id)).trans ?_
      rw [if_pos (bne_iff_ne.2 hid)]; rfl

/-- The context of a member that has started. -/
theorem getCtx_startMember (l : Launch) (t : Stage) (k : Member) (n cl : Nat) (s : State) :
    ∃ tc uid, getCtx (startMember l t k n cl s) (8 * cl) = { memberCtx (8 * cl) l t k n with tc := tc, uid := uid, run := .runnable } := by
  unfold startMember
  dsimp only
  generalize moveCluster l.part cl _ = u
  obtain ⟨ks, ds, h⟩ := acquireSig_eq
    (startAt (8 * cl) { memberCtx (8 * cl) l t k n with tc := keptCounters (getCtx u (8 * cl)) } u) (8 * cl) 4 (BitVec.allOnes 1024)
  rw [acquireAll, h]
  exact ⟨_, _, getCtx_startAt ..⟩

/-- Another member's start leaves a context, but for the firing of its watch. -/
theorem startMember_other (l : Launch) (t : Stage) (k : Member) (n cl : Nat) (s : State) {id : Nat} (hid : clusterOf id ≠ cl) :
    getCtx (startMember l t k n cl s) id = { getCtx s id with watchFired := (getCtx (startMember l t k n cl s) id).watchFired } := by
  have hfuse := (fuseQuad_performed (quadOf (8 * cl)) l.fuse s).watch id
  obtain ⟨-, -, hmove⟩ := moveCluster_spec l.part cl (fuseQuad (quadOf (8 * cl)) l.fuse s)
  have hne : id ≠ 8 * cl := fun h => hid (by rw [h, clusterOf]; omega)
  have hsame : getCtx (startMember l t k n cl s) id = getCtx (moveCluster l.part cl (fuseQuad (quadOf (8 * cl)) l.fuse s)) id := by
    unfold startMember
    dsimp only
    obtain ⟨ks, ds, h⟩ := acquireSig_eq (startAt (8 * cl) _ (moveCluster l.part cl (fuseQuad (quadOf (8 * cl)) l.fuse s))) (8 * cl) 4
      (BitVec.allOnes 1024)
    rw [acquireAll, h, startAt_eq]
    exact (getCtx_setCtx ..).trans (if_neg hne)
  rw [hsame, hmove id hid, hfuse]

theorem getCluster_startMember (l : Launch) (t : Stage) (k : Member) (n cl : Nat) (s : State) (c : Nat) :
    getCluster (startMember l t k n cl s) c = getCluster (moveCluster l.part cl (fuseQuad (quadOf (8 * cl)) l.fuse s)) c := by
  unfold startMember
  dsimp only
  obtain ⟨ks, ds, h⟩ := acquireSig_eq (startAt (8 * cl) _ (moveCluster l.part cl (fuseQuad (quadOf (8 * cl)) l.fuse s))) (8 * cl) 4
    (BitVec.allOnes 1024)
  rw [acquireAll, h, startAt_eq]; rfl

/-- The place of a member that has started; the other members' places stand. -/
theorem startMember_cluster (l : Launch) (t : Stage) (k : Member) (n cl : Nat) (s : State) :
    (getCluster (startMember l t k n cl s) cl).part = some l.part ∧
      ∀ c, c ≠ cl → getCluster (startMember l t k n cl s) c = getCluster s c := by
  obtain ⟨hown, hother, -⟩ := moveCluster_spec l.part cl (fuseQuad (quadOf (8 * cl)) l.fuse s)
  refine ⟨by rw [getCluster_startMember, hown], fun c hc => ?_⟩
  rw [getCluster_startMember, hother c hc, getCluster, (fuseQuad_performed _ l.fuse s).clusters, getCluster]

-- Placement (R65).

theorem rangeFrom_getElem? (a n j : Nat) : (rangeFrom a n)[j]? = if j < n then some (a + j) else none := by
  induction n generalizing a j with
  | zero => rfl
  | succ n ih =>
    cases j with
    | zero => rfl
    | succ j => simp only [rangeFrom, List.getElem?_cons_succ, ih, Nat.add_lt_add_iff_right]; congr 2; omega

theorem numbered_snd (cls : List Nat) : (numbered cls).map (·.2) = cls := by
  rw [numbered, ← List.unzip_snd, List.unzip_zip_right]
  have hlen : ∀ n a, (rangeFrom a n).length = n := fun n => by
    induction n with
    | zero => exact fun _ => rfl
    | succ n ih => exact fun a => congrArg (· + 1) (ih (a + 1))
  exact (hlen _ _).ge

theorem mem_numbered {cls : List Nat} {j cl : Nat} (h : cls[j]? = some cl) : (j, cl) ∈ numbered cls := by
  obtain ⟨hlt, -⟩ := List.getElem?_eq_some_iff.1 h
  have hzip : (numbered cls)[j]? = some (j, cl) := by
    rw [numbered, List.getElem?_zip_eq_some]
    exact ⟨by rw [rangeFrom_getElem?, if_pos hlt, Nat.zero_add], h⟩
  exact List.mem_of_getElem? hzip

/-- The member of an index that runs in a cluster, of a launch and its stage. -/
def StartedAt (l : Launch) (t : Stage) (m : Nat → Member) (n : Nat) (s : State) (e : Nat × Nat) : Prop :=
  (getCluster s e.2).part = some l.part ∧
    ∃ tc uid w, getCtx s (8 * e.2) = { memberCtx (8 * e.2) l t (m e.1) n with tc := tc, uid := uid, run := .runnable, watchFired := w }

section
variable {l : Launch} {t : Stage} {m : Nat → Member} {n : Nat}

theorem startMember_started (s : State) (e : Nat × Nat) : StartedAt l t m n (startMember l t (m e.1) n e.2 s) e := by
  obtain ⟨tc, uid, h⟩ := getCtx_startMember l t (m e.1) n e.2 s
  exact ⟨(startMember_cluster l t (m e.1) n e.2 s).1, tc, uid, _, h⟩

/-- A member that runs stays as it is while members start in other clusters. -/
theorem StartedAt.startMember {s : State} {e : Nat × Nat} (h : StartedAt l t m n s e) (k : Member) {cl : Nat} (hcl : e.2 ≠ cl) :
    StartedAt l t m n (startMember l t k n cl s) e := by
  obtain ⟨hpart, tc, uid, w, hctx⟩ := h
  have hother := startMember_other l t k n cl s (id := 8 * e.2) (by rw [clusterOf]; omega)
  rw [hctx] at hother
  exact ⟨by rw [(startMember_cluster l t k n cl s).2 _ hcl, hpart], tc, uid, _, hother⟩

theorem foldl_startMember_started (es : List (Nat × Nat)) (s : State) {e : Nat × Nat} (hnodup : (es.map (·.2)).Nodup)
    (h : e ∈ es ∨ StartedAt l t m n s e ∧ e.2 ∉ es.map (·.2)) :
    StartedAt l t m n (es.foldl (fun s x => startMember l t (m x.1) n x.2 s) s) e := by
  induction es generalizing s with
  | nil => exact (h.resolve_left List.not_mem_nil).1
  | cons x es ih =>
    obtain ⟨hx, hrest⟩ := List.nodup_cons.1 (List.map_cons ▸ hnodup)
    refine ih _ hrest ?_
    rcases h with h | ⟨hstarted, hout⟩
    · rcases List.mem_cons.1 h with rfl | h
      · exact Or.inr ⟨startMember_started s e, hx⟩
      · exact Or.inl h
    · rw [List.map_cons, List.mem_cons, not_or] at hout
      exact Or.inr ⟨hstarted.startMember _ hout.1, hout.2⟩

end

/-- Each member of instances that are placed runs in its cluster (R65). -/
theorem placeInst_started (lid : Nat) (l : Launch) (t : Stage) (i : Inst) {cls : List Nat} (s : State) (hnodup : cls.Nodup)
    {j cl : Nat} (h : cls[j]? = some cl) :
    StartedAt l t (fun j => { lid := lid, stage := i.stage, serial := i.serial, index := j }) cls.length (placeInst lid l t i cls s) (j, cl) := by
  unfold placeInst
  exact foldl_startMember_started (numbered cls) _ (by rw [numbered_snd]; exact hnodup) (Or.inl (mem_numbered h))

theorem memberCtx_arg (id : Nat) (l : Launch) (t : Stage) (k : Member) (n : Nat) : sread (memberCtx id l t k n) 1 = t.arg := by
  simp [sread, memberCtx]

-- The pass (R67).

/-- A pass over one claim, whose members are PENDING, with room places it. -/
theorem serveClaim_places {die : Nat} {vs : List Claim} {s : State} {doomed : List Nat} {a : Claim} {l : Launch} {k : Stage} {i : Inst}
    {cls : List Nat} (hinst : claimInst s a = some (l, k, i)) (hkind : a.kind = 2) (hst : i.st = .pending)
    (hroom : heldClusters s l.part + a.w ≤ (getPart s l.part).clshare)
    (hfind : findRoom s die l.part k.width (freeFor s l.part l.tenant) = some cls) :
    serveClaim die vs { s := s, doomed := doomed } a =
      { s := placeInst a.lid l k i cls s, reserved := cls, doomed := doomed, placed := true } := by
  have hnow : (fun cl => !([] : List Nat).contains cl && freeFor s l.part l.tenant cl) = freeFor s l.part l.tenant := by
    funext cl; rfl
  have hshare : decide (heldClusters s l.part + PassState.promisedTo { s := s, doomed := doomed } l.part + a.w ≤ (getPart s l.part).clshare) = true :=
    decide_eq_true hroom
  have hplace : placeOf s die l k i (freeFor s l.part l.tenant) = some cls := by
    rw [placeOf, hst, if_neg (by decide)]; exact hfind
  unfold serveClaim
  simp only [Bool.false_and, Bool.false_eq_true, if_false, hinst, hnow, hshare, if_true, hplace, hkind]
  rw [if_neg (by decide), List.nil_append]

/-- Settles O49: a pass with nothing to do does nothing, and one that serves a single claim starts the members it places. -/
theorem schedulerPlacesInstances : Obligations.SchedulerPlacesInstances := by
  intro die s
  refine ⟨fun h => ?_, fun h hl hi => ?_, fun h => ?_⟩
  · rw [exec_schedulerPass, execSchedulerPass, h]; rfl
  · have hwant : wantInsts s = s := by rw [wantInsts, hl, List.map_nil, ← hl]
    have hclaims : claims s = [] := by rw [claims, hl]; rfl
    simp only [exec_schedulerPass, execSchedulerPass, h, hi, List.foldl_nil, hwant, hclaims]
    rfl
  · intro s1 a l k i cls hown hinst hkind hst hroom hfind hnodup
    have hserve := serveClaim_places (vs := victims (granted s1 (claims s1)) (claims s1)) (doomed := leavingClusters s1)
      hinst hkind hst hroom hfind
    refine ⟨wakeSchedulers (placeInst a.lid l k i cls s1), ?_, fun j cl hj => ?_⟩
    · rw [exec_schedulerPass, execSchedulerPass, h, if_neg Bool.false_ne_true]
      dsimp only
      rw [hown, List.map_singleton, List.foldl_cons, List.foldl_nil, hserve]
      rfl
    · obtain ⟨hpart, tc, uid, w, hctx⟩ := placeInst_started a.lid l k i s1 hnodup hj
      have hget : getCtx (wakeSchedulers (placeInst a.lid l k i cls s1)) (8 * cl) = _ := hctx
      rw [hget]
      exact ⟨rfl, rfl, memberCtx_arg (8 * cl) l k _ cls.length, rfl, hpart, rfl⟩

end Sys2Proof.Machine
end

section
/-! SUPPORT. Scalar accesses of lines one after another (R233), and LAUNCH, TTASK, SQPUSH and SQPOP over them (R60, R61, R73, R74, R76,
R199, R200, R365). -/

namespace Sys2Proof.Machine

-- One line (R207, R208, R215, R233).

theorem Performed.tlbNote (s : State) (ag : Agent) (va : Word) (r : Route) : Performed s (tlbNote s ag va r) := by
  unfold Machine.tlbNote
  split
  · exact Performed.ite (Performed.refl s) (Performed.modDie s _ _)
  · exact Performed.refl s

theorem Performed.refreshLine (s : State) (ag : Agent) (line : Nat) (drop : Bool) : Performed s (refreshLine s ag line drop) := by
  unfold Machine.refreshLine
  dsimp only
  refine Performed.trans (t := if (l1At s (coreOf ag.ctx) line).any fun c => c.line == line
    then onL1 s (coreOf ag.ctx) line (refreshCopies s ag.part line drop) else s) ?_ ?_
  · exact Performed.ite (Performed.modCore s _ _) (Performed.refl s)
  · exact Performed.ite (Performed.modDie _ _ _) (Performed.refl _)

theorem Performed.dieLine (s : State) (ag : Agent) (line : Nat) : Performed s (dieLine s ag line).2.2 := by
  unfold Machine.dieLine
  split
  · exact Performed.refl s
  · dsimp only
    split
    · exact Performed.refl s
    · dsimp only; exact Performed.modDie s _ _

theorem Performed.readL1 (s : State) (ag : Agent) (line off n : Nat) : Performed s (readL1 s ag line off n).2 := by
  have hline := (Performed.portRequest s (coreOf ag.ctx) ag.tenant 64).trans (Performed.dieLine (portAsk s ag 64) ag line)
  unfold Machine.readL1
  dsimp only
  split
  · exact Performed.refl s
  · split
    · exact hline
    · dsimp only [onL1]; exact hline.trans (Performed.modCore _ _ _)

theorem Performed.readLine (s : State) (ag : Agent) (point : Nat) (drop : Bool) (line off n : Nat) :
    Performed s (readLine s ag point drop line off n).2 := by
  have hdrain := (Performed.portRequest s (coreOf ag.ctx) ag.tenant n).trans
    (Performed.drainWhere (portAsk s ag n) (l1Unit s (coreOf ag.ctx)) fun p => p.line == line)
  unfold Machine.readLine
  split
  · exact Performed.readL1 s ag line off n
  · dsimp only
    split
    · exact hdrain
    · exact hdrain.trans (Performed.refreshLine _ ag line drop)

/-- A store of an agent that is no engine operation. -/
theorem Performed.writeLine (s : State) {ag : Agent} (hop : ag.op = none) (point : Nat) (drop : Bool) (line off : Nat) (bs : List PB) :
    Performed s (writeLine s ag point drop line off bs) := by
  have hnote : ∀ u, noteEng u ag.ctx ag.op line = u := fun u => by rw [noteEng, hop]; rfl
  have hsign : Performed s (signLine s (coreOf ag.ctx) line) := Performed.modCore s _ _
  unfold Machine.writeLine
  dsimp only
  rw [hnote]
  split
  · exact (hsign.trans (Performed.modCore _ _ _)).trans (Performed.modCore _ _ _)
  · exact (hsign.trans ((Performed.portRequest _ _ _ _).trans (Performed.drainWhere _ _ _))).trans
      ((Performed.homeWrite _ _ _ _ _ _ _).trans (Performed.refreshLine _ ag line drop))

theorem touchScratch_done {s t : State} {id off n : Nat} {k : State → Acc} {bs : List PB} (h : touchScratch s id off n k = .done bs t) :
    k s = .done bs t := by
  unfold touchScratch at h
  split at h
  · exact h
  · split at h
    · unfold takeFillHalt at h; split at h <;> cases h
    · cases h

/-- A scalar load that completes performs stores and fills copies. -/
theorem loadAt_performed {pol n : Nat} {va : Word} {s t : State} {bs : List PB} (h : loadAt pol va n s = .done bs t) : Performed s t := by
  unfold loadAt at h
  dsimp only at h
  split at h
  · cases h
  · have hk := touchScratch_done h
    split at hk
    · cases hk
    · cases hk; exact Performed.refl s
  · split at h
    · cases h
    split at h
    · cases h
    split at h
    · cases h
    · cases h
      exact (Performed.tlbNote s _ _ _).trans (Performed.readLine _ _ _ _ _ _ _)

/-- A scalar store that completes performs its bytes, or leaves them on their way. -/
theorem storePB_performed {pol : Nat} {va : Word} {bs out : List PB} {s t : State} (h : storePB pol va bs s = .done out t) : Performed s t := by
  unfold storePB at h
  dsimp only at h
  split at h
  · cases h
  · have hk := touchScratch_done h
    cases hk
    exact (Performed.modCore s _ _).trans (Performed.scratchWrite _ _ _ _)
  · split at h
    · cases h
    · cases h
      exact (Performed.tlbNote s _ _ _).trans (Performed.writeLine _ rfl _ _ _ _ _)

-- Lines one after another.

theorem linesRead_performed {n : Nat} {va : Word} {s t : State} {bs : List Byte} (h : linesRead n va s = some (bs, t)) : Performed s t := by
  induction n generalizing va s bs with
  | zero => cases h; exact Performed.refl _
  | succ n ih =>
    rw [linesRead] at h
    split at h
    · next hload =>
      obtain ⟨⟨bs', t'⟩, hrest, hpair⟩ := Option.map_eq_some_iff.1 h
      cases hpair
      exact (loadAt_performed hload).trans (ih hrest)
    · cases h

theorem linesStored_performed {n : Nat} {va : Word} {bs : List PB} {s t : State} (h : linesStored n va bs s = some t) : Performed s t := by
  induction n generalizing va s bs with
  | zero => cases h; exact Performed.refl _
  | succ n ih =>
    rw [linesStored] at h
    split at h
    · next hstore => exact (storePB_performed hstore).trans (ih h)
    · cases h

theorem loadLines_of_read {n : Nat} {va : Word} {acc bs : List Byte} {s t : State} (h : linesRead n va s = some (bs, t))
    (k : List Byte → State → Out) : loadLines n va acc s k = k (acc ++ bs) t := by
  induction n generalizing va s bs acc with
  | zero => cases h; rw [loadLines, List.append_nil]
  | succ n ih =>
    rw [linesRead] at h
    split at h
    · next hload =>
      obtain ⟨⟨bs', t'⟩, hrest, hpair⟩ := Option.map_eq_some_iff.1 h
      cases hpair
      rw [loadLines, hload, Acc.bind, ih hrest, List.append_assoc]
    · cases h

theorem storeLines_of_stored {n : Nat} {va : Word} {bs : List PB} {s t : State} (h : linesStored n va bs s = some t) (k : State → Out) :
    storeLines n va bs s k = k t := by
  induction n generalizing va s bs with
  | zero => cases h; rfl
  | succ n ih =>
    rw [linesStored] at h
    split at h
    · next hstore => rw [storeLines, hstore, Acc.bind, ih h]
    · cases h

theorem storeCheckedAll_of_open {n : Nat} {va : Word} {s : State} (h : LinesOpen s va n) (k : State → Out) : storeCheckedAll n va s k = k s := by
  induction n generalizing va with
  | zero => rfl
  | succ n ih =>
    have hfirst := h 0 (Nat.succ_pos n)
    have hrest : LinesOpen s (va + 64) n := fun i hi => by
      have hnext := h (i + 1) (Nat.succ_lt_succ hi)
      have hva : va + 64 * BitVec.ofNat 64 (i + 1) = va + 64 + 64 * BitVec.ofNat 64 i := by
        rw [BitVec.ofNat_add, BitVec.mul_add, BitVec.add_assoc, BitVec.add_comm (64 * BitVec.ofNat 64 i)]; rfl
      rwa [hva] at hnext
    rw [show va + 64 * BitVec.ofNat 64 0 = va by simp] at hfirst
    rw [storeCheckedAll, storeChecked]
    split at hfirst
    · exact hfirst.elim
    · rw [if_pos hfirst]; exact ih hrest
    · exact ih hrest

/-- A word whose last act is a scalar result writes it. -/
theorem writesOver_result {i : Instr} {s u : State} {e : Bool} {d : SReg} {v : Word} (h : exec i s = result e d v u) :
    WritesOver i s u (me u) d v := by
  obtain ⟨t, ht, hw⟩ := result_wrote e d v (Touched.refl u) rfl
  exact ⟨t, h.trans ht, hw⟩

-- LAUNCH (R73).

section
variable {e : Bool} {d a : SReg} {s s0 s1 : State} {bs : List Byte}

theorem withMapHeader_read {r : LaunchRec} (h : if r.map = 0 ∨ r.map % 64 ≠ 0 then s1 = s0 else ∃ hs, linesRead 1 (BitVec.ofNat 64 r.map) s0 = some (hs, s1))
    (k : State → Out) : withMapHeader r s0 k = k s1 := by
  unfold withMapHeader
  split at h
  · next hno => rw [if_pos hno, h]
  · next hyes =>
    obtain ⟨hs, hread⟩ := h
    rw [if_neg hyes]
    exact loadLines_of_read hread _

theorem launch_priv (h : isSupervisor (me s) = false) :
    TrapsWith (.launch e d a) s { cause := 2, va := BitVec.ofNat 64 (headUnit (.launch e d a)) } := by
  refine trapsWith_priv (j := .launch e d a) ?_
  rw [exec_launch, execLaunch, supervisorOnly, h, if_neg Bool.false_ne_true]

/-- LAUNCH of a supervisor, its record and the header of its map read, checks the record (R73). -/
theorem launch_runs (hsup : isSupervisor (me s) = true) (ha : srcBad s a = false)
    (hread : linesRead 8 (BitVec.ofNat 64 ((rs s a).toNat / 64 * 64)) (release s s.cur 4 none) = some (bs, s0))
    (hmap : if (launchRec bs).map = 0 ∨ (launchRec bs).map % 64 ≠ 0 then s1 = s0
      else ∃ hs, linesRead 1 (BitVec.ofNat 64 (launchRec bs).map) s0 = some (hs, s1)) :
    exec (.launch e d a) s =
      let x := launchRecord s1 { part := myPart s1, fn := 0, ceil := min 119 (fld (me s1).xprio 8 7) } (launchRec bs)
      result e d x.1 x.2 := by
  have hrs : rs (release s s.cur 4 none) a = rs s a := by
    have hperf := Performed.release s s.cur 4
    have h := hperf.watch s.cur
    rw [rs, rs, me, me, hperf.cur, h]; rfl
  rw [exec_launch, execLaunch, supervisorOnly, hsup, if_pos rfl, withSrc_one_good ha]
  dsimp only
  rw [hrs, alignDown, loadLines_of_read hread, List.nil_append, withMapHeader_read hmap]

end

-- TTASK (R74, R199, R200, R365).

theorem recTask_fields {s : State} {id addr w5 : Nat} {bs : List Byte} {resume : Option Nat} {t : Task}
    (h : recTask s id addr bs resume w5 = some t) : t.resume = resume.isSome ∧ t.ctx = id := by
  unfold recTask at h
  dsimp only at h
  repeat' split at h
  all_goals cases h
  all_goals exact ⟨rfl, rfl⟩

section
variable {e : Bool} {d : SReg} {t : Task} {s : State}

theorem admitTask_full (h : 256 ≤ (queuedAt s t.unit).length) : admitTask e d (some t) s = result e d 1 s := by
  rw [admitTask, if_pos h]

theorem admitTask_queued (h : (queuedAt s t.unit).length < 256) :
    admitTask e d (some t) s = result e d (natW ((queueTask t s).1 % 2 ^ 48 * 2 ^ 16)) (queueTask t s).2 := by
  rw [admitTask, if_neg (Nat.not_le.2 h)]

theorem seqOf_cons (s : State) (u : UnitId) (n : Nat) (es : List (UnitId × Nat)) (h : s.taskSeq = (u, n) :: es) : seqOf s u = n := by
  rw [seqOf, h, List.find?_cons_of_pos (by simp)]; rfl

/-- A task that is no TRESUME takes the next number of its cluster's tc.mx (R200). -/
theorem queueTask_new (h : t.resume = false) :
    let n := seqOf s t.unit + 1
    let num := (tcOf (getCtx s (fullOf t.ctx)) 5).issued + 1
    let u := (queueTask t s).2
    (queueTask t s).1 = n ∧ u.mem = s.mem ∧ u.tasks = s.tasks ++ [{ t with seq := n, num := num }] ∧ seqOf u t.unit = n ∧
      tcOf (getCtx u (fullOf t.ctx)) 5 = { issued := num, pending := (tcOf (getCtx s (fullOf t.ctx)) 5).pending ++ [num] } := by
  dsimp only
  unfold queueTask
  rw [h, if_neg Bool.false_ne_true]
  refine ⟨rfl, rfl, rfl, seqOf_cons _ _ _ _ rfl, ?_⟩
  have hctx : ∀ (c : Ctx) (u : State) (ts : List Task), getCtx { setCtx u (fullOf t.ctx) c with tasks := ts } (fullOf t.ctx) = c :=
    fun c u ts => (getCtx_setCtx ..).trans (if_pos rfl)
  dsimp only
  rw [hctx, tcTake, tcOf, smGetD_smPut, if_pos rfl]
  rfl

/-- A TRESUME takes up its fault area's task, with that task's number (R204, R365). -/
theorem queueTask_resume (h : t.resume = true) :
    let n := seqOf s t.unit + 1
    let u := (queueTask t s).2
    (queueTask t s).1 = n ∧ u.mem = s.mem ∧ u.ctxs = s.ctxs ∧ seqOf u t.unit = n ∧
      (areaFault s t = none → u.tasks = s.tasks ++ [{ t with seq := n }]) ∧
      ∀ o, areaFault s t = some o →
        u.tasks = (s.tasks.filter fun x => x.id != o.id) ++ [{ t with seq := n, owner := o.owner, full := o.full, key := o.key }] := by
  dsimp only
  have hsame : ∀ (i : Nat) (q : List (UnitId × Nat)), areaFault { s with nextId := i, taskSeq := q } t = areaFault s t := fun _ _ => rfl
  unfold queueTask
  rw [h, if_pos rfl]
  dsimp only
  rw [hsame]
  cases areaFault s t with
  | none => exact ⟨rfl, rfl, rfl, seqOf_cons _ _ _ _ rfl, fun _ => rfl, nofun⟩
  | some o =>
    refine ⟨rfl, rfl, rfl, seqOf_cons _ _ _ _ rfl, nofun, ?_⟩
    intro o' ho
    cases ho
    rfl

end

/-- TTASK once its record is read (R74). -/
def ttaskRead (e : Bool) (d : SReg) (addr : Nat) (bs : List Byte) (s : State) : Out :=
  if 5 < (recTile bs).level.toNat then refuseTask e d s
  else if fabricPending (me s) (recTile bs).level.toNat then .next (stallHere (.counter 6 (tcOf (me s) 6).issued) s)
  else
    let s := release s s.cur (recTile bs).level.toNat none
    if !recShape bs then refuseTask e d s
    else
      storeCheckedAll 6 (natW (recFault bs)) s fun s =>
        storeCheckedAll (if recDone bs = 0 then 0 else 1) (natW (recDone bs)) s fun s =>
          if recOp bs = 0x0A then admitResume e d addr bs s
          else admitTask e d (recTask s s.cur addr bs none 0) s

section
variable {e : Bool} {d a : SReg} {addr : Nat} {s s1 s2 : State} {bs h : List Byte}

theorem ttask_reads (ha : srcBad s a = false)
    (hread : linesRead 2 (BitVec.ofNat 64 ((rs s a).toNat / 128 * 128)) s = some (bs, s1)) :
    exec (.ttask e d a) s = ttaskRead e d (BitVec.ofNat 64 ((rs s a).toNat / 128 * 128)).toNat bs s1 := by
  rw [exec_ttask, execTtask, withSrc_one_good ha]
  dsimp only
  rw [alignDown, loadLines_of_read hread, List.nil_append]
  rfl

/-- A stall over a state in which stores alone have been performed. -/
theorem stallHere_performed {w : Wait} (hperf : Performed s s1) :
    (me (stallHere w s1)).run = (me s).run ∧ (me (stallHere w s1)).wait = some w ∧ (me (stallHere w s1)).pc = (me s).pc ∧
      (me (stallHere w s1)).s = (me s).s := by
  have hme : me s1 = { me s with watchFired := (getCtx s1 s.cur).watchFired } := by
    have hw := hperf.watch s.cur
    rwa [me, hperf.cur]
  rw [stallHere, me_onMe, hme]
  exact ⟨rfl, rfl, rfl, rfl⟩

variable (hlevel : (recTile bs).level.toNat ≤ 5) (hfab : fabricPending (me s1) (recTile bs).level.toNat = false)
  (hs2 : release s1 s1.cur (recTile bs).level.toNat none = s2)
include hlevel hfab hs2

theorem ttaskRead_shape (hshape : recShape bs = false) : ttaskRead e d addr bs s1 = result e d 2 s2 := by
  simp only [ttaskRead, if_neg (Nat.not_lt.2 hlevel), hfab, hshape, Bool.false_eq_true, if_false, Bool.not_false, if_true, hs2, refuseTask]

variable (hshape : recShape bs = true) (hfault : LinesOpen s2 (BitVec.ofNat 64 (recFault bs)) 6)
  (hdone : recDone bs ≠ 0 → LinesOpen s2 (BitVec.ofNat 64 (recDone bs)) 1)
include hshape hfault hdone

theorem ttaskRead_open :
    ttaskRead e d addr bs s1 = if recOp bs = 0x0A then admitResume e d addr bs s2 else admitTask e d (recTask s2 s2.cur addr bs none 0) s2 := by
  have hlast : LinesOpen s2 (natW (recDone bs)) (if recDone bs = 0 then 0 else 1) := by
    split
    · exact fun i hi => absurd hi (Nat.not_lt_zero i)
    · next h => exact hdone h
  simp only [ttaskRead, if_neg (Nat.not_lt.2 hlevel), hfab, hshape, Bool.false_eq_true, if_false, Bool.not_true, hs2]
  rw [storeCheckedAll_of_open (va := natW (recFault bs)) hfault, storeCheckedAll_of_open hlast]

end

/-- What refuses a TRESUME whose area's header is read (R204, R365). -/
def resumeRefused (s : State) (bs h : List Byte) : Prop :=
  fieldAt h 48 1 ≠ 1 ∨ (recTile bs).w5.toNat % 8 ≠ 0 ∨
    areaTaken s (areaPlace s (coreOf s.cur) (partOf s s.cur) (me s).tenant.toNat (recFault bs)) = true ∨ 4 < fieldAt h 3 1

section
variable {e : Bool} {d : SReg} {addr : Nat} {s s3 : State} {bs h : List Byte}
  (hread : linesRead 1 (BitVec.ofNat 64 (recFault bs)) s = some (h, s3))
include hread

theorem admitResume_refused (href : resumeRefused s3 bs h) : admitResume e d addr bs s = result e d 2 s3 := by
  have hbad : (fieldAt h 48 1 != 1 || (recTile bs).w5.toNat % 8 != 0 ||
      areaTaken s3 (areaPlace s3 (coreOf s3.cur) (partOf s3 s3.cur) (me s3).tenant.toNat (recFault bs)) || decide (4 < fieldAt h 3 1)) = true := by
    simpa [resumeRefused, or_assoc] using href
  rw [admitResume, natW, loadLines_of_read hread, List.nil_append]
  dsimp only
  rw [hbad, if_pos rfl, refuseTask]

theorem admitResume_admits (href : ¬resumeRefused s3 bs h) :
    admitResume e d addr bs s = admitTask e d
      (recTask s3 s3.cur addr (restoreWord bs (fieldAt h 3 1) (fieldAt h 4 4)) (some (fieldAt h 32 8)) (recTile bs).w5.toNat) s3 := by
  have hgood : (fieldAt h 48 1 != 1 || (recTile bs).w5.toNat % 8 != 0 ||
      areaTaken s3 (areaPlace s3 (coreOf s3.cur) (partOf s3 s3.cur) (me s3).tenant.toNat (recFault bs)) || decide (4 < fieldAt h 3 1)) = false := by
    rw [← Bool.not_eq_true]
    simpa [resumeRefused, or_assoc] using href
  rw [admitResume, natW, loadLines_of_read hread, List.nil_append]
  dsimp only
  rw [hgood, if_neg Bool.false_ne_true]

end

-- SQPUSH and SQPOP (R76).

section
variable {e : Bool} {d a : SReg} {n : Bool} {q : BitVec 3} {s s1 : State} {lid : Nat} {x : StageQueue} (hfull : isLight s.cur = false)
  (ha : srcBad s a = false)

theorem stageQueueOf_get {push : Bool} {q : Nat} (h : stageQueueOf s push q = some (lid, x)) :
    ∃ l, smGet s.launches lid = some l ∧ l.queues[q]? = some x := by
  unfold stageQueueOf launchOf at h
  cases hm : (me s).member with
  | none => rw [hm] at h; cases h
  | some m =>
    have hmc : (getCtx s s.cur).member = some m := hm
    simp only [hm, hmc] at h
    split at h
    · next l hml _ =>
      cases hml
      split at h
      · next hx =>
        obtain ⟨-, hpair⟩ := Option.ite_none_right_eq_some.1 h
        cases hpair
        exact ⟨l, by assumption, hx⟩
      · cases h
    · cases h

include hfull ha

theorem sqpush_qerr (h : stageQueueOf s true q.toNat = none) : TrapsWith (.sqpush e d a n q) s { cause := 7, va := BitVec.ofNat 64 q.toNat } := by
  rw [TrapsWith, exec_sqpush, execSqpush, fullOnly_full hfull, withSrc_one_good ha, h]
  rfl

theorem sqpop_qerr (h : stageQueueOf s false q.toNat = none) : TrapsWith (.sqpop e d a n q) s { cause := 7, va := BitVec.ofNat 64 q.toNat } := by
  rw [TrapsWith, exec_sqpop, execSqpop, fullOnly_full hfull, withSrc_one_good ha, h]
  rfl

section
variable (hq : stageQueueOf s true q.toNat = some (lid, x))
include hq

theorem sqpush_full (h : x.depth ≤ x.entries.length) :
    exec (.sqpush e d a n q) s = if n then result e d 0 s else .next (waitHere (.queueRoom q.toNat) s) := by
  rw [exec_sqpush, execSqpush, fullOnly_full hfull, withSrc_one_good ha, hq]
  exact if_pos h

/-- SQPUSH of a queue with room puts its lines into it (R76). -/
theorem sqpush_pushes {bs : List Byte} (h : x.entries.length < x.depth)
    (hread : linesRead (x.esize / 64) (BitVec.ofNat 64 ((rs s a).toNat / 64 * 64)) s = some (bs, s1)) :
    ∃ s2, exec (.sqpush e d a n q) s = result e d 1 s2 ∧ s2.mem = (release s1 s1.cur 4 none).mem ∧
      launchQueueAt s2 lid q.toNat = some { x with entries := x.entries ++ [clean bs] } := by
  obtain ⟨l, hl, hx⟩ := stageQueueOf_get hq
  have hl1 : smGet (release s1 s1.cur 4 none).launches lid = some l := by
    rw [(Performed.release s1 s1.cur 4).launches, (linesRead_performed hread).launches, hl]
  have hput := launchQueueAt_setQueue hl1 hx { x with entries := x.entries ++ [clean bs] }
  have hmem : (setQueue (release s1 s1.cur 4 none) lid q.toNat { x with entries := x.entries ++ [clean bs] }).mem =
      (release s1 s1.cur 4 none).mem := by rw [setQueue_eq]
  have hexec : exec (.sqpush e d a n q) s = result e d 1 (if x.entries.isEmpty || x.entries.length + 1 == x.depth
      then wakeSchedulers (setQueue (release s1 s1.cur 4 none) lid q.toNat { x with entries := x.entries ++ [clean bs] })
      else setQueue (release s1 s1.cur 4 none) lid q.toNat { x with entries := x.entries ++ [clean bs] }) := by
    rw [exec_sqpush, execSqpush, fullOnly_full hfull, withSrc_one_good ha, hq]
    dsimp only
    rw [if_neg (Nat.not_le.2 h), alignDown, loadLines_of_read hread, List.nil_append]
  refine ⟨_, hexec, ?_⟩
  split
  · exact ⟨hmem, hput⟩
  · exact ⟨hmem, hput⟩

end

section
variable (hq : stageQueueOf s false q.toNat = some (lid, x))
include hq

theorem sqpop_empty (h : x.entries = []) : exec (.sqpop e d a n q) s =
    if x.closed then result e d 2 s else if n then result e d 0 s else .next (waitHere (.queueEntry q.toNat) s) := by
  rw [exec_sqpop, execSqpop, fullOnly_full hfull, withSrc_one_good ha, hq]
  dsimp only
  rw [h]

/-- SQPOP of a queue with entries stores its oldest one (R76). -/
theorem sqpop_pops {bs : List PB} {rest : List (List PB)} (h : x.entries = bs :: rest)
    (hopen : LinesOpen s (BitVec.ofNat 64 ((rs s a).toNat / 64 * 64)) (x.esize / 64))
    (hstored : linesStored (x.esize / 64) (BitVec.ofNat 64 ((rs s a).toNat / 64 * 64)) bs (acquireAll s s.cur 4) = some s1) :
    ∃ s2, exec (.sqpop e d a n q) s = result e d 1 s2 ∧
      (rest ≠ [] → x.entries.length ≠ x.depth → s2.mem = s1.mem ∧ launchQueueAt s2 lid q.toNat = some { x with entries := rest }) := by
  obtain ⟨l, hl, hx⟩ := stageQueueOf_get hq
  have hl1 : smGet s1.launches lid = some l := by
    obtain ⟨ks, ds, hacq⟩ := acquireSig_eq s s.cur 4 (BitVec.allOnes 1024)
    rw [(linesStored_performed hstored).launches, acquireAll, hacq, hl]
  have hexec : exec (.sqpop e d a n q) s = result e d 1 (if rest.isEmpty || x.entries.length == x.depth
      then settleLaunch lid (setQueue s1 lid q.toNat { x with entries := rest }) else setQueue s1 lid q.toNat { x with entries := rest }) := by
    rw [exec_sqpop, execSqpop, fullOnly_full hfull, withSrc_one_good ha, hq]
    dsimp only
    rw [h]
    dsimp only
    rw [alignDown, storeCheckedAll_of_open hopen, storeLines_of_stored hstored]
  refine ⟨_, hexec, fun hrest hlen => ?_⟩
  rw [if_neg (by simpa [hrest] using hlen)]
  exact ⟨by rw [setQueue_eq], launchQueueAt_setQueue hl1 hx _⟩

end

end

/-- Settles O27: each word by the branch of its checks that its operands and its queue select. -/
theorem launchesAndTasksAreQueued : Obligations.LaunchesAndTasksAreQueued := by
  refine ⟨?launch, ?ttask, ?queues⟩
  case launch =>
    intro e d a s i
    refine ⟨launch_priv, ?_⟩
    intro hsup ha bs s0 s1 hread r hmap who
    have hrun := launch_runs (e := e) (d := d) hsup ha hread hmap
    refine ⟨fun hcheck => ?_, fun lid hcheck hfree => ?_⟩
    · rw [launchRecord_refused hcheck] at hrun
      exact writesOver_result hrun
    · rw [launchRecord_started hcheck hfree] at hrun
      obtain ⟨ds, ms, hstart⟩ := startLaunch_eq s1 who r lid
      obtain ⟨hpart, hfn, htenant, hstages, hcode, hstranded, hqueues⟩ := startedLaunch_fields s1 who r
      refine ⟨_, _, writesOver_result hrun, by rw [hstart], ?_, fun k hk => ?_, hpart, hfn, htenant, hstages, hcode, hstranded,
        startedLaunch_pending s1 who r, fun q hq => ?_, fun k t ht => startedLaunch_count s1 who r ht⟩
      · rw [hstart, smGet_smPut, if_pos rfl]
      · rw [hstart, smGet_smPut, if_neg hk]
      · rw [hqueues] at hq; exact settleDies_launchRec hq
  case ttask =>
    intro e d a s s1 bs ha va hread i level
    have hrun := ttask_reads (e := e) (d := d) ha hread
    refine ⟨fun hlevel => ?_, fun hlevel hfab => ?_, ?_⟩
    · rw [ttaskRead, if_pos hlevel] at hrun
      exact writesOver_result hrun
    · rw [ttaskRead, if_neg (Nat.not_lt.2 hlevel), hfab, if_pos rfl] at hrun
      exact ⟨_, hrun, stallHere_performed (linesRead_performed hread)⟩
    · intro hlevel hfab s2
      refine ⟨fun hshape => ?_, ?new, ?resume⟩
      · exact writesOver_result (hrun.trans (ttaskRead_shape hlevel hfab rfl hshape))
      case new =>
        intro hshape hop hfault hdone task
        have hadmit := hrun.trans (ttaskRead_open hlevel hfab rfl hshape hfault hdone)
        rw [if_neg hop] at hadmit
        refine ⟨fun hnone => ?_, fun t htask => ?_⟩
        · rw [show recTask s2 s2.cur va.toNat bs none 0 = none from hnone] at hadmit
          exact writesOver_result hadmit
        · obtain ⟨hnew, hctx⟩ := recTask_fields htask
          rw [show recTask s2 s2.cur va.toNat bs none 0 = some t from htask] at hadmit
          refine ⟨fun hlen => writesOver_result (hadmit.trans (admitTask_full hlen)), ?_⟩
          intro hlen n num
          obtain ⟨hn, hmem, htasks, hseq, htc⟩ := queueTask_new (s := s2) hnew
          rw [show fullOf t.ctx = fullOf s2.cur by rw [hctx]] at htasks htc
          rw [admitTask_queued hlen, hn] at hadmit
          exact ⟨_, writesOver_result hadmit, hmem, htasks, hseq, htc⟩
      case resume =>
        intro hshape hop hfault hdone h s3 hhead w5 area refused task
        have hadmit := hrun.trans (ttaskRead_open hlevel hfab rfl hshape hfault hdone)
        rw [if_pos hop] at hadmit
        refine ⟨fun hbad => ?_, fun hgood t htask => ?_⟩
        · by_cases href : refused
          · exact writesOver_result (hadmit.trans (admitResume_refused hhead href))
          · have hnone := hbad.resolve_left href
            have hrefuse := hadmit.trans (admitResume_admits hhead href)
            rw [show recTask s3 s3.cur va.toNat _ _ _ = none from hnone] at hrefuse
            exact writesOver_result hrefuse
        · obtain ⟨hresume, -⟩ := recTask_fields htask
          have hqueue := hadmit.trans (admitResume_admits hhead hgood)
          rw [show recTask s3 s3.cur va.toNat _ _ _ = some t from htask] at hqueue
          refine ⟨fun hlen => writesOver_result (hqueue.trans (admitTask_full hlen)), ?_⟩
          intro hlen n
          obtain ⟨hn, hmem, hctxs, hseq, hnone, hsome⟩ := queueTask_resume (s := s3) (t := t) hresume
          rw [admitTask_queued hlen, hn] at hqueue
          exact ⟨_, writesOver_result hqueue, hmem, hctxs, hseq, hnone, hsome⟩
  case queues =>
    intro e d a q s hfull ha va
    refine ⟨fun n => ⟨sqpush_qerr hfull ha, sqpop_qerr hfull ha⟩, fun lid x hq => ⟨fun hdepth => ⟨?_, fun hreq => ?_⟩, fun hroom bs s1 hread n => ?_⟩,
      fun lid x hq => ⟨fun hempty hclosed n => ?_, fun hempty hopen => ⟨?_, fun hreq => ?_⟩, fun bs rest hentries hopen s1 hstored n => ?_⟩⟩
    · exact writesOver_result (sqpush_full hfull ha hq hdepth)
    · exact ⟨_, sqpush_full hfull ha hq hdepth, waitHere_waits hreq⟩
    · obtain ⟨s2, hx, hmem, hput⟩ := sqpush_pushes (e := e) (d := d) (n := n) hfull ha hq hroom hread
      exact ⟨s2, writesOver_result hx, hmem, hput⟩
    · exact writesOver_result ((sqpop_empty hfull ha hq hempty).trans (by rw [hclosed, if_pos rfl]))
    · exact writesOver_result ((sqpop_empty hfull ha hq hempty).trans (by rw [hopen, if_neg Bool.false_ne_true, if_pos rfl]))
    · exact ⟨_, (sqpop_empty hfull ha hq hempty).trans (by rw [hopen, if_neg Bool.false_ne_true, if_neg Bool.false_ne_true]), waitHere_waits hreq⟩
    · obtain ⟨s2, hx, hafter⟩ := sqpop_pops (e := e) (d := d) (n := n) hfull ha hq hentries hopen hstored
      exact ⟨s2, writesOver_result hx, hafter⟩

end Sys2Proof.Machine
end

section
/-! SUPPORT. What tile tasks change of the list of tasks: the writes of a sequencer leave it, a task that goes on replaces the
entry with its number, and what the end of a task has to write decides whether it waits (R200, R202, R211). -/

namespace Sys2Proof.Machine

-- Writes and reports leave the tasks.

theorem foldl_tasks {α : Type} {f : State → α → State} (hf : ∀ s a, (f s a).tasks = s.tasks) (l : List α) (s : State) :
    (l.foldl f s).tasks = s.tasks := by
  induction l generalizing s with
  | nil => rfl
  | cons a l ih => exact (ih (f s a)).trans (hf s a)

@[simp] theorem fireSnap_tasks (s : State) (src : SnapSource) (part tag place : Nat) : (fireSnap s src part tag place).tasks = s.tasks := by
  unfold fireSnap recordFiring
  repeat' split
  all_goals rfl
@[simp] theorem appendReport_tasks (s : State) (part : Nat) : (appendReport s part).tasks = s.tasks := by
  unfold appendReport
  dsimp only
  split
  · rfl
  · split
    · exact (foldl_tasks (fun s l => (Performed.fireWatch s _).tasks) _ _).trans (Performed.memWrite s _ _).tasks
    · rfl
@[simp] theorem taskReport_tasks (t : Task) (va : Nat) (s : State) : (taskReport t va s).tasks = s.tasks := by simp [taskReport, report]
@[simp] theorem onFull_tasks (s : State) (t : Task) (f : Ctx → Ctx) : (onFull s t f).tasks = s.tasks := by
  unfold onFull
  dsimp only
  split
  · rfl
  · split <;> simp
@[simp] theorem drainFor_tasks (w : Writer) (t : Task) (line : Nat) (s : State) : (drainFor w t line s).tasks = s.tasks :=
  foldl_tasks (fun s _ => (Performed.drainWhere s _ _).tasks) _ s
@[simp] theorem putLine_tasks (w : Writer) (t : Task) (line off : Nat) (bs : List PB) (s : State) :
    (putLine w t line off bs s).tasks = s.tasks := by
  have hcore (k : Nat) (s : State) : (portRequest s k t.tenant bs.length).tasks = s.tasks := (Performed.portRequest s k _ _).tasks
  have hhome (die part : Nat) (s : State) : (homeWrite s die part line off bs false).tasks = s.tasks := (Performed.homeWrite s ..).tasks
  unfold putLine
  cases w.core <;> simp [hhome, signLine, onL1, hcore]
@[simp] theorem putRuns_tasks (w : Writer) (t : Task) (rs : List Run) (bs : List PB) (s : State) : (putRuns w t rs bs s).tasks = s.tasks := by
  induction rs generalizing bs s with
  | nil => rfl
  | cons r rs ih =>
    rw [putRuns, ih]
    split
    · exact (Performed.scratchWrite ..).tasks
    · exact putLine_tasks ..
@[simp] theorem issuerPut_tasks (t : Task) (va : Nat) (bs : List Byte) (s : State) : (issuerPut t va bs s).tasks = s.tasks := by
  unfold issuerPut; split <;> simp

-- A task is replaced (R75).

theorem setTask_tasks (s : State) (t : Task) : (setTask s t).tasks = s.tasks.map fun x => if x.id = t.id then t else x := by
  unfold setTask; dsimp only; split <;> rfl
theorem setTask_mem (s : State) (t : Task) : (setTask s t).mem = s.mem := by
  unfold setTask; dsimp only; split <;> rfl
/-- A task as its fault leaves it. -/
def faultedTask (t : Task) (f : ChildFault) : Task := { t with st := .faulted, pass := [], flt := [(0, f)] }
theorem failTask_tasks (t : Task) (f : ChildFault) (s : State) :
    (failTask t f s).tasks = s.tasks.map fun x => if x.id = (faultedTask t f).id then faultedTask t f else x := by
  rw [failTask, setTask_tasks, issuerPut_tasks]; rfl
theorem dropTask_tasks (s : State) (t : Task) : (dropTask s t).tasks = s.tasks.filter fun x => x.id != t.id := by
  show (setTask s { t with st := .faulted }).tasks.filter (fun x => x.id != t.id) = _
  rw [setTask_tasks]
  induction s.tasks with
  | nil => rfl
  | cons y ys ih =>
    by_cases hy : y.id = t.id <;> simp [hy, ih]

/-- Every entry with a number is the given task. -/
def AllAre (ts : List Task) (id : Nat) (t : Task) : Prop := ∀ x ∈ ts, x.id = id → x = t

theorem allAre_replaced (ts : List Task) {t : Task} {id : Nat} (hid : t.id = id) :
    AllAre (ts.map fun x => if x.id = t.id then t else x) id t := by
  intro x hx hxid
  obtain ⟨y, -, rfl⟩ := List.mem_map.mp hx
  by_cases hy : y.id = t.id
  · exact if_pos hy
  · rw [if_neg hy] at hxid; exact absurd (hxid.trans hid.symm) hy

theorem find_replaced {ts : List Task} {k t : Task} (hk : k ∈ ts) (hid : t.id = k.id) :
    (ts.map fun x => if x.id = t.id then t else x).find? (fun x => x.id == k.id) = some t := by
  have hsome : ((ts.map fun x => if x.id = t.id then t else x).find? (fun x => x.id == k.id)).isSome :=
    List.find?_isSome.mpr ⟨_, List.mem_map_of_mem hk, by simp [hid]⟩
  obtain ⟨x, hx⟩ := Option.isSome_iff_exists.mp hsome
  rw [hx, allAre_replaced ts hid x (List.mem_of_find?_eq_some hx) (by simpa using List.find?_some hx)]

-- The end of a task (R211).

theorem endNeed_goesOn {s s' : State} {t k' : Task} (h : s'.tasks.find? (fun x => x.id == t.id) = some k') (hst : k'.st ≠ .faulted) :
    endNeed s t s' = none := by
  simp [endNeed, h, hst]
theorem endNeed_fault {s s' : State} {t k' : Task} (h : s'.tasks.find? (fun x => x.id == t.id) = some k') (hst : k'.st = .faulted)
    (ha : AreaFilled s t (recFault t.bytes) 384) : endNeed s t s' = none := by
  simp only [endNeed, h, hst, if_true]
  split
  · next hw => rw [ha hw]; rfl
  · rfl
theorem endNeed_fault_wait {s s' : State} {t k' : Task} (h : s'.tasks.find? (fun x => x.id == t.id) = some k') (hst : k'.st = .faulted)
    (ha : ¬AreaFilled s t (recFault t.bytes) 384) : ∃ r g, endNeed s t s' = some (.granule r g) := by
  obtain ⟨hw, hu⟩ := Classical.not_imp.mp ha
  obtain ⟨⟨r, g⟩, hrg⟩ := Option.ne_none_iff_exists'.mp hu
  exact ⟨r, g, by simp only [endNeed, h, hst, hw, hrg, if_true, Option.map_some]⟩
theorem endNeed_done {s s' : State} {t : Task} (h : s'.tasks.find? (fun x => x.id == t.id) = none)
    (ha : recDone t.bytes ≠ 0 → AreaFilled s t (recDone t.bytes) 8) : endNeed s t s' = none := by
  simp only [endNeed, h]
  split
  · rfl
  · next hz =>
    split
    · next hw => rw [ha hz hw]; rfl
    · rfl

theorem taskTo_waits {s s' : State} {t : Task} {n : Need} (h : endNeed s t s' = some n) : taskTo s t s' = .next (childWaits t n s) := by
  rw [taskTo, h]
theorem taskTo_next {s s' : State} {t : Task} (h : endNeed s t s' = none) : taskTo s t s' = .next s' := by rw [taskTo, h]

/-- A task that is not over and not faulted goes on to the state in which it is replaced. -/
theorem taskTo_goesOn {s s' : State} {k t u : Task} {ts : List Task} (hk : k ∈ ts) (hid : t.id = k.id) (hu : u.id = k.id)
    (htasks : s'.tasks = ts.map fun x => if x.id = u.id then u else x) (hst : u.st ≠ .faulted) : taskTo s t s' = .next s' :=
  taskTo_next (endNeed_goesOn (by rw [htasks, hid]; exact find_replaced hk hu) hst)
/-- A task faults where its fault area is filled. -/
theorem taskTo_failTask {s s' : State} {k t u : Task} (f : ChildFault) (hk : k ∈ s'.tasks) (hid : t.id = k.id) (hu : u.id = k.id)
    (ha : AreaFilled s t (recFault t.bytes) 384) :
    taskTo s t (failTask u f s') = .next (failTask u f s') ∧ ∀ x ∈ (failTask u f s').tasks, x.id = k.id → x.st = .faulted := by
  have htasks := failTask_tasks u f s'
  refine ⟨taskTo_next (endNeed_fault (by rw [htasks, hid]; exact find_replaced (t := faultedTask u f) hk hu) rfl ha),
    fun x hx hxid => ?_⟩
  rw [htasks] at hx
  rw [allAre_replaced (t := faultedTask u f) _ hu x hx hxid, faultedTask]

end Sys2Proof.Machine
end

section
/-! SUPPORT. The selection of tile tasks and TRESUME (R75, R195, R204). -/

namespace Sys2Proof.Machine

/-- What a fold keeps of a list is one of its members, where each step keeps the member or what it had. -/
theorem foldl_kept_mem {α : Type} {f : Option α → α → Option α} (hf : ∀ b x y, f b x = some y → y = x ∨ b = some y) (xs : List α)
    {best : Option α} {y : α} (h : xs.foldl f best = some y) : y ∈ xs ∨ best = some y := by
  induction xs generalizing best with
  | nil => exact .inr h
  | cons x xs ih =>
    rcases ih h with hmem | hkept
    · exact .inl (List.mem_cons_of_mem _ hmem)
    · exact (hf _ _ _ hkept).imp (fun hy => by rw [hy]; exact List.mem_cons_self) id
/-- A unit selects a task that is queued. -/
theorem taskPick_mem {s : State} {u : UnitId} {k : Task} (h : taskPick s u = some k) : k ∈ s.tasks := by
  have hbetter (best : Option Task) (t k : Task)
      (hk : (match best with | some b => if taskBefore t b then some t else best | none => some t) = some k) : k = t ∨ best = some k := by
    cases best with
    | none => cases hk; exact .inl rfl
    | some b =>
      dsimp only at hk
      split at hk
      · cases hk; exact .inl rfl
      · exact .inr hk
  rcases foldl_kept_mem hbetter _ h with hmem | hnone
  · exact List.mem_of_mem_filter (List.mem_of_mem_filter hmem)
  · cases hnone

/-- A wait leaves the tasks but for what a child asks of a home (R211). -/
theorem childWaits_granule_tasks (t : Task) (r g : Nat) (s : State) : (childWaits t (.granule r g) s).tasks = s.tasks := by
  unfold childWaits
  dsimp only
  split <;> rfl

/-- A task with children left begins to run, where its unit is mapped and its share is large enough. -/
theorem beginTask_runs {t : Task} {s : State} (hplace : t.place ≠ none) (hshare : stageNeed t ≤ stagingShare s t.unit.part (taskDie t))
    (hkids : kidsLeft (kidCount t) t.done ≠ []) : beginTask t s = setTask s { t with st := .running } := by
  have hkids' : (kidsLeft (kidCount { t with st := .running }) t.done).isEmpty = false := by
    cases h : kidsLeft (kidCount t) t.done with
    | nil => exact absurd h hkids
    | cons c cs => exact congrArg List.isEmpty h
  simp [beginTask, Option.isNone_iff_eq_none, hplace, Nat.not_lt.mpr hshare, hkids']
theorem beginTask_unplaced {t : Task} {s : State} (hplace : t.place = none) :
    beginTask t s = failTask t (placeFault t.unit.level 0) s := by
  simp [beginTask, hplace]

-- TASK_SELECT (R75).

/-- The number of the selection is taken. -/
def selecting (s : State) : State := { s with nextId := s.nextId + 1 }
/-- A task with the number of its selection: it is the last selected of its queue. -/
def selectedTask (s : State) (k : Task) : Task := { k with order := s.nextId + 1 }

section
variable {u : UnitId} {s : State} {k : Task} (hquiet : (getPart s u.part).quiesced = false)
  (hbusy : taskBusy s u < (if u.level = 0 then 1 else 4)) (hpick : taskPick s u = some k)
include hquiet hbusy hpick

theorem execTaskSelect_pick : execTaskSelect u s =
    (if k.resume then .next (raise (setTask (selecting s) { selectedTask s k with st := .taken }) [.tresume k.id])
     else taskTo (selecting s) (selectedTask s k) (beginTask (selectedTask s k) (selecting s))) := by
  simp [execTaskSelect, hquiet, Nat.not_le.mpr hbusy, hpick, selecting, selectedTask]

theorem taskSelect_resume (hr : k.resume = true) :
    ∃ t, exec (.taskSelect u) s = .next t ∧ ∀ x ∈ t.tasks, x.id = k.id → x = { k with st := .taken, order := s.nextId + 1 } :=
  ⟨_, (execTaskSelect_pick hquiet hbusy hpick).trans (if_pos hr), by
    rw [raise_tasks, setTask_tasks]; exact allAre_replaced s.tasks rfl⟩

theorem taskSelect_unplaced (hr : k.resume = false) (hplace : k.place = none) (ha : AreaFilled s k (recFault k.bytes) 384) :
    ∃ t, exec (.taskSelect u) s = .next t ∧ ∀ x ∈ t.tasks, x.id = k.id → x.st = .faulted := by
  have hsel := execTaskSelect_pick hquiet hbusy hpick
  rw [if_neg (by simp [hr]), beginTask_unplaced (t := selectedTask s k) hplace] at hsel
  obtain ⟨hto, hst⟩ := taskTo_failTask (s := selecting s) (s' := selecting s) (t := selectedTask s k) (u := selectedTask s k)
    (placeFault k.unit.level 0) (taskPick_mem hpick) rfl rfl ha
  exact ⟨_, hsel.trans hto, hst⟩

theorem taskSelect_waits (hr : k.resume = false) (hplace : k.place = none) (ha : ¬AreaFilled s k (recFault k.bytes) 384) :
    ∃ t, exec (.taskSelect u) s = .next t ∧ t.tasks = s.tasks := by
  have hsel := execTaskSelect_pick hquiet hbusy hpick
  rw [if_neg (by simp [hr]), beginTask_unplaced (t := selectedTask s k) hplace] at hsel
  obtain ⟨r, g, hneed⟩ := endNeed_fault_wait (s := selecting s) (t := selectedTask s k)
    (s' := failTask (selectedTask s k) (placeFault k.unit.level 0) (selecting s))
    (k' := faultedTask (selectedTask s k) (placeFault k.unit.level 0))
    (by rw [failTask_tasks]; exact find_replaced (k := k) (taskPick_mem hpick) rfl) rfl ha
  exact ⟨_, hsel.trans (taskTo_waits hneed), childWaits_granule_tasks ..⟩

theorem taskSelect_runs (hr : k.resume = false) (hplace : k.place ≠ none)
    (hshare : stageNeed k ≤ stagingShare s k.unit.part (taskDie k)) (hkids : kidsLeft (kidCount k) k.done ≠ []) :
    ∃ t, exec (.taskSelect u) s = .next t ∧ ∀ x ∈ t.tasks, x.id = k.id → x = { k with st := .running, order := s.nextId + 1 } := by
  have hsel := execTaskSelect_pick hquiet hbusy hpick
  rw [if_neg (by simp [hr]), beginTask_runs (t := selectedTask s k) (s := selecting s) hplace hshare hkids,
    taskTo_goesOn (t := selectedTask s k) (u := { selectedTask s k with st := .running }) (taskPick_mem hpick) rfl rfl (setTask_tasks (selecting s) _) nofun] at hsel
  exact ⟨_, hsel, by rw [setTask_tasks]; exact allAre_replaced s.tasks rfl⟩
end

/-- A unit whose partition is quiesced, with no free sequencer or no ready task selects nothing (R75, R205). -/
theorem execTaskSelect_idle {u : UnitId} {s : State}
    (h : (getPart s u.part).quiesced = true ∨ (if u.level = 0 then 1 else 4) ≤ taskBusy s u ∨ taskPick s u = none) :
    execTaskSelect u s = .next s := by
  rcases h with h | h | h
  · simp [execTaskSelect, h]
  · simp [execTaskSelect, h]
  · simp [execTaskSelect, h]

-- TRESUME (R204).

/-- The task that a TRESUME takes up: the children that the map of its fault area names are done, with the sums of its PART. -/
def resumedTask (s : State) (k : Task) : Task :=
  { k with
    done := (rangeFrom 0 (kidCount k)).filter (natBit (leNat (areaBytes (issuerRead s k (recFault k.bytes + k.mapAt) 256) 256)))
    sums := partSums (areaBytes (issuerRead s k (recFault k.bytes + 64) 64) 64) }

section
variable {task : Nat} {s : State} {k : Task} (hfind : s.tasks.find? (fun t => t.id == task && t.st == .taken) = some k)
include hfind

theorem tresume_waits {n : Need} (hmap : issuerRead s k (recFault k.bytes + k.mapAt) 256 = .error (.wait n)) :
    exec (.tresume task) s = .next (childWaits k n s) := by
  show execTresume task s = _
  simp only [execTresume, hfind, hmap]
  rfl

theorem execTresume_read (hmap : readWait (issuerRead s k (recFault k.bytes + k.mapAt) 256) = none)
    (hpart : readWait (issuerRead s k (recFault k.bytes + 64) 64) = none) (harea : readWait (issuerRead s k (recFault k.bytes) 64) = none) :
    exec (.tresume task) s = taskTo s k (beginTask (resumedTask s k) (issuerPut k (recFault k.bytes + 48) [2] s)) := by
  show execTresume task s = _
  simp only [execTresume, hfind, hmap, hpart, harea]
  rfl

theorem tresume_runs (hmap : readWait (issuerRead s k (recFault k.bytes + k.mapAt) 256) = none)
    (hpart : readWait (issuerRead s k (recFault k.bytes + 64) 64) = none) (harea : readWait (issuerRead s k (recFault k.bytes) 64) = none)
    (hplace : k.place ≠ none)
    (hshare : stageNeed k ≤ stagingShare (issuerPut k (recFault k.bytes + 48) [2] s) k.unit.part (taskDie k))
    (hkids : kidsLeft (kidCount k) (resumedTask s k).done ≠ []) :
    ∃ t, exec (.tresume task) s = .next t ∧ t.mem = (issuerPut k (recFault k.bytes + 48) [2] s).mem ∧
      AllAre t.tasks k.id { resumedTask s k with st := .running } := by
  have hmem : k ∈ s.tasks := List.mem_of_find?_eq_some hfind
  have hgo := execTresume_read hfind hmap hpart harea
  rw [beginTask_runs (t := resumedTask s k) hplace hshare hkids,
    taskTo_goesOn (u := { resumedTask s k with st := .running }) hmem rfl rfl ((setTask_tasks _ _).trans (by rw [issuerPut_tasks])) nofun]
    at hgo
  exact ⟨_, hgo, setTask_mem _ _, by rw [setTask_tasks]; exact allAre_replaced _ rfl⟩
end

/-- Settles O39: a unit's selected task by its cases, and a TRESUME whose area can be read. -/
theorem tasksAreSelectedAndResumed : Obligations.TasksAreSelectedAndResumed := by
  unfold Obligations.TasksAreSelectedAndResumed
  refine ⟨fun u s => ⟨execTaskSelect_idle, fun k hquiet hbusy hpick => ⟨taskSelect_resume hquiet hbusy hpick,
    taskSelect_unplaced hquiet hbusy hpick, taskSelect_waits hquiet hbusy hpick, taskSelect_runs hquiet hbusy hpick⟩⟩,
    fun task s k hfind => ⟨fun n hmap => tresume_waits hfind hmap, fun hmap hpart harea hplace hshare hkids => ?_⟩⟩
  obtain ⟨t, ht, hmem, hall⟩ := tresume_runs hfind hmap hpart harea hplace hshare hkids
  have hid : k.id = task := by
    have := List.find?_some hfind
    simp only [Bool.and_eq_true, beq_iff_eq] at this
    exact this.1
  refine ⟨t, ht, hmem, fun x hx hxid => ?_⟩
  rw [hall x hx (hxid.trans hid.symm)]
  exact ⟨rfl, rfl, rfl⟩

end Sys2Proof.Machine
end

section
/-! SUPPORT. The children of a tile task leave the list of tasks as it is: bindings and Herbarium fills, the rows of a band, and the
units from a core child to a package child (R193 to R198, R318). -/

namespace Sys2Proof.Machine

-- Bindings and pins (R182, R311).

@[simp] theorem sendRecord_tasks (s : State) (part peer tenant cls : Nat) (r : CatRecord) :
    (sendRecord s part peer tenant cls r).tasks = s.tasks := by
  unfold sendRecord; dsimp only; repeat' split
  all_goals rfl
@[simp] theorem sendPin_tasks (on : Bool) (s : State) (die tenant part handle ver home : Nat) :
    (sendPin on s die tenant part handle ver home).tasks = s.tasks := by
  unfold sendPin; split <;> simp
@[simp] theorem pinVersion_tasks (s : State) (die tenant part handle ver home : Nat) :
    (pinVersion s die tenant part handle ver home).tasks = s.tasks := by
  unfold pinVersion
  split
  · exact sendPin_tasks ..
  · split <;> rfl
theorem releaseFrame_tasks (s : State) (f : Nat) (w : FrameWork) : (releaseFrame s f w).tasks = s.tasks :=
  foldl_tasks (fun s _ => (Performed.fireWatch s _).tasks) _ _
theorem releasePages_tasks (s : State) (v : VRec) : (releasePages s v).tasks = s.tasks := by
  refine (foldl_tasks (fun s i => ?_) _ s :)
  split
  · split
    · exact releaseFrame_tasks ..
    · rfl
  · rfl
theorem retireVersion_tasks (s : State) (e : CatEntry) (v : VRec) : (retireVersion s e v).tasks = s.tasks := by
  have hsent : ∀ (ps : List Nat) (f : State → CatRecord) (s : State),
      (ps.foldl (fun s p => sendRecord s e.part p e.tenant 2 (f s)) s).tasks = s.tasks :=
    fun ps f s => foldl_tasks (fun s p => sendRecord_tasks s ..) ps s
  unfold retireVersion
  dsimp only
  split
  · exact ((releasePages_tasks ..).trans (hsent _ (fun s => .invalidate s.ownPeer e.part e.handle v.ver e.tenant) _) :)
  · exact ((releasePages_tasks ..).trans (hsent _ (fun s => .invalidate s.ownPeer e.part e.handle v.ver e.tenant) _) :)
theorem unpinVersion_tasks (s : State) (die tenant part handle ver home : Nat) :
    (unpinVersion s die tenant part handle ver home).tasks = s.tasks := by
  unfold unpinVersion
  split
  · exact sendPin_tasks ..
  · split
    · dsimp only
      split
      · exact retireVersion_tasks ..
      · rfl
    · rfl
@[simp] theorem writeBind_tasks (s : State) (core b : Nat) (x : Option BindEntry) : (writeBind s core b x).tasks = s.tasks := by
  unfold writeBind
  simp only [modCore_tasks]
  split
  · split
    · rfl
    · exact unpinVersion_tasks ..
  · rfl
@[simp] theorem mapBinds_tasks (s : State) (die : Nat) (k : SiteKey) (f : BindEntry → BindEntry) : (mapBinds s die k f).tasks = s.tasks := rfl
@[simp] theorem startFill_tasks (s : State) (die : Nat) (k : SiteKey) (n : Nat) : (startFill s die k n).tasks = s.tasks := by
  unfold startFill; split <;> rfl
@[simp] theorem bindEntry_tasks (s : State) (core b part tenant : Nat) (bs : List Byte) :
    (bindEntry s core b part tenant bs).tasks = s.tasks := by
  unfold bindEntry
  split
  · exact writeBind_tasks ..
  · dsimp only
    split
    · exact writeBind_tasks ..
    · split <;> simp [touchSite]

-- Herbarium fills (R318).

theorem evictHerb_tasks (s : State) (die : Nat) (l : HerbLine) : (evictHerb s die l).tasks = s.tasks := rfl
theorem makeRoom_tasks {die n fuel : Nat} {k : SiteKey} {s t : State} (h : makeRoom die k n fuel s = some t) : t.tasks = s.tasks := by
  induction fuel generalizing s with
  | zero => cases h
  | succ fuel ih =>
    rw [makeRoom] at h
    repeat' split at h
    · exact (ih h).trans (evictHerb_tasks ..)
    · cases h
    · exact (ih h).trans (evictHerb_tasks ..)
    · cases h
    · cases h; rfl
theorem sideRow_tasks (s : State) (core a row : Nat) (b : BindEntry) (kp : Nat) (vals : List FVal) (bad : Bool) :
    (sideRow s core a row b kp vals bad).tasks = s.tasks := by
  refine (foldl_tasks (fun s j => ?_) _ _).trans (modCore_tasks ..)
  split
  · exact (Performed.setPoison ..).tasks
  · rfl
theorem replayCore_tasks (k : SiteKey) (s : State) (core : Nat) : (replayCore k s core).tasks = s.tasks := by
  refine (foldl_tasks (fun s h => ?_) _ _).trans (modCore_tasks ..)
  split
  · exact sideRow_tasks ..
  · rfl
theorem landFill_tasks (s : State) (die : Nat) (k : SiteKey) (bs : List Byte) : (landFill s die k bs).tasks = s.tasks :=
  foldl_tasks (replayCore_tasks k) _ _
theorem failFill_tasks (s : State) (die : Nat) (k : SiteKey) : (failFill s die k).tasks = s.tasks := rfl
theorem fillWith_tasks (s : State) (die : Nat) (k : SiteKey) (bs : List PB) : (fillWith s die k bs).tasks = s.tasks := by
  unfold fillWith
  split
  · rfl
  · dsimp only
    split
    · next h => exact (landFill_tasks ..).trans (makeRoom_tasks h)
    · rfl
theorem askHome_tasks (s : State) (die : Nat) (k : SiteKey) (n p : Nat) : (askHome s die k n p).tasks = s.tasks := by
  unfold askHome
  split
  · rfl
  · next u h => exact (sendRecord_tasks ..).trans (makeRoom_tasks (t := u) h)
theorem runHerbFill_tasks (s : State) (die : Nat) (k : SiteKey) : (runHerbFill s die k).tasks = s.tasks := by
  unfold runHerbFill
  split
  · rfl
  · dsimp only
    split
    · split
      · rfl
      · split
        · rfl
        · exact askHome_tasks ..
    · split
      · exact fillWith_tasks ..
      · rfl

-- The binding of a core child (R198).

theorem settleEntry_tasks {t : Task} {core b : Nat} {before : List Fill} {s u : State} (h : settleEntry t core before s b = .ok u) :
    u.tasks = s.tasks := by
  unfold settleEntry at h
  split at h
  · cases h; rfl
  · split at h
    · cases h; rfl
    · dsimp only at h
      repeat' split at h
      · cases h; rw [runHerbFill_tasks, startFill_tasks]
      · cases h; rfl
      · cases h
theorem foldl_ok_tasks {α : Type} {f : Except Stop State → α → Except Stop State}
    (hf : ∀ r a v, f r a = .ok v → ∃ u, r = .ok u ∧ v.tasks = u.tasks) (as : List α) {r : Except Stop State} {v : State}
    (h : as.foldl f r = .ok v) : ∃ u, r = .ok u ∧ v.tasks = u.tasks := by
  induction as generalizing r with
  | nil => exact ⟨v, h, rfl⟩
  | cons a as ih =>
    obtain ⟨w, hw, hvw⟩ := ih h
    obtain ⟨u, hu, hwu⟩ := hf r a w hw
    exact ⟨u, hu, hvw.trans hwu⟩
theorem bindChild_tasks {t : Task} {core mc m : Nat} {s u : State} (h : bindChild t core mc m s = .ok u) : u.tasks = s.tasks := by
  unfold bindChild at h
  split at h
  · cases h; rfl
  · split at h
    · cases h
    · obtain ⟨w, hw, huw⟩ := foldl_ok_tasks (fun r b v hv => by
        cases r with
        | error e => cases hv
        | ok u => exact ⟨u, rfl, settleEntry_tasks hv⟩) _ h
      cases hw
      exact huw.trans (foldl_tasks (fun s e => bindEntry_tasks s ..) _ _)

-- Bands (R195, R198).

theorem portStream_tasks (s : State) (core tenant bytes : Nat) : (portStream s core tenant bytes).tasks = s.tasks := by
  unfold portStream
  split
  · rfl
  · exact foldl_tasks (fun s _ => (Performed.portRequest s _ _ _).tasks) _ s
theorem dropNearCopies_tasks (s : State) (core line : Nat) : (dropNearCopies s core line).tasks = s.tasks := by
  unfold dropNearCopies; dsimp only; split <;> rfl
theorem noteRange_tasks (t : Task) (fuel va n : Nat) (s : State) : (noteRange t fuel va n s).tasks = s.tasks := by
  induction fuel generalizing va n s with
  | zero => rfl
  | succ fuel ih =>
    rw [noteRange]
    split
    · rfl
    · dsimp only
      rw [ih]
      split
      · split
        · rfl
        · exact dropNearCopies_tasks ..
      · rfl
theorem noteReads_tasks (t : Task) (rs : List (Nat × Nat)) (s : State) : (noteReads t rs s).tasks = s.tasks := by
  unfold noteReads
  split
  · rfl
  · exact foldl_tasks (fun s r => noteRange_tasks t ..) _ s
theorem clearSidePoison_tasks (s : State) (core a row0 rows : Nat) : (clearSidePoison s core a row0 rows).tasks = s.tasks := by
  unfold clearSidePoison; split <;> rfl
theorem clearAccPoison_tasks (s : State) (core a row0 rows col0 cols : Nat) :
    (clearAccPoison s core a row0 rows col0 cols).tasks = s.tasks := by
  unfold clearAccPoison; split <;> rfl
theorem keepSide_tasks (t : Task) (core r0 n0 : Nat) (rs : List TaskRow) (s : State) : (keepSide t core r0 n0 rs s).tasks = s.tasks := by
  unfold keepSide
  split
  · rfl
  · exact clearSidePoison_tasks ..
theorem keepRows_tasks (t : Task) (core r0 n0 : Nat) (rs : List TaskRow) (s : State) : (keepRows t core r0 n0 rs s).tasks = s.tasks := by
  refine (foldl_tasks (fun s e => ?_) _ _).trans (keepSide_tasks t core r0 n0 rs s)
  split
  · rfl
  · exact clearAccPoison_tasks ..
theorem outPut_tasks {w : Writer} {t : Task} {va : Nat} {bs : List Byte} {s u : State} (h : outPut w t va bs s = .ok u) :
    u.tasks = s.tasks := by
  unfold outPut at h
  split at h
  · cases h
  · cases h; exact putRuns_tasks ..
theorem putRows_tasks (w : Writer) (t : Task) (n0 m : Nat) (rs : List TaskRow) (g : Got) : (putRows w t n0 m rs g).s.tasks = g.s.tasks := by
  induction rs generalizing m g with
  | nil => rfl
  | cons r rs ih =>
    rw [putRows]
    split
    · rfl
    · next h => exact (ih ..).trans (outPut_tasks h)
theorem freeRows_tasks (t : Task) (d m0 n0 n k : Nat) (g : Got) : (freeRows t d m0 n0 n k g).s.tasks = g.s.tasks := by
  induction k with
  | zero => rfl
  | succ k ih =>
    rw [freeRows]
    split
    · next h => exact (outPut_tasks h).trans ih
    · exact ih
    · exact ih

-- Units (R193, R194, R201).

/-- What a unit's children have come to holds these tasks. -/
def KidRes.Tasks (ts : List Task) : KidRes → Prop
  | .got g => g.s.tasks = ts
  | .wait _ => True

theorem KidRes.tasks_ite {ts : List Task} {p : Prop} [Decidable p] {a b : KidRes} (ha : a.Tasks ts) (hb : b.Tasks ts) :
    (if p then a else b).Tasks ts := by
  split <;> assumption
theorem unitFault_tasks (f : ChildFault) (s : State) : (unitFault f s).Tasks s.tasks := rfl

theorem bandRun_tasks (away : Bool) (t : Task) (core r0 mc m0 m n0 n : Nat) (b : State) (first : Bool) (s : State) :
    (bandRun away t core r0 mc m0 m n0 n b first s).Tasks s.tasks := by
  unfold bandRun
  split
  · rfl
  · trivial
  · trivial
  · refine (putRows_tasks ..).trans ?_
    dsimp only
    split
    · rfl
    · exact (keepRows_tasks ..).trans ((portStream_tasks ..).trans (noteReads_tasks ..))
theorem runPass_tasks {f : Nat → Nat → State → KidRes} (hf : ∀ c p s, (f c p s).Tasks s.tasks) (cs : List (Nat × Nat)) (g : Got) :
    (runPass f cs g).Tasks g.s.tasks := by
  induction cs generalizing g with
  | nil => rfl
  | cons c cs ih =>
    rw [runPass]
    have hkid := hf c.1 c.2 g.s
    split
    · trivial
    · next r hr =>
      rw [hr] at hkid
      split
      · exact (congrArg (KidRes.Tasks · _) hkid).mp (ih _)
      · exact (congrArg (KidRes.Tasks · _) hkid).mp (ih _)
theorem runPasses_tasks {f : Nat → Nat → State → KidRes} (hf : ∀ c p s, (f c p s).Tasks s.tasks) (ps : List (List (Nat × Nat))) (g : Got) :
    (runPasses f ps g).Tasks g.s.tasks := by
  induction ps generalizing g with
  | nil => rfl
  | cons p ps ih =>
    rw [runPasses]
    have hpass := runPass_tasks hf p g
    split
    · rfl
    · split
      · trivial
      · next g' hg =>
        rw [hg] at hpass
        exact (congrArg (KidRes.Tasks · _) hpass).mp (ih g')
theorem withBinding_tasks (away : Bool) (t : Task) (core mc m : Nat) (pre : List Nat) (s : State) {k : State → KidRes}
    (hk : ∀ s, (k s).Tasks s.tasks) : (withBinding away t core mc m pre s k).Tasks s.tasks := by
  unfold withBinding
  split
  · exact hk s
  · split
    · trivial
    · rfl
    · next u hu =>
      have hkid := hk u
      split
      · trivial
      · next g hg =>
        rw [hg] at hkid
        have hpin : (unpinChild t core g.s).tasks = g.s.tasks := by unfold unpinChild; split <;> rfl
        exact hpin.trans (hkid.trans (bindChild_tasks hu))
theorem coreChild_tasks (away : Bool) (t : Task) (die pc lc m0 m n0 n : Nat) (skip : List Nat) (s : State) :
    (coreChild away t die pc lc m0 m n0 n skip s).Tasks s.tasks := by
  unfold coreChild
  dsimp only
  split
  · rfl
  · exact KidRes.tasks_ite trivial (withBinding_tasks _ _ _ _ _ _ _ fun s => runPasses_tasks (fun c p s => bandRun_tasks ..) _ _)
theorem quadChild_tasks (away : Bool) (t : Task) (die lq m0 m n0 n : Nat) (skip : List Nat) (s : State) :
    (quadChild away t die lq m0 m n0 n skip s).Tasks s.tasks := by
  unfold quadChild
  dsimp only
  split
  · rfl
  · exact runPasses_tasks (fun c p s => coreChild_tasks ..) _ _
theorem dieKid_tasks (away : Bool) (t : Task) (die m0 m n0 n c lq : Nat) (s : State) :
    (dieKid away t die m0 m n0 n c lq s).Tasks s.tasks := quadChild_tasks ..
theorem dieChild_tasks (away : Bool) (t : Task) (die m0 m n0 n : Nat) (s : State) :
    (dieChild away t die m0 m n0 n s).Tasks s.tasks := by
  unfold dieChild
  exact KidRes.tasks_ite (unitFault_tasks _ s) (KidRes.tasks_ite (unitFault_tasks _ s)
    (KidRes.tasks_ite trivial (runPasses_tasks (fun c p s => dieKid_tasks ..) _ _)))
theorem packChild_tasks (away : Bool) (t : Task) (m0 m n0 n : Nat) (s : State) : (packChild away t m0 m n0 n s).Tasks s.tasks := by
  unfold packChild
  exact KidRes.tasks_ite (unitFault_tasks _ s) (runPasses_tasks (fun c p s => dieChild_tasks ..) _ _)
theorem awayChild_tasks (t : Task) (m0 m n0 n : Nat) (s : State) : (awayChild t m0 m n0 n s).Tasks s.tasks := by
  unfold awayChild
  exact KidRes.tasks_ite (freeRows_tasks ..) (packChild_tasks ..)

/-- A direct child leaves the tasks as they are. -/
theorem runKid_tasks (t : Task) (c p : Nat) (s : State) : (runKid t c p s).Tasks s.tasks := by
  unfold runKid
  dsimp only
  split
  · exact KidRes.tasks_ite trivial (withBinding_tasks _ _ _ _ _ _ _ fun s => bandRun_tasks ..)
  · exact coreChild_tasks ..
  · exact coreChild_tasks ..
  · exact dieKid_tasks ..
  · exact dieChild_tasks ..
  · exact KidRes.tasks_ite (packChild_tasks ..) (KidRes.tasks_ite (packChild_tasks ..) (awayChild_tasks ..))

end Sys2Proof.Machine
end

section
/-! SUPPORT. The ends of the children of tile tasks in their parents (R75, R194, R200, R201). -/

namespace Sys2Proof.Machine

-- Completion (R200).

@[simp] theorem bumpDone_tasks (t : Task) (s : State) : (bumpDone t s).tasks = s.tasks := by
  have hdraw (b : Bool) (s : State) : (if b then draw s else (0, s)).2.tasks = s.tasks := by cases b <;> rfl
  have hside (line : Nat) (sg : Sig) (s : State) : (sideWrite s line sg).tasks = s.tasks := rfl
  unfold bumpDone
  dsimp only
  split
  · rfl
  · split
    · split <;> simp
    · split
      · simp
      · simp only [apply_ite State.tasks, taskReport_tasks, putLine_tasks, hside, hdraw, drainFor_tasks, ite_self]

/-- A task that leaves no trailer is gone once every child has completed. -/
theorem completeTask_tasks {t : Task} (s : State) (hovf : (taskTile t).ovf = false) :
    (completeTask t s).tasks = s.tasks.filter fun x => x.id != t.id := by
  simp only [completeTask, hovf, Bool.false_and, Bool.false_eq_true, if_false]
  rw [dropTask_tasks, bumpDone_tasks, onFull_tasks]

-- The end of a pass (R194, R201).

/-- Every child of a task's pass has completed or faulted. -/
def passOver (t : Task) : Bool := t.pass.all fun p => t.done.contains p.1 || t.flt.any fun f => f.1 == p.1

theorem lowestChild_isSome {fs : List (Nat × ChildFault)} (h : fs ≠ []) : ∃ f, lowestChild fs = some f := by
  obtain ⟨x, xs, rfl⟩ := List.exists_cons_of_ne_nil h
  unfold lowestChild lowestFault
  split
  · exact ⟨_, rfl⟩
  · exact ⟨_, rfl⟩

section
variable {t : Task} (s : State)

theorem settleTask_inPass (h : passOver t = false) : settleTask t s = setTask s t :=
  if_pos (show (!passOver t) = true by simp [h])

variable (h : passOver t = true)
include h

theorem settleTask_faults (hflt : t.flt ≠ []) :
    ∃ f, settleTask t s = failTask { t with pass := [] } f (setTask s { t with pass := [] }) := by
  obtain ⟨f, hf⟩ := lowestChild_isSome hflt
  refine ⟨f, (if_neg (show ¬(!passOver t) = true by simp [h])).trans ?_⟩
  rw [hf]
theorem settleTask_goesOn (hflt : t.flt = []) (hkids : kidsLeft (kidCount t) t.done ≠ []) :
    settleTask t s = setTask s { t with pass := [] } := by
  refine (if_neg (show ¬(!passOver t) = true by simp [h])).trans ?_
  rw [hflt]
  exact if_neg (show ¬(kidsLeft (kidCount t) t.done).isEmpty = true by simpa [List.isEmpty_iff] using hkids)
theorem settleTask_completes (hflt : t.flt = []) (hkids : kidsLeft (kidCount t) t.done = []) :
    settleTask t s = completeTask { t with pass := [] } (setTask s { t with pass := [] }) := by
  refine (if_neg (show ¬(!passOver t) = true by simp [h])).trans ?_
  rw [hflt]
  exact if_pos (show (kidsLeft (kidCount t) t.done).isEmpty = true by simpa [List.isEmpty_iff] using hkids)
end

theorem mem_setTask {s : State} {k t : Task} (hk : k ∈ s.tasks) (hid : t.id = k.id) : t ∈ (setTask s t).tasks := by
  rw [setTask_tasks]
  exact List.mem_map.mpr ⟨k, hk, if_pos hid.symm⟩

-- A pass of a running task (R194).

theorem runningTask_spec {s : State} {task : Nat} {k : Task} (h : runningTask s task = some k) :
    k ∈ s.tasks ∧ k.id = task ∧ k.st = .running := by
  have hk := List.find?_some h
  simp only [Bool.and_eq_true, beq_iff_eq] at hk
  exact ⟨List.mem_of_find?_eq_some h, hk⟩
/-- A task with its pass is the running task still. -/
theorem withPass_spec {s s1 : State} {k0 k : Task} (h : withPass k0 s = .ok (k, s1)) (hk : k0 ∈ s.tasks) :
    k ∈ s1.tasks ∧ k.id = k0.id ∧ k.st = k0.st := by
  unfold withPass at h
  split at h
  · split at h
    · cases h
    · cases h; exact ⟨mem_setTask hk rfl, rfl, rfl⟩
  · cases h; exact ⟨hk, rfl, rfl⟩

-- The end of a child (R75, R201).

theorem childEnd_complete {k : Task} (child : Nat) (g : Got) (hlevel : 2 ≤ k.unit.level) (hflt : g.flt = none) :
    childEnd k child g = settleTask { k with done := k.done ++ [child], sums := k.sums.add g.sums } g.s := by
  simp [childEnd, Nat.not_le.mpr hlevel, hflt]
theorem childEnd_fault {k : Task} (child : Nat) {g : Got} {f : ChildFault} (hlevel : 2 ≤ k.unit.level) (hflt : g.flt = some f) :
    childEnd k child g = settleTask { k with flt := k.flt ++ [(child, { f with path := child :: f.path })] } g.s := by
  simp [childEnd, Nat.not_le.mpr hlevel, hflt]

section
variable {task child p : Nat} {s s1 : State} {k0 k : Task} {g : Got}
  (hrun : runningTask s task = some k0) (hpass : withPass k0 s = .ok (k, s1)) (hunit : childUnit k child = some p)

include hrun hpass hunit in
theorem child_waits_turn (hahead : unitAhead s k p = true) :
    exec (.childComplete task child) s = .next s ∧ exec (.childFault task child) s = .next s := by
  have hcomplete : execChildComplete task child s = .next s := by simp [execChildComplete, hrun, hpass, hunit, hahead]
  have hfault : execChildFault task child s = .next s := by simp [execChildFault, hrun, hpass, hunit, hahead]
  exact ⟨hcomplete, hfault⟩

include hrun hpass hunit in
theorem childComplete_ends (hahead : unitAhead s k p = false) (hkid : runKid k child p s1 = .got g) (hflt : g.flt = none) :
    exec (.childComplete task child) s = taskTo s k (childEnd k child g) := by
  show execChildComplete task child s = _
  simp [execChildComplete, hrun, hpass, hunit, hahead, hkid, hflt]

include hrun hpass hunit in
theorem childFault_ends {f : ChildFault} (hahead : unitAhead s k p = false) (hkid : runKid k child p s1 = .got g) (hflt : g.flt = some f) :
    exec (.childFault task child) s = taskTo s k (childEnd k child g) := by
  show execChildFault task child s = _
  simp [execChildFault, hrun, hpass, hunit, hahead, hkid, hflt]

include hrun hpass in
/-- The parent is among the tasks that its child leaves. -/
theorem parent_mem (hkid : runKid k child p s1 = .got g) : k ∈ g.s.tasks ∧ k.id = task ∧ k.st = .running := by
  obtain ⟨hk0, hid0, hst0⟩ := runningTask_spec hrun
  obtain ⟨hk, hid, hst⟩ := withPass_spec hpass hk0
  have htasks := runKid_tasks k child p s1
  rw [hkid] at htasks
  exact ⟨(htasks : g.s.tasks = s1.tasks) ▸ hk, hid.trans hid0, hst.trans hst0⟩
end

/-- A task has ended, or goes on, in the state that `taskTo` gives. -/
def EndsWith (o : Out) (task : Nat) (f : Task → Prop) : Prop := ∃ t, o = .next t ∧ ∀ x ∈ t.tasks, x.id = task → f x

section
variable {task : Nat} {s s' : State} {k t : Task} (hk : k ∈ s'.tasks) (hid : k.id = task) (ht : t.id = k.id)
include hid ht

include hk in
theorem endsWith_setTask {u : Task} (hu : u.id = k.id) (hst : u.st ≠ .faulted) :
    EndsWith (taskTo s t (setTask s' u)) task fun x => x = u :=
  ⟨_, taskTo_goesOn hk ht hu (setTask_tasks s' u) hst, fun x hx hxid => by
    rw [setTask_tasks] at hx
    exact allAre_replaced _ (hu.trans hid) x hx hxid⟩
include hk in
theorem endsWith_failTask {u : Task} (f : ChildFault) (hu : u.id = k.id) (ha : AreaFilled s t (recFault t.bytes) 384) :
    EndsWith (taskTo s t (failTask u f (setTask s' u))) task fun x => x.st = .faulted := by
  obtain ⟨hto, hst⟩ := taskTo_failTask (s := s) (k := u) f (mem_setTask hk hu) (ht.trans hu.symm) rfl ha
  exact ⟨_, hto, fun x hx hxid => hst x hx (hxid.trans (hid.symm.trans hu.symm))⟩
theorem endsWith_completeTask {u : Task} (hu : u.id = k.id) (hovf : (taskTile u).ovf = false)
    (ha : recDone t.bytes ≠ 0 → AreaFilled s t (recDone t.bytes) 8) :
    EndsWith (taskTo s t (completeTask u (setTask s' u))) task fun _ => False := by
  have hgone : ∀ x ∈ (completeTask u (setTask s' u)).tasks, x.id ≠ u.id := fun x hx => by
    rw [completeTask_tasks _ hovf] at hx
    simpa using (List.mem_filter.mp hx).2
  exact ⟨_, taskTo_next (endNeed_done (List.find?_eq_none.mpr fun x hx => by simpa [ht, ← hu] using hgone x hx) ha),
    fun x hx hxid => hgone x hx (hxid.trans (hid.symm.trans hu.symm))⟩
end

/-- Settles O40: a running task is among the tasks that its child leaves, and `settleTask` decides by its pass, its faults and the
children left. -/
theorem childrenEndInTheirParents : Obligations.ChildrenEndInTheirParents := by
  unfold Obligations.ChildrenEndInTheirParents
  intro task child s k0 hrun
  refine ⟨fun f herr ha => ?unplaced, fun k s1 p hpass hunit hahead => child_waits_turn hrun hpass hunit hahead,
    fun k s1 p g hpass hunit hahead hkid hlevel => ⟨fun hflt => ?completed, fun f hflt => ?faulted⟩⟩
  case unplaced =>
    obtain ⟨hk0, hid, -⟩ := runningTask_spec hrun
    obtain ⟨hto, hst⟩ := taskTo_failTask (s := s) (t := k0) (u := k0) f hk0 rfl rfl ha
    have hexec : execChildFault task child s = taskTo s k0 (failTask k0 f s) := by simp [execChildFault, hrun, herr]
    exact ⟨_, hexec.trans hto, fun x hx hxid => hst x hx (hxid.trans hid.symm)⟩
  case completed =>
    obtain ⟨hk, hid, hst⟩ := parent_mem hrun hpass hkid
    have hends := (childComplete_ends hrun hpass hunit hahead hkid hflt).trans
      (congrArg (taskTo s k) (childEnd_complete child g hlevel hflt))
    have hrunning : k.st ≠ .faulted := by rw [hst]; nofun
    refine ⟨fun hover => ?_, fun hover hnone hkids => ?_, fun hover hnone hkids hovf ha => ?_, fun hover hsome ha => ?_⟩
    · show EndsWith (exec _ s) task _
      rw [hends, settleTask_inPass _ hover]
      exact endsWith_setTask hk hid rfl rfl hrunning
    · show EndsWith (exec _ s) task _
      rw [hends, settleTask_goesOn _ hover hnone hkids]
      exact endsWith_setTask hk hid rfl rfl hrunning
    · show EndsWith (exec _ s) task _
      rw [hends, settleTask_completes _ hover hnone hkids]
      exact endsWith_completeTask hid rfl rfl hovf ha
    · obtain ⟨f, hf⟩ := settleTask_faults g.s hover hsome
      show EndsWith (exec _ s) task _
      rw [hends, hf]
      exact endsWith_failTask hk hid rfl f rfl ha
  case faulted =>
    obtain ⟨hk, hid, hst⟩ := parent_mem hrun hpass hkid
    have hends := (childFault_ends hrun hpass hunit hahead hkid hflt).trans
      (congrArg (taskTo s k) (childEnd_fault child hlevel hflt))
    have hrunning : k.st ≠ .faulted := by rw [hst]; nofun
    refine ⟨fun hover => ?_, fun hover ha => ?_⟩
    · show EndsWith (exec _ s) task _
      rw [hends, settleTask_inPass _ hover]
      exact endsWith_setTask hk hid rfl rfl hrunning
    · obtain ⟨f', hf'⟩ := settleTask_faults g.s hover (by simp)
      show EndsWith (exec _ s) task _
      rw [hends, hf']
      exact endsWith_failTask hk hid rfl f' rfl ha

end Sys2Proof.Machine
end

section
/-! SUPPORT. Loop registers, the mirror of XSTAGEP, and the words that write, start and abandon the stream loop (R81, R82, R84, R86,
R88, R143, R347). -/

namespace Sys2Proof.Machine

-- Bits and fields of XLOOP (R4, R84).

theorem natField_mul_le (x lo n : Nat) : natField x lo n * 2 ^ lo ≤ x :=
  (Nat.mul_le_mul_right _ (Nat.mod_le _ _)).trans (Nat.div_mul_le_self x _)

/-- A bit set to what it is. -/
theorem setBit_of_bitAt {w : Word} {i : Nat} {b : Bool} (h : bitAt w i = b) : setBit w i b = w := by
  have hbit : natField w.toNat i 1 = bitNat b := (bitAt_eq_iff w i b).1 h
  have hlt : bitNat b % 2 ^ 1 = bitNat b := Nat.mod_eq_of_lt (Nat.lt_succ_of_le (bitNat_le_one b))
  rw [setBit, setFld, hlt, hbit, Nat.sub_add_cancel (hbit ▸ natField_mul_le ..), BitVec.ofNat_toNat, BitVec.setWidth_eq]

/-- The low 24 bits hold what software writes into XLOOP. -/
theorem fld_loopWord (v : Word) {lo n : Nat} (h : lo + n ≤ 24) : fld (maskW v 0xFFFFFF) lo n = fld v lo n := by
  refine natField_congr fun i _ hi => ?_
  have hmask : (BitVec.ofNat 64 0xFFFFFF).toNat = 2 ^ 24 - 1 := rfl
  rw [maskW, BitVec.toNat_and, hmask, Nat.testBit_and, Nat.testBit_two_pow_sub_one, decide_eq_true (by omega), Bool.and_true]

theorem fld_loopWord_high (v : Word) {lo n : Nat} (h : 24 ≤ lo) : fld (maskW v 0xFFFFFF) lo n = 0 := by
  refine Nat.eq_of_testBit_eq fun i => ?_
  have hmask : (BitVec.ofNat 64 0xFFFFFF).toNat = 2 ^ 24 - 1 := rfl
  have hout : ¬ lo + i < 24 := by omega
  rw [testBit_fld, maskW, BitVec.toNat_and, hmask, Nat.testBit_and, Nat.testBit_two_pow_sub_one, decide_eq_false hout,
    Bool.and_false, Bool.and_false, Nat.zero_testBit]

-- Loop registers (R81, R83).

theorem lget_lput (c : Ctx) (seq i : Nat) (v : Word) (j : Nat) : lget (lput c seq i v) seq j = if j = i then v else lget c seq j := by
  simp only [lget, lput, smGetD_smSet, lkey, Nat.add_left_cancel_iff]

/-- A nest's tuple leaves the index registers of the dimensions before it. -/
theorem lget_putTuple_before {seq base j d : Nat} (c : Ctx) (is : List Nat) (h : j < d) :
    lget (putTuple c seq base d is) seq (base + 2 * j + 1) = lget c seq (base + 2 * j + 1) := by
  induction is generalizing c d with
  | nil => rfl
  | cons i is ih => rw [putTuple, ih _ (Nat.lt_succ_of_lt h), lget_lput, if_neg (by omega)]

/-- The index registers hold the tuple (R83). -/
theorem lget_putTuple {seq base j d v : Nat} (c : Ctx) {is : List Nat} (h : is[j]? = some v) :
    lget (putTuple c seq base d is) seq (base + 2 * (d + j) + 1) = natW v := by
  induction is generalizing c d j with
  | nil => cases h
  | cons i is ih =>
    cases j with
    | zero =>
      obtain rfl : i = v := Option.some.inj h
      simp only [Nat.add_zero]
      rw [putTuple, lget_putTuple_before _ _ (Nat.lt_succ_self d), lget_lput, if_pos rfl]
    | succ j => rw [putTuple, show d + (j + 1) = d + 1 + j by omega]; exact ih _ h

theorem loopClean_eq (s : State) (id seq r : Nat) : loopClean s id seq r = { s with poison := (loopClean s id seq r).poison } := by
  unfold loopClean
  split
  · rfl
  · exact setPoison_eq ..

theorem me_loopClean (s : State) (id seq r : Nat) : me (loopClean s id seq r) = me s := by rw [loopClean_eq]; rfl

theorem touched_loopClean (s : State) (id seq r : Nat) : Touched s (loopClean s id seq r) := by
  rw [loopClean_eq]; exact ⟨rfl, fun _ _ => rfl⟩

/-- A write of the issuing context and the good data of a loop register do not meet. -/
theorem loopClean_onMe (s : State) (f : Ctx → Ctx) (id seq r : Nat) :
    loopClean (onMe s f) id seq r = onMe (loopClean s id seq r) f := by
  have hbad : (loopClean (onMe s f) id seq r).poison = (loopClean s id seq r).poison := by
    simp only [loopClean, setPoison, apply_ite State.poison]
    rfl
  rw [loopClean_eq (onMe s f), hbad, loopClean_eq s]
  rfl

theorem loopBad_iff {s : State} {id seq : Nat} {rs : List Nat} :
    loopBad s id seq rs = true ↔ ∃ r ∈ rs, isPoison s (.loopReg (clusterOf id) (lkey seq r)) = true := by
  rw [loopBad, Bool.and_eq_true, List.any_eq_true]
  refine and_iff_right_of_imp fun ⟨r, _, h⟩ => ?_
  cases hp : s.poison with
  | nil => rw [isPoison, hp] at h; cases h
  | cons => rfl

/-- R82: LSET of a register that no active nest counts in. -/
theorem lset_retires (e : Bool) {a : SReg} {q : BitVec 3} {l : BitVec 4} {s : State} (hfull : isLight s.cur = false)
    (hgood : srcBad s a = false) (hidx : isIndex s (me s) q.toNat l.toNat = false) :
    Retires (.lset e a q l) s (loopClean s s.cur q.toNat l.toNat) (lput (me s) q.toNat l.toNat (rs s a)) := by
  have hexec : exec (.lset e a q l) s = .next (retire e 4 (onMe (loopClean s s.cur q.toNat l.toNat) fun c =>
      lput c q.toNat l.toNat (sread c a))) := by
    rw [exec_lset, execLset, fullOnly_full hfull, withSrc_one_good hgood, hidx, if_neg Bool.false_ne_true, loopClean_onMe]
  obtain ⟨hown, hplace⟩ := (touched_onMe (loopClean s s.cur q.toNat l.toNat) fun c => lput c q.toNat l.toNat (sread c a)).retire e 4
  rw [me_onMe, me_loopClean] at hplace
  exact ⟨_, hexec, hown, hplace, by rw [retire_poison]; rfl⟩

-- The mirror of XSTAGEP (R88).

theorem lget_mirror (c : Ctx) (seq i : Nat) : lget (mirror c) seq i = lget c seq i := by
  obtain ⟨rs, h⟩ := mirror_eq c; rw [h]; rfl

/-- The low byte of s(PREG) shows the stage predicates. -/
theorem fld_sread_mirror {c : Ctx} (h : fld c.xloop 18 6 ≠ 0) :
    fld (sread (mirror c) (BitVec.ofNat 6 (fld c.xloop 18 6))) 0 8 = c.xstagep.toNat % 2 ^ 8 := by
  have hlt : fld c.xloop 18 6 < 2 ^ 6 := natField_lt ..
  have hreg : BitVec.ofNat 6 (fld c.xloop 18 6) ≠ 0 := fun h0 => h (by
    have := congrArg BitVec.toNat h0
    rwa [BitVec.toNat_ofNat, Nat.mod_eq_of_lt hlt] at this)
  rw [mirror, if_neg h, sread_swrite, if_neg hreg, if_pos rfl, fld_setFld_same _ _ (by decide)]

-- The start of the loop (R86, R88).

/-- Trip counts as the loop's start reads them. -/
def startTrips (v : Word) (c : Ctx) : List Nat := (rangeFrom 0 (loopDims v)).map fun k => (lget c 4 (loopBase v + 2 * k)).toNat

theorem zero_mem_startTrips {v : Word} {c : Ctx} :
    0 ∈ startTrips v c ↔ ∃ k, k < loopDims v ∧ lget c 4 (loopBase v + 2 * k) = 0 := by
  simp only [startTrips, List.mem_map, mem_rangeFrom, Nat.zero_le, true_and, Nat.zero_add, ← BitVec.toNat_inj]
  rfl

/-- XLOOP of a loop that has started: software's fields, active and not draining (R84). -/
def startedXloop (v : Word) : Word := setBit (maskW v 0xFFFFFF) 24 true

theorem startedXloop_fields (v : Word) : bitAt (startedXloop v) 24 = true ∧ bitAt (startedXloop v) 25 = false ∧
    ∀ lo n, lo + n ≤ 24 → fld (startedXloop v) lo n = fld v lo n := by
  refine ⟨bitAt_setBit_same _ true (by decide), ?_, fun lo n h => ?_⟩
  · rw [startedXloop, bitAt_setBit_other _ true (by decide) (by decide), bitAt_maskW v (by decide)]
    exact Bool.and_false _
  · rw [startedXloop, fld_setBit_other _ true (by omega) (Or.inr h), fld_loopWord v h]

/-- The fields of a loop that has started, but for its index registers and its mirror. -/
def startedLoop (v start : Word) (c : Ctx) : Ctx :=
  { c with xloop := startedXloop v, bodyAt := start, bodyTrips := startTrips v c, bodyBuf := [], bodyBad := [],
           xlpos := 1, xstagep := 1, loopNo := c.loopNo + 1, loopIdle := false, drainCut := false }

theorem startLoop_eq (v start : Word) (c : Ctx) : startLoop v start c =
    if 0 ∈ startTrips v c then { xwriteCtx 0x20 v c with jump := some (start + natW (4 * (fld v 0 8 + 1))) }
    else mirror (putTuple (startedLoop v start c) 4 (loopBase v) 0 ((startTrips v c).map fun _ => 0)) := by
  have hdims : loopDims (maskW v 0xFFFFFF) = loopDims v := congrArg (· + 1) (fld_loopWord v (by decide))
  have hbase : loopBase (maskW v 0xFFFFFF) = loopBase v := fld_loopWord v (by decide)
  unfold startLoop
  dsimp only
  rw [hdims, hbase, fld_loopWord v (by decide)]
  simp only [List.contains_iff_mem]
  rfl

/-- The state in which the word that starts a loop retires. -/
def loopStarted (v : Word) (s : State) : State :=
  xclean (onMe (((rangeFrom 0 (loopDims v)).map fun d => loopBase v + 2 * d + 1).foldl (fun s r => loopClean s s.cur 4 r) s)
    (startLoop v ((me s).pc + 4))) 0x20

theorem xclean_eq (s : State) (x : Nat) : xclean s x = { s with poison := (xclean s x).poison } := by
  unfold xclean
  split
  · rfl
  · exact setPoison_eq ..

theorem foldl_loopClean_eq (rs : List Nat) (s : State) :
    ∃ p, rs.foldl (fun s r => loopClean s s.cur 4 r) s = { s with poison := p } := by
  induction rs generalizing s with
  | nil => exact ⟨s.poison, rfl⟩
  | cons r rs ih =>
    obtain ⟨p, h⟩ := ih (loopClean s s.cur 4 r)
    exact ⟨p, by rw [List.foldl_cons, h, loopClean_eq]⟩

/-- The start of a loop changes its own context, which becomes what `startLoop` says, and marks of poison. -/
theorem loopStarted_spec (v : Word) (s : State) :
    Touched s (loopStarted v s) ∧ me (loopStarted v s) = startLoop v ((me s).pc + 4) (me s) := by
  obtain ⟨p, hp⟩ := foldl_loopClean_eq ((rangeFrom 0 (loopDims v)).map fun d => loopBase v + 2 * d + 1) s
  rw [loopStarted, hp, xclean_eq]
  exact ⟨⟨rfl, fun id h => (touched_onMe s _).2 id h⟩, me_onMe s _⟩

section
variable {i : Instr} {e : Bool} {d : SReg} {v : Word} {s : State}

/-- An XWR to XLOOP of a full context starts or abandons the loop, by its operand's GO (R86, R143). -/
theorem xwrite_xloop (hclean : s.OwnClean) (hfull : isLight s.cur = false) {v : State → Word} :
    xwrite i e d 0x20 v s = if bitAt (v s) 24 = true then loopStart i e (v s) s else loopAbandon e (v s) s := by
  have hok : xwriteDenied s 0x20 (v s) = false := by simp [xwriteDenied, readOnlyReg]
  rw [xwrite, hfull, Bool.and_false, if_neg Bool.false_ne_true, withSrc_one_good (srcBad_of_ownClean hclean d), hok]
  simp [readOnlyReg]

/-- A start that passes R86's checks traps UCE at a poisoned trip count, and otherwise starts its loop (R347). -/
theorem loopStart_checked (hidle : loopActive (me s) = false) (hdims : loopDims v ≤ 6) (hbase : loopBase v + 2 * loopDims v ≤ 16)
    (hbody : bodyScan s s.cur (fld v 0 8 + 1) ((me s).pc + 4) (fld v 0 8 + 1) = .ok) :
    loopStart i true v s =
      if loopBad s s.cur 4 ((rangeFrom 0 (loopDims v)).map fun k => loopBase v + 2 * k + 0) = true then trapNext { cause := 6 } s
      else .next (retire true 4 (loopStarted v s)) := by
  have hpass : (!true || loopActive (me s) || decide (5 < fld v 8 3) || decide (16 < loopBase v + 2 * loopDims v)) = false := by
    rw [hidle, decide_eq_false (by simp only [loopDims] at hdims; omega), decide_eq_false (by omega)]; rfl
  unfold loopStart
  dsimp only
  rw [hpass, if_neg Bool.false_ne_true, hbody]
  rfl

/-- XLOOP after a word that abandons the loop: its operand's fields, no active loop, and DRN as it was (R84, R86; log entry 99). -/
theorem xloopWrite_fields (old v : Word) : fld (xloopWrite old v) 0 24 = fld v 0 24 ∧ fld (xloopWrite old v) 24 1 = 0 ∧
    bitAt (xloopWrite old v) 25 = bitAt old 25 ∧ fld (xloopWrite old v) 26 38 = 0 := by
  unfold xloopWrite
  refine ⟨?_, ?_, bitAt_setBit_same _ _ (by decide), ?_⟩
  · rw [fld_setBit_other _ _ (by decide) (by decide), fld_loopWord v (by decide)]
  · rw [fld_setBit_other _ _ (by decide) (by decide), fld_loopWord_high v (by decide)]
  · rw [fld_setBit_other _ _ (by decide) (by decide), fld_loopWord_high v (by decide)]

/-- XLOOP written with GO = 0: the fields, and no active loop. -/
theorem loopAbandon_retires (hclean : s.OwnClean) :
    ∃ t, loopAbandon e v s = .next t ∧ PassedOver (xwriteCtx 0x20 v (me s)) s t := by
  have hgood : isPoison (onMe s (xwriteCtx 0x20 v)) (.xreg (onMe s (xwriteCtx 0x20 v)).cur 0x20) = false := (hclean 0x20).2
  obtain ⟨hown, hplace⟩ := (touched_onMe s (xwriteCtx 0x20 v)).retire e 4
  rw [me_onMe] at hplace
  exact ⟨_, by rw [loopAbandon, xclean_of_good hgood], hown, hplace, by simp⟩

end

/-- The loop's fields do not change with a context's place. -/
theorem Ctx.PlaceOnly.loop {c c' : Ctx} (h : Ctx.PlaceOnly c c') :
    c'.xloop = c.xloop ∧ c'.xlpos = c.xlpos ∧ c'.xstagep = c.xstagep ∧
    c'.bodyAt = c.bodyAt ∧ c'.bodyBuf = c.bodyBuf ∧ c'.bodyTrips = c.bodyTrips ∧ c'.l = c.l := by
  rw [h]; exact ⟨rfl, rfl, rfl, rfl, rfl, rfl, rfl⟩

/-- A loop whose trip counts are all positive starts at its first tuple, its mirror written (R88). -/
theorem startLoop_runs {v start : Word} {c : Ctx} (htrips : 0 ∉ startTrips v c) :
    (∃ l rs, startLoop v start c = { startedLoop v start c with l := l, s := rs }) ∧
      (startLoop v start c).pc = c.pc ∧ (startLoop v start c).jump = c.jump ∧
      (∀ k, k < loopDims v → lget (startLoop v start c) 4 (loopBase v + 2 * k + 1) = 0) ∧
      (fld v 18 6 ≠ 0 → fld (sread (startLoop v start c) (BitVec.ofNat 6 (fld v 18 6))) 0 8 = 1) := by
  obtain ⟨l, hl⟩ := putTuple_eq (startedLoop v start c) 4 (loopBase v) 0 ((startTrips v c).map fun _ => 0)
  obtain ⟨rs, hm⟩ := mirror_eq { startedLoop v start c with l := l }
  have hstart : startLoop v start c = { startedLoop v start c with l := l, s := rs } := by rw [startLoop_eq, if_neg htrips, hl, hm]
  have hplace : ({ startedLoop v start c with l := l, s := rs } : Ctx).pc = c.pc ∧
      ({ startedLoop v start c with l := l, s := rs } : Ctx).jump = c.jump := by cases c; exact ⟨rfl, rfl⟩
  refine ⟨⟨l, rs, hstart⟩, (congrArg Ctx.pc hstart).trans hplace.1, (congrArg Ctx.jump hstart).trans hplace.2,
    fun k hk => ?_, fun h => ?_⟩
  · have hget : ((startTrips v c).map fun _ => 0)[k]? = some 0 := by
      rw [List.getElem?_map, startTrips, List.getElem?_map, rangeFrom_getElem?, if_pos hk]; rfl
    rw [startLoop_eq, if_neg htrips, lget_mirror, ← Nat.zero_add k, lget_putTuple _ hget]; rfl
  · have hfld := (startedXloop_fields v).2.2 18 6 (by decide)
    rw [← hfld] at h ⊢
    rw [startLoop_eq, if_neg htrips, hl]
    exact fld_sread_mirror (c := { startedLoop v start c with l := l }) h

/-- The word that starts such a loop goes on at the body (R88). -/
theorem retire_loopStarted {v : Word} {s : State} (hjump : (me s).jump = none) (htrips : 0 ∉ startTrips v (me s)) :
    let n := me (retire true 4 (loopStarted v s))
    n.pc = (me s).pc + 4 ∧ n.bodyAt = (me s).pc + 4 ∧ n.xloop = startedXloop v ∧ n.xlpos = 1 ∧ n.xstagep = 1 ∧
      n.bodyBuf = [] ∧ n.bodyTrips = startTrips v (me s) ∧ (∀ k, k < loopDims v → lget n 4 (loopBase v + 2 * k + 1) = 0) ∧
      (fld v 18 6 ≠ 0 → fld (sread n (BitVec.ofNat 6 (fld v 18 6))) 0 8 = 1) := by
  intro n
  obtain ⟨-, hme⟩ := loopStarted_spec v s
  obtain ⟨⟨l, rs, hstart⟩, hat, hj, hindex, hpreg⟩ := startLoop_runs (start := (me s).pc + 4) htrips
  rw [← hme] at hstart hat hj hindex hpreg
  have hplace : Ctx.PlaceOnly (me (loopStarted v s)) n := by
    rw [show n = _ from me_retire (loopStarted v s) true 4]; exact retired_place true 4 _
  obtain ⟨hx, hpos, hstage, hbody, hbuf, hbodyTrips, hregs⟩ := hplace.loop
  refine ⟨?_, hbody.trans ?_, hx.trans ?_, hpos.trans ?_, hstage.trans ?_, hbuf.trans ?_, hbodyTrips.trans ?_,
    fun k hk => ?_, fun h => ?_⟩
  · rw [show n = _ from me_retire (loopStarted v s) true 4, countWord_pc, retireCtx_pc, if_pos rfl, hj, hat, hjump]; rfl
  · rw [hstart, startedLoop]
  · rw [hstart, startedLoop]
  · rw [hstart, startedLoop]
  · rw [hstart, startedLoop]
  · rw [hstart, startedLoop]
  · rw [hstart, startedLoop]
  · rw [lget, hregs]; exact hindex k hk
  · rw [sread_place hplace]; exact hpreg h

/-- A loop with a trip count of 0 is passed over (R88). -/
theorem retire_loopPassed {v : Word} {s : State} (htrips : 0 ∈ startTrips v (me s)) :
    bitAt (me (retire true 4 (loopStarted v s))).xloop 24 = false ∧
      (me (retire true 4 (loopStarted v s))).pc = (me s).pc + 4 + natW (4 * (fld v 0 8 + 1)) := by
  obtain ⟨-, hme⟩ := loopStarted_spec v s
  rw [startLoop_eq, if_pos htrips] at hme
  have hplace : Ctx.PlaceOnly (me (loopStarted v s)) (me (retire true 4 (loopStarted v s))) := by
    rw [me_retire]; exact retired_place true 4 _
  refine ⟨?_, ?_⟩
  · rw [hplace, hme, bitAt_eq_iff]; exact (xloopWrite_fields (me s).xloop v).2.1
  · rw [me_retire, countWord_pc, retireCtx_pc, if_pos rfl, hme]; rfl

/-- Settles O6: LSET by the register it names, the start by the loop's trip counts, the abandoning by what a write of XLOOP keeps. -/
theorem loopsStartAndAreAbandoned : Obligations.LoopsStartAndAreAbandoned := by
  refine ⟨?lset, ?start, ?abandon⟩
  case lset =>
    intro e a q l s hfull hgood
    split
    · next hidx =>
      exact ⟨_, by rw [exec_lset, execLset, fullOnly_full hfull, withSrc_one_good hgood, if_pos hidx], retire_passed s e 4⟩
    · next hidx =>
      exact ⟨_, lset_retires e hfull hgood (Bool.eq_false_iff.2 hidx), fun k => smGetD_smSet ..⟩
  case start =>
    intro d s hclean hfull hjump c v start base dims preg hidle hdims hbase hbody i hi bad
    have hexec : exec i s = loopStart (.xwr true d 0x20) true v s := by
      have hgo : bitAt v 24 = true := bitAt_setBit_same _ true (by decide)
      rcases hi with rfl | ⟨rfl, hbit⟩
      · rw [exec_xloopStart, execXloopStart, xwrite_xloop hclean hfull, if_pos hgo]
      · rw [exec_xwr, execXwr, show v = rs s d from setBit_of_bitAt hbit]
        exact (xwrite_xloop hclean hfull).trans (if_pos hbit)
    rw [loopStart_checked hidle hdims hbase hbody] at hexec
    have hbad : loopBad s s.cur 4 ((rangeFrom 0 (loopDims v)).map fun k => loopBase v + 2 * k + 0) = true ↔
        ∃ k, k < dims ∧ bad k = true := by
      have hkey : ∀ k, lkey 4 (loopBase v + 2 * k + 0) = 64 + base + 2 * k := fun k => by
        simp only [lkey, loopBase, base]; omega
      rw [loopBad_iff]
      simp only [List.mem_map, mem_rangeFrom, Nat.zero_le, true_and, Nat.zero_add, exists_exists_and_eq_and, hkey]
      rfl
    refine ⟨fun hany => ?_, fun hnone => ?_⟩
    · rw [if_pos (hbad.2 hany)] at hexec; exact hexec
    · rw [if_neg fun h => by obtain ⟨k, hk, hb⟩ := hbad.1 h; exact Bool.false_ne_true ((hnone k hk).symm.trans hb)] at hexec
      refine ⟨_, hexec, ((loopStarted_spec v s).1.retire true 4).1, ?_⟩
      split
      · next hzero => exact retire_loopPassed (zero_mem_startTrips.2 hzero)
      · next hzero =>
        obtain ⟨hpc, hbodyAt, hx, hpos, hstage, hbuf, htrips, hindex, hpreg⟩ :=
          retire_loopStarted hjump fun h => hzero (zero_mem_startTrips.1 h)
        obtain ⟨hact, hdrn, hfld⟩ := startedXloop_fields v
        rw [hpc, hbodyAt, hx, hpos, hstage, hbuf, htrips]
        exact ⟨rfl, rfl, hact, hdrn, hfld 0 24 (by decide), rfl, rfl, rfl, rfl, hindex, hpreg⟩
  case abandon =>
    intro e d s hclean hfull i hi
    obtain ⟨v, hv, hexec⟩ : ∃ v : Word, fld v 0 24 = fld (rs s d) 0 24 ∧ exec i s = loopAbandon e v s := by
      rcases hi with rfl | ⟨rfl, hbit⟩
      · refine ⟨setBit (rs s d) 24 false, fld_setBit_other _ _ (by decide) (by decide), ?_⟩
        rw [exec_xloopAbandon, execXloopAbandon, xwrite_xloop hclean hfull, bitAt_setBit_same _ _ (by decide),
          if_neg Bool.false_ne_true]
      · exact ⟨rs s d, rfl, (xwrite_xloop hclean hfull).trans (if_neg (by rw [hbit]; exact Bool.false_ne_true))⟩
    obtain ⟨t, ht, hpassed⟩ := loopAbandon_retires (e := e) (v := v) hclean
    obtain ⟨hfields, hgo, hdrn, hrest⟩ := xloopWrite_fields (me s).xloop v
    exact ⟨xloopWrite (me s).xloop v, ⟨t, hexec.trans ht, hpassed⟩, hfields.trans hv, hgo, hdrn, hrest⟩

end Sys2Proof.Machine
end

section
/-! SUPPORT. The state of an access engine: what an update of it reads back, what the ends of its numbers and its halts leave of its
context (R91, R95 to R98). -/

namespace Sys2Proof.Machine

variable (c : Ctx) (n : Nat)

@[simp] theorem engOf_setEng (e : Engine) (k : Nat) : engOf (setEng c n e) k = if k = n then e else engOf c k := by
  simp only [engOf, setEng, smGetD, smGet_smPut]; by_cases h : k = n <;> simp [h]
@[simp] theorem setEng_q (e : Engine) : (setEng c n e).q = c.q := rfl
@[simp] theorem setEng_l (e : Engine) : (setEng c n e).l = c.l := rfl

@[simp] theorem nextCmd_q : (nextCmd n c).q = c.q := rfl
@[simp] theorem nextCmd_l : (nextCmd n c).l = c.l := rfl
@[simp] theorem engOf_nextCmd : engOf (nextCmd n c) n = { engOf c n with cmd := (engOf c n).cmd + 8 } := by simp [nextCmd]

@[simp] theorem engOf_setBlocks (q g : Nat) (bs : List QBlock) (k : Nat) : engOf (setBlocks c q g bs) k = engOf c k := rfl
@[simp] theorem engOf_lput (seq i : Nat) (v : Word) (k : Nat) : engOf (lput c seq i v) k = engOf c k := rfl
@[simp] theorem lput_q (seq i : Nat) (v : Word) : (lput c seq i v).q = c.q := rfl

/-- An engine that halts at its command keeps its queues and its loop registers (R92, R98). -/
theorem haltCmd_spec (cause : Nat) (va : Word) : (engOf (haltCmd n cause va c) n).st = .halted ∧
    (engOf (haltCmd n cause va c) n).cause = cause ∧ (engOf (haltCmd n cause va c) n).va = va ∧
    (haltCmd n cause va c).q = c.q ∧ (haltCmd n cause va c).l = c.l := by
  simp [haltCmd]

/-- Numbers that complete change the counters alone. -/
theorem endNums_eq (ks : List (Option Nat)) : ∃ ts, endNums c n ks = { c with tc := ts } := by
  unfold endNums
  induction ks.filterMap id generalizing c with
  | nil => exact ⟨c.tc, rfl⟩
  | cons k ks ih => obtain ⟨ts, h⟩ := ih (tcFinish c (1 + n) k); exact ⟨ts, h⟩

/-- Dropping a halt ends its numbers. -/
theorem dropHalt_eq : ∃ ts, dropHalt c n =
    setEng { c with tc := ts } n { engOf c n with haltNum := none, redoNum := none, spare := none } := by
  obtain ⟨ts, h⟩ := endNums_eq c n [(engOf c n).haltNum, (engOf c n).redoNum, (engOf c n).spare]
  exact ⟨ts, by rw [dropHalt, h]⟩

theorem dropSpare_eq : ∃ ts eng, dropSpare c n = { c with tc := ts, eng := eng } := by
  unfold dropSpare
  dsimp only
  split
  · obtain ⟨ts, h⟩ := endNums_eq c n [(engOf c n).spare]
    exact ⟨ts, _, by rw [h]; rfl⟩
  · exact ⟨c.tc, c.eng, rfl⟩

/-- An engine that AGO starts is bound to no queue, and its halt is over: counters, its own record and its queues change (R96). -/
theorem unbind_dropHalt_eq : ∃ ts eng, unbind (dropHalt c n) n =
    { c with tc := ts, eng := eng, q := c.q.filter fun e => match e.2 with | .data g _ => g != n | _ => true } ∧
      ∀ k, k ≠ n → smGetD eng k {} = engOf c k := by
  obtain ⟨ts, h⟩ := dropHalt_eq c n
  refine ⟨ts, (dropHalt c n).eng, by rw [h]; rfl, fun k hk => ?_⟩
  have hother := engOf_setEng { c with tc := ts } n { engOf c n with haltNum := none, redoNum := none, spare := none } k
  rw [if_neg hk, ← h] at hother
  exact hother

theorem Ctx.PlaceOnly.eng {c c' : Ctx} (h : Ctx.PlaceOnly c c') : c'.eng = c.eng := by rw [h]

end Sys2Proof.Machine
end

section
/-! SUPPORT. AGO, and the commands of an access engine (R91 to R93, R95 to R97). -/

namespace Sys2Proof.Machine

-- AGO (R96).

/-- An engine just started stands at its program, with its context's view and tenant; the other engines are as they were (R96, R262). -/
theorem startEng_spec (n : Nat) (at_ : Word) (s : State) :
    let s1 := startEng s.cur n at_ s
    (∀ id, id ≠ s.cur → getCtx s1 id = getCtx s id) ∧ s1.mem = s.mem ∧
      engOf (me s1) n = { st := .running, cmd := BitVec.ofNat 64 (at_.toNat / 8 * 8), view := fld (me s).xhyp 0 10,
                          tenant := (me s).tenant.toNat } ∧
      (∀ k, k ≠ n → engOf (me s1) k = engOf (me s) k) ∧ ∀ q bs, (q, Handle.data n bs) ∉ (me s1).q := by
  obtain ⟨ts, eng, h, hother⟩ := unbind_dropHalt_eq (me s) n
  have hme : me (startEng s.cur n at_ s) = setEng (unbind (dropHalt (me s) n) n) n
      { st := .running, cmd := BitVec.ofNat 64 (at_.toNat / 8 * 8), view := fld (me s).xhyp 0 10, tenant := (me s).tenant.toNat } := by
    rw [show startEng s.cur n at_ s = onMe s _ from rfl, me_onMe, h]; rfl
  refine ⟨fun id hid => (touched_onMe s _).2 id hid, rfl, ?_, fun k hk => ?_, fun q bs hmem => ?_⟩
  · rw [hme, engOf_setEng, if_pos rfl]
  · rw [hme, engOf_setEng, if_neg hk, h]; exact hother k hk
  · rw [hme, setEng_q, h] at hmem
    have hne := (List.mem_filter.1 hmem).2
    simp at hne

theorem execAgo_starts (e : Bool) {d : SReg} {g : BitVec 2} {s : State} (hfull : isLight s.cur = false) (hgood : srcBad s d = false)
    (hst : (engOf (me s) g.toNat).st = .idle ∨ (engOf (me s) g.toNat).st = .halted) :
    exec (.ago e d false g) s =
      .next (retire e 4 (leadGens (clusterOf s.cur) g.toNat 16 (startEng s.cur g.toNat (rs s d) s))) := by
  have hfree : ¬((engOf (me s) g.toNat).st = .running ∨ (engOf (me s) g.toNat).st = .waiting) := by
    rcases hst with h | h <;> rw [h] <;> decide
  rw [exec_ago, execAgo, fullOnly_full hfull, if_neg Bool.false_ne_true, withSrc_one_good hgood]
  exact if_neg hfree

/-- AGO.R: a halted engine runs again from where it stands, any other stays as it is. -/
theorem execAgo_resumes (e : Bool) {g : BitVec 2} {s : State} (hfull : isLight s.cur = false) :
    ∃ t, exec (.ago e 0 true g) s = .next t ∧ s.OwnOnly t ∧
      engOf (me t) g.toNat =
        if (engOf (me s) g.toNat).st = .halted then
          { engOf (me s) g.toNat with st := .running, cause := 0, view := viewOf (me s), tenant := (me s).tenant.toNat }
        else engOf (me s) g.toNat := by
  obtain ⟨hown, hplace⟩ := (touched_onMe s fun c =>
    let x := engOf c g.toNat
    if x.st = .halted then setEng c g.toNat { x with st := .running, cause := 0, view := viewOf c, tenant := c.tenant.toNat }
    else c).retire e 4
  refine ⟨_, by rw [exec_ago, execAgo, fullOnly_full hfull, if_pos rfl]; rfl, hown, ?_⟩
  rw [engOf, hplace.eng, me_onMe, ← engOf]
  dsimp only
  split
  · rw [engOf_setEng, if_pos rfl]
  · rfl

-- The commands (R95).

section
variable {cl n : Nat} {s : State} (hrun : (engOf (getCtx s (8 * cl)) n).st = .running ∨ (engOf (getCtx s (8 * cl)) n).st = .waiting)
include hrun

theorem onEng_runs (f : Ctx → Ctx) : onEng cl n s f = .next (setCtx s (8 * cl) (f (getCtx s (8 * cl)))) := if_pos hrun

/-- A command of a running engine that acts on its context makes the context that it says. -/
theorem ctxBecomes_of_onEng {i : Instr} {f : Ctx → Ctx} (h : exec i s = onEng cl n s f) :
    CtxBecomes i s (8 * cl) (f (getCtx s (8 * cl))) :=
  ⟨_, h.trans (onEng_runs hrun f), setCtx_becomes s (8 * cl) _⟩

end

/-- AEND's engine is idle, in no nest (R95). -/
def endedEng (n : Nat) (c : Ctx) : Ctx := setEng (dropSpare c n) n { engOf (dropSpare c n) n with st := .idle, nest := none }

theorem endedEng_spec (n : Nat) (c : Ctx) : (engOf (endedEng n c) n).st = .idle ∧ (engOf (endedEng n c) n).nest = none ∧
    (endedEng n c).q = c.q ∧ (endedEng n c).l = c.l := by
  obtain ⟨ts, eng, h⟩ := dropSpare_eq c n
  refine ⟨by simp [endedEng], by simp [endedEng], ?_, ?_⟩
  · rw [endedEng, setEng_q, h]
  · rw [endedEng, setEng_l, h]

/-- An engine with an AGEN in force, at its next command. -/
def genTaken (n : Nat) (f : AGenF) (c : Ctx) : Ctx := nextCmd n (setEng c n { engOf c n with gen := some f })

theorem engOf_genTaken (n : Nat) (f : AGenF) (c : Ctx) :
    engOf (genTaken n f c) n = { engOf c n with gen := some f, cmd := (engOf c n).cmd + 8 } := by
  rw [genTaken, engOf_nextCmd, engOf_setEng, if_pos rfl]

/-- After AGEN: the queue is the engine's, with no block where it was free; or the engine has halted (R91 to R93). -/
def boundEng (n : Nat) (f : AGenF) (c : Ctx) : Ctx :=
  match smGet c.q f.q.toNat with
  | none => setBlocks (genTaken n f c) f.q.toNat n []
  | some (.data g _) => if g = n then genTaken n f c else haltCmd n 7 (engOf c n).cmd c
  | some _ => haltCmd n 7 (engOf c n).cmd c

section
variable {n : Nat} {f : AGenF} {c : Ctx}

theorem boundEng_free (h : smGet c.q f.q.toNat = none) :
    boundEng n f c = setBlocks (genTaken n f c) f.q.toNat n [] := by
  simp only [boundEng, h]

theorem boundEng_own {bs : List QBlock} (h : smGet c.q f.q.toNat = some (.data n bs)) :
    boundEng n f c = genTaken n f c := by
  simp only [boundEng, h, if_pos]

theorem boundEng_elsewhere {x : Handle} (h : smGet c.q f.q.toNat = some x) (hx : ∀ bs, x ≠ .data n bs) :
    boundEng n f c = haltCmd n 7 (engOf c n).cmd c := by
  cases x with
  | data g bs =>
    have hg : g ≠ n := fun hg => hx bs (hg ▸ rfl)
    simp only [boundEng, h, if_neg hg]
  | ring slots p k m => simp only [boundEng, h]

theorem boundEng_l : (boundEng n f c).l = c.l := by
  unfold boundEng; repeat' split
  all_goals rfl

end

/-- The room that a core's bindings leave in its L1, and the copies that go: those beyond it (R12, R91; log entry 95). -/
theorem trimL1_spec (s : State) (core : Nat) :
    trimL1 s core = { s with cores := (trimL1 s core).cores } ∧ l1Lines (trimL1 s core) core = l1Lines s core ∧
      ∀ k, getCore (trimL1 s core) k =
        if k = core then { getCore s core with l1 := (getCore s core).l1.take (l1Lines s core) } else getCore s k := by
  unfold trimL1
  split
  · exact ⟨rfl, rfl, fun k => getCore_modCore s core k _⟩
  · next h =>
    refine ⟨rfl, rfl, fun k => ?_⟩
    rw [List.take_of_length_le (Nat.le_of_not_lt h)]
    split
    · next hk => rw [hk]
    · rfl

/-- After ALOOP: the nest is started, is over at once where a trip count is 0, or the engine has halted without an AGEN (R92, R94). -/
def loopedEng (n : Nat) (f : ALoopF) (c : Ctx) : Ctx :=
  match (engOf c n).gen with
  | none => haltCmd n 7 (engOf c n).cmd c
  | some g =>
    let trips := tripsOf c n f.l.toNat (f.dims.toNat + 1)
    if trips.contains 0 then nextCmd n c
    else
      let e := engOf c n
      let nest : Nest := { f := f, base := lget c n g.base.toNat, pitch := lget c n g.pitch.toNat, trips := trips,
                           strides := stridesOf c n f.s.toNat (f.dims.toNat + 1), pos := 0 }
      match e.cutAt with
      | some (a, again) =>
        if f.link then setEng c n { e with nest := some { nest with cut := some a, again := again }, cutAt := none }
        else setEng c n { e with nest := some nest }
      | none => setEng c n { e with nest := some nest }

section
variable {n : Nat} {f : ALoopF} {c : Ctx}

theorem loopedEng_no_gen (h : (engOf c n).gen = none) : loopedEng n f c = haltCmd n 7 (engOf c n).cmd c := by
  simp only [loopedEng, h]

theorem loopedEng_empty {g : AGenF} (h : (engOf c n).gen = some g) (h0 : 0 ∈ tripsOf c n f.l.toNat (f.dims.toNat + 1)) :
    loopedEng n f c = nextCmd n c := by
  simp only [loopedEng, h, List.contains_iff_mem.2 h0, if_true]

theorem loopedEng_starts {g : AGenF} (h : (engOf c n).gen = some g) (h0 : 0 ∉ tripsOf c n f.l.toNat (f.dims.toNat + 1)) :
    (engOf (loopedEng n f c) n).cmd = (engOf c n).cmd ∧
      ∃ x, (engOf (loopedEng n f c) n).nest = some x ∧ x.f = f ∧ x.trips = tripsOf c n f.l.toNat (f.dims.toNat + 1) ∧ x.pos = 0 ∧
        x.base = lget c n g.base.toNat ∧ x.pitch = lget c n g.pitch.toNat ∧
        x.strides = stridesOf c n f.s.toNat (f.dims.toNat + 1) := by
  have hne : (tripsOf c n f.l.toNat (f.dims.toNat + 1)).contains 0 = false :=
    Bool.eq_false_iff.2 fun hc => h0 (List.contains_iff_mem.1 hc)
  simp only [loopedEng, h, hne, Bool.false_eq_true, if_false]
  repeat' split
  all_goals
    rw [engOf_setEng, if_pos rfl]
    exact ⟨rfl, _, rfl, rfl, rfl, rfl, rfl, rfl, rfl⟩

theorem loopedEng_keeps : (loopedEng n f c).l = c.l ∧ (loopedEng n f c).q = c.q := by
  unfold loopedEng
  dsimp only
  repeat' split
  all_goals exact ⟨rfl, rfl⟩

end

theorem noteUndo_queuesOnly (c : Ctx) (n : Nat) (r : BitVec 4) : Ctx.QueuesOnly c (noteUndo c n r) := by
  unfold noteUndo
  repeat' split
  all_goals rfl

/-- After ASTEP: one register of the engine's has the sum, and the program goes on (R95). -/
def steppedEng (n : Nat) (a b : BitVec 4) (c : Ctx) : Ctx :=
  nextCmd n (lput (noteUndo c n a) n a.toNat (lget c n a.toNat + lget c n b.toNat))

theorem steppedEng_spec (n : Nat) (a b : BitVec 4) (c : Ctx) :
    engOf (steppedEng n a b c) n = { engOf c n with cmd := (engOf c n).cmd + 8 } ∧
      ∀ r : BitVec 4, lget (steppedEng n a b c) n r.toNat = if r = a then lget c n a.toNat + lget c n b.toNat else lget c n r.toNat := by
  have hq := noteUndo_queuesOnly c n a
  refine ⟨?_, fun r => ?_⟩
  · rw [steppedEng, engOf_nextCmd, engOf_lput, hq]; rfl
  · have hl : (lget (noteUndo c n a) n r.toNat) = lget c n r.toNat := by rw [hq]; rfl
    rw [steppedEng, lget, nextCmd_l, ← lget, lget_lput, hl]
    simp only [BitVec.toNat_inj]

section
variable {cl n : Nat} {k : BitVec 3} {a : BitVec 4} {s : State}
  (hrun : (engOf (getCtx s (8 * cl)) n).st = .running ∨ (engOf (getCtx s (8 * cl)) n).st = .waiting)
include hrun

/-- AWAIT of a number that has completed goes on (R95; log entry 93). -/
theorem awaitCmd_goes (h : (lget (getCtx s (8 * cl)) n a.toNat).toNat ≤ tcDone (tcOf (getCtx s (8 * cl)) k.toNat)) :
    ∃ t, exec (.awaitCmd cl n k a) s = .next t ∧
      engOf (getCtx t (8 * cl)) n = { engOf (getCtx s (8 * cl)) n with
        st := .running, awaits := none, cmd := (engOf (getCtx s (8 * cl)) n).cmd + 8 } ∧ t.mem = s.mem := by
  rw [exec_awaitCmd, execAwaitCmd, if_neg (by tauto), if_pos h]
  refine ⟨_, rfl, ?_, rfl⟩
  simp only [acquireOps]
  rw [show ∀ (s : State) (core : Nat) (f : Core → Core), getCtx (modCore s core f) (8 * cl) = getCtx s (8 * cl) from fun _ _ _ => rfl,
    getCtx_modCtx, if_pos rfl, engOf_nextCmd, engOf_setEng, if_pos rfl]

/-- AWAIT holds its engine until its number has completed. -/
theorem awaitCmd_holds (h : tcDone (tcOf (getCtx s (8 * cl)) k.toNat) < (lget (getCtx s (8 * cl)) n a.toNat).toNat) :
    CtxBecomes (.awaitCmd cl n k a) s (8 * cl) (setEng (getCtx s (8 * cl)) n { engOf (getCtx s (8 * cl)) n with
      st := .waiting, awaits := some (k.toNat, (lget (getCtx s (8 * cl)) n a.toNat).toNat) }) :=
  ctxBecomes_of_modCtx (by rw [exec_awaitCmd, execAwaitCmd, if_neg (by tauto), if_neg (by omega)]) rfl

end

/-- Settles O7: AGO by its mode, then each command of a running engine by what it makes of the engine's context. -/
theorem enginesAreCommanded : Obligations.EnginesAreCommanded := by
  refine ⟨?ago, ?commands⟩
  case ago =>
    intro e d g s hfull hgood
    obtain ⟨hothers, hmem, heng, hengs, hfree⟩ := startEng_spec g.toNat (rs s d) s
    obtain ⟨t, ht, hown, hres⟩ := execAgo_resumes e (g := g) hfull
    refine ⟨fun hst => ⟨_, execAgo_starts e hfull hgood hst, hothers, hmem, heng, hengs, hfree⟩,
      t, ht, hown, fun hhalt => ?_, fun hhalt => ?_⟩
    · rw [hres, if_pos hhalt]; exact ⟨rfl, rfl, rfl⟩
    · rw [hres, if_neg hhalt]
  case commands =>
    intro cl n g f a b k s id c e hrun halted went
    have hhalt : halted (haltCmd n 7 e.cmd c) := by
      obtain ⟨hst, hcause, hva, hq, -⟩ := haltCmd_spec c n 7 e.cmd
      exact ⟨hst, hcause, hva, hq⟩
    refine ⟨?aend, ?agen, ?aloop, ?astep, fun hdone => ?awaitDone, fun hleft => ?awaitLeft⟩
    case aend => exact ⟨endedEng n c, ctxBecomes_of_onEng hrun rfl, endedEng_spec n c⟩
    case agen =>
      obtain ⟨hcores, hroom, hcore⟩ := trimL1_spec (setCtx s id (boundEng n g c)) (coreOf id)
      have hctx : ∀ k, getCtx (trimL1 (setCtx s id (boundEng n g c)) (coreOf id)) k = getCtx (setCtx s id (boundEng n g c)) k :=
        fun k => by rw [hcores]; rfl
      have hexec : exec (.agen cl n g) s = .next (trimL1 (setCtx s id (boundEng n g c)) (coreOf id)) :=
        congrArg (thenTrim (coreOf id)) (onEng_runs hrun (boundEng n g))
      refine ⟨_, boundEng n g c, hexec, by rw [hcores]; rfl, by rw [hctx, getCtx_setCtx, if_pos rfl],
        fun k hk => by rw [hctx, getCtx_setCtx, if_neg hk], fun k hk => by rw [hcore, if_neg hk]; rfl,
        by rw [hcore, if_pos rfl, hroom]; rfl, boundEng_l, fun hq => ?_, fun bs hq => ?_, fun ⟨h, hq, hne⟩ => ?_⟩
      · rw [boundEng_free hq]
        refine ⟨?_, by rw [engOf_setBlocks, engOf_genTaken], by rw [setBlocks, smGet_smPut, if_pos rfl]⟩
        simp only [went, engOf_setBlocks, engOf_genTaken]
        exact ⟨rfl, rfl⟩
      · rw [boundEng_own hq]
        refine ⟨?_, by rw [engOf_genTaken], rfl⟩
        simp only [went, engOf_genTaken]
        exact ⟨rfl, rfl⟩
      · rw [boundEng_elsewhere hq hne]; exact hhalt
    case aloop =>
      refine ⟨loopedEng n f c, ctxBecomes_of_onEng hrun rfl, loopedEng_keeps.1, loopedEng_keeps.2, fun hgen => ?_, fun g0 hgen =>
        ⟨fun h0 => ?_, fun h0 => loopedEng_starts hgen h0⟩⟩
      · rw [loopedEng_no_gen hgen]; exact hhalt
      · rw [loopedEng_empty hgen h0]
        simp only [went, engOf_nextCmd]
        exact ⟨⟨rfl, rfl⟩, rfl⟩
    case astep =>
      obtain ⟨heng, hregs⟩ := steppedEng_spec n a b c
      exact ⟨steppedEng n a b c, ctxBecomes_of_onEng hrun rfl, ⟨by rw [heng], by rw [heng]⟩, hregs⟩
    case awaitDone =>
      obtain ⟨t, ht, heng, hmem⟩ := awaitCmd_goes hrun hdone
      exact ⟨t, ht, by rw [heng], by rw [heng], by rw [heng], hmem⟩
    case awaitLeft =>
      refine ⟨_, awaitCmd_holds hrun hleft, ?_, ?_, ?_⟩ <;> rw [engOf_setEng, if_pos rfl]

end Sys2Proof.Machine
end

section
/-! SUPPORT. What the work of an access engine leaves of its context, and what a rewind leaves in a queue (R97 to R99, R101). -/

namespace Sys2Proof.Machine

/-- From `c` to `c'`, engines have worked: their records, their queues, their counters and loop registers are all that has changed. -/
def Ctx.EngineWork (c c' : Ctx) : Prop := c' = { c with eng := c'.eng, q := c'.q, l := c'.l, tc := c'.tc }

namespace Ctx.EngineWork

variable {a b c : Ctx}

theorem refl (c : Ctx) : c.EngineWork c := rfl
theorem trans (h : a.EngineWork b) (g : b.EngineWork c) : a.EngineWork c := by
  simp only [Ctx.EngineWork] at *; rw [g, h]
theorem foldl {α : Type} {f : Ctx → α → Ctx} (hf : ∀ (c : Ctx) x, c.EngineWork (f c x)) (xs : List α) (c : Ctx) :
    c.EngineWork (xs.foldl f c) := by
  induction xs generalizing c with
  | nil => exact refl c
  | cons x xs ih => exact (hf c x).trans (ih _)
theorem ite {p : Prop} [Decidable p] (hb : a.EngineWork b) (hc : a.EngineWork c) : a.EngineWork (if p then b else c) := by
  split <;> assumption

theorem pc (h : a.EngineWork b) : b.pc = a.pc := by rw [h]
theorem jump (h : a.EngineWork b) : b.jump = a.jump := by rw [h]

theorem setEng (c : Ctx) (n : Nat) (e : Engine) : c.EngineWork (setEng c n e) := rfl
theorem setBlocks (c : Ctx) (q n : Nat) (bs : List QBlock) : c.EngineWork (setBlocks c q n bs) := rfl
theorem lput (c : Ctx) (seq i : Nat) (v : Word) : c.EngineWork (lput c seq i v) := rfl
theorem undoAll (c : Ctx) (seq : Nat) (bs : List QBlock) : c.EngineWork (undoAll c seq bs) := by
  unfold Machine.undoAll
  exact foldl (fun c (b : QBlock) => foldl (fun c (e : BitVec 4 × Word) => lput c seq e.1.toNat e.2) b.undo c) _ c
theorem dropHalt (c : Ctx) (n : Nat) : c.EngineWork (dropHalt c n) := by
  obtain ⟨ts, h⟩ := dropHalt_eq c n; rw [h]; rfl
theorem restoreTo (c : Ctx) (n : Nat) (b : QBlock) (gone : List QBlock) : c.EngineWork (restoreTo c n b gone) :=
  (undoAll c n gone).trans (setEng _ n _)
theorem rewindOld (c : Ctx) (n : Nat) : c.EngineWork (rewindOld c n) := by
  unfold Machine.rewindOld
  exact ite (refl c) ((foldl (fun c q => setBlocks c q n []) _ c).trans (setEng _ n _))
theorem rewind (c : Ctx) (n : Nat) : c.EngineWork (rewind c n) := by
  unfold Machine.rewind
  dsimp only
  split
  · exact rewindOld c n
  · split
    · exact rewindOld c n
    · exact (rewindOld c n).trans (ite ((setEng _ n _).trans (setBlocks _ _ n [])) ((restoreTo _ n _ _).trans (setBlocks _ _ n [])))

end Ctx.EngineWork

theorem undoAll_q (c : Ctx) (seq : Nat) (bs : List QBlock) : (undoAll c seq bs).q = c.q := by
  have hsteps : ∀ (us : List (BitVec 4 × Word)) (c : Ctx), (us.foldl (fun c e => lput c seq e.1.toNat e.2) c).q = c.q := fun us => by
    induction us with
    | nil => exact fun _ => rfl
    | cons u us ih => exact fun c => ih _
  unfold undoAll
  induction bs.reverse generalizing c with
  | nil => rfl
  | cons b bs ih => exact (ih _).trans (hsteps b.undo c)

/-- The blocks of a queue are a matter of the queues alone. -/
theorem qblocks_congr {c c' : Ctx} (h : c'.q = c.q) (q : Nat) : qblocks c' q = qblocks c q := by rw [qblocks, qblocks, h]

theorem qblocks_of_data {c : Ctx} {q n : Nat} {bs : List QBlock} (h : smGet c.q q = some (.data n bs)) : qblocks c q = bs := by
  rw [qblocks, h]

theorem qblocks_foldl_empty (qs : List Nat) (n q : Nat) (c : Ctx) :
    qblocks (qs.foldl (fun c k => setBlocks c k n []) c) q = if q ∈ qs then [] else qblocks c q := by
  induction qs generalizing c with
  | nil => simp
  | cons k qs ih =>
    rw [List.foldl_cons, ih, qblocks_setBlocks]
    by_cases hq : q = k <;> simp [hq]

/-- A queue of an earlier AGEN holds nothing after a rewind (R99). -/
theorem qblocks_rewindOld_old {c : Ctx} {n q : Nat} {bs : List QBlock} (hq : smGet c.q q = some (.data n bs))
    (hold : engQueue (engOf c n) ≠ some q) : qblocks (rewindOld c n) q = [] := by
  have hlisted : ∀ b ∈ bs, (q, b) ∈ oldBlocks c n := fun b hb => by
    refine List.mem_flatMap.2 ⟨(q, .data n bs), mem_of_smGet hq, ?_⟩
    simp only [if_pos (And.intro trivial hold)]
    exact List.mem_map.2 ⟨b, hb, rfl⟩
  have hempty : q ∉ (oldBlocks c n).map (·.1) → qblocks c q = [] := fun hno => by
    rw [qblocks_of_data hq]
    exact List.eq_nil_iff_forall_not_mem.2 fun b hb => hno (List.mem_map.2 ⟨(q, b), hlisted b hb, rfl⟩)
  unfold rewindOld
  dsimp only
  split
  · next hnone =>
    refine hempty fun hmem => ?_
    rw [List.isEmpty_iff.1 hnone] at hmem
    cases hmem
  · rw [qblocks_congr (setEng_q _ n _), qblocks_foldl_empty]
    split
    · rfl
    · next hno => exact hempty hno

theorem engOf_foldl_setBlocks (qs : List Nat) (n : Nat) (c : Ctx) (k : Nat) :
    engOf (qs.foldl (fun c q => setBlocks c q n []) c) k = engOf c k := by
  induction qs generalizing c with
  | nil => rfl
  | cons q qs ih => exact (ih _).trans (engOf_setBlocks c q n [] k)

theorem engQueue_rewindOld (c : Ctx) (n : Nat) : engQueue (engOf (rewindOld c n) n) = engQueue (engOf c n) := by
  unfold rewindOld
  dsimp only
  split
  · rfl
  · rw [engOf_setEng, if_pos rfl, engOf_foldl_setBlocks]; rfl

/-- The queue of the AGEN in force gives up its blocks too (R99). -/
theorem qblocks_rewind (c : Ctx) (n q : Nat) :
    qblocks (rewind c n) q = if engQueue (engOf c n) = some q then [] else qblocks (rewindOld c n) q := by
  have hcur := engQueue_rewindOld c n
  unfold rewind
  dsimp only
  rw [hcur]
  split
  · next h => rw [h, if_neg nofun]
  · next p h =>
    have hiff : engQueue (engOf c n) = some q ↔ q = p := by rw [h, Option.some.injEq, eq_comm]
    simp only [hiff]
    split
    · next hnil =>
      split
      · next hqp => rw [hqp, hnil]
      · rfl
    · have hkept : ∀ b bs, (restoreTo (rewindOld c n) n b bs).q = (rewindOld c n).q := fun b bs => undoAll_q _ n bs
      split
      · rw [qblocks_setBlocks, qblocks_congr (setEng_q _ n _)]
      · rw [qblocks_setBlocks, qblocks_congr (hkept _ _)]

/-- A queue of an engine is empty after the engine's rewind. -/
theorem qblocks_rewind_nil {c : Ctx} {n q : Nat} {bs : List QBlock} (hq : smGet c.q q = some (.data n bs)) :
    qblocks (rewind c n) q = [] := by
  rw [qblocks_rewind]
  split
  · rfl
  · next hold => exact qblocks_rewindOld_old hq hold

theorem clearQueue_q (n : Nat) (c : Ctx) : (clearQueue n c).q = (rewind c n).q := by
  obtain ⟨ts, h⟩ := dropHalt_eq (rewind c n) n
  unfold clearQueue
  exact (setEng_q _ n _).trans ((congrArg Ctx.q h).trans (setEng_q _ n _))

/-- QCLR's engine has halted with no fault, and the queue is empty (R97, R98, R101). -/
theorem clearQueue_spec {c : Ctx} {n q : Nat} {bs : List QBlock} (hq : smGet c.q q = some (.data n bs)) :
    c.EngineWork (clearQueue n c) ∧ qblocks (clearQueue n c) q = [] ∧ (engOf (clearQueue n c) n).st = .halted ∧
      (engOf (clearQueue n c) n).cause = 0 := by
  refine ⟨((Ctx.EngineWork.rewind c n).trans (.dropHalt _ n)).trans (.setEng _ n _), ?_, ?_, ?_⟩
  · exact (qblocks_congr (clearQueue_q n c) q).trans (qblocks_rewind_nil hq)
  · rw [clearQueue, engOf_setEng, if_pos rfl]
  · rw [clearQueue, engOf_setEng, if_pos rfl]

end Sys2Proof.Machine
end

section
/-! SUPPORT. The queue words QADV, QCLR and QFLUSH (R98, R101, R169, R330, R334). -/

namespace Sys2Proof.Machine

-- The blocks that a QADV moves (R101).

/-- The block that QADV enters into a write queue: skipped, of the loop that is active. -/
def skippedBlock (c : Ctx) : QBlock := { data := 0, rows := 0, skipped := true, loop := if loopActive c then c.loopNo else 0 }

section
variable {q g : Nat} {c : Ctx}

theorem advOne_read {b : QBlock} {bs : List QBlock} (hg : g ≠ 2) (h : smGet c.q q = some (.data g (b :: bs))) :
    advOne c q g = setBlocks c q g bs := by
  rw [advOne, if_neg hg, popBlock, h]

theorem advOne_write {bs : List QBlock} (h : smGet c.q q = some (.data 2 bs)) :
    advOne c q 2 = setBlocks c q 2 (bs ++ [skippedBlock c]) := by
  rw [advOne, if_pos rfl, pushBlock, h]; rfl

theorem smGet_setBlocks (c : Ctx) (q g : Nat) (bs : List QBlock) (k : Nat) :
    smGet (setBlocks c q g bs).q k = if k = q then some (.data g bs) else smGet c.q k := smGet_smPut ..

/-- The first blocks of a read queue go, one at a time. -/
theorem advGo_read (hg : g ≠ 2) (k m : Nat) {bs : List QBlock} (h : smGet c.q q = some (.data g bs)) (hm : m ≤ bs.length) :
    ∃ c', advGo q g (m + k) c = advGo q g k c' ∧ c.QueuesOnly c' ∧ smGet c'.q q = some (.data g (bs.drop m)) ∧
      ∀ j, j ≠ q → smGet c'.q j = smGet c.q j := by
  induction m generalizing c bs with
  | zero => exact ⟨c, by rw [Nat.zero_add], .refl c, h, fun _ _ => rfl⟩
  | succ m ih =>
    cases bs with
    | nil => exact absurd hm (Nat.not_succ_le_zero m)
    | cons b bs =>
      have hfate : readFate c q 1 = .go := by
        simp only [readFate, h]; rw [if_neg hg, if_pos (by simp)]
      obtain ⟨c', hgo, honly, hleft, hothers⟩ := ih (c := setBlocks c q g bs) (by rw [smGet_setBlocks, if_pos rfl])
        (Nat.le_of_succ_le_succ hm)
      refine ⟨c', ?_, Ctx.QueuesOnly.trans (b := setBlocks c q g bs) rfl honly, hleft, fun j hj => ?_⟩
      · rw [Nat.succ_add, advGo, if_neg hg, hfate, advOne_read hg h]; exact hgo
      · rw [hothers j hj, smGet_setBlocks, if_neg hj]

/-- A QADV waits where the next block of its running engine is still on its way. -/
theorem advGo_waits {m : Nat} (hg : g ≠ 2) (hm : m ≠ 0) (h : smGet c.q q = some (.data g [])) (hrun : (engOf c g).st = .running) :
    advGo q g m c = (m, .wait, c) := by
  obtain ⟨k, rfl⟩ := Nat.exists_eq_succ_of_ne_zero hm
  have hfate : readFate c q 1 = .wait := by
    simp only [readFate, h, hrun]; rw [if_neg hg, if_neg (by simp)]
  rw [advGo, if_neg hg, hfate]

/-- Skipped blocks enter a write queue that has room for them. -/
theorem advGo_write {m : Nat} {bs : List QBlock} (h : smGet c.q q = some (.data 2 bs)) (hm : bs.length + m ≤ 4) :
    ∃ c', advGo q 2 m c = (0, .go, c') ∧ c.QueuesOnly c' ∧
      smGet c'.q q = some (.data 2 (bs ++ List.replicate m (skippedBlock c))) ∧
      ∀ j, j ≠ q → smGet c'.q j = smGet c.q j := by
  induction m generalizing c bs with
  | zero => exact ⟨c, rfl, .refl c, by rw [List.replicate_zero, List.append_nil]; exact h, fun _ _ => rfl⟩
  | succ m ih =>
    have hfate : writeFate c q = .go := by
      simp only [writeFate, h]; rw [if_neg (by simp), if_pos (by omega)]
    obtain ⟨c', hgo, honly, hleft, hothers⟩ := ih (c := setBlocks c q 2 (bs ++ [skippedBlock c])) (by rw [smGet_setBlocks, if_pos rfl])
      (by rw [List.length_append, List.length_singleton]; omega)
    refine ⟨c', ?_, Ctx.QueuesOnly.trans (b := setBlocks c q 2 (bs ++ [skippedBlock c])) rfl honly, ?_, fun j hj => ?_⟩
    · rw [advGo, if_pos rfl, hfate, advOne_write h]; exact hgo
    · rw [hleft, List.append_assoc]; rfl
    · rw [hothers j hj, smGet_setBlocks, if_neg hj]

end

theorem ringRelease_eq {c : Ctx} {q p k f : Nat} {slots : List Nat} (h : smGet c.q q = some (.ring slots p k f)) (n : Nat) :
    ringRelease c q n = { c with q := smPut c.q q (.ring slots p ((k + min n f) % slots.length) (f - min n f)) } := by
  rw [ringRelease, h]

theorem qadvLeft_none {c : Ctx} (h : c.qadvLeft = none) : { c with qadvLeft := none } = c := by
  cases c; cases h; rfl

/-- A word that has changed queues of its own context alone, and retires. -/
theorem retire_queuesOnly {s u : State} (e : Bool) (len : Nat) (hu : Touched s u) (hq : (me s).QueuesOnly (me u)) :
    s.OwnOnly (retire e len u) ∧ FallsThrough e len s (retire e len u) ∧
      Ctx.PlaceOnly { me s with q := (me (retire e len u)).q } (me (retire e len u)) ∧ (me (retire e len u)).q = (me u).q := by
  obtain ⟨hown, hfalls, hplace⟩ := retire_becomes e len hu rfl (by rw [hq]) (by rw [hq])
  have hqs : (me (retire e len u)).q = (me u).q := by rw [hplace]
  refine ⟨hown, hfalls, ?_, hqs⟩
  rw [hqs]
  exact hq ▸ hplace

/-- A word of a context without a pending request waits where it stands (R55, R68; log entry 8). -/
theorem me_waitHere {w : Wait} {s : State} (hsave : bitAt (me s).xsched 0 = false) : me (waitHere w s) =
    { me s with run := if (me s).mid = true then (me s).run else .waiting, wait := some w, due := none } := by
  have hme : ∀ f, me (modCtx s s.cur f) = f (me s) := me_onMe s
  have hget : getCtx s s.cur = me s := rfl
  unfold waitHere waitCtx
  rw [hget]
  by_cases hmid : (me s).mid = true
  · rw [if_pos hmid, hme, if_pos hmid]
  · rw [if_neg hmid, hsave, if_neg Bool.false_ne_true, hme, if_neg hmid]

-- The guard of QCLR and QFLUSH (R34).

theorem queueWordGuard_off {w : VQ} {s : State} (hguard : srcBad s w.h.guard.reg = false) {k : State → Out}
    (hoff : guardRows (me s) w.h.guard = 0) : queueWordGuard w.h s k = .next (retire w.h.e 12 s) := by
  rw [queueWordGuard, hguard, if_neg Bool.false_ne_true, if_pos hoff]

theorem queueWordGuard_on {w : VQ} {s : State} (hguard : srcBad s w.h.guard.reg = false) {k : State → Out}
    (hon : guardRows (me s) w.h.guard ≠ 0) : queueWordGuard w.h s k = k s := by
  rw [queueWordGuard, hguard, if_neg Bool.false_ne_true, if_neg hon]

section
variable {w : VQ} {d : Desc} {s : State} (hfull : isLight s.cur = false)
include hfull

section
variable (hgood : descBad s d = false)
include hgood

theorem execQadv_unbound (h : smGet (me s).q w.q.toNat = none) : TrapsWith (.qadv w d) s { cause := 7, va := natW w.q.toNat } := by
  rw [TrapsWith, exec_qadv, execQadv, fullOnly_full hfull, hgood, if_neg Bool.false_ne_true]
  dsimp only
  rw [h]; rfl

theorem execQadv_data {g : Nat} {bs : List QBlock} (h : smGet (me s).q w.q.toNat = some (.data g bs)) :
    exec (.qadv w d) s =
      if advCount (me s) d = 0 then .next (retire w.h.e 12 s) else advData w.h.e w.q.toNat g (advCount (me s) d) s := by
  rw [exec_qadv, execQadv, fullOnly_full hfull, hgood, if_neg Bool.false_ne_true]
  dsimp only
  rw [h]

/-- A QADV whose blocks all move retires, the queue as `advGo` leaves it. -/
theorem execQadv_moves {g : Nat} {bs : List QBlock} {c' : Ctx} (h : smGet (me s).q w.q.toNat = some (.data g bs))
    (hleft : (me s).qadvLeft = none) (hgo : advGo w.q.toNat g (advCount (me s) d) (me s) = (0, .go, c'))
    (honly : (me s).QueuesOnly c') :
    ∃ t, exec (.qadv w d) s = .next t ∧ s.OwnOnly t ∧ FallsThrough w.h.e 12 s t ∧
      Ctx.PlaceOnly { me s with q := (me t).q } (me t) ∧ (me t).q = c'.q := by
  have hkept : c'.qadvLeft = none := by rw [honly]; exact hleft
  rw [execQadv_data hfull hgood h]
  split
  · next h0 =>
    rw [h0] at hgo
    obtain rfl : me s = c' := congrArg (·.2.2) hgo
    exact ⟨_, rfl, retire_queuesOnly w.h.e 12 (.refl s) honly⟩
  · refine ⟨retire w.h.e 12 (onMe s fun _ => c'), ?_, ?_⟩
    · unfold advData
      dsimp only
      rw [hleft, Option.map_none, Option.getD_none, hgo, if_pos rfl, qadvLeft_none hkept]
    · have hret := retire_queuesOnly (u := onMe s fun _ => c') w.h.e 12 (touched_onMe s _) (by rw [me_onMe]; exact honly)
      rwa [me_onMe] at hret

/-- A QADV that its running engine keeps short waits with what is left (R101; log entries 8 and 83). -/
theorem execQadv_waits {g : Nat} {bs : List QBlock} (h : smGet (me s).q w.q.toNat = some (.data g bs)) (hleft : (me s).qadvLeft = none)
    (hg : g ≠ 2) (hshort : bs.length < advCount (me s) d) (hrun : (engOf (me s) g).st = .running)
    (hsave : bitAt (me s).xsched 0 = false) :
    ∃ t, exec (.qadv w d) s = .next t ∧ (me t).run = (if (me s).mid = true then (me s).run else .waiting) ∧
      (me t).pc = (me s).pc ∧
      qblocks (me t) w.q.toNat = [] ∧ (me t).qadvLeft = some ((me s).pc, advCount (me s) d - bs.length) := by
  obtain ⟨c', hgo, honly, hempty, -⟩ := advGo_read hg (advCount (me s) d - bs.length) bs.length h le_rfl
  have hne : advCount (me s) d - bs.length ≠ 0 := by omega
  rw [List.drop_length] at hempty
  rw [Nat.add_sub_cancel' (Nat.le_of_lt hshort),
    advGo_waits hg hne hempty (by rw [honly]; exact hrun)] at hgo
  have hexec : exec (.qadv w d) s = .next (waitHere (.dataQueue [(w.q.toNat, if g = 2 then 0 else 1)])
      (onMe s fun _ => { c' with qadvLeft := some (c'.pc, advCount (me s) d - bs.length) })) := by
    rw [execQadv_data hfull hgood h, if_neg (by omega)]
    unfold advData
    dsimp only
    rw [hleft, Option.map_none, Option.getD_none, hgo, if_neg hne]
  have hpc : c'.pc = (me s).pc := by rw [honly]
  have hmid : c'.mid = (me s).mid := by rw [honly]
  have hst : c'.run = (me s).run := by rw [honly]
  have hwait := me_waitHere (w := .dataQueue [(w.q.toNat, if g = 2 then 0 else 1)])
    (s := onMe s fun _ => { c' with qadvLeft := some (c'.pc, advCount (me s) d - bs.length) }) (by rw [me_onMe, honly]; exact hsave)
  rw [me_onMe] at hwait
  refine ⟨_, hexec, ?_, ?_, ?_, ?_⟩ <;> rw [hwait]
  · rw [hmid, hst]
  · exact hpc
  · exact qblocks_of_data hempty
  · rw [hpc]

/-- A QADV on a ring releases filled slots of it (R169; log entry 35). -/
theorem execQadv_ring {slots : List Nat} {p k f : Nat} (h : smGet (me s).q w.q.toNat = some (.ring slots p k f))
    (hmx : (me s).onMatrix = false) :
    ∃ t, exec (.qadv w d) s = .next t ∧ s.OwnOnly t ∧ FallsThrough w.h.e 12 s t ∧
      Ctx.PlaceOnly { me s with q := (me t).q } (me t) ∧
      (me t).q = smPut (me s).q w.q.toNat
        (.ring slots p ((k + min (advCount (me s) d) f) % slots.length) (f - min (advCount (me s) d) f)) := by
  have hreleased := ringRelease_eq h (advCount (me s) d)
  have hawake : wakeMatrix (onMe s fun c => ringRelease c w.q.toNat (advCount (me s) d)) s.cur =
      onMe s fun c => ringRelease c w.q.toNat (advCount (me s) d) := by
    have hwait : (getCtx (onMe s fun c => ringRelease c w.q.toNat (advCount (me s) d)) s.cur).onMatrix = false := by
      rw [getCtx_onMe, if_pos rfl, hreleased]; exact hmx
    rw [wakeMatrix, hwait, if_neg Bool.false_ne_true]
  have hexec : exec (.qadv w d) s = .next (retire w.h.e 12 (onMe s fun c => ringRelease c w.q.toNat (advCount (me s) d))) := by
    rw [exec_qadv, execQadv, fullOnly_full hfull, hgood, if_neg Bool.false_ne_true]
    dsimp only
    rw [h]
    dsimp only
    rw [hawake]
  have hret := retire_queuesOnly (u := onMe s fun c => ringRelease c w.q.toNat (advCount (me s) d)) w.h.e 12 (touched_onMe s _)
    (by rw [me_onMe, hreleased]; rfl)
  rw [me_onMe, hreleased] at hret
  exact ⟨_, hexec, hret⟩

end

-- QFLUSH and QCLR (R98, R101, R330).

/-- A QFLUSH with blocks under a halted write engine takes the halt, whatever its guard says (log entry 25). -/
theorem execQflush_halted {b : QBlock} {bs : List QBlock} (h : smGet (me s).q w.q.toNat = some (.data 2 (b :: bs)))
    (hhalt : (engOf (me s) 2).st = .halted) :
    TrapsWith (.qflush w) s { cause := (engOf (me s) 2).cause, src := 4, w := true, va := (engOf (me s) 2).va } := by
  have hflush : flushHalt (me s) w.q.toNat = some (engTrap 2 (engOf (me s) 2)) := by simp only [flushHalt, h, hhalt, if_true]
  rw [TrapsWith, exec_qflush, execQflush, fullOnly_full hfull]
  dsimp only
  rw [hflush]; rfl

variable (hguard : srcBad s w.h.guard.reg = false)
include hguard

theorem execQclr_on (hon : guardRows (me s) w.h.guard ≠ 0) {g : Nat} {bs : List QBlock}
    (h : smGet (me s).q w.q.toNat = some (.data g bs)) :
    exec (.qclr w) s = if g = 2 then trapNext { cause := 7, va := natW w.q.toNat } s
      else .next (retire w.h.e 12 (onMe s (clearQueue g))) := by
  rw [exec_qclr, execQclr, fullOnly_full hfull, queueWordGuard_on hguard hon, h]

/-- QCLR of a read queue empties it and halts its engine with no fault. -/
theorem execQclr_clears (hon : guardRows (me s) w.h.guard ≠ 0) {g : Nat} {bs : List QBlock}
    (h : smGet (me s).q w.q.toNat = some (.data g bs)) (hg : g ≠ 2) :
    ∃ t, exec (.qclr w) s = .next t ∧ s.OwnOnly t ∧ FallsThrough w.h.e 12 s t ∧ qblocks (me t) w.q.toNat = [] ∧
      (engOf (me t) g).st = .halted ∧ (engOf (me t) g).cause = 0 := by
  obtain ⟨hwork, hempty, hst, hcause⟩ := clearQueue_spec h
  obtain ⟨hown, hfalls, hplace⟩ := retire_becomes (u := onMe s (clearQueue g)) w.h.e 12 (touched_onMe s _) (me_onMe s _)
    hwork.pc hwork.jump
  have heng : engOf (me (retire w.h.e 12 (onMe s (clearQueue g)))) g = engOf (clearQueue g (me s)) g := by rw [engOf, hplace.eng]; rfl
  refine ⟨_, by rw [execQclr_on hfull hguard hon h, if_neg hg], hown, hfalls, ?_, by rw [heng, hst], by rw [heng, hcause]⟩
  exact (qblocks_congr (by rw [hplace]) w.q.toNat).trans hempty

theorem execQflush_on (hon : guardRows (me s) w.h.guard ≠ 0) {bs : List QBlock} (h : smGet (me s).q w.q.toNat = some (.data 2 bs))
    (hlive : flushHalt (me s) w.q.toNat = none) :
    exec (.qflush w) s = if bs.isEmpty then .next (retire w.h.e 12 s) else .next (stallHere (.flush w.q.toNat) s) := by
  rw [exec_qflush, execQflush, fullOnly_full hfull]
  dsimp only
  rw [hlive]
  dsimp only
  rw [queueWordGuard_on hguard hon, h]
  rfl

/-- A guarded-off QCLR, or QFLUSH without a halt to take, passes over. -/
theorem execQueueWord_off (hoff : guardRows (me s) w.h.guard = 0) {i : Instr}
    (hi : i = .qclr w ∨ (i = .qflush w ∧ flushHalt (me s) w.q.toNat = none)) : exec i s = .next (retire w.h.e 12 s) := by
  rcases hi with rfl | ⟨rfl, hlive⟩
  · rw [exec_qclr, execQclr, fullOnly_full hfull, queueWordGuard_off hguard hoff]
  · rw [exec_qflush, execQflush, fullOnly_full hfull]
    dsimp only
    rw [hlive]
    exact queueWordGuard_off hguard hoff

end

/-- Settles O23: QADV by its handle and by what its queue has, QCLR and QFLUSH by their guard and their queue. -/
theorem queueWordsMoveBlocks : Obligations.QueueWordsMoveBlocks := by
  intro w d s hfull c q n
  refine ⟨fun hgood hleft => ⟨?moves, ?ring, ?waits, execQadv_unbound hfull hgood⟩, fun b bs => execQflush_halted hfull, fun hguard =>
    ⟨fun hoff i hi => ?off, fun hon => ⟨fun g bs => execQclr_clears hfull hguard hon, fun h => ?flushed,
      fun b bs h hst => ?stalls, ?write⟩⟩⟩
  case moves =>
    intro g bs h hroom
    rcases hroom with ⟨hg, hlen⟩ | ⟨rfl, hlen⟩
    · obtain ⟨c', hgo, honly, hq, hothers⟩ := advGo_read hg 0 n h hlen
      obtain ⟨t, ht, hown, hfalls, hplace, hqs⟩ := execQadv_moves hfull hgood h hleft hgo honly
      exact ⟨t, ht, hown, hfalls, hplace, fun k hk => hqs ▸ hothers k hk, fun _ => (qblocks_congr hqs q).trans (qblocks_of_data hq),
        fun h2 => absurd h2 hg⟩
    · obtain ⟨c', hgo, honly, hq, hothers⟩ := advGo_write h hlen
      obtain ⟨t, ht, hown, hfalls, hplace, hqs⟩ := execQadv_moves hfull hgood h hleft hgo honly
      exact ⟨t, ht, hown, hfalls, hplace, fun k hk => hqs ▸ hothers k hk, fun h2 => absurd rfl h2,
        fun _ => (qblocks_congr hqs q).trans (qblocks_of_data hq)⟩
  case ring =>
    intro slots p k f h hmx
    obtain ⟨t, ht, hown, hfalls, hplace, hqs⟩ := execQadv_ring (d := d) hfull hgood h hmx
    exact ⟨t, ht, hown, hfalls, hplace, fun j hj => by rw [hqs, smGet_smPut, if_neg hj], by rw [hqs, smGet_smPut, if_pos rfl]⟩
  case waits => exact fun g bs h hg hlen hrun hsave => execQadv_waits hfull hgood h hleft hg hlen hrun hsave
  case off => exact ⟨_, execQueueWord_off hfull hguard hoff hi, retire_passed s w.h.e 12, retire_fallsThrough s w.h.e 12⟩
  case flushed =>
    have hlive : flushHalt c q = none := by simp only [flushHalt, c, q, h]
    exact ⟨_, execQflush_on hfull hguard hon h hlive, retire_passed s w.h.e 12, retire_fallsThrough s w.h.e 12⟩
  case stalls =>
    have hlive : flushHalt c q = none := by simp only [flushHalt, c, q, h]; exact if_neg hst
    have hexec : exec (.qflush w) s = .next (stallHere (.flush q) s) := execQflush_on hfull hguard hon h hlive
    have hme : me (stallHere (.flush q) s) = { me s with wait := some (.flush q) } := me_onMe s _
    refine ⟨⟨_, hexec, by rw [hme], by rw [hme], by rw [hme], by rw [hme]⟩, fun t ht => ?_⟩
    obtain rfl := Host.Outcome.next.inj (hexec.symm.trans ht)
    rw [hme]
  case write =>
    rintro g bs h rfl
    exact (execQclr_on hfull hguard hon h).trans (if_pos rfl)

end Sys2Proof.Machine
end

section
/-! SUPPORT. The end of a pass of the stream loop: the admitted tuple, the cut of linked streams, the drain and the refill (R88, R90,
R94). -/

namespace Sys2Proof.Machine

-- What a cut of the linked streams leaves (R94).

/-- From `c` to `c'`, engines have worked, and the loop's own registers are as they were. -/
def Ctx.LoopKept (c c' : Ctx) : Prop := c.EngineWork c' ∧ ∀ i, lget c' 4 i = lget c 4 i

namespace Ctx.LoopKept

variable {a b c : Ctx}

theorem refl (c : Ctx) : c.LoopKept c := ⟨.refl c, fun _ => rfl⟩
theorem trans (h : a.LoopKept b) (g : b.LoopKept c) : a.LoopKept c := ⟨h.1.trans g.1, fun i => (g.2 i).trans (h.2 i)⟩
theorem foldl {α : Type} {f : Ctx → α → Ctx} {xs : List α} (hf : ∀ x ∈ xs, ∀ c : Ctx, c.LoopKept (f c x)) (c : Ctx) :
    c.LoopKept (xs.foldl f c) := by
  induction xs generalizing c with
  | nil => exact refl c
  | cons x xs ih => exact (hf x List.mem_cons_self c).trans (ih (fun y hy => hf y (List.mem_cons_of_mem x hy)) _)

theorem setEng (c : Ctx) (n : Nat) (e : Engine) : c.LoopKept (setEng c n e) := ⟨.setEng c n e, fun _ => rfl⟩
theorem setBlocks (c : Ctx) (q n : Nat) (bs : List QBlock) : c.LoopKept (setBlocks c q n bs) := ⟨.setBlocks c q n bs, fun _ => rfl⟩
/-- The registers of another sequencer are not the loop's. -/
theorem lput (c : Ctx) {n : Nat} (hn : n < 4) (r : BitVec 4) (v : Word) : c.LoopKept (lput c n r.toNat v) := by
  refine ⟨.lput c n r.toNat v, fun i => ?_⟩
  have hr := r.isLt
  simp only [lget, Machine.lput, smGetD_smSet, lkey]
  exact if_neg (by omega)
theorem undoAll (c : Ctx) {n : Nat} (hn : n < 4) (bs : List QBlock) : c.LoopKept (undoAll c n bs) := by
  unfold Machine.undoAll
  exact foldl (fun b _ c => foldl (fun (e : BitVec 4 × Word) _ c => lput c hn e.1 e.2) c) c
theorem restoreTo (c : Ctx) {n : Nat} (hn : n < 4) (b : QBlock) (gone : List QBlock) : c.LoopKept (restoreTo c n b gone) :=
  (undoAll c hn gone).trans (setEng _ n _)
theorem cutNext (c : Ctx) (n a : Nat) : c.LoopKept (cutNest.cutNext n a c) := by
  unfold cutNest.cutNext
  dsimp only
  split
  · exact refl c
  · exact setEng c n _
theorem cutNest (c : Ctx) (n a : Nat) : c.LoopKept (cutNest c n a) := by
  unfold Machine.cutNest
  dsimp only
  repeat' split
  · exact cutNext c n a
  · exact refl c
  · exact setEng c n _
  · exact setEng c n _
  · exact cutNext c n a
theorem cutEng (c : Ctx) {n : Nat} (hn : n < 4) (a : Nat) : c.LoopKept (cutEng a c n) := by
  unfold Machine.cutEng
  dsimp only
  repeat' split
  · exact cutNest c n a
  · exact cutNest c n a
  · exact cutNest c n a
  all_goals exact (((restoreTo c hn _ _).trans (setBlocks _ _ n _)).trans (setEng _ n _)).trans (cutNest _ n a)

theorem loopIndex (h : a.LoopKept b) : loopIndex b = loopIndex a := by
  obtain ⟨hwork, hregs⟩ := h
  have hx : b.xloop = a.xloop := by rw [hwork]
  rw [Machine.loopIndex, Machine.loopIndex, hx]
  simp only [hregs]

end Ctx.LoopKept

-- The end of a pass (R88).

theorem lget_congr {c c' : Ctx} (h : c'.l = c.l) (seq i : Nat) : lget c' seq i = lget c seq i := by rw [lget, lget, h]

/-- The stage predicates after a pass: shifted, with a bit for an admitted tuple. -/
def nextStages (c : Ctx) (admitted : Bool) : Nat := (fld c.xstagep 0 8 * 2 + bitNat admitted) % 2 ^ loopStages c.xloop

/-- The rotation after a pass: it moves where there are two stages or more. -/
def nextRotation (c : Ctx) : Word := if 2 ≤ loopStages c.xloop then natW ((fld c.xrrb 0 5 + 31) % 32) else c.xrrb

/-- The stage predicates are at most eight bits. -/
theorem nextStages_lt (c : Ctx) (b : Bool) : nextStages c b < 2 ^ 8 := by
  have hlt : fld c.xloop 15 3 < 2 ^ 3 := natField_lt ..
  have hstages : loopStages c.xloop ≤ 8 := by rw [loopStages]; omega
  exact (Nat.mod_lt _ (Nat.two_pow_pos _)).trans_le (Nat.pow_le_pow_right (by decide) hstages)

/-- The loop's position with its next tuple admitted. -/
def admitted (c : Ctx) : Option (List Nat) → Ctx
  | some t => { putTuple c 4 (loopBase c.xloop) 0 t with xlpos := c.xlpos + 1 }
  | none => c

/-- The stage predicates shift and the rotation moves. -/
def shifted (c : Ctx) (b : Bool) : Ctx := { c with xstagep := natW (nextStages c b), xrrb := nextRotation c }

/-- The linked streams as the end of a draining pass leaves them. -/
def drainedCut (c : Ctx) : Ctx :=
  if bitAt c.xloop 25 && (stepTuple c.bodyTrips (loopIndex c)).isSome then [0, 1, 2].foldl (cutEng c.xlpos.toNat) c else c

/-- The tuple that the end of a pass admits. -/
def nextTuple (c : Ctx) : Option (List Nat) :=
  if bitAt c.xloop 25 then none else stepTuple (drainedCut c).bodyTrips (loopIndex (drainedCut c))

theorem endPass_eq (c : Ctx) : endPass c =
    (shifted (admitted (drainedCut c) (nextTuple c)) (nextTuple c).isSome,
      nextStages (admitted (drainedCut c) (nextTuple c)) (nextTuple c).isSome == 0) := rfl

/-- An admitted tuple counts an iteration and stands in the index registers. -/
theorem admitted_spec (c : Ctx) (next : Option (List Nat)) :
    ∃ l, admitted c next = { c with l := l, xlpos := if next.isSome then c.xlpos + 1 else c.xlpos } ∧
      ∀ t, next = some t → ∀ d v : Nat, t[d]? = some v → lget (admitted c next) 4 (loopBase c.xloop + 2 * d + 1) = natW v := by
  cases next with
  | none => exact ⟨c.l, rfl, nofun⟩
  | some t =>
    obtain ⟨l, hl⟩ := putTuple_eq c 4 (loopBase c.xloop) 0 t
    refine ⟨l, by rw [admitted, hl]; rfl, fun u hu d v hv => ?_⟩
    obtain rfl := Option.some.inj hu
    have hreg := lget_putTuple (seq := 4) (base := loopBase c.xloop) (d := 0) c hv
    rwa [Nat.zero_add] at hreg

/-- What the end of a pass that is not draining leaves, before the loop goes on or is over. -/
theorem shifted_admitted (c : Ctx) (next : Option (List Nat)) :
    let c' := shifted (admitted c next) next.isSome
    ∃ l, c' = { c with l := l, xlpos := if next.isSome then c.xlpos + 1 else c.xlpos,
                       xstagep := natW (nextStages c next.isSome), xrrb := nextRotation c } ∧
      ∀ t, next = some t → ∀ d v : Nat, t[d]? = some v → lget c' 4 (loopBase c.xloop + 2 * d + 1) = natW v := by
  obtain ⟨l, hl, hindex⟩ := admitted_spec c next
  exact ⟨l, by rw [hl]; rfl, hindex⟩

theorem endPass_admits {c : Ctx} (hdrn : bitAt c.xloop 25 = false) :
    endPass c = (shifted (admitted c (stepTuple c.bodyTrips (loopIndex c))) (stepTuple c.bodyTrips (loopIndex c)).isSome,
      nextStages c (stepTuple c.bodyTrips (loopIndex c)).isSome == 0) := by
  have hkept : drainedCut c = c := by rw [drainedCut, hdrn]; rfl
  have hnext : nextTuple c = stepTuple c.bodyTrips (loopIndex c) := by rw [nextTuple, hdrn, hkept]; rfl
  obtain ⟨l, hl, -⟩ := admitted_spec c (stepTuple c.bodyTrips (loopIndex c))
  rw [endPass_eq, hnext, hkept, hl]
  rfl

theorem drainedCut_kept (c : Ctx) : c.LoopKept (drainedCut c) := by
  unfold drainedCut
  split
  · exact Ctx.LoopKept.foldl (fun n hn c => .cutEng c (by simp only [List.mem_cons, List.not_mem_nil, or_false] at hn; omega) _) c
  · exact .refl c

/-- A drain that has run dry has cut the linked streams where it leaves iterations out, and admits nothing (R90, R94). -/
theorem endPass_dry {c : Ctx} (hdrn : bitAt c.xloop 25 = true) (hdry : nextStages c false = 0) :
    endPass c = (shifted (drainedCut c) false, true) := by
  have hnext : nextTuple c = none := if_pos hdrn
  have hwork := (drainedCut_kept c).1
  have hstages : nextStages (drainedCut c) false = 0 := by rw [nextStages, hwork]; exact hdry
  rw [endPass_eq, hnext]
  exact Prod.ext rfl (beq_iff_eq.2 hstages)

/-- The loop stands where it stood when a drain has run dry: its fields, its body and its tuple. -/
theorem shifted_drainedCut (c : Ctx) :
    let c' := shifted (drainedCut c) false
    c'.xloop = c.xloop ∧ c'.drainCut = c.drainCut ∧ c'.bodyAt = c.bodyAt ∧ c'.s = c.s ∧ c'.bodyTrips = c.bodyTrips ∧
      loopIndex c' = loopIndex c := by
  have hkept := drainedCut_kept c
  have hindex : loopIndex (shifted (drainedCut c) false) = loopIndex (drainedCut c) := rfl
  have hwork := hkept.1
  refine ⟨?_, ?_, ?_, ?_, ?_, hindex.trans hkept.loopIndex⟩ <;> rw [shifted, hwork]

-- The refill (R90).

theorem refillLoop_restarts {c : Ctx} {t : List Nat} (h : stepTuple c.bodyTrips (loopIndex c) = some t) :
    bitAt (refillLoop c).xloop 24 = true ∧ (refillLoop c).pc = c.bodyAt ∧ (refillLoop c).xlpos = 1 ∧
      (refillLoop c).xstagep = 1 := by
  obtain ⟨eng, heng⟩ := foldl_refillEng_eq [0, 1, 2] c
  have hnext : stepTuple c.bodyTrips (loopIndex { c with eng := eng, refill := false, drainCut := false }) = some t := h
  obtain ⟨l, hl⟩ := putTuple_eq { c with eng := eng, refill := false, drainCut := false } 4 (loopBase c.xloop) 0 t
  obtain ⟨rs, hm⟩ := mirror_eq { enterAt c.bodyAt { c with eng := eng, refill := false, drainCut := false, l := l } with
    xlpos := 1, xstagep := 1, xloop := setBit (setBit c.xloop 25 false) 24 true }
  have hloop : refillLoop c = { enterAt c.bodyAt { c with eng := eng, refill := false, drainCut := false, l := l } with
      xlpos := 1, xstagep := 1, xloop := setBit (setBit c.xloop 25 false) 24 true, s := rs } := by
    unfold refillLoop
    dsimp only
    rw [heng]
    dsimp only
    rw [hnext]
    dsimp only
    rw [hl]
    exact hm
  rw [hloop]
  exact ⟨bitAt_setBit_same _ _ (by decide), rfl, rfl, rfl⟩

theorem refillLoop_ends {c : Ctx} (h : stepTuple c.bodyTrips (loopIndex c) = none) :
    bitAt (refillLoop c).xloop 24 = false ∧ (refillLoop c).pc = c.bodyAt + natW (bodyLen c) := by
  obtain ⟨eng, heng⟩ := foldl_refillEng_eq [0, 1, 2] c
  have hnext : stepTuple c.bodyTrips (loopIndex { c with eng := eng, refill := false, drainCut := false }) = none := h
  unfold refillLoop
  dsimp only
  rw [heng]
  dsimp only
  rw [hnext]
  exact ⟨bitAt_setBit_same _ _ (by decide), rfl⟩

-- The step at the end of a pass (R88, R90).

/-- A suspension that begins changes its context and its barriers, and waits for its image (R55, R68). -/
theorem beginSave_spec (id : Nat) (forced : Bool) (s : State) :
    (beginSave id forced s).mem = s.mem ∧ (beginSave id forced s).agenda = .auto (.imageWritten id) :: s.agenda ∧
      ∀ k, getCtx (beginSave id forced s) k = if k = id
        then { getCtx s id with run := .saving, wait := none, due := none, forced := forced, prqDue := none } else getCtx s k := by
  rw [beginSave_eq]
  exact ⟨rfl, rfl, fun k => getCtx_modCtx (s := s) id k fun c =>
    { c with run := .saving, wait := none, due := none, forced := forced, prqDue := none }⟩

section
variable {ctx : Nat} {s : State} (hact : loopActive (getCtx s ctx) = true) (hmid : (getCtx s ctx).mid = false)
  (hpc : (getCtx s ctx).pc = (getCtx s ctx).bodyAt + natW (bodyLen (getCtx s ctx)))
include hact hmid hpc

theorem execLoopPassEnd_at {c' : Ctx} {dry : Bool} (h : endPass (getCtx s ctx) = (c', dry)) :
    exec (.loopPassEnd ctx) s =
      if !dry then .next (setCtx s ctx { mirror c' with pc := c'.bodyAt })
      else if bitAt c'.xloop 25 then
        if c'.drainCut then .next (setCtx s ctx (refillLoop c'))
        else .next (beginSave ctx true (setCtx s ctx { c' with refill := true, pc := c'.bodyAt, xloop := setBit c'.xloop 24 false }))
      else .next (setCtx s ctx { c' with xloop := setBit c'.xloop 24 false }) := by
  have hat : ¬(!loopActive (getCtx s ctx) || (getCtx s ctx).mid ||
      decide ((getCtx s ctx).pc ≠ (getCtx s ctx).bodyAt + natW (bodyLen (getCtx s ctx)))) = true := by
    rw [hact, hmid, decide_eq_false (not_not.2 hpc)]; exact Bool.false_ne_true
  rw [exec_loopPassEnd]
  unfold execLoopPassEnd
  dsimp only
  rw [if_neg (by simpa using hat), h]

/-- A loop whose stages have run dry is over. -/
theorem loopPass_over {c' : Ctx} (h : endPass (getCtx s ctx) = (c', true)) (hdrn : bitAt c'.xloop 25 = false) :
    ∃ c2 : Ctx, CtxBecomes (.loopPassEnd ctx) s ctx c2 ∧ c2 = { c' with xloop := c2.xloop } ∧ bitAt c2.xloop 24 = false := by
  have hexec := execLoopPassEnd_at hact hmid hpc h
  rw [hdrn] at hexec
  exact ⟨_, ⟨_, hexec, setCtx_becomes s ctx _⟩, rfl, bitAt_setBit_same _ _ (by decide)⟩

/-- A loop with a stage to run runs its body again, its mirror written. -/
theorem loopPass_repeats {c' : Ctx} (h : endPass (getCtx s ctx) = (c', false)) :
    CtxBecomes (.loopPassEnd ctx) s ctx { mirror c' with pc := c'.bodyAt } :=
  ⟨_, execLoopPassEnd_at hact hmid hpc h, setCtx_becomes s ctx _⟩

/-- A drain that a wait had cut short refills at once. -/
theorem loopPass_refills {c' : Ctx} (h : endPass (getCtx s ctx) = (c', true)) (hdrn : bitAt c'.xloop 25 = true)
    (hcut : c'.drainCut = true) : CtxBecomes (.loopPassEnd ctx) s ctx (refillLoop c') := by
  have hexec := execLoopPassEnd_at hact hmid hpc h
  rw [hdrn, hcut] at hexec
  exact ⟨_, hexec, setCtx_becomes s ctx _⟩

/-- Another drain that has run dry ends in the suspension of a context with a refill to come. -/
theorem loopPass_suspends {c' : Ctx} (h : endPass (getCtx s ctx) = (c', true)) (hdrn : bitAt c'.xloop 25 = true)
    (hcut : c'.drainCut = false) :
    ∃ t, exec (.loopPassEnd ctx) s = .next t ∧ t.mem = s.mem ∧ t.agenda = .auto (.imageWritten ctx) :: s.agenda ∧
      (getCtx t ctx).run = .saving ∧ (getCtx t ctx).forced = true ∧ (getCtx t ctx).refill = true ∧ (getCtx t ctx).pc = c'.bodyAt ∧
      bitAt (getCtx t ctx).xloop 24 = false ∧ (getCtx t ctx).s = c'.s ∧ ∀ k, k ≠ ctx → getCtx t k = getCtx s k := by
  obtain ⟨c2, hexec, hrefill, hpc2, hoff, hs⟩ : ∃ c2 : Ctx,
      exec (.loopPassEnd ctx) s = .next (beginSave ctx true (setCtx s ctx c2)) ∧ c2.refill = true ∧ c2.pc = c'.bodyAt ∧ bitAt c2.xloop 24 = false ∧ c2.s = c'.s := by
    have hexec := execLoopPassEnd_at hact hmid hpc h
    rw [hdrn, hcut] at hexec
    exact ⟨_, hexec, rfl, rfl, bitAt_setBit_same _ _ (by decide), rfl⟩
  obtain ⟨hmem, hagenda, hctx⟩ := beginSave_spec ctx true (setCtx s ctx c2)
  have hself := (hctx ctx).trans (if_pos rfl)
  rw [getCtx_setCtx, if_pos rfl] at hself
  refine ⟨_, hexec, hmem, hagenda, ?_⟩
  rw [hself]
  exact ⟨rfl, rfl, hrefill, hpc2, hoff, hs, fun k hk => by rw [hctx, if_neg hk, getCtx_setCtx, if_neg hk]⟩

end

/-- Settles O32: the end of a pass by whether the loop drains, whether a stage is left, and whether a wait had cut the drain short. -/
theorem loopPassesAdvance : Obligations.LoopPassesAdvance := by
  intro ctx s c stages dims base preg index next i hact hmid hpc
  refine ⟨fun hdrn _ => ?admits, fun hdrn hcut hp => ?suspends, fun hdrn hcut hp => ?refills⟩
  case admits =>
    intro p
    have hend := endPass_admits hdrn
    obtain ⟨l, hc', hindex⟩ := shifted_admitted c next
    have hplt : p < 2 ^ 8 := nextStages_lt c next.isSome
    change endPass c = (shifted (admitted c next) next.isSome, p == 0) at hend
    generalize shifted (admitted c next) next.isSome = c' at hend hc' hindex
    have hkept : c'.xloop = c.xloop ∧ c'.bodyAt = c.bodyAt ∧ c'.pc = c.pc ∧ c'.s = c.s := by
      rw [hc']; exact ⟨rfl, rfl, rfl, rfl⟩
    have hnew : c'.xstagep = natW p ∧ c'.xrrb = nextRotation c ∧ c'.xlpos = if next.isSome then c.xlpos + 1 else c.xlpos := by
      rw [hc']; exact ⟨rfl, rfl, rfl⟩
    obtain ⟨hloop, hbody, hat, hs⟩ := hkept
    obtain ⟨hstage, hrot, hpos⟩ := hnew
    by_cases hp0 : p = 0
    · rw [hp0] at hend
      obtain ⟨c2, hover, hc2, hoff⟩ := loopPass_over hact hmid hpc hend (by rw [hloop]; exact hdrn)
      refine ⟨c2, hover, ?_, ?_, ?_, fun t ht d v _ hv => ?_, fun _ => ⟨hoff, ?_, ?_⟩, fun h => absurd hp0 h⟩
      · rw [hc2]; exact hstage
      · rw [hc2]; exact hrot
      · rw [hc2]; exact hpos
      · exact (lget_congr (by rw [hc2]) 4 _).trans (hindex t ht d v hv)
      · rw [hc2]; exact hat
      · rw [hc2]; exact hs
    · rw [beq_false_of_ne hp0] at hend
      obtain ⟨rs, hm⟩ := mirror_eq c'
      have hshown : preg ≠ 0 → fld (sread (mirror c') (BitVec.ofNat 6 preg)) 0 8 = p := fun hreg => by
        have hpreg : fld c'.xloop 18 6 = preg := by rw [hloop]
        rw [← hpreg, fld_sread_mirror (hpreg ▸ hreg), hstage, natW, BitVec.toNat_ofNat]
        omega
      refine ⟨_, loopPass_repeats hact hmid hpc hend, ?_, ?_, ?_, fun t ht d v _ hv => ?_, fun h => absurd h hp0,
        fun _ => ⟨?_, hbody, hshown⟩⟩
      · rw [hm]; exact hstage
      · rw [hm]; exact hrot
      · rw [hm]; exact hpos
      · exact (lget_congr rfl 4 _).trans ((lget_mirror c' 4 _).trans (hindex t ht d v hv))
      · rw [hm]; exact hloop
  all_goals
    obtain ⟨hloop, hdc, hbody, hs, htrips, hindex⟩ := shifted_drainedCut c
    have hend := endPass_dry hdrn hp
    have hdrn' : bitAt (shifted (drainedCut c) false).xloop 25 = true := by rw [hloop]; exact hdrn
  case suspends =>
    have hsave := loopPass_suspends hact hmid hpc hend hdrn' (hdc.trans hcut)
    rwa [hbody, hs] at hsave
  case refills =>
    obtain ⟨eng, l, rs, pc, xlpos, xstagep, xloop, hclear, hrefill⟩ := refillLoop_eq (shifted (drainedCut c) false)
    have hnext : stepTuple (shifted (drainedCut c) false).bodyTrips (loopIndex (shifted (drainedCut c) false)) = next := by
      rw [htrips, hindex]; rfl
    refine ⟨_, loopPass_refills hact hmid hpc hend hdrn' (hdc.trans hcut), by rw [hrefill]; exact hclear, by rw [hrefill],
      fun hsome => ?_, fun hnone => ?_⟩
    · obtain ⟨t, ht⟩ := Option.isSome_iff_exists.1 hsome
      obtain ⟨hgo, hat, hpos, hstage⟩ := refillLoop_restarts (hnext.trans ht)
      exact ⟨hgo, hat.trans hbody, hpos, hstage⟩
    · obtain ⟨hoff, hat⟩ := refillLoop_ends (hnext.trans hnone)
      refine ⟨hoff, hat.trans ?_⟩
      rw [bodyLen, hloop, hbody]
      exact hpc.symm

end Sys2Proof.Machine
end

section
/-! SUPPORT. What a read of a range leaves, and the blocks and commands of an access engine (R92 to R94, R97, R98). -/

namespace Sys2Proof.Machine

-- Reads of a range (R231, R233).

/-- The state that a range access leaves. -/
def RangeRes.state : RangeRes → State
  | .ok _ s | .fault _ _ s | .wait s => s

theorem Performed.portStream (s : State) (core tenant bytes : Nat) : Performed s (portStream s core tenant bytes) := by
  unfold Machine.portStream
  exact ite (refl s) (foldl (fun s _ => portRequest s core tenant _) _ s)

theorem Performed.askFill (s : State) (ag : Agent) (r g : Nat) : Performed s (askFill s ag r g) := by
  unfold Machine.askFill
  split
  · exact refl s
  · exact raise s _

/-- A read of a range changes no more than its lines' copies, the port and the agenda, whatever becomes of it. -/
theorem Performed.rangeRead (ag : Agent) (u : Use) (f : Nat) (s : State) (va : Word) (n : Nat) (acc : List PB) :
    Performed s (rangeRead ag u f s va n acc).state := by
  induction f generalizing s va n acc with
  | zero => exact refl s
  | succ f ih =>
    unfold Machine.rangeRead
    dsimp only
    split
    · exact refl s
    · split
      · exact refl s
      · split
        · exact askFill s ag _ _
        · exact ih ..
      · next lo hi pa inPage _ =>
        split
        · exact refl s
        · split
          · split
            · exact refl s
            · split
              · exact refl s
              · exact ((portStream s _ _ 512).trans (tlbNote _ ag va _)).trans (ih ..)
          · split
            · exact refl s
            · exact ((tlbNote s ag va _).trans (readLine _ ag _ false _ _ _)).trans (ih ..)

theorem Performed.readRows (ag : Agent) (n : Nat) (pitch : Word) (k : Nat) (s : State) (a : Word) (acc : List (List PB)) :
    Performed s (readRows ag n pitch k s a acc).1.state := by
  induction k generalizing s a acc with
  | zero => exact refl s
  | succ k ih =>
    have hrow := rangeRead ag .ar n s a n []
    unfold Machine.readRows
    split
    · next bs s1 h => rw [h] at hrow; exact hrow.trans (ih ..)
    · exact hrow

-- The context of an engine's cluster around a block (R83, R97).

section
variable {c : Ctx} {n : Nat}

theorem takeEngNum_q : (takeEngNum c n).2.q = c.q := by
  unfold takeEngNum
  dsimp only
  split
  · rfl
  · rfl
  · rfl

theorem showTuple_q (x : Nest) (k : Nat) : (showTuple c n x k).q = c.q := by
  unfold showTuple
  split
  · obtain ⟨l, h⟩ := putTuple_eq c n x.f.l.toNat 0 (tupleOf (k / x.perTuple) x.trips)
    rw [h]
  · rfl

/-- A number that completes is pending no longer (R48). -/
theorem not_mem_pending_tcFinish (c : Ctx) (n num : Nat) : num ∉ (tcOf (tcFinish c n num) n).pending := by
  have hctr : tcOf (tcFinish c n num) n = { tcOf c n with pending := (tcOf c n).pending.filter (· ≠ num) } := by
    rw [tcFinish, tcOf, smGetD_smPut, if_pos rfl]
  rw [hctr]
  simp

theorem qblocks_tcFinish (k num q : Nat) : qblocks (tcFinish c k num) q = qblocks c q := qblocks_congr rfl q
theorem engOf_tcFinish (k num : Nat) : engOf (tcFinish c k num) n = engOf c n := rfl

/-- A read engine delivers one block more, and its nest moves on (R93, R94). -/
theorem deliver_spec (c : Ctx) (n q : Nat) (x : Nest) (data : Block) (bad : List Nat) :
    (∃ b, qblocks (deliver c n q x data bad) q = qblocks c q ++ [b] ∧ b.data = data) ∧
      (engOf (deliver c n q x data bad) n).nest = some { x with pos := x.pos + 1 } := by
  unfold deliver
  refine ⟨⟨_, (qblocks_setBlocks ..).trans (if_pos rfl), rfl⟩, ?_⟩
  rw [engOf_setBlocks, engOf_setEng, if_pos rfl]

/-- The write engine takes a block off its queue, its nest moves on and its number completes (R35, R94). -/
def movedBlock (num q : Nat) (x : Nest) (bs : List QBlock) (c : Ctx) : Ctx :=
  tcFinish (setBlocks (setEng c 2 { engOf c 2 with nest := some { x with pos := x.pos + 1 } }) q 2 bs) 3 num

theorem movedBlock_spec (num q : Nat) (x : Nest) (bs : List QBlock) (c : Ctx) :
    qblocks (movedBlock num q x bs c) q = bs ∧ (engOf (movedBlock num q x bs c) 2).nest = some { x with pos := x.pos + 1 } ∧
      num ∉ (tcOf (movedBlock num q x bs c) 3).pending := by
  refine ⟨?_, ?_, not_mem_pending_tcFinish _ 3 num⟩
  · rw [movedBlock, qblocks_tcFinish, qblocks_setBlocks, if_pos rfl]
  · rw [movedBlock, engOf_tcFinish, engOf_setBlocks, engOf_setEng, if_pos rfl]

end

-- What wakes with a queue (R97, R101).

section
variable (s : State) (id q : Nat)

theorem wakeQueue_eq : wakeQueue s id q = { s with agenda := (wakeQueue s id q).agenda } := by
  unfold wakeQueue
  split
  · split
    · rfl
    · rfl
  · rfl

theorem wakeQueue_mem : (wakeQueue s id q).mem = s.mem := by rw [wakeQueue_eq]
theorem getCtx_wakeQueue (k : Nat) : getCtx (wakeQueue s id q) k = getCtx s k := by rw [wakeQueue_eq]; rfl

end

theorem getCtx_wakeQueue_modCtx (s : State) (id q : Nat) (f : Ctx → Ctx) :
    getCtx (wakeQueue (modCtx s id f) id q) id = f (getCtx s id) := by
  rw [getCtx_wakeQueue, getCtx_modCtx, if_pos rfl]

theorem getCtx_haltBlock (s : State) (id n cause : Nat) (va : Word) (num : Nat) : getCtx (haltBlock s id n cause va num) id =
    setEng (getCtx s id) n { engOf (getCtx s id) n with st := .halted, cause := cause, va := va, haltNum := some num } := by
  unfold haltBlock
  dsimp only
  split
  · exact getCtx_wakeQueue_modCtx s id _ _
  · rw [getCtx_modCtx, if_pos rfl]

-- A read engine's block (R93, R94, R98).

section
variable {s : State} {id n : Nat} {g : AGenF} {x : Nest}

/-- A pad is a block of zeros, of no memory access. -/
theorem readBlock_pads (hreal : x.realAt = none) : (readBlock s id n g x).mem = s.mem ∧
    getCtx (readBlock s id n g x) id = deliver (getCtx s id) n g.q.toNat x 0 [] := by
  unfold readBlock
  rw [hreal]
  exact ⟨wakeQueue_mem .., getCtx_wakeQueue_modCtx ..⟩

variable {k : Nat} (hreal : x.realAt = some k)

/-- The state in which a read engine reads the rows of block `k`. -/
def engReads (s : State) (id n : Nat) (x : Nest) (k : Nat) : State :=
  setCtx s id (showTuple (takeEngNum (getCtx s id) n).2 n x k)

/-- The rows of block `k` that a read engine reads, or what becomes of the read. -/
def engRows (s : State) (id n : Nat) (g : AGenF) (x : Nest) (k : Nat) : RangeRes × List (List PB) :=
  readRows (engAgent s id n (takeEngNum (getCtx s id) n).1) (genBytes g) x.pitch (genRows g) (engReads s id n x k)
    (x.addr (genRows g) k) []

/-- The read leaves the engine's queues alone. -/
theorem qblocks_engRows (q : Nat) : qblocks (getCtx (engRows s id n g x k).1.state id) q = qblocks (getCtx s id) q := by
  have hread : Performed (engReads s id n x k) (engRows s id n g x k).1.state := Performed.readRows ..
  refine qblocks_congr ?_ q
  rw [hread.watch id, engReads, getCtx_setCtx, if_pos rfl]
  exact (showTuple_q x k).trans takeEngNum_q

include hreal

/-- The rows that it has read make the block, whose number completes. -/
theorem readBlock_delivers {bs : List PB} {s1 : State} {rows : List (List PB)} (h : engRows s id n g x k = (.ok bs s1, rows)) :
    (readBlock s id n g x).mem = s1.mem ∧ getCtx (readBlock s id n g x) id =
      tcFinish (deliver (getCtx s1 id) n g.q.toNat x (blockOf (rows.map bytesOf)) (badUnits rows)) (1 + n)
        (takeEngNum (getCtx s id) n).1 := by
  unfold engRows engReads at h
  unfold readBlock
  rw [hreal]
  dsimp only
  rw [h]
  exact ⟨wakeQueue_mem .., getCtx_wakeQueue_modCtx ..⟩

/-- A fault halts the engine at the block, whose number it keeps. -/
theorem readBlock_halts {cause : Nat} {va : Word} {s1 : State} {rows : List (List PB)}
    (h : engRows s id n g x k = (.fault cause va s1, rows)) :
    readBlock s id n g x = haltBlock s1 id n cause va (takeEngNum (getCtx s id) n).1 := by
  unfold engRows engReads at h
  unfold readBlock
  rw [hreal]
  dsimp only
  rw [h]

end

-- The write engine's block (R35, R94).

section
variable {s : State} {id : Nat} {g : AGenF} {x : Nest} {b : QBlock} {bs : List QBlock}

/-- A pad absorbs a block, and a skipped block is not stored. -/
theorem writeBlock_absorbs (h : x.realAt = none ∨ b.skipped = true) : (writeBlock s id g x b bs).mem = s.mem ∧
    ∃ c, getCtx (writeBlock s id g x b bs) id = movedBlock (takeEngNum (getCtx s id) 2).1 g.q.toNat x bs c := by
  unfold writeBlock
  dsimp only
  split
  · exact ⟨wakeQueue_mem .., _, (getCtx_wakeQueue ..).trans ((getCtx_setCtx ..).trans (if_pos rfl))⟩
  · next k hk =>
    rw [if_pos (h.resolve_left (by rw [hk]; exact nofun))]
    exact ⟨wakeQueue_mem .., _, (getCtx_wakeQueue ..).trans ((getCtx_setCtx ..).trans (if_pos rfl))⟩

/-- The rest are stored, row by row. -/
theorem writeBlock_stores {k : Nat} {r : List PB} {s1 : State} (hreal : x.realAt = some k) (hb : b.skipped = false)
    (h : writeRows (engAgent s id 2 (takeEngNum (getCtx s id) 2).1) (genBytes g) x.pitch b (genRows g) 0 (engReads s id 2 x k)
      (x.addr (genRows g) k) = .ok r s1) :
    (writeBlock s id g x b bs).mem = s1.mem ∧
      getCtx (writeBlock s id g x b bs) id = movedBlock (takeEngNum (getCtx s id) 2).1 g.q.toNat x bs (getCtx s1 id) := by
  unfold engReads at h
  unfold writeBlock
  rw [hreal, hb]
  dsimp only
  rw [if_neg Bool.false_ne_true, h]
  exact ⟨wakeQueue_mem .., getCtx_wakeQueue_modCtx ..⟩

end

-- An engine's command (R92).

theorem decodeAae_cases {cl n x : Nat} {j : Instr} (h : decodeAae cl n x = some j) : j = .aend cl n ∨ (∃ f, j = .agen cl n f) ∨
    (∃ f, j = .aloop cl n f) ∨ (∃ a b, j = .astep cl n a b) ∨ ∃ k r, j = .awaitCmd cl n k r := by
  unfold decodeAae at h
  dsimp only at h
  split at h
  · next i hi =>
    split at h
    · obtain rfl := Option.some.inj h
      split at hi
      · exact .inl (need_eq_some.1 hi).2.symm
      · exact .inr (.inl ⟨_, (need_eq_some.1 hi).2.symm⟩)
      · exact .inr (.inr (.inl ⟨_, (need_eq_some.1 hi).2.symm⟩))
      · exact .inr (.inr (.inr (.inl ⟨_, _, (need_eq_some.1 hi).2.symm⟩)))
      · exact .inr (.inr (.inr (.inr ⟨_, _, (need_eq_some.1 hi).2.symm⟩)))
      · cases hi
    · cases h
  · cases h

section
variable {s s1 : State} {cl n : Nat} {bs : List PB}
  (hread : rangeRead (engAgent s (8 * cl) n 0) .ar 8 s (engOf (getCtx s (8 * cl)) n).cmd 8 [] = .ok bs s1) (hgood : anyBad bs = false)
include hread hgood

/-- A good word that decodes runs as its command. -/
theorem engCommand_runs {j : Instr} (hj : decodeAae cl n (valueOf bs) = some j) : engCommand s cl n = exec j s1 := by
  unfold engCommand
  dsimp only
  rw [hread]
  dsimp only
  rw [hgood, hj]
  obtain rfl | ⟨f, rfl⟩ | ⟨f, rfl⟩ | ⟨a, b, rfl⟩ | ⟨k, r, rfl⟩ := decodeAae_cases hj
  · exact (exec_aend s1).symm
  · exact (exec_agen s1).symm
  · exact (exec_aloop s1).symm
  · exact (exec_astep s1).symm
  · exact (exec_awaitCmd s1).symm

/-- A word that is no command halts the engine with QERR. -/
theorem engCommand_rejects (hj : decodeAae cl n (valueOf bs) = none) :
    engCommand s cl n = .next (modCtx s1 (8 * cl) (haltCmd n 7 (engOf (getCtx s (8 * cl)) n).cmd)) := by
  unfold engCommand
  dsimp only
  rw [hread]
  dsimp only
  rw [hgood, hj]
  rfl

end

-- What an engine does next (R92 to R94, R97).

/-- An engine that is idle, halted with nothing to fetch again, by no fault, or at a fetch that has failed, does nothing. -/
theorem execAaeBlock_rests {cl n : Nat} {s : State} (h : (engOf (getCtx s (8 * cl)) n).st = .idle ∨
    ((engOf (getCtx s (8 * cl)) n).st = .halted ∧ ((engOf (getCtx s (8 * cl)) n).redo = [] ∨
      (engOf (getCtx s (8 * cl)) n).cause = 0 ∨ (engOf (getCtx s (8 * cl)) n).redoNum.isSome = true))) :
    exec (.aaeBlock cl n) s = .next s := by
  rw [exec_aaeBlock]
  unfold execAaeBlock
  dsimp only
  generalize engOf (getCtx s (8 * cl)) n = e at h
  rcases h with hst | ⟨hst, h⟩
  · rw [hst]
  · rw [hst]
    cases hredo : e.redo with
    | nil => rfl
    | cons x rest =>
      have hstays : (heldByFault e && e.redoNum.isNone) = false := by
        rcases h with h | h | h
        · rw [h] at hredo; cases hredo
        · simp [heldByFault, h]
        · simp [h]
      dsimp only
      rw [hstays]
      rfl

section
variable {cl n : Nat} {s : State} (hst : (engOf (getCtx s (8 * cl)) n).st = .running ∨ (engOf (getCtx s (8 * cl)) n).st = .waiting)
  (hredo : (engOf (getCtx s (8 * cl)) n).redo = [])
include hst hredo

theorem execAaeBlock_commands (hnest : (engOf (getCtx s (8 * cl)) n).nest = none) : exec (.aaeBlock cl n) s = engCommand s cl n := by
  rw [exec_aaeBlock]
  unfold execAaeBlock
  dsimp only
  rcases hst with hst | hst
  · rw [hst, hredo, hnest]
  · rw [hst, hredo, hnest]

variable {g : AGenF} {x : Nest} (hgen : (engOf (getCtx s (8 * cl)) n).gen = some g)
  (hnest : (engOf (getCtx s (8 * cl)) n).nest = some x)
  (hpos : x.pos < x.total)
include hgen hnest hpos

theorem execAaeBlock_reads (hn : n ≠ 2) (hroom : (qblocks (getCtx s (8 * cl)) g.q.toNat).length < 4) :
    exec (.aaeBlock cl n) s = .next (readBlock s (8 * cl) n g x) := by
  rw [exec_aaeBlock]
  unfold execAaeBlock
  dsimp only
  rcases hst with hst | hst
  all_goals
    rw [hst, hredo, hnest, hgen]
    dsimp only
    rw [if_neg (Nat.not_le.2 hpos), if_neg hn, if_neg (Nat.not_le.2 hroom)]

theorem execAaeBlock_writes {b : QBlock} {bs : List QBlock} (hn : n = 2) (hblocks : qblocks (getCtx s (8 * cl)) g.q.toNat = b :: bs) :
    exec (.aaeBlock cl n) s = .next (writeBlock s (8 * cl) g x b bs) := by
  rw [exec_aaeBlock]
  unfold execAaeBlock
  dsimp only
  rcases hst with hst | hst
  all_goals
    rw [hst, hredo, hnest, hgen]
    dsimp only
    rw [if_neg (Nat.not_le.2 hpos), if_pos hn, hblocks]

end

/-- Settles O33: an engine's next block by its direction and by what its position and its access bring, and its next command. -/
theorem enginesMoveBlocks : Obligations.EnginesMoveBlocks := by
  intro cl n s id c e i
  refine ⟨execAaeBlock_rests, fun hst hredo => ⟨fun g x hgen hnest hpos => ?nest,
    fun hnest bs s1 hread hgood => ⟨fun j hj => ?runs, fun hj => ?rejects⟩⟩⟩
  case nest =>
    intro q num s0
    refine ⟨fun hn hroom => ?_, fun hn b bs hblocks => ?_⟩
    · have hexec := execAaeBlock_reads hst hredo hgen hnest hpos hn hroom
      refine ⟨fun hreal => ?_, fun k hreal => ⟨fun bs s1 rows h => ?_, fun cause va s1 rows h => ?_⟩⟩
      · obtain ⟨hmem, hctx⟩ := readBlock_pads (s := s) (id := id) (n := n) (g := g) hreal
        obtain ⟨⟨b, hq, hdata⟩, hmoved⟩ := deliver_spec c n q x 0 []
        exact ⟨_, b, hexec, hmem, by rw [hctx]; exact hq, hdata, by rw [hctx]; exact hmoved⟩
      · obtain ⟨hmem, hctx⟩ := readBlock_delivers hreal h
        obtain ⟨⟨b, hq, hdata⟩, hmoved⟩ := deliver_spec (getCtx s1 id) n q x (blockOf (rows.map bytesOf)) (badUnits rows)
        have hkept := qblocks_engRows (s := s) (id := id) (n := n) (g := g) (x := x) (k := k) q
        rw [show engRows s id n g x k = _ from h] at hkept
        refine ⟨_, b, hexec, hmem, ?_, hdata, ?_, ?_⟩
        · rw [hctx, qblocks_tcFinish, hq]; exact congrArg (· ++ [b]) hkept
        · rw [hctx, engOf_tcFinish]; exact hmoved
        · rw [hctx]; exact not_mem_pending_tcFinish _ (1 + n) num
      · have hhalt := readBlock_halts hreal h
        have hkept := qblocks_engRows (s := s) (id := id) (n := n) (g := g) (x := x) (k := k) q
        rw [show engRows s id n g x k = _ from h] at hkept
        have heng := engOf_setEng (c := getCtx s1 id) (n := n)
          { engOf (getCtx s1 id) n with st := .halted, cause := cause, va := va, haltNum := some num } n
        rw [if_pos rfl] at heng
        refine ⟨_, hexec, ?_, ?_, ?_, ?_, ?_⟩ <;> rw [hhalt, getCtx_haltBlock]
        · exact (qblocks_congr (setEng_q ..) q).trans hkept
        · rw [heng]
        · rw [heng]
        · rw [heng]
        · rw [heng]
    · have hexec := execAaeBlock_writes hst hredo hgen hnest hpos hn hblocks
      refine ⟨fun h => ?_, fun k hreal hb r s1 h => ?_⟩
      · obtain ⟨hmem, c', hctx⟩ := writeBlock_absorbs (s := s) (id := id) (g := g) (bs := bs) h
        obtain ⟨hq, hmoved, -⟩ := movedBlock_spec (takeEngNum (getCtx s id) 2).1 q x bs c'
        exact ⟨_, hexec, hmem, by rw [hctx]; exact hq, by rw [hctx]; exact hmoved⟩
      · subst hn
        obtain ⟨hmem, hctx⟩ := writeBlock_stores (bs := bs) hreal hb h
        obtain ⟨hq, hmoved, hdone⟩ := movedBlock_spec num q x bs (getCtx s1 id)
        exact ⟨_, hexec, hmem, by rw [hctx]; exact hq, by rw [hctx]; exact hmoved, by rw [hctx]; exact hdone⟩
  case runs => exact (execAaeBlock_commands hst hredo hnest).trans (engCommand_runs hread hgood hj)
  case rejects =>
    obtain ⟨hhalt, hcause, -⟩ := haltCmd_spec (c := getCtx s1 id) (n := n) 7 e.cmd
    refine ⟨_, (execAaeBlock_commands hst hredo hnest).trans (engCommand_rejects hread hgood hj), ?_, ?_⟩ <;>
      rw [getCtx_modCtx, if_pos rfl]
    · exact hhalt
    · exact hcause

end Sys2Proof.Machine
end
